-- ==== Sys2Proof/Word.lean ====
section
/-!
DEFINITION. The words of the device and the names of its numbered units.
Bit vectors stand for what the manual treats as bits (R9 to R11); a unit's number is a `Fin` of
the T64's count (R17, R31), so that an event cannot name a unit the T64 lacks.
-/

namespace Sys2Proof

/-- One byte (R10). -/
abbrev Byte := BitVec 8

/-- A run of bytes, byte 0 first (R10). -/
abbrev Bytes := List Byte

/-- A device-wide function number (R91): Port A's PF is 0, Port B's PF is 64. -/
abbrev FnId := Fin 128

/-- A ring number of a function (R94). -/
abbrev RingId := Fin 16

/-- A scion (R17). -/
abbrev ScionId := Fin 4

/-- A physical engine number, 16 × scion + 4 × row + column (R20). -/
abbrev EngineId := Fin 64

/-- A stream context (R188). -/
abbrev CtxId := Fin 48

/-- A Chroylink port (R17). -/
abbrev ClPortId := Fin 24

/-- An Ethernet, UART or Drift port (R17). -/
abbrev Port4 := Fin 4

/-- A CAN bus (R418). -/
abbrev BusId := Fin 2

/-- A watchdog code (R400): 0 lamp, 1 host A, 2 host B. -/
abbrev WdogId := Fin 3

/-- A PCIe port (R91). -/
inductive HostPort where
  | a
  | b
  deriving DecidableEq, Repr

end Sys2Proof
end

