-- ==== Sys2Proof/Syntax.lean ====
section
/-!
DEFINITION. The commands of the block: one constructor of `Instr` per row of the operation table
(spec/opcode_table.json), with the types of its operands.
An operand holds what the event brings from outside the device: a written value, a received frame,
the bytes a bus read returned, what a sensor or a checker showed. Commands taken from a ring are
named by the number the device gave them when it took them (`COMMAND_TAKE`).
-/

namespace Sys2Proof

/-! ## Numbers and graph images -/

/-- Number formats with their codes 0x00 to 0x07 in order (R265). -/
inductive Fmt where
  | int4 | int8 | e4m3 | e5m2 | fp16 | bf16 | fp32 | int32
  deriving DecidableEq, Repr

/-- Rounding modes of the requantiser (R271). -/
inductive RMode where
  | halfAway | halfEven | towardZero
  deriving DecidableEq, Repr

/-- Scale grain (R273): the group length under a group grain. -/
inductive Grain where
  | tensor
  | channel
  | group (len : Nat)
  deriving DecidableEq, Repr

/-- Outlier mode (R279); ROTATE carries the order of the Hadamard matrix (R280). -/
inductive Outlier where
  | none
  | rotate (n : Nat)
  | clip
  deriving DecidableEq, Repr

/-- Requantiser parameters (R271). `m` is indexed channel × groups + group, `s`, `bias`, `lo`
and `hi` by channel; a per-tensor value is a list of one. -/
structure Requant where
  grain   : Grain
  m       : List Int
  s       : List Nat
  mode    : RMode
  bias    : List Int
  lo      : List Int
  hi      : List Int
  zp      : Int
  outlier : Outlier
  deriving DecidableEq, Repr

/-- How an operator's result leaves the engine: an integer through the requantiser (R272); an FP32 value
through a CAST to an integer format with INV_SCALE (R278); an FP32 value through SCALE and BIAS_F, per tensor,
channel or group, and a conversion with the tensor's SATFINITE flag (R276, R277); or as it is, but for that
conversion. -/
inductive Epilogue where
  | requant (q : Requant)
  | cast (q : Requant) (inv : BitVec 32)
  | float (grain : Grain) (scale : List Nat) (biasF : List Nat) (satFinite : Bool)
  | raw (satFinite : Bool)
  deriving DecidableEq, Repr

/-- One spatial axis of a windowed operator (R245). -/
structure WinAxis where
  k     : Nat
  s     : Nat
  d     : Nat
  padLo : Nat
  padHi : Nat
  deriving DecidableEq, Repr

/-- Padding modes (R246). -/
inductive PadMode where
  | zero
  | constant (v : Int)
  | replicate
  | reflect
  deriving DecidableEq, Repr

/-- How a convolution is mapped onto the matrix unit (R252). -/
inductive ConvMap where
  | copied
  | shifted
  deriving DecidableEq, Repr

/-- Vector-unit reductions whose order only the image fixes (R250, R324). -/
inductive VecKind where
  | attention | layerNorm | rmsNorm | groupNorm | softmax
  deriving DecidableEq, Repr

/-- ELEMENTWISE functions with codes 0x01 to 0x0F in order (R250). -/
inductive ElemFn where
  | add | sub | mul | max | min | relu | leakyRelu | clamp
  | sigmoid | tanh | gelu | exp | recip | rsqrt | cast
  deriving DecidableEq, Repr

/-- Sampling of a resize (R263). -/
inductive ResizeMode where
  | halfPixel
  | alignCorners
  deriving DecidableEq, Repr

/-- The operator library (R250). Every tensor is named by its TENSOR_ID; maps are H × W × C. -/
inductive Op where
  | conv2d (inp wt : Nat) (groups : Nat) (row col : WinAxis) (pad : PadMode) (map : ConvMap)
  | depthwise (inp wt : Nat) (row col : WinAxis) (pad : PadMode)
  | convTranspose (inp wt : Nat) (row col : WinAxis) (outPadR outPadC : Nat) (map : ConvMap)
  | maxPool (inp : Nat) (row col : WinAxis)
  | avgPool (inp : Nat) (row col : WinAxis) (perCount : List (Int × Nat))
  | globalAvgPool (inp : Nat) (perCount : List (Int × Nat))
  | resizeNearest (inp : Nat) (mode : ResizeMode)
  | resizeBilinear (inp : Nat) (mode : ResizeMode)
  | cropResize (inp boxes count : Nat) (ch cw maxBoxes : Nat) (bilinear : Bool) (extrapolate : Int)
  | matmul (inp wt : Nat)
  | vector (kind : VecKind) (inps : List Nat) (axis : Nat) (params : List Int)
  | elementwise (f : ElemFn) (a : Nat) (b : Option Nat) (p0 p1 : Int)
  | spaceToDepth (inp : Nat) (b : Nat) (pad : PadMode)
  | depthToSpace (inp : Nat) (b : Nat)
  | move (gather : List (Nat × Nat))
  deriving DecidableEq, Repr

/-- What a tensor of an image is to the host (R145, R146, R350). -/
inductive TensorRole where
  | input
  | frame
  | output
  | internal
  | const
  deriving DecidableEq, Repr

/-- A tensor of a graph image: format, shape, the values it holds when it is a constant, its zero
point, the companion that takes its line tags (R350) and its offset in an output slot (R146). -/
structure TensorDecl where
  id       : Nat
  fmt      : Fmt
  dims     : List Nat
  role     : TensorRole
  data     : List Int
  zp       : Int
  exportTo : Option Nat
  slotOff  : Nat
  deriving DecidableEq, Repr

/-- A 5-D descriptor that an address generator walks (R244): the tensor, the extent and the stride in bytes
of each dimension, the element size in half bytes, the dilation and the padding of the two spatial
dimensions. -/
structure Descriptor where
  tensor    : Nat
  dims      : List (Nat × Int)
  halfBytes : Nat
  dilation  : Nat × Nat
  pads      : List Nat
  deriving DecidableEq, Repr

/-- An operator of an image with the tensor it writes, its way out of the engine, the length of its canonical
chunks, 0 for a reduction that is not cut (R324), and the descriptors that it uses. -/
structure OpNode where
  op    : Op
  out   : Nat
  epi   : Epilogue
  chunk : Nat
  descs : List Nat
  deriving DecidableEq, Repr

/-- The numbers from `lo` to `hi - 1`. -/
structure Span where
  lo : Nat
  hi : Nat
  deriving DecidableEq, Repr

/-- A tile: a box of rows, columns and channels of one operator's output, computed on one engine, with its
cycle count (R311, R315). The rows of a batch follow one another. -/
structure TileDecl where
  op     : Nat
  rows   : Span
  cols   : Span
  chans  : Span
  cycles : Nat
  deriving DecidableEq, Repr

/-- A fused group: its operators in order (R255). -/
structure FusedGroup where
  ops : List Nat
  deriving DecidableEq, Repr

/-- What a graph image holds, and the hash of the key under which its signature verifies (R247). The image's
own bytes are no part of the device's interface, so its content comes with the event that reads it. -/
structure GraphImage where
  tensors : List TensorDecl
  descs   : List Descriptor
  ops     : List OpNode
  groups  : List FusedGroup
  tiles   : List TileDecl
  key     : Nat
  deriving DecidableEq, Repr

/-! ## Operands -/

/-- The outcome of requests through a host window (R236): all done, or failed after `done` bytes. -/
inductive HostIo where
  | ok
  | fail (done : Nat)
  deriving DecidableEq, Repr

/-- What a read of host memory returned, and how the requests of the command fared. -/
structure HostRead where
  data : Bytes
  io   : HostIo
  deriving DecidableEq, Repr

/-- The device's read of a submission entry (R118): 64 bytes, or Unsupported Request, Completer
Abort or poisoned data. -/
inductive EntryRead where
  | entry (bytes : Bytes)
  | failed
  deriving DecidableEq, Repr

/-- A die of the package, as the DIE field numbers it (R386). -/
inductive Die where
  | rootstock
  | scion (n : ScionId)
  | lamp
  deriving DecidableEq, Repr

/-- The named events with their codes 0x01 to 0x1E in order (R377). -/
inductive Ev where
  | lockstepMismatch | clockMonitor | lampSeamLost | scionLost | seamRetry | graftMismatch
  | abftMismatch | eccCe | eccUe | frameFrozen | frameRepeated | frameLate | tallyMismatch
  | linkUncorrectable | selftestFail | selftestStarved | safetyOverload | thermalFootprint
  | thermalTrip | canErrorPassive | canBusOff | wdogWarn | hostLossA | hostLossB | bootInjectFail
  | crosscheckMismatch | voltageMonitor | bootTimeout | externalFault | reactionExpired
  deriving DecidableEq, Repr

/-- The four clock monitors (R47). -/
inductive Monitor where
  | pclkByLosc
  | loscByPclk
  | noscByLosc
  | loscByNosc
  deriving DecidableEq, Repr

/-- The checkers that are injected at every start (R361). -/
inductive Checker where
  -- lamp die
  | lampLockstep
  | lampWatchdog (w : WdogId)
  | lampClock (i : Fin 3)
  | lampVoltage (rail : Fin 10)
  | lampSeam
  -- rootstock
  | memoryEcc (c : ClPortId)
  | yardEcc (slice : ScionId)
  | graft (i : Fin 31)
  | seamMonitor (n : ScionId)
  | loscByPclk
  | foremanLockstep (i : Fin 2)
  | lampSeamRoot
  | footprintSensor (i : Fin 16)
  -- scions
  | benchEcc (e : EngineId)
  | graft4 (e : EngineId)
  | abft (e : EngineId)
  | shadow (e : EngineId)
  | parity6 (e : EngineId)
  | seamMonitorScion (n : ScionId)
  | clockReceiver (n : ScionId)
  | dieSensor (i : EngineId)
  deriving DecidableEq, Repr

/-- How a scion's BIST and injection ended (R77, R452). -/
inductive ScionTest where
  | pass
  | bistFail (engine : Fin 16)
  | injectFail (source : Nat)
  deriving DecidableEq, Repr

/-- A lockstep pair (R360). -/
inductive Pair where
  | f0
  | f1
  | lamp
  deriving DecidableEq, Repr

/-- A side of the lamp seam: the one that receives or times the event (R27, R28). -/
inductive Side where
  | rootstock
  | lamp
  deriving DecidableEq, Repr

/-- What an image read yielded (R248, R147): the read failed through a host window after some
bytes; the signature or the key did not pass; or the image with its content. -/
inductive ImageRead (α : Type) where
  | hostFail (done : Nat)
  | badSignature
  | image (content : α)
  deriving DecidableEq, Repr

/-- A firmware image as FIRMWARE_STAGE verifies it (R71, R147): rollback index and version. -/
structure FwImage where
  rollback : Nat
  version  : BitVec 32
  deriving DecidableEq, Repr

/-- What befell a tile while it ran (R227, R243, R336 to R347): a tag failure at graft point 4; bits of a
stored weight that flip between its load and its use, by operator and element; bits of a partial sum that flip,
by operator, output position, output channel, group and canonical chunk; the same of a request, in its scores or
in its weighted values, by query row, head and column; a lane that disagrees with its shadow at point 5; a parity
failure at point 6; a tag failure at a write at point 2; a correctable or an uncorrectable word of the bench; a
correctable or an uncorrectable word of the yard, by yard offset. -/
inductive TileCheck where
  | tag4
  | weight (op index : Nat) (mask : BitVec 32)
  | accFlip (op pos col group chunk : Nat) (mask : BitVec 32)
  | attnFlip (value : Bool) (row head col : Nat) (mask : BitVec 32)
  | shadow
  | parity6
  | tag2Mem (channel : ClPortId)
  | tag2Yard (slice : ScionId)
  | benchCe
  | benchUe
  | yardCe (yo : Fin 67108864)
  | yardUe (yo : Fin 67108864)
  deriving DecidableEq, Repr

/-- An event of a tile with its device time (R338). -/
structure TileEvent where
  time  : BitVec 64
  check : TileCheck
  deriving DecidableEq, Repr

/-- What becomes of a stored 64-byte unit of device memory (R226): bits of its 528 flip (0 to 511 data, 512 to
522 SEC-DED, 523 to 527 address field), or its address lines select another unit. -/
inductive Upset where
  | bits (unit : Nat) (flips : List (Fin 528))
  | misplaced (unit other : Nat)
  deriving DecidableEq, Repr

/-- How a CAN frame on the wire ended (R422, R426). -/
inductive CanOutcome where
  | acked
  | ackError
  | error
  deriving DecidableEq, Repr

/-- The four levels of a symbol, −3, −1, +1 and +3 (R154). -/
inductive Pam4 where
  | m3 | m1 | p1 | p3
  deriving DecidableEq, Repr

/-- One link block as the receiver has it (R154, R162): the 4,096 symbols that the slicer decided, the
slicer error of each in 2^-32 of the sampler's full scale (R161, R170), the gain code that an open AGC
has reached (R158), and the memory channel at which a line of the block failed graft point 2 (R337). -/
structure LinkBlock where
  symbols : List Pam4
  errors  : List Int
  agc     : BitVec 7
  graft2  : Option ClPortId
  deriving DecidableEq, Repr

/-- What the DFE adapts on while the preamble is sent (R161, R181): where in the 127 bits of the PRBS7
the first symbol stands, and the slicer error at each update. -/
structure Preamble where
  phase  : Fin 127
  errors : List Int
  deriving DecidableEq, Repr

/-- A line of a command's write that failed graft point 2 (R336, R337): its number from the first line
written, and the memory channel. -/
structure WriteFault where
  line    : Nat
  channel : ClPortId
  deriving DecidableEq, Repr

/-- A gPTP Sync with what the servo measured from it (R59): its domain and log interval, the offset
from the grandmaster in ns, the rate correction that the servo sets, and by how much it slews an
offset, both in units of 2^-32 ns per ICLK cycle. -/
structure SyncMeasure where
  domain      : Nat
  logInterval : Int
  offset      : Int
  rate        : Int
  slewBy      : Nat
  deriving DecidableEq, Repr

/-- A configuration request as the port sees it (R78, R79, R92): a read, the PF's VF count under
SR-IOV, or the MSI-X Enable and Function Mask bits of a function of the port. -/
inductive ConfigReq where
  | read
  | setVfs (n : Fin 64)
  | setMsix (f : FnId) (enable mask : Bool)
  deriving DecidableEq, Repr

/-- Peer-delay measurement (R59): a request arrives, the device's own measurement is due, or the
response to it arrives. -/
inductive PeerDelay where
  | request
  | initiate
  | response (delayNs : Nat)
  deriving DecidableEq, Repr

/-- Why Night ended (R436). -/
inductive WakeCause where
  | watchdog (w : WdogId)
  | faultIn
  deriving DecidableEq, Repr

/-- A steward's request (R439): milliwatts at /4, /5, /6 and /8. -/
structure PowerRequest where
  d4 : Nat
  d5 : Nat
  d6 : Nat
  d8 : Nat
  deriving DecidableEq, Repr

/-! ## Instructions -/

/-- The commands of the block, one per row of the operation table. -/
inductive Instr where
  -- reset, boot
  | porstNAssert
  | porstNDeassert (trstHigh : Bool)
  | sysresetNAssert
  | sysresetNDeassert
  | lampWatchdogReset
  | perstNAssert (p : HostPort)
  | perstNDeassert (p : HostPort)
  | rootPllLock
  | rootPllLockLoss
  | loscQualifyCount (count : Nat) (ran4096 : Bool)
  | lampBootDone (configValid : Bool)
  | pcieTrainingStart
  | pcieLinkUp (p : HostPort)
  | pcieConfigRequest (p : HostPort) (req : ConfigReq)
  | startupInjection (checker : Checker) (raised : Option Nat) (silentOnClean : Bool)
  | firmwareAuthentication
  | memoryTrainingDone (gibPerChannel : List Nat)
  | scionStartupTestDone (n : ScionId) (bistFailed : Option (Fin 16))
  | scionJoinDeadline
  | configReady
  | ethernetMacsUp
  | canNormalMode
  | chroylinkGroupStart (g : Fin 6)
  | chroylinkGroupWindowClose (g : Fin 6)
  | bootComplete
  | bootTimeout
  -- BAR0 and rings
  | sqTailDb (f : FnId) (ring : RingId) (value : BitVec 32)
  | cqHeadDb (f : FnId) (ring : RingId) (value : BitVec 32)
  | sqRingControlWrite (f : FnId) (ring : RingId) (value : BitVec 32)
  | cqRingControlWrite (f : FnId) (ring : RingId) (value : BitVec 32)
  | hwdogServiceKey1 (f : FnId)
  | hwdogServiceKey2 (f : FnId)
  | hwdogServiceOther (f : FnId)
  | hwdogKeyTimeout (p : HostPort)
  | msixVectorUnmask (f : FnId) (vector : Fin 32)
  | registerWrite (f : FnId) (offset : Nat) (size : Nat) (value : BitVec 64)
  | functionLevelReset (f : FnId)
  | flrDone (f : FnId)
  | commandTake (read : EntryRead)
  | commandDeferredBegin (cmd : Nat)
  | completionWrite (cmd : Nat) (ok : Bool)
  | cqModerationTimer (f : FnId) (ring : RingId)
  -- opcodes
  | nop (cmd : Nat)
  | deviceQuery (cmd : Nat) (io : HostIo)
  | hello (cmd : Nat)
  | functionQuery (cmd : Nat) (io : HostIo)
  | timeGet (cmd : Nat) (io : HostIo)
  | timeSet (cmd : Nat)
  | shareSet (cmd : Nat)
  | provision (cmd : Nat)
  | memMap (cmd : Nat)
  | memUnmap (cmd : Nat)
  | memCopy (cmd : Nat) (host : HostRead) (graft2 : Option WriteFault)
  | memFill (cmd : Nat) (io : HostIo) (graft2 : Option WriteFault)
  | memTagCheck (cmd : Nat)
  | streamOpen (cmd : Nat)
  | streamClose (cmd : Nat)
  | streamCloseDone (c : CtxId)
  | streamConfig (cmd : Nat)
  | streamStats (cmd : Nat) (io : HostIo)
  | linkStatus (cmd : Nat) (io : HostIo)
  | guardConfig (cmd : Nat)
  | graphLoad (cmd : Nat) (img : ImageRead GraphImage)
  | graphUnload (cmd : Nat)
  | jobSubmit (cmd : Nat)
  | jobCancel (cmd : Nat)
  | bindStream (cmd : Nat)
  | reserve (cmd : Nat)
  | kvOpen (cmd : Nat)
  | kvScatter (cmd : Nat) (graft2 : Option WriteFault)
  | kvTrim (cmd : Nat)
  | kvClose (cmd : Nat)
  | kvQuery (cmd : Nat)
  | attend (cmd : Nat)
  | safetyConfig (cmd : Nat)
  | faultAck (cmd : Nat)
  | faultHistory (cmd : Nat) (io : HostIo)
  | selftestStatus (cmd : Nat) (io : HostIo)
  | inject (cmd : Nat)
  | thresholdSet (cmd : Nat)
  | powerState (cmd : Nat)
  | budgetSet (cmd : Nat)
  | thermalQuery (cmd : Nat) (io : HostIo)
  | dieRestore (cmd : Nat)
  | dieRestoreDone (result : ScionTest)
  | canConfig (cmd : Nat)
  | canSend (cmd : Nat)
  | safeMessageSet (cmd : Nat)
  | uartConfig (cmd : Nat)
  | driftConfig (cmd : Nat)
  | replayArm (cmd : Nat)
  | replayFeed (cmd : Nat)
  | crosscheckConfig (cmd : Nat)
  | wdogConfig (cmd : Nat)
  | firmwareStage (cmd : Nat) (img : ImageRead FwImage)
  | firmwareCommit (cmd : Nat)
  | debugUnlock (cmd : Nat)
  -- time and clocks
  | timeSlewEnd
  | gptpSync (p : Port4) (m : SyncMeasure)
  | gptpPeerDelay (p : Port4) (m : PeerDelay)
  | gptpHoldover
  | clockMonitorWindow (m : Monitor) (count : Nat)
  | wdogClockStopped (w : WdogId)
  -- seams
  | seamTransfer (n : ScionId) (toRootstock : Bool) (crcOk : Bool)
  | seamHeartbeatInterval (n : ScionId) (heard : Bool)
  | scionClockLockLoss (n : ScionId)
  | scionResetAssert (n : ScionId)
  | lampSeamFrame (dest : Side) (crcOk : Bool)
  | lampSeamHeartbeatInterval (side : Side)
  | lockstepMismatch (p : Pair)
  -- faults and watchdogs
  | faultEdgeCapture (source : Nat) (event : Ev) (owner : Option FnId) (class2 : Bool)
      (stays : Bool)
  | faultHoldoffEnd (source : Nat) (event : Ev)
  | reactionExpired (source : Nat)
  | shadowTimerExpired (source : Nat)
  | faultInNLow
  | voltageMonitor (rail : Fin 10)
  | wdogService (w : WdogId) (tick : Nat)
  | wdogPeriodEnd (w : WdogId)
  | foremanWdogService (loopPassed f0Answered f1Answered timersReadable : Bool)
  -- scheduling and self-test
  | shiftBoundary
  | tileStart
  | tileEnd (e : EngineId) (events : List TileEvent) (measuredUs : Nat)
  | sliceStart
  | sliceEnd (passed : Bool)
  | sliceGuardExpired
  | diagAgeLimit (e : EngineId)
  | patrolScrubRead (upsets : List Upset) (met : List ClPortId)
  -- heat and power
  | footprintSample (footprint : List Int) (die : List Int)
  | footprintCoolStep (n : ScionId)
  | eclkDividerChange (n : ScionId)
  | budgetInterval (packageMw baseMw : Nat) (requests : List (Option PowerRequest)) (acked : List Bool)
  | stewardNoGrant (n : ScionId)
  | dozeEntry
  | nightEntry
  | nightWake (cause : WakeCause)
  | noscMissingEdge
  | nightRailCrossing (rail : Fin 10)
  -- Chroylink
  | clTrainingAttemptStart (p : ClPortId)
  | clPreambleFound (p : ClPortId) (agc : BitVec 7)
  | clCtlePresetDone (p : ClPortId) (error : Nat) (agc : BitVec 7) (x : Preamble)
  | clDfePreambleDone (p : ClPortId) (x : Preamble)
  | clTrainingBoundExpired (p : ClPortId)
  | linkBlock (p : ClPortId) (b : LinkBlock)
  | clResyncTimeout (p : ClPortId)
  | backchannelAckTimeout (p : ClPortId) (msgNo : Fin 16)
  | trigger (c : CtxId)
  | frameLateTimeout (c : CtxId)
  -- Ethernet and UART
  | ethFrame (p : Port4) (fcsOk : Bool) (frame : Bytes) (graft2 : Option ClPortId)
  | ethLinkChange (p : Port4) (up : Bool) (speed : Fin 4)
  | uartCharacter (p : Port4) (samples : List Bool) (graft2 : Option ClPortId)
  | uartIdleGap (p : Port4)
  -- CAN
  | canFrameEnd (b : BusId) (o : CanOutcome)
  | canBusOffRecoveryDone (b : BusId)
  | canSendTimeout (b : BusId) (cmd : Nat)
  | canFrameReceived (b : BusId) (good : Bool)
  | safeMessageRepeat (b : BusId)
  -- Drift
  | driftPacket (p : Port4) (packet : Bytes)
  | driftTrainingRetry (p : Port4)
  | xcUnmatchedTimeout (c : CtxId) (counter : BitVec 32)
  | replayRecordApply
  | replayBreak
  | lampDieReset
  | driftLinkChange (p : Port4) (up : Bool)
  | linkSettingsRetrainTimeout (p : ClPortId)
  deriving DecidableEq, Repr

end Sys2Proof
end

