-- ==== Sys2Proof/Decode.lean ====
section
/-!
DEFINITION. The block's operation table gives no row any bits (spec/opcode_table.json: every row's
`fields` is empty), so no word spells a command. The decoding that the device itself does, of the
64-byte descriptor a host puts into a ring (R123, R134), is COMMAND_TAKE's meaning.
-/

namespace Sys2Proof

/-- The command that a table word spells: none, since the table gives no bits. -/
def decodeTableWord (_nbits _w : Nat) : Option Instr := none

end Sys2Proof
end

