-- ==== Sys2Proof/Config.lean ====
section
/-!
DEFINITION. What is fixed for the T64, and the free values: constants without a body for the values
that the manual leaves open (notes/assumptions says which). Nothing in Lean can evaluate a free
value, so a statement holds whatever it is.
-/

namespace Sys2Proof.Config

/-! ## The T64's parameters (R31) -/

/-- MEMBER_ID of the T64 (R34). -/
def memberId : BitVec 16 := 0x0040
/-- Stepping B1 (R34). -/
def stepping : BitVec 8 := 0xB1
/-- Stream contexts (R31). -/
def streamContexts : Nat := 48
/-- Functions per port: one PF and 63 VFs (R31). -/
def fnsPerPort : Nat := 64
/-- Engines per scion (R31). -/
def enginesPerScion : Nat := 16
/-- Virtual engines per function, maximum (R31). -/
def venginesMax : Nat := 64
/-- Memory channels (R31). -/
def memChannels : Nat := 24
/-- Firmware reserve in MiB: decision log, fault history and the firmware's own state (R95). -/
def reserveMib : Nat := 1024
/-- Nominal INCREMENT, 2.5 ns in units of 2^-32 ns (R53). -/
def increment : Nat := 0x000280000000
/-- ±500 ppm of INCREMENT in the same units, rounded down (R55). -/
def maxCorrection : Nat := 5368709
/-- Timer slots of the FCU (R389). -/
def timerSlots : Nat := 32
/-- Records of the decision-log ring (R327). -/
def logRecords : Nat := 8388608

/-! ## Free values -/

/-- A drawn 32-bit value: tally seeds (R211). The argument is the draw's number. -/
opaque freeWord : Nat → BitVec 32
/-- The number that the device gives to a graph, a sequence or a reservation (R248, R285, R306 let it
choose among the unused ones); the argument is the draw's number. -/
opaque givenNumber : Nat → Nat
/-- SEQ of a STREAM_DOWN entry of a stream that has seen no counter since STREAM_OPEN (R197 states
none); the argument is the draw's number. -/
opaque unseenCounter : Nat → BitVec 32
/-- The challenge that DEBUG_UNLOCK returns (R141); the argument is the draw's number. -/
opaque debugChallenge : Nat → BitVec 64
/-- Whether a response of 32 bytes to a challenge is accepted (R141, R151). -/
opaque debugAccepts : BitVec 64 → Bytes → Bool
/-- exp on its domain; the model takes it where it lies within 2 ULP (R242). -/
opaque expIn : BitVec 32 → BitVec 32
/-- 1/x on its domain; the model takes it where it lies within 1 ULP (R242). -/
opaque recipIn : BitVec 32 → BitVec 32
/-- 1/√x on its domain; the model takes it where it lies within 2 ULP (R242). -/
opaque rsqrtIn : BitVec 32 → BitVec 32
/-- SIGMOID, TANH and GELU on stored values (R250 names them and states no result). -/
opaque activation : ElemFn → Fmt → Int → Int
/-- Norms, softmax and ATTENTION in FP32: R250 names the functions and R324 lets the image fix their order, so
their values are free functions of the kind, the axis, the image's parameters, the input tensors with their
formats, shapes and zero points, and the element. -/
opaque vecReduce : VecKind → Nat → List Int → List (Fmt × List Nat × Int × List Int) → Nat → BitVec 32
/-- ELEMENTWISE on integers whose zero points are not 0, and LEAKY_RELU on integers: the function,
the stored values, the zero points and the parameters (R250 names the functions alone). -/
opaque elemInt : ElemFn → List Int → Int
/-- Which of two zeros of unlike sign MAX, MIN, RELU and CLAMP deliver: the first (R250, R267). -/
opaque firstZero : BitVec 32 → BitVec 32 → Bool
/-- The FP32 row sum of a weight block in a floating pairing: R339 gives no order of the additions. The model
takes it where it lies within what any order can give. -/
opaque rowSum : List (BitVec 32) → BitVec 32
/-- An FP32 sum of magnitudes, rounded up: R339 and R342 give no order. The model takes it where it is not below
the exact sum. -/
opaque absSum : List (BitVec 32) → BitVec 32
/-- Where the Foreman has placed a 64-byte unit of function memory in the physical data space, as the number
of the physical unit (R223, R225: no command reveals it). -/
opaque physUnit : Nat → Nat
/-- What the SEC-DED code makes of three or more flipped bits of a unit: uncorrectable, or delivered with
those data bits wrong (R226 speaks of one and of two). -/
opaque manyFlips : List Nat → Option (List Nat)
/-- The setpoint in mV that a scion needs for ECLK at a divider: R476 speaks of the speed that a setpoint supports
and gives no figure. -/
opaque railMv : Nat → Nat
/-- Cycles admission assumes for an ATTEND request, by class and query rows (R302, R315). -/
opaque attendCycles : Nat → Nat → Nat
/-- The time in µs for which the Foreman predicts that a command of an opcode without engine work holds one that
waits for it under FENCE or R297: R315 counts the waiting and gives no figure. -/
opaque commandUs : BitVec 16 → Nat
/-- Whether the running noise average is rounded up where it is inexact: R170 states no precision. The
draw's number. -/
opaque noiseUp : Nat → Bool
/-- Whether NOISE_FLOOR is the code above or below a value between two codes: R170 states no rounding.
The draw's number. -/
opaque noiseCode : Nat → Bool
/-- REC of a controller above 127 after a good frame: ISO 11898-1 leaves a value from 119 to 127. -/
opaque canRec : Nat → Nat
/-- The firmware's ABI number in HELLO's RESULT (R141). -/
opaque firmwareAbi : BitVec 16
/-- Which lines an aborted or failed tile has written (R487): the draw's number and the line. -/
opaque wroteLine : Nat → Nat → Bool
/-- The values that a failed tile wrote (R487): the draw's number and the element. -/
opaque wrongElement : Nat → Nat → Int
/-- Cause code that the safe message carries for a boot failure without an event (R74, R425). -/
opaque bootFailCode : Nat
/-- Whether a rate that is no whole number of ppb is reported rounded up (R149). -/
opaque ppbUp : Int → Bool

end Sys2Proof.Config
end

