-- ==== Sys2Proof/Machine/Bytes.lean ====
section
/-!
DEFINITION. Byte order (R10), field access, and the three checks the manual computes over bytes:
CRC-32C (R14), the back channel's CRC-16 (R176) and the safe message's CRC-8 (R425).
-/

namespace Sys2Proof.Machine

/-- Byte `i` of a list, 0 beyond its end. -/
def byteAt (b : Bytes) (i : Nat) : Byte := b.getD i 0

/-- The little-endian number in `n` bytes of `b` from byte `i` (R10). -/
def leNat (b : Bytes) (i : Nat) : Nat → Nat
  | 0 => 0
  | n + 1 => (byteAt b i).toNat + 256 * leNat b (i + 1) n

/-- The big-endian number in `n` bytes of `b` from byte `i`. -/
def beNat (b : Bytes) (i n : Nat) : Nat :=
  ((b.drop i).take n).foldl (fun a x => a * 256 + x.toNat) 0

/-- `n` bytes of a number, little-endian (R10). -/
def leBytes : Nat → Nat → Bytes
  | 0, _ => []
  | n + 1, v => BitVec.ofNat 8 v :: leBytes n (v / 256)

/-- `n` bytes of a signed number, two's complement, little-endian (R11). -/
def leInt (n : Nat) (v : Int) : Bytes := leBytes n (v % (256 ^ n : Nat)).toNat

/-- The signed reading of an `n`-bit number (R11). -/
def signed (bits v : Nat) : Int :=
  if v % 2 ^ bits < 2 ^ (bits - 1) then ((v % 2 ^ bits : Nat) : Int)
  else ((v % 2 ^ bits : Nat) : Int) - ((2 ^ bits : Nat) : Int)

/-- Zero bytes. -/
def zeros (n : Nat) : Bytes := List.replicate n 0

/-- `b` cut or padded with zeros to `n` bytes. -/
def fit (n : Nat) (b : Bytes) : Bytes := (b ++ zeros n).take n

/-- One bit of the reflected CRC-32C (R14). -/
def crc32cBit (c : BitVec 32) : BitVec 32 :=
  if c.getLsbD 0 then (c >>> 1) ^^^ 0x82F63B78 else c >>> 1

/-- Eight bits of the reflected CRC-32C. -/
def crc32cByte (c : BitVec 32) (b : Byte) : BitVec 32 :=
  crc32cBit (crc32cBit (crc32cBit (crc32cBit (crc32cBit (crc32cBit (crc32cBit (crc32cBit
    (c ^^^ b.setWidth 32))))))))

/-- CRC-32C (R14). -/
def crc32c (b : Bytes) : BitVec 32 := b.foldl crc32cByte 0xFFFFFFFF ^^^ 0xFFFFFFFF

/-- One bit of the CRC-16 with polynomial 0x1021 (R176). -/
def crc16Bit (c : BitVec 16) : BitVec 16 :=
  if c.getLsbD 15 then (c <<< 1) ^^^ 0x1021 else c <<< 1

/-- Eight bits of that CRC-16. -/
def crc16Byte (c : BitVec 16) (b : Byte) : BitVec 16 :=
  let d : BitVec 16 := c ^^^ (b.setWidth 16 <<< 8)
  crc16Bit (crc16Bit (crc16Bit (crc16Bit (crc16Bit (crc16Bit (crc16Bit (crc16Bit d)))))))

/-- CRC-16 of the back channel (R176): initial value 0xFFFF, not reflected, no final XOR. -/
def crc16 (b : Bytes) : BitVec 16 := b.foldl crc16Byte 0xFFFF

/-- One bit of the CRC-8 with polynomial 0x1D (R425). -/
def crc8Bit (c : BitVec 8) : BitVec 8 :=
  if c.getLsbD 7 then (c <<< 1) ^^^ 0x1D else c <<< 1

/-- Eight bits of that CRC-8. -/
def crc8Byte (c : BitVec 8) (b : Byte) : BitVec 8 :=
  crc8Bit (crc8Bit (crc8Bit (crc8Bit (crc8Bit (crc8Bit (crc8Bit (crc8Bit (c ^^^ b))))))))

/-- CRC-8 of the safe message (R425): initial value 0xFF, final XOR 0xFF, not reflected. -/
def crc8 (b : Bytes) : BitVec 8 := b.foldl crc8Byte 0xFF ^^^ 0xFF

/-- The number of 1 bits among the low `n` bits. -/
def popcount : Nat → Nat → Nat
  | 0, _ => 0
  | n + 1, v => v % 2 + popcount n (v / 2)

/-- A counter of `bits` bits that stays at its maximum (R87, R186). -/
def satAdd (bits v n : Nat) : Nat := min (v + n) (2 ^ bits - 1)

/-- The first element that satisfies `p`, replaced; the rest unchanged. -/
def mapFirst {α : Type} (p : α → Bool) (f : α → α) : List α → List α
  | [] => []
  | x :: xs => if p x then f x :: xs else x :: mapFirst p f xs

end Sys2Proof.Machine
end

