-- ==== Sys2Proof/Machine/Rs.lean ====
section
/-!
DEFINITION. The Reed-Solomon code of the link, RS(255,239) over GF(2^8) (R163, R164), and the
scrambler (R155).
-/

namespace Sys2Proof.Machine

/-! ## GF(2^8) -/

/-- Times α = 0x02 under x^8 + x^4 + x^3 + x^2 + 1. -/
def gfTimes2 (a : Nat) : Nat := if 128 ≤ a then (2 * a) ^^^ 0x11D else 2 * a

/-- A product, bit by bit of the second factor. -/
def gfMulFuel : Nat → Nat → Nat → Nat → Nat
  | 0, _, _, acc => acc
  | k + 1, a, b, acc => gfMulFuel k (gfTimes2 a) (b / 2) (if b % 2 = 1 then acc ^^^ a else acc)

/-- A product. -/
def gfMul (a b : Nat) : Nat := gfMulFuel 8 a b 0

/-- A square taken `k` times. -/
def gfSquares : Nat → Nat → Nat
  | 0, a => a
  | k + 1, a => gfSquares k (gfMul a a)

/-- The inverse, a to the 254th. -/
def gfInv (a : Nat) : Nat :=
  (List.range 7).foldl (fun p k => gfMul p (gfSquares (k + 1) a)) 1

/-- The powers of α from the 0th. -/
def gfPowers : Nat → Nat → List Nat
  | 0, _ => []
  | k + 1, a => a :: gfPowers k (gfTimes2 a)

/-- A polynomial, lowest coefficient first, at a point. -/
def gfEval (p : List Nat) (x : Nat) : Nat := p.foldr (fun c a => gfMul a x ^^^ c) 0

/-! ## The code -/

/-- Values at α^0 to α^15 of a codeword whose position 0 is the highest coefficient (R163, R164). -/
def rsSyndromes (cw : List Nat) : List Nat :=
  (gfPowers 16 1).map (fun x => cw.foldl (fun a c => gfMul a x ^^^ c) 0)

/-- Sum of two polynomials. -/
def gfAdd : List Nat → List Nat → List Nat
  | [], q => q
  | p, [] => p
  | a :: p, b :: q => (a ^^^ b) :: gfAdd p q

/-- The search for the error locator: locator, previous locator, its length, its age and its
discrepancy. -/
structure Locator where
  cur  : List Nat
  prev : List Nat
  len  : Nat
  age  : Nat
  disc : Nat

/-- One step of the search with syndrome `n`. -/
def Locator.step (syn : List Nat) (l : Locator) (n : Nat) : Locator :=
  let d := (List.range (l.len + 1)).foldl (fun a i => a ^^^ gfMul (l.cur.getD i 0) (syn.getD (n - i) 0)) 0
  if d = 0 then { l with age := l.age + 1 }
  else
    let k := gfMul d (gfInv l.disc)
    let next := gfAdd l.cur (List.replicate l.age 0 ++ l.prev.map (gfMul k))
    if 2 * l.len ≤ n then { cur := next, prev := l.cur, len := n + 1 - l.len, age := 1, disc := d }
    else { l with cur := next, age := l.age + 1 }

/-- The error locator of a list of syndromes. -/
def rsLocator (syn : List Nat) : Locator :=
  (List.range 16).foldl (Locator.step syn) { cur := [1], prev := [1], len := 0, age := 1, disc := 1 }

/-- The derivative of a polynomial in characteristic 2. -/
def gfDerive (p : List Nat) : List Nat := (p.drop 1).mapIdx (fun i c => if i % 2 = 0 then c else 0)

/-- The evaluator: syndromes times locator, 16 coefficients. -/
def rsEvaluator (syn loc : List Nat) : List Nat :=
  (List.range 16).map (fun n =>
    (List.range (n + 1)).foldl (fun a i => a ^^^ gfMul (loc.getD i 0) (syn.getD (n - i) 0)) 0)

/-- A codeword as corrected with the number of symbols corrected; none if it has more than 8 errors
(R164). -/
def rsDecode (cw : List Nat) : Option (List Nat × Nat) :=
  let syn := rsSyndromes cw
  if syn.all (· == 0) then some (cw, 0)
  else
    let l := rsLocator syn
    let ev := rsEvaluator syn l.cur
    let dv := gfDerive l.cur
    -- position i has locator α^(254 - i), whose inverse is α^(i + 1)
    let fixed := (cw.zip ((gfPowers 256 1).drop 1)).map (fun x =>
      if gfEval l.cur x.2 = 0 then
        (x.1 ^^^ gfMul (gfInv x.2) (gfMul (gfEval ev x.2) (gfInv (gfEval dv x.2))), 1)
      else (x.1, 0))
    let out := fixed.map (·.1)
    let n := (fixed.map (·.2)).sum
    if l.len ≤ 8 ∧ n = l.len ∧ (rsSyndromes out).all (· == 0) = true then some (out, n) else none

/-- The four codewords of a block: coded byte i belongs to codeword i mod 4 (R163). -/
def codeword (coded : List Nat) (k : Nat) : List Nat :=
  (List.range 255).map (fun i => coded.getD (4 * i + k) 0)

/-- The coded bytes of four codewords. -/
def interleave (cws : List (List Nat)) : List Nat :=
  (List.range 1020).map (fun i => (cws.getD (i % 4) []).getD (i / 4) 0)

/-! ## The scrambler -/

/-- The generator x^15 + x^14 + 1: its output is the bit that leaves the register, so that the first 15
bits are the seed (R155, log 24). -/
def scramblerByte : Nat → Nat → Nat → Nat × Nat
  | 0, r, acc => (r, acc)
  | k + 1, r, acc =>
    let o := r / 16384 % 2
    let n := (o ^^^ (r / 8192 % 2))
    scramblerByte k ((2 * r + n) % 32768) (2 * acc + o)

/-- Bytes with the generator's output taken off. -/
def descrambleFrom : Nat → List Byte → List Nat
  | _, [] => []
  | r, b :: rest =>
    let (r', o) := scramblerByte 8 r 0
    (b.toNat ^^^ o) :: descrambleFrom r' rest

/-- The coded bytes of a block, descrambled: the seed is 0x7FFF (R155). -/
def descramble (b : Bytes) : List Nat := descrambleFrom 0x7FFF b

end Sys2Proof.Machine
end

