-- ==== Sys2Proof/Machine/State.lean ====
section
/-!
DEFINITION. The state of the device as plain data, all of it, and the state right after reset.
A field's default is its value at reset; the comment names the rule that gives the field.
A reset value that no rule gives is marked with its entry of the assumption log.
-/

namespace Sys2Proof.Machine

/-! ## Host interface -/

/-- Submission ring registers (R108 to R110). -/
structure SubRing where
  /-- Ring address, bits 63–12 kept, bits 11–0 reserved. Reset 0. -/
  base   : BitVec 64 := 0
  /-- ENABLE. Reset 0. -/
  enable : Bool := false
  /-- CQ. Reset 0. -/
  cq     : BitVec 4 := 0
  /-- LOG2_DEPTH. Reset 0. -/
  log2   : BitVec 4 := 0
  /-- HEAD: the next entry the device will take. Reset 0. -/
  head   : BitVec 12 := 0
  /-- The recorded tail doorbell (R80, R110). Reset 0. -/
  tail   : BitVec 12 := 0
  /-- Disabled by R118 until FLR. Reset 0. -/
  dead   : Bool := false
  deriving DecidableEq, Repr

/-- Completion ring registers (R108 to R113, R133). -/
structure CompRing where
  /-- Ring address. Reset 0. -/
  base       : BitVec 64 := 0
  /-- ENABLE. Reset 0. -/
  enable     : Bool := false
  /-- VECTOR. Reset 1. -/
  vector     : BitVec 5 := 1
  /-- LOG2_DEPTH. Reset 0. -/
  log2       : BitVec 4 := 0
  /-- TAIL: the next slot the device will write. Reset 0. -/
  tail       : BitVec 12 := 0
  /-- The recorded CQ_HEAD_DB. Reset 0. -/
  head       : BitVec 12 := 0
  /-- PHASE of the entries of this pass (R133): 1 on the first pass after ENABLE. -/
  phase      : Bool := true
  /-- MOD_TIME in µs. Reset 0. -/
  modTime    : BitVec 16 := 0
  /-- MOD_COUNT. Reset 0. -/
  modCount   : BitVec 8 := 0
  /-- Completions not yet signalled (R113). Reset 0. -/
  unsignalled : Nat := 0
  /-- Disabled by R118 until FLR. Reset 0. -/
  dead       : Bool := false
  deriving DecidableEq, Repr

/-- One MSI-X vector: table entry and PBA bit (R104, R114). -/
structure MsixVector where
  /-- Message address. Reset 0 (log 4). -/
  addr    : BitVec 64 := 0
  /-- Message data. Reset 0 (log 4). -/
  data    : BitVec 32 := 0
  /-- Mask bit. Reset 1, as PCIe gives it (log 4). -/
  masked  : Bool := true
  /-- PBA bit. Reset 0. -/
  pba     : Bool := false
  deriving DecidableEq, Repr

/-- What a PF provisioned for a VF (R99). -/
structure Provision where
  vengines   : Nat
  maxTally   : Nat
  memMib     : Nat
  kvPages    : Nat
  streamMask : BitVec 48
  safetyAuth : Bool
  deriving DecidableEq, Repr

/-- A mapping made by one MEM_MAP (R231). -/
structure Mapping where
  va       : Nat
  size     : Nat
  /-- KIND 1: a host window (R235). -/
  host     : Bool
  /-- PAGE 1: pages of 2 MiB. -/
  big      : Bool
  rd       : Bool
  wr       : Bool
  hostAddr : Nat
  deriving DecidableEq, Repr

/-- A loaded graph (R248): the device's own copy of the image and its calibration (R315). -/
structure Graph where
  handle : Nat
  image  : GraphImage
  /-- Measured over predicted time of the last 16 runs, in 1/65,536 (R315, log 30). -/
  ratios : List Nat
  deriving DecidableEq, Repr

/-- A key-value sequence (R283 to R291). `pages` lists the committed pages, oldest first, each with
the position that its first slot holds. -/
structure KvSeq where
  handle  : Nat
  va      : Nat
  maxLen  : Nat
  heads   : Nat
  headDim : Nat
  fmt     : Fmt
  window  : Bool
  length  : Nat
  start   : Nat
  pages   : List (Nat × Nat)
  deriving DecidableEq, Repr

/-- A history record (R386) with what the FCU keeps beside it: owner, class, episode. -/
structure Rec where
  time     : BitVec 64
  count    : Nat
  latched  : Bool
  injected : Bool
  seq      : BitVec 21
  context  : BitVec 9
  source   : Nat
  event    : Ev
  die      : BitVec 3
  timer    : Bool
  tier     : Nat
  owner    : Option FnId
  class2   : Bool
  /-- EVENT_SEQ of the record that started the episode this one belongs to (R389). -/
  episode  : Option (BitVec 21)
  deriving DecidableEq, Repr

/-- One function: BAR0 registers, rings, provision, address space and fault view (R91, R94). -/
structure Fn where
  /-- FN_ERROR bits 3–0 (R107): BAD_TAIL, BAD_HEAD, RING_CONFIG, DMA_ERROR. Reset 0. -/
  error      : BitVec 4 := 0
  /-- FN_ERROR RING. Reset 0. -/
  errorRing  : BitVec 5 := 0
  /-- FN_EVENT bits 6–0. Reset 0. -/
  event      : BitVec 7 := 0
  /-- FN_EVENT_MASK. Reset 0. -/
  mask       : BitVec 7 := 0
  /-- HELLO_DONE of FN_STATUS (R105). Reset 0. -/
  helloDone  : Bool := false
  /-- TALLY of FN_TALLY (R83). Reset 8. -/
  tally      : Nat := 8
  /-- FLR in progress (R119). Reset false. -/
  resetting  : Bool := false
  sqs        : Vector SubRing 16 := Vector.replicate 16 {}
  cqs        : Vector CompRing 16 := Vector.replicate 16 {}
  msix       : Vector MsixVector 32 := Vector.replicate 32 {}
  /-- MSI-X Enable in configuration space (R114). Reset 0 (log 4). -/
  msixEnable : Bool := false
  /-- MSI-X Function Mask in configuration space, as PCIe gives it (R92, R114). Reset 0 (log 4). -/
  msixMask   : Bool := false
  /-- The VF's provision (R99). Reset none. -/
  provision  : Option Provision := none
  maps       : List Mapping := []
  graphs     : List Graph := []
  seqs       : List KvSeq := []
  /-- The view queue, newest first, at most 32 records (R384). -/
  view       : List Rec := []
  /-- TOTAL (R384). Reset 0. -/
  total      : BitVec 32 := 0
  /-- The next ring in this function's turn order (R116). -/
  ringTurn   : Nat := 0
  deriving DecidableEq, Repr

/-- A PCIe port (R78, R95, R97, R473). -/
structure PciePort where
  /-- Link training begun. -/
  training  : Bool := false
  linkUp    : Bool := false
  /-- The port's functions are held in the reset of its PERST_N (R473). -/
  perstLow  : Bool := false
  /-- VFs enabled under SR-IOV (R79). Reset 0. -/
  vfs       : Nat := 0
  /-- The PF's stored SHARE_SET proposal: ENGINE_PARTS_A, MEM_PARTS_A, STREAMS_A (R97). -/
  proposal  : Option (Nat × Nat × Nat) := none
  /-- The PF's latest BUDGET_MW (R438). -/
  budgetMw  : Option Nat := none
  /-- The next function in this port's turn order (R84). -/
  fnTurn    : Nat := 0
  /-- Service sequence of the host-watchdog block armed (R410). Reset 0. -/
  keyArmed  : Bool := false
  /-- 2 MiB frames of function memory held, each with the KiB that each user fills
  (R486, log 11). -/
  frames    : List (List (Nat × Nat)) := []
  deriving DecidableEq, Repr

/-- How far a taken command has come (R134 to R139). -/
inductive Phase where
  /-- Held by FENCE or by sequence order (R136, R297). -/
  | waiting
  /-- Begun: its opcode's row may act. -/
  | begun
  /-- At work: it completes by a later event. -/
  | running
  /-- Completion formed: status, detail, result, device time. -/
  | formed (status : BitVec 16) (detail : BitVec 16) (result : BitVec 64) (time : BitVec 64)
  deriving DecidableEq, Repr

/-- A taken command (R123, R131): the descriptor's fields and the block as read. -/
structure Cmd where
  id       : Nat
  fn       : FnId
  sq       : RingId
  cq       : RingId
  opcode   : BitVec 16
  flags    : BitVec 8
  cls      : BitVec 8
  seq      : BitVec 32
  deadline : BitVec 64
  /-- The 64 descriptor bytes. -/
  desc     : Bytes
  block    : Bytes
  phase    : Phase
  /-- A chained command that failed step 7 (R137). -/
  badBlock : Bool
  /-- Of class 2 and taken before its VF lost safety authority and with it the reservation (R102). -/
  excused  : Bool := false
  /-- A KV_CLOSE taken while a command that names its handle was outstanding (R296). -/
  naming   : Bool := false
  deriving DecidableEq, Repr

/-! ## Faults -/

/-- A record of a running episode (R389): its number, event, class and CONTEXT. -/
structure Member where
  seq     : BitVec 21
  event   : Ev
  class2  : Bool
  context : BitVec 9
  deriving DecidableEq, Repr

/-- A running reaction timer (R389): source, the record that started it, its length, its owner,
the CONTEXT it carries, its class and the records of its episode. -/
structure ReactionTimer where
  source   : Nat
  startSeq : BitVec 21
  members  : List Member
  lengthUs : Nat
  owner    : Option FnId
  context  : BitVec 9
  class2   : Bool
  deriving DecidableEq, Repr

/-- The Fault Collection Unit (R376 to R395). -/
structure Fcu where
  /-- Next EVENT_SEQ (R387). Reset 0. -/
  nextSeq    : BitVec 21 := 0
  /-- Thresholds set by THRESHOLD_SET: source, N, W in µs (R388). Reset none. -/
  thresholds : List (Nat × Nat × Nat) := []
  /-- Promotable edges captured: source and time (R381). -/
  window     : List (Nat × BitVec 64) := []
  /-- Pairs of source and event in holdoff (R379). -/
  holdoff    : List (Nat × Ev) := []
  /-- Real conditions that stand (R379, LIVE of R386). -/
  live       : List (Nat × Ev) := []
  /-- Conditions held by INJECT (R395). -/
  holds      : List (Nat × Ev) := []
  timers     : List ReactionTimer := []
  /-- Acknowledgement log: EVENT_SEQ, remedy, device time (R391). -/
  ackLog     : List (BitVec 21 × BitVec 16 × BitVec 64) := []
  deriving DecidableEq, Repr

/-! ## Memory -/

/-- Device memory as functions address it (R230, R331): bytes by function × 2^48 + virtual address,
line tags by line, poisoned 64-byte units, and the bits of stored units that have flipped. Unlisted bytes
read 0 (R232) and unlisted lines carry the tag of 256 zero bytes (R334). A stored unit has 528 bits: 0 to
511 its data, 512 to 522 the SEC-DED code, 523 to 527 the address field (R226); a unit that is not listed
in `upsets` stands as it was written. -/
structure Memory where
  cells  : List Host.Cell := []
  tags   : List (Nat × BitVec 32) := []
  poison : List Nat := []
  upsets : List (Nat × List Nat) := []
  deriving DecidableEq, Repr

/-- A part of the yard that the Foreman holds for a run's tensor (R225): its first byte and its bytes,
whole lines both, the function whose data it takes (R227), the run, and the tensor. -/
structure YardSpan where
  yo     : Nat
  len    : Nat
  fn     : FnId
  run    : Nat
  tensor : Nat
  deriving DecidableEq, Repr

/-- The yard of 64 MiB with its tag store of 1 MiB (R224, R332): bytes by yard offset, line tags by line,
poison by 64 bytes (R227: its words are read by lines; log 122), and what the Foreman holds for which run. -/
structure Yard where
  mem    : Memory := {}
  spans  : List YardSpan := []
  deriving DecidableEq, Repr

/-! ## Streams -/

/-- Guard block (R215). -/
structure Guard where
  checks     : BitVec 4 := 0
  tolUs      : Nat := 1
  sigSeed    : BitVec 32 := 0
  seedPeriod : Nat := 0
  tallyLine  : Nat := 0
  deriving DecidableEq, Repr

/-- Stream context block (R189), the source's counter width in bytes included. -/
structure StreamCfg where
  source       : Nat := 0
  port         : Nat := 0
  sub          : Nat := 0
  cls          : Nat := 0
  linkSettings : BitVec 32 := 0
  format       : Nat := 0
  ringCount    : Nat := 2
  weight       : Nat := 1
  width        : Nat := 0
  height       : Nat := 0
  frameBytes   : Nat := 0
  periodUs     : Nat := 0
  deadlineUs   : Nat := 0
  trigger      : BitVec 8 := 0
  phaseUs      : Nat := 0
  ringVa       : Nat := 0
  udpPort      : Nat := 0
  datagrams    : Nat := 0
  srcIp        : BitVec 32 := 0
  groupIp      : BitVec 32 := 0
  counterOff   : Nat := 0
  counterBytes : Nat := 0
  counterBig   : Bool := false
  framing      : Nat := 0
  idleChars    : Nat := 0
  uartLen      : Nat := 0
  guard        : Guard := {}
  deriving DecidableEq, Repr

/-- A frame being received (R194 to R196). -/
structure FrameAsm where
  counter   : BitVec 32
  bytes     : Bytes
  stamp     : BitVec 64
  /-- Datagrams or blocks received so far. -/
  parts     : Nat
  /-- The ring buffer it takes (R194); none where every buffer is held. -/
  buffer    : Option Nat
  /-- Bytes of the frame so far, those of lost blocks included (R190). -/
  length    : Nat := 0
  /-- DETAIL of the integrity check that it has failed (R175, R200, R337): it is decided at its end. -/
  failed    : Option (BitVec 16) := none
  /-- Lines that failed graft point 2 and are not written (R337). -/
  badLines  : List Nat := []
  /-- It is broken and counted; the rest of it is swallowed (R200, R206). -/
  broken    : Bool := false
  /-- It is the first since a forward step: no interval check (R62). -/
  skips     : Bool := false
  /-- It is the first since STREAM_OPEN: it may have been in progress then (R191). -/
  early     : Bool := false
  deriving DecidableEq, Repr

/-- A bound graph with its result ring and output slots (R146). -/
structure Binding where
  handle      : Nat
  vector      : Nat
  log2        : Nat
  ringVa      : Nat
  reservation : Nat
  outVa       : Nat
  outStride   : Nat
  /-- Entries written so far: the next slot and its phase. -/
  written     : Nat
  /-- Unbound: only the runs already begun still deliver (R146). -/
  ending      : Bool
  deriving DecidableEq, Repr

/-- A frame of a bound stream whose result entry is not yet written (R146): entries go out in frame
order. `run` names the run that it waits for. -/
structure FrameEntry where
  counter : BitVec 32
  buffer  : Nat
  run     : Option Nat
  status  : BitVec 16
  detail  : BitVec 16
  entry   : BitVec 32
  stamp   : BitVec 64
  time    : BitVec 64
  digest  : BitVec 32
  deriving DecidableEq, Repr

/-- A stream context (R188 to R217, R321). -/
structure Stream where
  isOpen      : Bool := false
  /-- STREAM_OPEN waiting for its seed's acknowledgement or a retrain (R180, R185). -/
  opening     : Option Nat := none
  /-- STREAM_CLOSE waiting for begun runs (R193). -/
  closing     : Option Nat := none
  /-- That STREAM_CLOSE has completed after 2 ms; begun runs still hold the ring (R193). -/
  closeDone   : Bool := false
  owner       : FnId := 0
  cfg         : StreamCfg := {}
  /-- Settings that apply from the next start of frame (R192, R215). -/
  nextCfg     : Option StreamCfg := none
  linkDown    : Bool := false
  seed        : BitVec 32 := 0
  prevSeed    : BitVec 32 := 0
  /-- A seed sent and not yet acknowledged (R211). -/
  newSeed     : Option (BitVec 32) := none
  /-- Frames for which the previous seed still counts (R211). -/
  grace       : Nat := 0
  /-- Frames since the seed was drawn (R211). -/
  seedFrames  : Nat := 0
  /-- The counter reference (R209). -/
  counterRef  : Option (BitVec 32) := none
  /-- LAST_COUNTER (R217). -/
  lastCounter : BitVec 32 := 0
  /-- A counter has been seen since STREAM_OPEN (R197). -/
  counterSeen : Bool := false
  /-- Signatures of the last 4 frames that reached step 3 (R212). -/
  sigs        : List (BitVec 32) := []
  /-- The previous frame's time stamp (R213). -/
  lastStamp   : Option (BitVec 64) := none
  /-- Skip the interval check once after a forward step (R62). -/
  skipInterval : Bool := false
  /-- A frame has begun since STREAM_OPEN (R213). -/
  hasBegun    : Bool := false
  /-- FRAME_LATE raised and no frame begun since (R213). -/
  lateRaised  : Bool := false
  asm         : Option FrameAsm := none
  /-- UART: discard until the next idle gap, which ends the frame in progress at STREAM_OPEN (R191). -/
  awaitGap    : Bool := false
  /-- Chroylink: FRAME_COUNT of a broken frame, or of one in progress at STREAM_OPEN, whose further blocks
  are discarded (R173, R191). -/
  swallow     : Option (BitVec 32) := none
  /-- Buffers, longest unused first (R194). -/
  bufOrder    : List Nat := []
  bound       : Option Binding := none
  /-- Frames of the binding without a result entry yet, in frame order. -/
  entries     : List FrameEntry := []
  /-- LAST_TIME (R217). -/
  lastTime    : BitVec 64 := 0
  offered     : Nat := 0
  served      : Nat := 0
  shed        : Nat := 0
  guardFails  : Nat := 0
  integrityFails : Nat := 0
  ringFull    : Nat := 0
  lengthErrors : Nat := 0
  lastBuffer  : Nat := 0
  lastStatus  : BitVec 16 := 0
  lastDetail  : BitVec 16 := 0
  /-- Device times of frames offered, served and shed within the last second (R217). -/
  recent      : List (BitVec 64 × Nat) := []
  /-- Keep count (R321): 256 means not thinned. -/
  keep        : Nat := 256
  /-- Phase n (R321). -/
  thinPhase   : Nat := 0
  /-- Demand offered since the last re-partition point, engine-µs (R320). -/
  demand      : Nat := 0
  /-- ARRIVAL_TIME of the previous fed frame (R466). -/
  lastFed     : Option (BitVec 64) := none
  deriving DecidableEq, Repr

/-! ## Links -/

/-- Where a training attempt stands (R181). -/
inductive Training where
  | idle
  | preamble
  /-- Sweeping preset `i`, with the best preset and error so far. -/
  | sweep (i : Nat) (best : Option (Nat × Nat))
  | dfe
  /-- GO sent, hunting for the sync word: exact matches so far. -/
  | lock (hits : Nat)
  /-- Locked, REG_READ 0x0000 outstanding. -/
  | identify
  deriving DecidableEq, Repr

/-- STATE of a Chroylink port (R186). -/
inductive ClState where
  | down | training | up | resync
  deriving DecidableEq, Repr

/-- A back-channel message sent and not yet acknowledged (R176 to R180). -/
structure BcMsg where
  msgNo : Nat
  type  : Nat
  body  : Bytes
  tries : Nat
  deriving DecidableEq, Repr

/-- A Chroylink port (R154 to R187). Every counter is 0 at reset (R186). -/
structure ClPort where
  state       : ClState := .down
  phase       : Training := .idle
  /-- The port's group window has opened (R86). -/
  started     : Bool := false
  inWindow    : Bool := false
  /-- The port has been UP since reset (R182). -/
  beenUp      : Bool := false
  /-- Settings in force (R184): sweep and adapt at reset. -/
  ctleFixed   : Bool := false
  dfeFreeze   : Bool := false
  ctlePreset  : BitVec 3 := 0
  /-- Preset in use. Reset 0 (log 5). -/
  preset      : BitVec 3 := 0
  /-- AGC code. Reset 0 (log 5). -/
  agc         : BitVec 7 := 0
  agcFrozen   : Bool := false
  /-- The coefficients of the DFE's six taps (R160, R161). -/
  taps        : Vector Int 6 := Vector.replicate 6 0
  /-- NOISE_FLOOR (R170). Reset 0 (log 5). -/
  noiseFloor  : BitVec 8 := 0
  /-- The running average of the slicer error's square, in 2^-64 of the square of full scale, times 4,080
  (R170). -/
  noiseAvg    : Nat := 0
  noiseValid  : Bool := false
  /-- NOISE_AGE (R171): 0xFFFF_FFFF from each training attempt until the first update, and from reset on
  (log 114). -/
  noiseAge    : Nat := 0xFFFFFFFF
  /-- Consecutive expected sync places with more than 3 bit errors (R166). -/
  badSyncs    : Nat := 0
  resyncHits  : Nat := 0
  bridgeId    : BitVec 32 := 0
  bridgePresent : Bool := false
  /-- MSG_NO of the next new message (R176). Reset 0 (log 6). -/
  nextMsg     : BitVec 4 := 0
  unacked     : List BcMsg := []
  /-- FRAME_COUNT of a frame in progress on a sub-stream without an open context (R174, R191). -/
  loose0      : Option (BitVec 32) := none
  loose1      : Option (BitVec 32) := none
  /-- Command waiting for the retrain of new settings (R185). -/
  retrainCmd  : Option Nat := none
  trainAttempts : Nat := 0
  blocks      : Nat := 0
  idleBlocks  : Nat := 0
  cwCorrected : Nat := 0
  symCorrected : Nat := 0
  cwUncorrectable : Nat := 0
  syncLosses  : Nat := 0
  retrains    : Nat := 0
  discarded   : Nat := 0
  malformed   : Nat := 0
  broken      : Nat := 0
  bcRetries   : Nat := 0
  lastUp      : BitVec 64 := 0
  deriving DecidableEq, Repr

/-- An Ethernet port (R198 to R201). -/
structure EthPort where
  up         : Bool := false
  /-- SPEED. Reset 0 (log 5). -/
  speed      : Nat := 0
  /-- MAC_ADDR, from the fuse block (log 3). -/
  mac        : BitVec 48 := 0
  linkDowns  : Nat := 0
  frames     : Nat := 0
  fcsErrors  : Nat := 0
  sumErrors  : Nat := 0
  discarded  : Nat := 0
  other      : Nat := 0
  broken     : Nat := 0
  gptp       : Nat := 0
  lastUp     : BitVec 64 := 0
  deriving DecidableEq, Repr

/-- A UART port (R202 to R207). -/
structure UartPort where
  enabled    : Bool := false
  dataBits   : Nat := 8
  parity     : Nat := 0
  stop       : Nat := 1
  baud       : Nat := 0
  chars      : Nat := 0
  framing    : Nat := 0
  parityErrs : Nat := 0
  falseStarts : Nat := 0
  breaks     : Nat := 0
  broken     : Nat := 0
  discarded  : Nat := 0
  /-- Characters without an open context since the last gap, counted as one frame (R207). -/
  loose      : Bool := false
  deriving DecidableEq, Repr

/-- STATE of a Drift port (R471). -/
inductive DriftState where
  | down | training | up | miswired
  deriving DecidableEq, Repr

/-- A Drift port (R455 to R460, R471). -/
structure DriftPort where
  enabled   : Bool := false
  state     : DriftState := .down
  /-- The four lanes have trained: packets pass (R455). -/
  lanes     : Bool := false
  nodeId    : Nat := 0
  topology  : Nat := 0
  xDim      : Nat := 0
  yDim      : Nat := 0
  neighbour : Nat := 0xFFFF
  /-- Packets not acknowledged, oldest first, with their LSEQ; the first 64 are sent (R456). -/
  txBuf     : List (BitVec 16 × Bytes) := []
  txSeq     : BitVec 16 := 0
  rxSeq     : BitVec 16 := 0
  /-- Consecutive retries of the oldest packet (R456). -/
  retryRun  : Nat := 0
  sent      : Nat := 0
  received  : Nat := 0
  crcErrors : Nat := 0
  retries   : Nat := 0
  dropped   : Nat := 0
  linkDowns : Nat := 0
  lastUp    : BitVec 64 := 0
  deriving DecidableEq, Repr

/-- A digest record held for matching (R469, R470). -/
structure Digest where
  mine    : Bool
  ctx     : Nat
  counter : BitVec 32
  valid   : Bool
  digest  : BitVec 32
  deriving DecidableEq, Repr

/-- Cross-checking (R468 to R471). -/
structure CrossCheck where
  port       : Option Port4 := none
  peer       : Nat := 0
  held       : List Digest := []
  matched    : Nat := 0
  mismatched : Nat := 0
  missing    : Nat := 0
  skipped    : Nat := 0
  deriving DecidableEq, Repr

/-! ## Lamp die -/

/-- CAN block (R419). -/
structure CanCfg where
  fd          : Bool := false
  autoRecover : Bool := false
  tdc         : Bool := false
  nbrp        : Nat := 1
  ntseg1      : Nat := 63
  ntseg2      : Nat := 16
  nsjw        : Nat := 16
  dbrp        : Nat := 0
  dtseg1      : Nat := 0
  dtseg2      : Nat := 0
  dsjw        : Nat := 0
  tdcOffset   : Nat := 0
  deriving DecidableEq, Repr

/-- CAN frame block (R421). -/
structure CanFrame where
  id       : BitVec 32 := 0
  dlc      : Nat := 0
  flags    : BitVec 8 := 0
  repeatMs : Nat := 0
  counterB : Nat := 0
  causeB   : Nat := 0
  crcB     : Nat := 0
  data     : Bytes := []
  deriving DecidableEq, Repr

/-- What is on the wire of a bus (R422, R424). -/
inductive OnWire where
  | idle
  | safe
  /-- The CAN_SEND frame of a command; withdrawn when its attempt ends if the flag is set. -/
  | frame (cmd : Nat) (f : CanFrame) (withdrawn : Bool)
  deriving DecidableEq, Repr

/-- A CAN controller (R418 to R427). -/
structure CanBus where
  /-- Normal mode; bus monitoring mode until 300 ms (R89). -/
  normal     : Bool := false
  /-- Transmission disabled by a LOSC failure (R50) or a failed signed configuration (R417). -/
  silenced   : Bool := false
  cfg        : CanCfg := {}
  message    : CanFrame := {}
  queue      : List (Nat × CanFrame) := []
  wire       : OnWire := .idle
  tec        : Nat := 0
  rec'       : Nat := 0
  passive    : Bool := false
  busOff     : Bool := false
  recovering : Bool := false
  /-- The safe message waits to be sent (R424). -/
  safePending : Bool := false
  /-- Alive counter (R425). Reset 0. -/
  alive      : BitVec 4 := 0
  deriving DecidableEq, Repr

/-- What the fuse block and the signed configuration hold (R71, R202, R417), written at manufacture:
values of one package (log 3). -/
structure Fixed where
  rackCode     : Bool := false
  fittedGib    : Nat := 1
  wdogHwStart  : Bool := false
  debugOff     : Bool := false
  deviceUid    : BitVec 64 := 0
  /-- Hashes of the fused graph-signing keys, at most four (R247). -/
  graphKeys    : List Nat := [0]
  rollback     : Nat := 0
  macs         : Vector (BitVec 48) 4 := Vector.replicate 4 0
  safetyBus    : BusId := 0
  canDefault   : Vector CanCfg 2 := Vector.replicate 2 {}
  msgDefault   : Vector CanFrame 2 := Vector.replicate 2 {}
  deriving DecidableEq, Repr

/-- Service or key error on its way to the lamp die (R401, R410). -/
inductive Service where
  | service
  | keyError
  deriving DecidableEq, Repr

/-- State of a watchdog (R401). -/
inductive WdogState where
  | stopped | running | warned | waiting
  deriving DecidableEq, Repr

/-- Clock, window and period of a watchdog (R408). -/
structure WdogCfg where
  /-- CLOCK: 0 NOSC, 1 PCLK. -/
  clock    : Nat := 0
  /-- WINDOW: 0 25 %, 1 50 %, 2 75 %. Reset 1. -/
  window   : Nat := 1
  /-- PERIOD_US. Reset 2,000,000. -/
  periodUs : Nat := 2000000
  deriving DecidableEq, Repr

/-- A windowed watchdog (R400 to R415). -/
structure Wdog where
  state     : WdogState := .stopped
  cfg       : WdogCfg := {}
  /-- Configuration that waits for the next valid service or restart (R408). -/
  next      : Option WdogCfg := none
  /-- Started by the fuse (HW_START). -/
  hwStart   : Bool := false
  woke      : Bool := false
  /-- On the fallback clock LOSC ÷ 40 (R405). -/
  fallback  : Bool := false
  /-- Tick of the period at which the last service was judged (R401, log 8). -/
  lastTick  : Nat := 0
  /-- Services and key errors that have crossed the lamp seam and are to be judged, oldest first. -/
  inbound   : List Service := []
  early     : Nat := 0
  keyErrors : Nat := 0
  failures  : Nat := 0
  deriving DecidableEq, Repr

/-- Messages waiting to cross the lamp seam (R27). A command that the lamp die carries out is named by its
number. -/
inductive SeamMsg where
  /-- The sender entered the safe state, with the cause code for R425. -/
  | safeRequest (cause : Nat)
  | timerStart (source : Nat)
  | timerStop (source : Nat)
  | record (source : Nat) (event : Ev) (owner : Option FnId) (time : BitVec 64) (injected : Bool)
      (stays : Bool)
  /-- A host watchdog's final failure resets its channel (R404). -/
  | channelReset (p : HostPort)
  | bootComplete
  | heartbeat
  /-- A service or key error of a watchdog (R401, R410). -/
  | service (w : WdogId) (x : Service)
  | canSend (cmd : Nat)
  | safeMessage (cmd : Nat)
  | canConfig (cmd : Nat)
  | wdogConfig (cmd : Nat)
  deriving DecidableEq, Repr

/-- One side's view of the lamp seam (R27, R28). -/
structure SeamSide where
  /-- A valid heartbeat has arrived in this interval. -/
  heard   : Bool := false
  missed  : Nat := 0
  badCrc  : Nat := 0
  crcErrors : Nat := 0
  lost    : Bool := false
  deriving DecidableEq, Repr

/-- The lamp die beside its watchdogs and controllers. -/
structure Lamp where
  /-- The lamp die runs from LOSC (R45); from NOSC at reset. -/
  onLosc      : Bool := false
  booted      : Bool := false
  /-- The lamp seam is up (R68). -/
  seamUp      : Bool := false
  /-- The signed configuration verified (R417). -/
  configOk    : Bool := true
  /-- BOOT_COMPLETE received over the lamp seam by 1,000 ms (R70). -/
  gotBoot     : Bool := false
  /-- 1,000 ms have passed without it (R70). -/
  timedOut    : Bool := false
  /-- The lamp die is in the safe state (R28, R396). -/
  safe        : Bool := false
  /-- The lamp-core pair halted (R360). -/
  halted      : Bool := false
  /-- Cause inserted in the safe message: the first the lamp die acted on (R425). -/
  cause       : Option Nat := none
  /-- The lamp watchdog failed finally; its reset is due (R403). -/
  resetDue    : Bool := false
  noscTripped : Bool := false
  /-- NOSC stopped in Night: the lamp die waits for a whole-device reset (R437). -/
  noscStopped : Bool := false
  loscTripped : Bool := false
  /-- Shadow timers by source (R392). -/
  shadows     : List Nat := []
  /-- Voltage monitors armed (R430). -/
  armed       : Bool := false
  /-- A rail crossing in Night left the die deaf to wake events (R437). -/
  deaf        : Bool := false
  rootSide    : SeamSide := {}
  lampSide    : SeamSide := {}
  toLamp      : List SeamMsg := []
  toRoot      : List SeamMsg := []
  deriving DecidableEq, Repr

/-! ## Clocks, boot, power -/

/-- Source of device time (R56). -/
inductive TimeSource where
  | free
  | host
  | gptp (p : Port4)
  deriving DecidableEq, Repr

/-- Servo state (R59, R61). -/
inductive Servo where
  | free | acquiring | locked | holdover
  deriving DecidableEq, Repr

/-- A slew in progress (R58, R60): the correction in force before it, and the part of the offset not
yet added, in 2^-32 ns. -/
structure Slew where
  prev : Int
  left : Nat
  deriving DecidableEq, Repr

/-- Clocks and device time (R37 to R63). -/
structure Clocks where
  rootLocked : Bool := false
  /-- The root PLL lost lock after locking: only a whole-device reset starts the clocks again (R52). -/
  lost       : Bool := false
  /-- ICLK cycles since lock. -/
  iclk       : Nat := 0
  /-- ICLK cycles since lock that passed in Run (R373). -/
  runCycles  : Nat := 0
  /-- Device time, integer part in ns (R53). -/
  time       : BitVec 64 := 0
  /-- Device time, fraction in 2^-32 ns. -/
  frac       : BitVec 32 := 0
  /-- Correction of INCREMENT in force, 2^-32 ns per cycle (R55). -/
  corr       : Int := 0
  source     : TimeSource := .free
  slew       : Option Slew := none
  servo      : Servo := .free
  /-- Last measured offset from the grandmaster in ns (R61). -/
  offset     : Int := 0
  /-- The servo has acquired since gPTP was selected (R60). -/
  acquired   : Bool := false
  /-- Consecutive Sync messages within ±1 µs (R59). -/
  goodSyncs  : Nat := 0
  /-- Measured peer delay in ns (R59). -/
  peerDelay  : Nat := 0
  deriving DecidableEq, Repr

/-- RESET_CAUSE (R85). -/
inductive ResetCause where
  | porst | sysreset | lampWatchdog | night
  deriving DecidableEq, Repr

/-- Start-up and the pins (R64 to R90, R472, R473, R485). -/
structure Boot where
  porstLow     : Bool := false
  sysresetLow  : Bool := false
  cause        : ResetCause := .porst
  testMode     : Bool := false
  trainingOpen : Bool := false
  /-- Checkers injected since the start, and those that have failed, each once (R361, R374). -/
  injected     : List Checker := []
  injectFailed : List Checker := []
  /-- Checkers that passed, and those that failed, in the test that counts (R69, R73, R77). -/
  passed       : List Checker := []
  failing      : List Checker := []
  firmware     : Option (Fin 2) := none
  fallbackSlot : Bool := false
  /-- The recovery service runs (R72). -/
  recovery     : Bool := false
  memTrained   : Bool := false
  /-- The patrol scrub's position: the unit of channel offset that it reads next, on all channels (R229).
  Reset 0. -/
  scrub        : Nat := 0
  memReduced   : Bool := false
  /-- MEM_MIB as fitted and trained (R34). -/
  memMib       : Nat := 0
  configReady  : Bool := false
  macsUp       : Bool := false
  canNormal    : Bool := false
  groupsClosed : Nat := 0
  /-- Every group's window closed: bit g (R69). -/
  closedMask   : BitVec 6 := 0
  complete     : Bool := false
  /-- First boot-failure cause (R74, R85). -/
  failCause    : Option Nat := none
  deriving DecidableEq, Repr

/-- A firmware slot of the flash (R71, R147): whether an image there would pass its signature, its
rollback index and version, and whether FIRMWARE_STAGE verified it since the last reset. -/
structure FlashSlot where
  signed   : Bool := false
  rollback : Nat := 0
  version  : BitVec 32 := 0
  staged   : Bool := false
  deriving DecidableEq, Repr

/-- The flash: two slots and the selector (R71); both slots hold the delivered firmware (log 3). -/
structure Flash where
  slots    : Vector FlashSlot 2 := Vector.replicate 2 { signed := true }
  selected : Fin 2 := 0
  deriving DecidableEq, Repr

/-- The package power states (R432). -/
inductive Power where
  | run | doze | night
  deriving DecidableEq, Repr

/-- The power manager (R432 to R441). -/
structure PowerMgr where
  state      : Power := .run
  /-- POWER_STATE Doze completed; ECLK not yet stopped (R434). -/
  dozeDue    : Bool := false
  /-- POWER_STATE Night completed; entry under way (R435). -/
  nightDue   : Bool := false
  /-- A wake event came while Night was being entered: it takes effect in Night (R436). -/
  wakeDue    : Option WakeCause := none
  /-- ECLK of every engine stopped (R432). -/
  eclkStopped : Bool := false
  packageMw  : Nat := 0
  /-- EXCURSION_US (R440). Reset 10,000. -/
  excursionUs : Nat := 10000
  /-- Consecutive intervals at or below the budget since the allowance ended (R440). -/
  quiet      : Nat := 0
  deriving DecidableEq, Repr

/-! ## Scions and engines -/

/-- Whether a scion serves (R77, R446). -/
inductive ScionState where
  | untested | joined | fenced | excluded | restoring
  deriving DecidableEq, Repr

/-- A scion: seam monitor, dividers, sensors (R17 to R25, R42, R439 to R450). -/
structure Scion where
  state       : ScionState := .untested
  /-- Start-up tests failed so far (R77). -/
  failures    : Nat := 0
  /-- Excluded under R77 and not rejoined since: its bit of the boot report (R85). -/
  excluded    : Bool := false
  /-- Consecutive failed transfers towards the rootstock (R23, R24). -/
  failsIn     : Nat := 0
  /-- Consecutive failed transfers towards the scion (R23, R24). -/
  failsOut    : Nat := 0
  missed      : Nat := 0
  retries     : Nat := 0
  footprintDiv : Nat := 4
  /-- Samples in a row with the footprint maximum at least 3 °C below the threshold of the step (R444). -/
  cool        : Nat := 0
  budgetDiv   : Nat := 4
  /-- ECLK divider in force (R42). -/
  eclkDiv     : Nat := 4
  grantMw     : Nat := 0
  noGrant     : Nat := 0
  /-- Setpoint of its rail VDD_SCn in mV (R476): a regulator starts at 0.80 V. -/
  setpointMv  : Nat := 800
  throttleSteps : Nat := 0
  /-- A joined scion whose retired engine is restored waits for its running tiles (R451). -/
  withdrawing : Bool := false
  deriving DecidableEq, Repr

/-- A tile at work on an engine: its run and its number in the run's grid. -/
structure TileAt where
  run   : Nat
  tile  : Nat
  /-- Device time at which it started (R309, R311). -/
  start : BitVec 64
  /-- A line that it loaded failed (R228, R338). -/
  bad   : Bool
  deriving DecidableEq, Repr

/-- A part of a tensor in a bench: the tensor, the offset of its first byte in the tensor, its bytes. For a
request, 0 stands for the queries and p + 1 for the row of position p. -/
structure BenchPart where
  id    : Nat
  off   : Nat
  bytes : Bytes
  deriving DecidableEq, Repr

/-- What lies in an engine's bench (R238, R239, R243): the function whose data it is, and the operands that the
load generators brought for the tile. -/
structure Bench where
  fn    : Option FnId := none
  parts : List BenchPart := []
  deriving DecidableEq, Repr

/-- State of an engine in the selftest record (R374). -/
inductive EngineState where
  | inPool | underTest | withdrawn | retired
  deriving DecidableEq, Repr

/-- An engine (R20, R239, R364 to R374). -/
structure Engine where
  state      : EngineState := .inPool
  /-- The crew's port (R312); none outside every crew. -/
  crew       : Option HostPort := none
  tile       : Option TileAt := none
  /-- A slice runs on it (R364), since this device time. -/
  slice      : Bool := false
  sliceAt    : BitVec 64 := 0
  slicesDone : Nat := 0
  aborts     : Nat := 0
  /-- The run for which its slice was aborted (R368): a withdrawn engine runs that run's tiles. -/
  abortFor   : Option Nat := none
  /-- The ICLK cycles in Run at the end of the last completed test: AGE_MS counts from there (R373). -/
  testAt     : Nat := 0
  /-- DIAG_INTERVAL_MS that governs its current test (R355). -/
  diagMs     : Nat := 1000
  unchecked  : Nat := 0
  bench      : Bench := {}
  deriving DecidableEq, Repr

/-! ## The Foreman -/

/-- A reservation (R306, R309): number, holder, amount last set, amount in force this shift, engine-µs
charged against it in this shift, and whether SAFETY_OVERLOAD was raised in it (R310). -/
structure Reservation where
  num     : Nat
  fn      : FnId
  amount  : Nat
  inForce : Nat
  spent   : Nat
  raised  : Bool
  deriving DecidableEq, Repr

/-- What a run belongs to (R314). -/
inductive RunKind where
  | job (cmd : Nat)
  | attend (cmd : Nat)
  | bound (ctx : CtxId) (buffer : Nat) (counter : BitVec 32) (stamp : BitVec 64)
  deriving DecidableEq, Repr

/-- An ATTEND request as checked (R298). -/
structure AttendReq where
  handle   : Nat
  endPos   : Nat
  kvLen    : Nat
  qlen     : Nat
  qPerKv   : Nat
  causal   : Bool
  outFmt   : Fmt
  outMode  : RMode
  qpos     : Nat
  scoreScale : BitVec 32
  vScale   : BitVec 32
  outInv   : BitVec 32
  qVa      : Nat
  outVa    : Nat
  outZp    : Int
  deriving DecidableEq, Repr

/-- A tensor bound to memory: TENSOR_ID, virtual address (R145, R146). -/
structure Bound where
  tensor : Nat
  va     : Nat
  deriving DecidableEq, Repr

/-- An admitted run (R314 to R317, R347, R448). `values` holds the bytes of those of its tensors for which the
yard has no room and which stay in the benches. -/
structure Run where
  id          : Nat
  kind        : RunKind
  fn          : FnId
  cls         : Nat
  deadline    : BitVec 64
  reservation : Nat
  replayable  : Bool
  handle      : Nat
  image       : GraphImage
  reqs        : List AttendReq
  binds       : List Bound
  values      : List (Nat × Bytes)
  /-- Cycles of each tile in order (R311). -/
  tiles       : List Nat
  /-- Tiles ended, tiles at work. -/
  done        : List Nat
  working     : List Nat
  begun       : Bool
  /-- Admitted: false only for a run that waits for its record in replay mode (R463). -/
  admitted    : Bool
  /-- Its tiles may start: in replay mode its PLACE record has been applied (R463). -/
  cleared     : Bool
  /-- The first integrity failure: its device time and DETAIL (R338, R347). -/
  failed      : Option (BitVec 64 × BitVec 16)
  /-- Scions lost during the run (R448). -/
  lost        : BitVec 4
  /-- Engines used and lowest engine of its PLACE record in replay mode (R330, R463). -/
  place       : Option (Nat × Nat) := none
  /-- It completes with DIE_LOST: the device time of the loss (R338, R448). -/
  dieLost     : Option (BitVec 64)
  cancelled   : Option (BitVec 16)
  /-- ENTRY of its ADMIT record (R327). -/
  entry       : BitVec 32
  /-- Sources that have raised an event for this run (R348). -/
  raised      : List Nat
  /-- Its uncalibrated time at the steps in force at admission, in 1/4,718,592 ns (R315). -/
  base        : Nat
  predictedUs : Nat
  usedUs      : Nat
  /-- Shift that admitted it (R309). -/
  shift       : BitVec 32
  subject     : BitVec 32
  deriving DecidableEq, Repr

/-- A decision-log record's kind and body (R329). -/
inductive LogBody where
  | shift (num : BitVec 32) (usable reservations : Nat)
  | repartition (num : BitVec 32) (cause crews : Nat) (joined : BitVec 4)
  | admission (subject : BitVec 32) (ctx crew reservation predictedUs : Nat)
  | shed (subject : BitVec 32) (ctx reason lateUs : Nat)
  | place (subject : BitVec 32) (ctx crew engines lowest : Nat)
  | thin (num : BitVec 32) (ctx cls keep phase : Nat)
  | kv (length start status recycled : Nat)
  deriving DecidableEq, Repr

/-- A decision-log record (R328). -/
structure LogRec where
  entry : BitVec 32
  cls   : Nat
  fn    : Option FnId
  time  : BitVec 64
  body  : LogBody
  deriving DecidableEq, Repr

/-- Safety configuration (R355) with the value that waits for the shift boundary. -/
structure SafetyCfg where
  frameUs    : Nat := 33333
  nextFrame  : Option Nat := none
  reactionUs : Nat := 5000
  diagMs     : Nat := 1000
  maintenance : Bool := false
  deriving DecidableEq, Repr

/-- REPLAY_STATE (R471). -/
inductive ReplayState where
  | off | armed | collecting | broken
  deriving DecidableEq, Repr

/-- Replay and collection (R461 to R466). -/
structure Replay where
  state  : ReplayState := .off
  /-- Records loaded and not yet applied, as 32-byte images. -/
  log    : List Bytes := []
  /-- Next ENTRY to apply or to mirror (REPLAY_ENTRY). -/
  entry  : BitVec 32 := 0
  /-- ENTRY that must follow the last record loaded. -/
  follow : BitVec 32 := 0
  /-- Bytes of log held in the reserve. -/
  loaded : Nat := 0
  fn     : FnId := 0
  base   : Nat := 0
  size   : Nat := 0
  /-- Records mirrored so far. -/
  count  : Nat := 0
  /-- KV_SCATTERs that a check at take has stopped while replay is armed, with their status: their KV records
  are still to come (R292, R329; log 123). -/
  stopped : List (FnId × BitVec 16) := []
  /-- Device time at which the next record became the next (R464). -/
  frontAt : BitVec 64 := 0
  deriving DecidableEq, Repr

/-- The Foreman (R304 to R330). -/
structure Foreman where
  /-- Shift number (R304). -/
  shift       : BitVec 32 := 0
  /-- Usable capacity of the shift, engine-µs (R305). -/
  usable      : Nat := 0
  /-- ENGINE_PARTS_A, MEM_PARTS_A, STREAMS_A in force (R95). -/
  enginesA    : Nat := 32
  memA        : Nat := 32
  streamsA    : Nat := 24
  /-- An agreed split that takes effect at the next boundary (R97). -/
  agreed      : Option (Nat × Nat × Nat) := none
  safety      : SafetyCfg := {}
  reservations : List Reservation := []
  /-- Reservations changed since the last boundary, by port (R313). -/
  resChanged  : Bool := false
  /-- ICLK cycles from the last re-partition to the start of the shift (R304, R313). -/
  since       : Nat := 0
  /-- ICLK cycles since lock at the start of the shift (R304). -/
  shiftAt     : Nat := 0
  /-- ICLK cycles of the shift that passed before a re-partition within it (R313). -/
  partAt      : Nat := 0
  /-- A scion was fenced or rejoined at the instant of a boundary that is due: the boundary's re-partition serves
  it (R313). -/
  partDue     : Bool := false
  /-- Shifts begun since the last re-partition point (R320). -/
  shiftsSince : Nat := 0
  /-- Demand of JOB_SUBMIT and ATTEND by class since the last point: index 3 × port + class. -/
  jobDemand   : List Nat := [0, 0, 0, 0, 0, 0]
  /-- Demand of bound frames since the last point, whatever has become of their stream: the same index (R320). -/
  streamDemand : List Nat := [0, 0, 0, 0, 0, 0]
  /-- Thinning engaged, classes 0 and 1 (R320). -/
  thin0       : Bool := false
  thin1       : Bool := false
  runs        : List Run := []
  nextRun     : Nat := 1
  /-- ENTRY of the next record (R327). Reset 0. -/
  nextEntry   : BitVec 32 := 0
  /-- The log ring, newest first. -/
  log         : List LogRec := []
  /-- The port whose turn is next (R84): Port A after every whole-device reset. -/
  portTurn    : HostPort := .a
  taken       : List Cmd := []
  nextCmd     : Nat := 1
  f0Halted    : Bool := false
  f1Halted    : Bool := false
  replay      : Replay := {}
  /-- The scion being restored and the DIE_RESTORE command (R451). -/
  restoring   : Option (ScionId × Nat) := none
  debugChallenge : Option (BitVec 64) := none
  slicesPassed : Nat := 0
  slicesAborted : Nat := 0
  deriving DecidableEq, Repr

/-- The IEEE 802.1AS messages of the device (R59): its peer-delay request and response, and what it
announces of itself. -/
inductive GptpOut where
  | delayRequest
  | delayResponse
  | announce (priority1 : Nat) (grandmasterCapable : Bool)
  deriving DecidableEq, Repr

/-- What the device sends out: its effect on the hosts, the vehicle and the links, newest first in
`State.sent` (the model's own record, log 2). -/
inductive Sent where
  /-- A posted write to host memory on behalf of a function (R93, R112, R235). -/
  | hostWrite (f : FnId) (addr : Nat) (bytes : Bytes)
  /-- A read request to host memory on behalf of a function (R93, R235). -/
  | hostRead (f : FnId) (addr len : Nat)
  /-- A Target Rail Voltage write over AVSBus: rail select, mV (R476). -/
  | avsWrite (rail mv : Nat)
  /-- An MSI-X message (R114). -/
  | msix (f : FnId) (vector : Nat)
  /-- AER report through the PF (R118, R236). -/
  | aer (p : HostPort)
  /-- Answer to a configuration request: Retry Status, or a normal completion (R78). -/
  | config (p : HostPort) (retry : Bool)
  /-- A back-channel message with the fill before it: the line's level in each half of a bit (R176). -/
  | backChannel (p : ClPortId) (line : List Bool)
  /-- A CAN frame starts on the wire: data with its insertions (R424, R425). -/
  | can (b : BusId) (safe : Bool) (data : Bytes)
  /-- A Drift packet (R455). -/
  | drift (p : Port4) (bytes : Bytes)
  /-- An IEEE 802.1AS message (R59). -/
  | gptp (p : Port4) (m : GptpOut)
  deriving DecidableEq, Repr

/-- The whole device, with the queue of commands that wait. -/
structure State where
  fixed   : Fixed := {}
  flash   : Flash := {}
  boot    : Boot := {}
  clk     : Clocks := {}
  /-- The rootstock, the lamp die drive the SAFE pins low (R29). -/
  rootDrivesLow : Bool := false
  lampDrivesLow : Bool := false
  /-- The rootstock is in the safe state: the result gate is closed (R396). -/
  safe    : Bool := false
  /-- The safe state was entered after BOOT_COMPLETE (R85). -/
  postBoot : Bool := false
  fns     : Vector Fn 128 := Vector.replicate 128 {}
  portA   : PciePort := {}
  portB   : PciePort := {}
  fore    : Foreman := {}
  fcu     : Fcu := {}
  mem     : Memory := {}
  yard    : Yard := {}
  streams : Vector Stream 48 := Vector.replicate 48 {}
  cl      : Vector ClPort 24 := Vector.replicate 24 {}
  eth     : Vector EthPort 4 := Vector.replicate 4 {}
  uart    : Vector UartPort 4 := Vector.replicate 4 {}
  drift   : Vector DriftPort 4 := Vector.replicate 4 {}
  xc      : CrossCheck := {}
  lamp    : Lamp := {}
  /-- AUTO_RECOVER is 1 on the safety bus, bus 0 at manufacture (R417, log 3). -/
  can     : Vector CanBus 2 := #v[{ cfg := { autoRecover := true } }, {}]
  wdog    : Vector Wdog 3 := Vector.replicate 3 {}
  power   : PowerMgr := {}
  scions  : Vector Scion 4 := Vector.replicate 4 {}
  engines : Vector Engine 64 := Vector.replicate 64 {}
  /-- Last readings of the 16 footprint sensors and the 64 die sensors, 1/8 °C (R442). Reset 0 (log 5). -/
  footprint : List Int := List.replicate 16 0
  dieTemp : List Int := List.replicate 64 0
  /-- Draws made so far: the argument of the free values (the model's own, log 7). -/
  draws   : Nat := 0
  /-- What the device has sent, newest first (the model's own, log 2). -/
  sent    : List Sent := []
  /-- The commands that wait, first in first out. -/
  pending : List Instr := []
  deriving DecidableEq, Repr

/-- Reasons for a fault. None of the block's commands ends in one: a fault of the hardware is an
event that the FCU records (R379). -/
inductive Fault where
  /-- Raised by `exec` for a command that is not well formed: an operand of a size that no event of
  the device can have (a submission entry that is not 64 bytes). Safe: the device never sees it. -/
  | illFormed
  deriving DecidableEq, Repr

/-- Reasons for a refusal. -/
inductive Refusal where
  /-- Raised by `exec` for a row that has no meaning yet. Safe: nothing is claimed of it. -/
  | notModelled (mnemonic : String)
  deriving DecidableEq, Repr

/-- The machine right after reset: PORST_N has just been deasserted, time zero of a cold start. -/
def State.reset : State := {}

end Sys2Proof.Machine
end

