-- ==== Sys2Proof/Machine/Tables.lean ====
section
/-!
DEFINITION. The manual's tables: status codes (R150), events with tiers, thresholds and remedies
(R376 to R378), opcodes with their marks (R141), DLC lengths (R421), number formats (R265).
-/

namespace Sys2Proof.Machine

/-! ## Status codes (R150) -/

def stOk : BitVec 16 := 0x0000
def stDegraded : BitVec 16 := 0x0001
def stBadOpcode : BitVec 16 := 0x0100
def stBadParam : BitVec 16 := 0x0101
def stBadGraft : BitVec 16 := 0x0102
def stNotPermitted : BitVec 16 := 0x0103
def stNoResource : BitVec 16 := 0x0104
def stBusy : BitVec 16 := 0x0105
def stBooting : BitVec 16 := 0x0106
def stStreamDown : BitVec 16 := 0x0200
def stFrozen : BitVec 16 := 0x0201
def stShed : BitVec 16 := 0x0300
def stMissed : BitVec 16 := 0x0301
def stDieLost : BitVec 16 := 0x0302
def stCancelled : BitVec 16 := 0x0303
def stIntegrity : BitVec 16 := 0x0304
def stKvNoPage : BitVec 16 := 0x0400
def stKvFull : BitVec 16 := 0x0401
def stSafe : BitVec 16 := 0x0500
def stFaultPending : BitVec 16 := 0x0501
def stThermal : BitVec 16 := 0x0600

/-! ## Events (R377) -/

/-- The 6-bit event codes. -/
def Ev.code : Ev → Nat
  | .lockstepMismatch => 0x01 | .clockMonitor => 0x02 | .lampSeamLost => 0x03
  | .scionLost => 0x04 | .seamRetry => 0x05 | .graftMismatch => 0x06 | .abftMismatch => 0x07
  | .eccCe => 0x08 | .eccUe => 0x09 | .frameFrozen => 0x0A | .frameRepeated => 0x0B
  | .frameLate => 0x0C | .tallyMismatch => 0x0D | .linkUncorrectable => 0x0E
  | .selftestFail => 0x0F | .selftestStarved => 0x10 | .safetyOverload => 0x11
  | .thermalFootprint => 0x12 | .thermalTrip => 0x13 | .canErrorPassive => 0x14
  | .canBusOff => 0x15 | .wdogWarn => 0x16 | .hostLossA => 0x17 | .hostLossB => 0x18
  | .bootInjectFail => 0x19 | .crosscheckMismatch => 0x1A | .voltageMonitor => 0x1B
  | .bootTimeout => 0x1C | .externalFault => 0x1D | .reactionExpired => 0x1E

/-- All events in code order. -/
def allEvents : List Ev :=
  [.lockstepMismatch, .clockMonitor, .lampSeamLost, .scionLost, .seamRetry, .graftMismatch,
   .abftMismatch, .eccCe, .eccUe, .frameFrozen, .frameRepeated, .frameLate, .tallyMismatch,
   .linkUncorrectable, .selftestFail, .selftestStarved, .safetyOverload, .thermalFootprint,
   .thermalTrip, .canErrorPassive, .canBusOff, .wdogWarn, .hostLossA, .hostLossB, .bootInjectFail,
   .crosscheckMismatch, .voltageMonitor, .bootTimeout, .externalFault, .reactionExpired]

/-- The event of a code; reserved codes have none. -/
def evOfCode (c : Nat) : Option Ev := allEvents.find? (fun e => Ev.code e == c)

/-- Promotable events: default N and W in µs. -/
def promotion : Ev → Option (Nat × Nat)
  | .graftMismatch => some (2, 1000000) | .abftMismatch => some (2, 1000000)
  | .eccCe => some (16, 1000000)
  | .frameFrozen => some (2, 200000) | .frameRepeated => some (2, 200000)
  | .frameLate => some (2, 200000) | .tallyMismatch => some (2, 200000)
  | .linkUncorrectable => some (4, 1000000) | .crosscheckMismatch => some (1, 1000000)
  | _ => none

/-- Base tier of an event from a source: 0 Note, 1 Alert, 2 Severe, 3 Fatal. SCION_LOST,
SELFTEST_FAIL and BOOT_INJECT_FAIL are given their tier where they are raised. -/
def baseTier (source : Nat) : Ev → Nat
  | .lockstepMismatch => 3
  | .clockMonitor =>
    if source = 0x502 ∨ (0x518 ≤ source ∧ source ≤ 0x51A) then 2 else 3
  | .lampSeamLost => 3 | .scionLost => 1 | .seamRetry => 0
  | .graftMismatch => 1 | .abftMismatch => 1 | .eccCe => 1 | .eccUe => 2
  | .frameFrozen => 1 | .frameRepeated => 1 | .frameLate => 1 | .tallyMismatch => 1
  | .linkUncorrectable => 1 | .selftestFail => 2 | .selftestStarved => 1
  | .safetyOverload => 2 | .thermalFootprint => 2 | .thermalTrip => 3
  | .canErrorPassive => 1 | .canBusOff => 2 | .wdogWarn => 1
  | .hostLossA => 2 | .hostLossB => 2 | .bootInjectFail => 3 | .crosscheckMismatch => 1
  | .voltageMonitor => 3 | .bootTimeout => 3 | .externalFault => 3 | .reactionExpired => 3

/-- Further remedies of an event, beside RESULTS_DISCARDED. -/
def furtherRemedies : Ev → List Nat
  | .clockMonitor => [0x000A] | .scionLost => [0x0005] | .eccCe => [0x0006] | .eccUe => [0x0006]
  | .frameFrozen => [0x0002, 0x0003] | .frameRepeated => [0x0002, 0x0003]
  | .frameLate => [0x0002, 0x0003] | .tallyMismatch => [0x0002, 0x0003]
  | .linkUncorrectable => [0x0002, 0x0003] | .selftestFail => [0x0005]
  | .safetyOverload => [0x0004] | .thermalFootprint => [0x0005] | .canBusOff => [0x0007]
  | .hostLossA => [0x0008] | .hostLossB => [0x0008]
  | _ => []

/-- A remedy is valid for a record (R377): NOTED for one outside every episode, else
RESULTS_DISCARDED and the event's own. -/
def remedyValid (r : Rec) (remedy : Nat) : Bool :=
  if r.episode.isNone then remedy == 0
  else remedy == 1 || (furtherRemedies r.event).contains remedy

/-! ## Sources (R376) -/

/-- The events that a source of the T64 raises; none for a reserved ID. -/
def sourceEvents (src : Nat) : List Ev :=
  let within (lo hi : Nat) : Bool := lo ≤ src && src ≤ hi
  if src = 0x001 ∨ src = 0x002 then [.clockMonitor]
  else if src = 0x003 then [.lampSeamLost]
  else if within 0x008 0x00B then [.scionLost, .seamRetry]
  else if within 0x010 0x011 then [.lockstepMismatch]
  else if within 0x020 0x037 || within 0x040 0x043 then [.eccCe, .eccUe]
  else if within 0x060 0x07C || within 0x080 0x081 then [.graftMismatch]
  else if within 0x090 0x091 then [.safetyOverload]
  else if within 0x0A0 0x0AF then [.thermalFootprint, .thermalTrip]
  else if within 0x100 0x4FF then
    let o := src % 256
    if 0x20 ≤ o ∧ o ≤ 0x2F then [.eccCe, .eccUe]
    else if 0x40 ≤ o ∧ o ≤ 0x4F then [.graftMismatch]
    else if 0x50 ≤ o ∧ o ≤ 0x5F then [.abftMismatch]
    else if 0x60 ≤ o ∧ o ≤ 0x6F then [.graftMismatch]
    else if 0x70 ≤ o ∧ o ≤ 0x7F then [.selftestFail, .selftestStarved]
    else if 0x80 ≤ o ∧ o ≤ 0x8F then [.thermalFootprint, .thermalTrip]
    else []
  else if src = 0x500 then [.lockstepMismatch]
  else if within 0x501 0x503 then [.clockMonitor]
  else if src = 0x504 then [.lampSeamLost]
  else if src = 0x505 then [.bootTimeout]
  else if src = 0x506 then [.externalFault]
  else if src = 0x510 then [.wdogWarn]
  else if src = 0x511 then [.wdogWarn, .hostLossA]
  else if src = 0x512 then [.wdogWarn, .hostLossB]
  else if within 0x518 0x51A then [.clockMonitor]
  else if within 0x520 0x529 then [.voltageMonitor]
  else if within 0x600 0x62F then [.frameFrozen, .frameRepeated, .frameLate, .tallyMismatch]
  else if within 0x640 0x657 then [.linkUncorrectable]
  else if within 0x660 0x663 then [.crosscheckMismatch]
  else if within 0x670 0x671 then [.canErrorPassive, .canBusOff]
  else []

/-- A source on the lamp die whose records cross the lamp seam (R380). -/
def lampSource (src : Nat) : Bool := 0x500 ≤ src && src ≤ 0x5FF

/-- The DIE field of a source (R386): the CAN controllers sit on the lamp die (R17, log 14). -/
def dieOf (src : Nat) : BitVec 3 :=
  if 0x100 ≤ src ∧ src ≤ 0x4FF then BitVec.ofNat 3 (src / 256)
  else if lampSource src then 5
  else if src = 0x670 ∨ src = 0x671 then 5
  else 0

/-- The source raises a promotable event (R388). -/
def sourcePromotable (src : Nat) : Bool := (sourceEvents src).any (fun e => (promotion e).isSome)

/-- The die of a checker (R361). -/
def checkerDie : Checker → Die
  | .lampLockstep | .lampWatchdog _ | .lampClock _ | .lampVoltage _ | .lampSeam => .lamp
  | .benchEcc e | .graft4 e | .abft e | .shadow e | .parity6 e | .dieSensor e =>
    .scion (Fin.ofNat 4 (e.val / 16))
  | .seamMonitorScion n | .clockReceiver n => .scion n
  | _ => .rootstock

/-- The source of a checker (R348, R376). The table gives none to a scion's own seam monitor and clock
receiver: they take the source of the seam monitor (DESIGN CHOICE, log 107). -/
def checkerSource : Checker → Nat
  | .lampLockstep => 0x500
  | .lampWatchdog w => 0x510 + w.val
  | .lampClock i => 0x501 + i.val
  | .lampVoltage rail => 0x520 + rail.val
  | .lampSeam => 0x504
  | .memoryEcc c => 0x020 + c.val
  | .yardEcc n => 0x040 + n.val
  | .graft i => if i.val < 29 then 0x060 + i.val else 0x080 + (i.val - 29)
  | .seamMonitor n | .seamMonitorScion n | .clockReceiver n => 0x008 + n.val
  | .loscByPclk => 0x002
  | .foremanLockstep i => 0x010 + i.val
  | .lampSeamRoot => 0x003
  | .footprintSensor i => 0x0A0 + i.val
  | .benchEcc e => 0x100 * (1 + e.val / 16) + 0x20 + e.val % 16
  | .graft4 e => 0x100 * (1 + e.val / 16) + 0x40 + e.val % 16
  | .abft e | .shadow e => 0x100 * (1 + e.val / 16) + 0x50 + e.val % 16
  | .parity6 e => 0x100 * (1 + e.val / 16) + 0x60 + e.val % 16
  | .dieSensor e => 0x100 * (1 + e.val / 16) + 0x80 + e.val % 16

/-- The 18 checkers of the lamp die and the 83 of the rootstock (R361). -/
def dieCheckers : List Checker :=
  [.lampLockstep, .lampSeam, .loscByPclk, .lampSeamRoot]
    ++ (List.finRange 3).map .lampWatchdog ++ (List.finRange 3).map .lampClock
    ++ (List.finRange 10).map .lampVoltage ++ (List.finRange 24).map .memoryEcc
    ++ (List.finRange 4).map .yardEcc ++ (List.finRange 31).map .graft
    ++ (List.finRange 4).map .seamMonitor ++ (List.finRange 2).map .foremanLockstep
    ++ (List.finRange 16).map .footprintSensor

/-- The 98 checkers of a scion (R361). -/
def scionCheckers (n : ScionId) : List Checker :=
  [.seamMonitorScion n, .clockReceiver n] ++ (List.finRange 16).flatMap (fun i =>
    let e : EngineId := Fin.ofNat 64 (16 * n.val + i.val)
    [.benchEcc e, .graft4 e, .abft e, .shadow e, .parity6 e, .dieSensor e])

/-- Source ID of an engine's checker: base 0x20, 0x40, 0x50, 0x60 or 0x70 (R227, R348, R371). -/
def engineSource (e : EngineId) (base : Nat) : Nat := 0x100 * (1 + e.val / 16) + base + e.val % 16

/-! ## Opcodes (R141) -/

/-- The opcodes of the opcode table. -/
inductive Opcode where
  | nop | deviceQuery | hello | functionQuery | timeGet | timeSet | shareSet | provision
  | memMap | memUnmap | memCopy | memFill | memTagCheck
  | streamOpen | streamClose | streamConfig | streamStats | linkStatus | guardConfig
  | graphLoad | graphUnload | jobSubmit | jobCancel | bindStream | reserve
  | kvOpen | kvScatter | kvTrim | kvClose | kvQuery | attend
  | safetyConfig | faultAck | faultHistory | selftestStatus | inject | thresholdSet
  | powerState | budgetSet | thermalQuery | dieRestore
  | canConfig | canSend | safeMessageSet | uartConfig
  | driftConfig | replayArm | replayFeed | crosscheckConfig
  | wdogConfig | firmwareStage | firmwareCommit | debugUnlock
  deriving DecidableEq, Repr

/-- Opcode values. -/
def Opcode.code : Opcode → Nat
  | .nop => 0x0000 | .deviceQuery => 0x0001 | .hello => 0x0002 | .functionQuery => 0x0003
  | .timeGet => 0x0004 | .timeSet => 0x0005 | .shareSet => 0x0006 | .provision => 0x0007
  | .memMap => 0x0100 | .memUnmap => 0x0101 | .memCopy => 0x0102 | .memFill => 0x0103
  | .memTagCheck => 0x0104
  | .streamOpen => 0x0200 | .streamClose => 0x0201 | .streamConfig => 0x0202
  | .streamStats => 0x0203 | .linkStatus => 0x0204 | .guardConfig => 0x0205
  | .graphLoad => 0x0300 | .graphUnload => 0x0301 | .jobSubmit => 0x0302 | .jobCancel => 0x0303
  | .bindStream => 0x0304 | .reserve => 0x0305
  | .kvOpen => 0x0400 | .kvScatter => 0x0401 | .kvTrim => 0x0402 | .kvClose => 0x0403
  | .kvQuery => 0x0404 | .attend => 0x0405
  | .safetyConfig => 0x0500 | .faultAck => 0x0501 | .faultHistory => 0x0502
  | .selftestStatus => 0x0503 | .inject => 0x0504 | .thresholdSet => 0x0505
  | .powerState => 0x0600 | .budgetSet => 0x0601 | .thermalQuery => 0x0602
  | .dieRestore => 0x0603
  | .canConfig => 0x0700 | .canSend => 0x0701 | .safeMessageSet => 0x0702
  | .uartConfig => 0x0703
  | .driftConfig => 0x0800 | .replayArm => 0x0801 | .replayFeed => 0x0802
  | .crosscheckConfig => 0x0803
  | .wdogConfig => 0x0900
  | .firmwareStage => 0x0F00 | .firmwareCommit => 0x0F01 | .debugUnlock => 0x0F02

/-- All opcodes. -/
def allOpcodes : List Opcode :=
  [.nop, .deviceQuery, .hello, .functionQuery, .timeGet, .timeSet, .shareSet, .provision,
   .memMap, .memUnmap, .memCopy, .memFill, .memTagCheck,
   .streamOpen, .streamClose, .streamConfig, .streamStats, .linkStatus, .guardConfig,
   .graphLoad, .graphUnload, .jobSubmit, .jobCancel, .bindStream, .reserve,
   .kvOpen, .kvScatter, .kvTrim, .kvClose, .kvQuery, .attend,
   .safetyConfig, .faultAck, .faultHistory, .selftestStatus, .inject, .thresholdSet,
   .powerState, .budgetSet, .thermalQuery, .dieRestore,
   .canConfig, .canSend, .safeMessageSet, .uartConfig,
   .driftConfig, .replayArm, .replayFeed, .crosscheckConfig,
   .wdogConfig, .firmwareStage, .firmwareCommit, .debugUnlock]

/-- The opcode of a code; none outside the opcode table. -/
def opcodeOf (c : BitVec 16) : Option Opcode := allOpcodes.find? (fun o => Opcode.code o == c.toNat)

/-- Mark P: PF-only (R103). -/
def Opcode.pfOnly : Opcode → Bool
  | .timeSet | .shareSet | .provision | .safetyConfig | .inject | .thresholdSet | .powerState
  | .budgetSet | .dieRestore | .canConfig | .safeMessageSet | .uartConfig | .driftConfig
  | .replayArm | .replayFeed | .crosscheckConfig | .wdogConfig | .firmwareStage
  | .firmwareCommit | .debugUnlock => true
  | _ => false

/-- Mark S: executes in the safe state at CLASS 0. -/
def Opcode.safeMark : Opcode → Bool
  | .nop | .deviceQuery | .hello | .functionQuery | .timeGet | .memMap | .memUnmap | .memCopy
  | .memTagCheck | .streamStats | .linkStatus | .kvQuery | .faultAck | .faultHistory
  | .selftestStatus | .thermalQuery | .debugUnlock => true
  | _ => false

/-- Mark C: chained. -/
def Opcode.chained : Opcode → Bool
  | .streamOpen | .streamConfig | .guardConfig | .jobSubmit | .kvScatter | .attend | .canConfig
  | .canSend | .safeMessageSet => true
  | _ => false

/-- What the recovery service executes (R72). -/
def Opcode.inRecovery : Opcode → Bool
  | .hello | .deviceQuery | .faultHistory | .memMap | .memUnmap | .firmwareStage
  | .firmwareCommit => true
  | _ => false

/-- Commands that return a dozing device to Run before they are checked (R434). -/
def Opcode.wakesDoze : Opcode → Bool
  | .jobSubmit | .attend | .bindStream | .reserve | .dieRestore => true
  | _ => false

/-- Parameter bytes that the table names: offset and length (R141). -/
def Opcode.named : Opcode → List (Nat × Nat)
  | .nop => []
  | .deviceQuery | .functionQuery | .timeGet | .selftestStatus | .thermalQuery => [(16, 8)]
  | .hello => [(16, 4)]
  | .timeSet => [(16, 2), (24, 8)]
  | .shareSet => [(16, 3)]
  | .provision => [(16, 19)]
  | .memMap => [(16, 16), (32, 3), (40, 8)]
  | .memUnmap => [(16, 16)]
  | .memCopy => [(16, 24)]
  | .memFill => [(16, 24)]
  | .memTagCheck => [(16, 16)]
  | .streamOpen | .streamClose | .streamConfig | .guardConfig => [(16, 1)]
  | .streamStats => [(16, 1), (24, 8)]
  | .linkStatus => [(16, 2), (24, 8)]
  | .graphLoad => [(16, 12)]
  | .graphUnload => [(16, 4)]
  | .jobSubmit => [(16, 6), (24, 4)]
  | .jobCancel => [(16, 4)]
  | .bindStream => [(16, 20), (40, 12)]
  | .reserve => [(16, 9)]
  | .kvOpen => [(16, 18)]
  | .kvScatter | .kvTrim => [(16, 8)]
  | .kvClose | .kvQuery => [(16, 4)]
  | .attend => [(16, 2), (24, 4)]
  | .safetyConfig => [(16, 13)]
  | .faultAck => [(16, 6)]
  | .faultHistory => [(16, 9)]
  | .inject => [(16, 3)]
  | .thresholdSet => [(16, 3), (20, 4)]
  | .powerState => [(16, 1)]
  | .budgetSet => [(16, 4)]
  | .dieRestore => [(16, 1)]
  | .canConfig | .canSend | .safeMessageSet => [(16, 1)]
  | .uartConfig => [(16, 5), (24, 4)]
  | .driftConfig => [(16, 7)]
  | .replayArm => [(16, 17)]
  | .replayFeed => [(16, 1), (24, 20)]
  | .crosscheckConfig => [(16, 4)]
  | .wdogConfig => [(16, 8)]
  | .firmwareStage => [(16, 1), (24, 12)]
  | .firmwareCommit => [(16, 1)]
  | .debugUnlock => [(16, 1), (24, 32)]

/-! ## Formats -/

/-- Format codes (R265). -/
def fmtOfCode : Nat → Option Fmt
  | 0 => some .int4 | 1 => some .int8 | 2 => some .e4m3 | 3 => some .e5m2
  | 4 => some .fp16 | 5 => some .bf16 | 6 => some .fp32 | 7 => some .int32
  | _ => none

/-- Bits of an element (R265). -/
def Fmt.bits : Fmt → Nat
  | .int4 => 4 | .int8 => 8 | .e4m3 => 8 | .e5m2 => 8 | .fp16 => 16 | .bf16 => 16
  | .fp32 => 32 | .int32 => 32

/-- Integer formats. -/
def Fmt.isInt : Fmt → Bool
  | .int4 | .int8 | .int32 => true
  | _ => false

/-- Rounding modes by code (R271). -/
def modeOfCode : Nat → Option RMode
  | 0 => some .halfAway | 1 => some .halfEven | 2 => some .towardZero | _ => none

/-- Data length of a CAN frame (R421). -/
def canLength (fdf : Bool) (dlc : Nat) : Nat :=
  if dlc ≤ 8 then dlc
  else if fdf then [12, 16, 20, 24, 32, 48, 64].getD (dlc - 9) 64
  else 8

end Sys2Proof.Machine
end

