-- ==== Sys2Proof/Machine/Fp.lean ====
section
/-!
DEFINITION. Floating-point arithmetic of an engine (R265, R267, R277, R278): values as exact dyadic
numbers, rounding to nearest with ties to even, and the operations on FP32 bit patterns.
-/

namespace Sys2Proof.Machine

/-! ## Values -/

/-- A floating value: NaN, an infinity by sign, or ± m × 2^e by sign. -/
inductive Fl where
  | nan
  | inf (neg : Bool)
  | fin (neg : Bool) (m : Nat) (e : Int)
  deriving DecidableEq, Repr

/-- The layout of a floating format: fraction bits, exponent bits, exponent of the lowest fraction
bit of a subnormal, and whether the top exponent holds infinities (R265). -/
structure FpFmt where
  frac : Nat
  exp  : Nat
  emin : Int
  ieee : Bool
  deriving DecidableEq, Repr

/-- The layouts of R265; integer formats have none. -/
def Fmt.fp : Fmt → Option FpFmt
  | .e4m3 => some ⟨3, 4, -9, false⟩
  | .e5m2 => some ⟨2, 5, -16, true⟩
  | .fp16 => some ⟨10, 5, -24, true⟩
  | .bf16 => some ⟨7, 8, -133, true⟩
  | .fp32 => some ⟨23, 8, -149, true⟩
  | _ => none

/-- Binary32. -/
def fp32Fmt : FpFmt := ⟨23, 8, -149, true⟩

/-- The largest exponent field that holds finite values. -/
def FpFmt.topField (f : FpFmt) : Nat := if f.ieee then 2 ^ f.exp - 2 else 2 ^ f.exp - 1

/-- The canonical NaN of a format (R267). -/
def FpFmt.nanBits (f : FpFmt) : Nat :=
  if f.ieee then (2 ^ f.exp - 1) * 2 ^ f.frac + 2 ^ (f.frac - 1) else 2 ^ (f.exp + f.frac) - 1

/-- The pattern of the largest finite value. -/
def FpFmt.maxBits (f : FpFmt) : Nat :=
  if f.ieee then (2 ^ f.exp - 1) * 2 ^ f.frac - 1 else 2 ^ (f.exp + f.frac) - 2

/-- The sign bit of a pattern. -/
def FpFmt.signBit (f : FpFmt) (neg : Bool) : Nat := if neg then 2 ^ (f.exp + f.frac) else 0

/-- The value of a pattern (R265). -/
def FpFmt.decode (f : FpFmt) (bits : Nat) : Fl :=
  let neg := bits / 2 ^ (f.exp + f.frac) % 2 == 1
  let field := bits / 2 ^ f.frac % 2 ^ f.exp
  let frac := bits % 2 ^ f.frac
  if field = 0 then .fin neg frac f.emin
  else if f.ieee ∧ field = 2 ^ f.exp - 1 then (if frac = 0 then .inf neg else .nan)
  else if ¬ f.ieee ∧ field = 2 ^ f.exp - 1 ∧ frac = 2 ^ f.frac - 1 then .nan
  else .fin neg (2 ^ f.frac + frac) (f.emin + (field : Int) - 1)

/-- `m` divided by 2^k, rounded to nearest with ties to even (R267). -/
def shiftEven (m k : Nat) : Nat :=
  let q := m / 2 ^ k
  let r := m % 2 ^ k
  if 2 * r < 2 ^ k then q else if 2 ^ k < 2 * r then q + 1 else q + q % 2

/-- `m` divided by 2^k, rounded up. -/
def shiftUp (m k : Nat) : Nat := (m + 2 ^ k - 1) / 2 ^ k

/-- The fraction with its hidden bit and the exponent of its lowest bit for m × 2^e, rounded by
`shift`; `m` is not 0. -/
def FpFmt.quantise (f : FpFmt) (shift : Nat → Nat → Nat) (m : Nat) (e : Int) : Nat × Int :=
  let q : Int := max ((Nat.log2 m : Int) + e - f.frac) f.emin
  let v := if q ≤ e then m * 2 ^ (e - q).toNat else shift m (q - e).toNat
  if v = 2 ^ (f.frac + 1) then (2 ^ f.frac, q + 1) else (v, q)

/-- The pattern of a rounded finite magnitude; none on overflow. -/
def FpFmt.pack (f : FpFmt) (v : Nat) (q : Int) : Option Nat :=
  if v < 2 ^ f.frac then some v
  else
    let field := (q - f.emin + 1).toNat
    let bits := field * 2 ^ f.frac + (v - 2 ^ f.frac)
    if f.topField < field ∨ f.maxBits < bits then none else some bits

/-- The pattern of a value in a format, rounded by `shift`; `sat` is SATFINITE, which E4M3 always
follows (R277). -/
def FpFmt.encodeWith (f : FpFmt) (shift : Nat → Nat → Nat) (sat : Bool) : Fl → Nat
  | .nan => f.nanBits
  | .inf neg =>
    f.signBit neg + (if sat ∨ ¬ f.ieee then f.maxBits else (2 ^ f.exp - 1) * 2 ^ f.frac)
  | .fin neg m e =>
    if m = 0 then f.signBit neg
    else
      let (v, q) := f.quantise shift m e
      match f.pack v q with
      | some b => f.signBit neg + b
      | none => f.signBit neg + (if sat ∨ ¬ f.ieee then f.maxBits else (2 ^ f.exp - 1) * 2 ^ f.frac)

/-- The pattern of a value, rounded to nearest even (R267, R277). -/
def FpFmt.encode (f : FpFmt) (sat : Bool) (x : Fl) : Nat := f.encodeWith shiftEven sat x

/-! ## Exact operations -/

/-- The negated value. -/
def Fl.neg : Fl → Fl
  | .nan => .nan
  | .inf s => .inf (!s)
  | .fin s m e => .fin (!s) m e

/-- The magnitude. -/
def Fl.abs : Fl → Fl
  | .nan => .nan
  | .inf _ => .inf false
  | .fin _ m e => .fin false m e

/-- The signed fraction at an exponent at or below its own. -/
def scaled (s : Bool) (m : Nat) (e lo : Int) : Int :=
  let v : Int := (m * 2 ^ (e - lo).toNat : Nat)
  if s then -v else v

/-- The exact sum (R267): infinity minus infinity is NaN; an exact zero of unlike signs is +0. -/
def Fl.add : Fl → Fl → Fl
  | .nan, _ => .nan
  | _, .nan => .nan
  | .inf a, .inf b => if a = b then .inf a else .nan
  | .inf a, _ => .inf a
  | _, .inf b => .inf b
  | .fin s m e, .fin t n d =>
    let lo := min e d
    let v := scaled s m e lo + scaled t n d lo
    if v = 0 then .fin (s && t) 0 lo else .fin (decide (v < 0)) v.natAbs lo

/-- The exact product (R267): infinity times zero is NaN. -/
def Fl.mul : Fl → Fl → Fl
  | .nan, _ => .nan
  | _, .nan => .nan
  | .inf a, .inf b => .inf (a != b)
  | .inf a, .fin t n _ => if n = 0 then .nan else .inf (a != t)
  | .fin s m _, .inf b => if m = 0 then .nan else .inf (s != b)
  | .fin s m e, .fin t n d => .fin (s != t) (m * n) (e + d)

/-- A quotient to 64 bits past the binary32 fraction with a sticky bit, so that rounding it rounds
the exact quotient. -/
def Fl.div : Fl → Fl → Fl
  | .nan, _ => .nan
  | _, .nan => .nan
  | .inf _, .inf _ => .nan
  | .inf a, .fin t _ _ => .inf (a != t)
  | .fin s _ _, .inf b => .fin (s != b) 0 0
  | .fin s m e, .fin t n d =>
    if n = 0 then (if m = 0 then .nan else .inf (s != t))
    else
      let k := 100 + Nat.log2 n
      let q := m * 2 ^ k / n
      let r := m * 2 ^ k % n
      .fin (s != t) (2 * q + (if r = 0 then 0 else 1)) (e - d - k - 1)

/-- Strictly less; false with a NaN. -/
def Fl.lt : Fl → Fl → Bool
  | .nan, _ => false
  | _, .nan => false
  | .inf a, .inf b => a && !b
  | .inf a, .fin _ _ _ => a
  | .fin _ _ _, .inf b => !b
  | .fin s m e, .fin t n d => decide (scaled s m e (min e d) < scaled t n d (min e d))

/-- A NaN or an infinity. -/
def Fl.special : Fl → Bool
  | .fin _ _ _ => false
  | _ => true

/-! ## FP32 patterns -/

/-- The value of an FP32 pattern. -/
def f32 (b : Nat) : Fl := fp32Fmt.decode b

/-- The FP32 pattern of a value. -/
def toF32 (x : Fl) : Nat := fp32Fmt.encode false x

/-- FP32 operations, each rounded once (R267). -/
def fadd (a b : Nat) : Nat := toF32 ((f32 a).add (f32 b))
def fsub (a b : Nat) : Nat := toF32 ((f32 a).add (f32 b).neg)
def fmul (a b : Nat) : Nat := toF32 ((f32 a).mul (f32 b))
def fdiv (a b : Nat) : Nat := toF32 ((f32 a).div (f32 b))

/-- The larger and the smaller of two FP32 values: NaN with a NaN (R267); of two equal values the
first, save that the manual leaves open which of two zeros of unlike sign comes out. -/
def fpick (less : Bool) (a b : Nat) : Nat :=
  if f32 a = .nan ∨ f32 b = .nan then fp32Fmt.nanBits
  else if less then b
  else if a ≠ b ∧ (f32 a).lt (f32 b) = false ∧ (f32 b).lt (f32 a) = false then
    (if Config.firstZero (BitVec.ofNat 32 a) (BitVec.ofNat 32 b) then a else b)
  else a
def fmax (a b : Nat) : Nat := fpick ((f32 a).lt (f32 b)) a b
def fmin (a b : Nat) : Nat := fpick ((f32 b).lt (f32 a)) a b

/-- FP32 operations rounded up, for magnitudes (R339, R342). -/
def faddUp (a b : Nat) : Nat := fp32Fmt.encodeWith shiftUp false ((f32 a).add (f32 b))
def fmulUp (a b : Nat) : Nat := fp32Fmt.encodeWith shiftUp false ((f32 a).mul (f32 b))

/-- An integer as an exact value. -/
def Fl.ofInt (v : Int) : Fl := .fin (decide (v < 0)) v.natAbs 0

/-- The FP32 pattern of a stored value, exact (R277): a value of FP32 as it is. -/
def widen (f : Fmt) (v : Int) : Nat :=
  if f = .fp32 then (v % 2 ^ 32).toNat
  else match Fmt.fp f with
    | some g => toF32 (g.decode v.toNat)
    | none => toF32 (Fl.ofInt v)

/-- The stored value of an FP32 pattern in a floating format (R277). A NaN keeps its sign on the
way to E4M3. -/
def narrow (f : Fmt) (sat : Bool) (b : Nat) : Int :=
  match Fmt.fp f with
  | some g =>
    match f32 b with
    | .nan => (g.nanBits + (if f = .e4m3 then g.signBit (b / 2 ^ 31 % 2 == 1) else 0) : Nat)
    | x => (g.encode sat x : Nat)
  | none => 0

/-- The sum of FP32 patterns by the balanced pairwise tree of R269: element 2j is added to element
2j + 1 at every level. -/
def pairUp : List Nat → List Nat
  | a :: b :: r => fadd a b :: pairUp r
  | l => l

/-- `n` levels of the tree. -/
def pairTree : Nat → List Nat → List Nat
  | 0, l => l
  | n + 1, l => pairTree n (pairUp l)

/-- The tree over a power of two of products (R269). -/
def treeSum (levels : Nat) (l : List Nat) : Nat := (pairTree levels l).headD 0

/-! ## The vector unit's special functions (R242) -/

/-- `n` units in the last place of an FP32 pattern. -/
def ulps (n b : Nat) : Fl :=
  .fin false n (if b / 2 ^ 23 % 256 = 0 then -149 else (b / 2 ^ 23 % 256 : Int) - 150)

/-- A free result that keeps its bound, or one that does. -/
def bounded (ok : Nat → Bool) (free : BitVec 32) (near : Nat) : Nat :=
  if ok free.toNat then free.toNat else near

/-- The square root of a number below 2^200, rounded down. -/
def isqrt (n : Nat) : Nat :=
  ((List.range 100).reverse).foldl (fun r i => if (r + 2 ^ i) * (r + 2 ^ i) ≤ n then r + 2 ^ i else r) 0

/-- Terms of the series of e^y for y = x ÷ 2^256 below 1, summed in 2^-256; `up` is 1 to round up. -/
def expSeries (up x : Nat) : Nat → Nat → Nat → Nat
  | 0, _, _ => up
  | n + 1, i, t =>
    let t' := t * x / (2 ^ 256 * i) + up
    t + expSeries up x n (i + 1) t'

/-- Squared eight times in 2^-256. -/
def expSquares (up : Nat) : Nat → Nat → Nat
  | 0, v => v
  | n + 1, v => expSquares up n (v * v / 2 ^ 256 + up)

/-- Bounds of e^x in 2^-256 for a magnitude up to 128. -/
def expBounds (neg : Bool) (m : Nat) (e : Int) : Nat × Nat :=
  let x := m * 2 ^ (e + 248).toNat
  let lo := expSquares 0 8 (expSeries 0 x 64 1 (2 ^ 256))
  let hi := expSquares 1 8 (expSeries 1 x 64 1 (2 ^ 256))
  if neg then (2 ^ 512 / hi, 2 ^ 512 / lo + 1) else (lo, hi)

/-- A pattern lies within 2 ULP of e^x. -/
def expOk (neg : Bool) (m : Nat) (e : Int) (v : Nat) : Bool :=
  let b := expBounds neg m e
  !(f32 v).special && !((f32 v).add (ulps 2 v)).lt (.fin false b.1 (-256))
    && !(Fl.fin false b.2 (-256)).lt ((f32 v).add (ulps 2 v).neg)

/-- exp: within 2 ULP on its domain, +0 below it, +∞ above (R242). -/
def fexp (b : Nat) : Nat :=
  match f32 b with
  | .nan => fp32Fmt.nanBits
  | .inf s => if s then 0 else 0x7F800000
  | .fin s m e =>
    let ten := (Fl.fin s m e).mul (.fin false 10 0)
    if ten.lt (Fl.ofInt (-873)) then 0
    else if (Fl.ofInt 887).lt ten then 0x7F800000
    else bounded (expOk s m e) (Config.expIn (BitVec.ofNat 32 b)) (toF32 (.fin false (expBounds s m e).1 (-256)))

/-- A pattern lies within 1 ULP of 1/x. -/
def recipOk (x : Fl) (v : Nat) : Bool :=
  !(f32 v).special && !((ulps 1 v).mul x.abs).lt (((f32 v).mul x).add (Fl.ofInt (-1))).abs

/-- 1/x: within 1 ULP on its domain, ±∞ for ±0, ±0 for ±∞ (R242). -/
def frecip (b : Nat) : Nat :=
  match f32 b with
  | .nan => fp32Fmt.nanBits
  | .inf s => fp32Fmt.signBit s
  | .fin s m e =>
    if m = 0 then fp32Fmt.signBit s + 0x7F800000
    else bounded (recipOk (.fin s m e)) (Config.recipIn (BitVec.ofNat 32 b)) (fdiv 0x3F800000 b)

/-- A pattern lies within 2 ULP of 1/√x. -/
def rsqrtOk (x : Fl) (v : Nat) : Bool :=
  let lo := (f32 v).add (ulps 2 v).neg
  let hi := (f32 v).add (ulps 2 v)
  !(f32 v).special && !(f32 v).lt (Fl.ofInt 0) && !(Fl.ofInt 1).lt ((lo.mul lo).mul x)
    && !((hi.mul hi).mul x).lt (Fl.ofInt 1)

/-- 1/√x to 80 bits, rounded. -/
def rsqrtNear (m : Nat) (e : Int) : Nat :=
  let (m, e) := if e % 2 = 0 then (m, e) else (2 * m, e - 1)
  toF32 (.fin false (isqrt (2 ^ 160 / m)) (-80 - e / 2))

/-- 1/√x: within 2 ULP on its domain, +∞ for +0, NaN for x < 0 (R242). R242 states no value for −0 and for +∞,
which are free. -/
def frsqrt (b : Nat) : Nat :=
  match f32 b with
  | .nan => fp32Fmt.nanBits
  | .inf s => if s then fp32Fmt.nanBits else (Config.rsqrtIn (BitVec.ofNat 32 b)).toNat
  | .fin s m e =>
    if m = 0 then (if s then (Config.rsqrtIn (BitVec.ofNat 32 b)).toNat else 0x7F800000)
    else if s then fp32Fmt.nanBits
    else bounded (rsqrtOk (.fin s m e)) (Config.rsqrtIn (BitVec.ofNat 32 b)) (rsqrtNear m e)

/-- A pattern with a NaN in canonical form (R267). -/
def quiet (b : Nat) : Nat := if f32 b = .nan then fp32Fmt.nanBits else b

end Sys2Proof.Machine
end

