-- ==== Sys2Proof/Machine/Requant.lean ====
section
/-!
DEFINITION. The requantiser (R271 to R275), the floating outputs (R276 to R278), and the Spreader
(R280).
-/

namespace Sys2Proof.Machine

/-- A number in 32-bit two's complement (R268). -/
def wrap32 (v : Int) : Int := signed 32 (v % 2 ^ 32).toNat

/-- A sum held at the int64 limits (R272). -/
def sat64 (v : Int) : Int := max (-(2 ^ 63)) (min (2 ^ 63 - 1) v)

/-- A value held at two limits. -/
def clampInt (lo hi v : Int) : Int := min (max v lo) hi

/-- The entry of a channel in a list that holds one entry for all, or one for each. -/
def perChannel {α : Type} (d : α) (l : List α) (c : Nat) : α :=
  match l with
  | [x] => x
  | _ => l.getD c d

/-- M of a channel and a group (R271, R273). -/
def Requant.mAt (q : Requant) (c groups g : Nat) : Int :=
  match q.grain with
  | .tensor => q.m.getD 0 0
  | .channel => perChannel 0 q.m c
  | .group _ => q.m.getD (c * groups + g) 0

/-- BIAS enters the accumulator under tensor and channel grain, the 64-bit sum under a group grain
(R268, R272, R274). -/
def Requant.grouped (q : Requant) : Bool :=
  match q.grain with
  | .group _ => true
  | _ => false

/-- The rounding constant of R272 for a shift `s`. -/
def roundConst (mode : RMode) (p : Int) (s : Nat) : Int :=
  if s = 0 then 0
  else match mode with
    | .halfAway => if 0 ≤ p then 2 ^ (s - 1) else 2 ^ (s - 1) - 1
    | .halfEven => 2 ^ (s - 1) - 1 + p / 2 ^ s % 2
    | .towardZero => if 0 ≤ p then 0 else 2 ^ s - 1

/-- p ÷ 2^s rounded by a mode (R272). -/
def roundShift (mode : RMode) (p : Int) (s : Nat) : Int := (p + roundConst mode p s) / 2 ^ s

/-- The 64-bit sum over the groups, BIAS last under a group grain (R272, R274). -/
def Requant.sum (q : Requant) (c : Nat) (acc : List Int) : Int :=
  let p := (acc.zipIdx).foldl (fun p (x : Int × Nat) => sat64 (p + x.1 * Requant.mAt q c acc.length x.2)) 0
  if Requant.grouped q then sat64 (p + perChannel 0 q.bias c) else p

/-- The requantiser's output of one channel (R272). -/
def Requant.out (q : Requant) (c : Nat) (acc : List Int) : Int :=
  clampInt (perChannel 0 q.lo c) (perChannel 0 q.hi c)
    (roundShift q.mode (Requant.sum q c acc) (perChannel 0 q.s c)) + q.zp

/-- An exact value rounded to an integer by a mode (R278). -/
def roundFl (mode : RMode) (neg : Bool) (m : Nat) (e : Int) : Int :=
  let v : Int := if neg then -(m : Int) else m
  if 0 ≤ e then v * 2 ^ e.toNat else roundShift mode v (-e).toNat

/-- CAST from a floating value to an integer format (R278). -/
def Requant.cast (q : Requant) (c : Nat) (inv b : Nat) : Int :=
  let lo := perChannel 0 q.lo c
  let hi := perChannel 0 q.hi c
  match f32 (fmul b inv) with
  | .nan => q.zp
  | .inf neg => (if neg then lo else hi) + q.zp
  | .fin neg m e => clampInt lo hi (roundFl q.mode neg m e) + q.zp

/-- The floating scale: SCALE and BIAS_F per tensor or channel, or a term for each group in
ascending order (R276). -/
def floatScale (grain : Grain) (scale biasF : List Nat) (c : Nat) (acc : List Nat) : Nat :=
  let bias := perChannel 0 biasF c
  match grain with
  | .group _ =>
    (match acc.mapIdx (fun g a => fmul a (scale.getD (c * acc.length + g) 0)) with
     | [] => bias
     | t :: r => fadd (r.foldl fadd t) bias)
  | _ => fadd (fmul (acc.headD 0) (perChannel 0 scale c)) bias

/-- One butterfly stage of the Spreader on bit `b` (R280). -/
def butterfly {α : Type} (d : α) (add sub : α → α → α) (b : Nat) (x : List α) : List α :=
  (List.range x.length).map (fun i =>
    if i.testBit b then sub (x.getD (i - 2 ^ b) d) (x.getD i d)
    else add (x.getD i d) (x.getD (i + 2 ^ b) d))

/-- The Spreader over a block of n elements: log2 n stages in ascending bit order (R280). -/
def spread {α : Type} (d : α) (add sub : α → α → α) (x : List α) : List α :=
  (List.range (Nat.log2 x.length)).foldl (fun x b => butterfly d add sub b x) x

/-- The Spreader on INT32 data, exact modulo 2^32. -/
def spreadInt (x : List Int) : List Int :=
  spread 0 (fun a b => wrap32 (a + b)) (fun a b => wrap32 (a - b)) x

/-- The Spreader on FP32 data, every butterfly output rounded. -/
def spreadFp (x : List Nat) : List Nat := spread 0 fadd fsub x

end Sys2Proof.Machine
end

