-- ==== Sys2Proof/Machine/Operators.lean ====
section
/-!
DEFINITION. The operator library (R245, R246, R250 to R254, R258 to R264, R268 to R270): the value of
each output element from the stored values of the operator's tensors.
A map is H × W × C and held row by row with the channel last; weights are KH × KW × C × N (log 20).
-/

namespace Sys2Proof.Machine

/-! ## Tensors -/

/-- What an operator sees: the declarations of the image and the values of its tensors. -/
structure Maps where
  decl : Nat → TensorDecl
  vals : Nat → List Int

/-- The number of elements of a tensor. -/
def TensorDecl.size (t : TensorDecl) : Nat := t.dims.foldl (· * ·) 1

/-- A dimension counted from the last: 0 is the channel, 1 the column, 2 the row, 3 the batch. -/
def dimBack (t : TensorDecl) (i : Nat) : Nat := (t.dims.reverse).getD i 1

/-- The value whose real meaning is 0 (R246). -/
def zeroOf (t : TensorDecl) : Int := if Fmt.isInt t.fmt then t.zp else 0

/-- The element of a map, by batch, row, column and channel. -/
def Maps.at (m : Maps) (id b y x c : Nat) : Int :=
  let t := m.decl id
  (m.vals id).getD (((b * dimBack t 2 + y) * dimBack t 1 + x) * dimBack t 0 + c) 0

/-- An output position: row, column, channel of element `i`. -/
def outPos (t : TensorDecl) (i : Nat) : Nat × Nat × Nat :=
  (i / dimBack t 0 / dimBack t 1, i / dimBack t 0 % dimBack t 1, i % dimBack t 0)

/-- What an engine hands to its way out: 32-bit accumulators by group, FP32 values by group, or a
stored value that is final. -/
inductive Acc where
  | ints (g : List Int)
  | flts (g : List Nat)
  | stored (v : Int)
  deriving DecidableEq, Repr

/-! ## Windows and padding -/

/-- The output size of an axis (R245). -/
def winOut (n : Nat) (a : WinAxis) : Int :=
  ((n : Int) + a.padLo + a.padHi - a.d * (a.k - 1) - 1) / a.s + 1

/-- The output size of an axis of CONV_TRANSPOSE2D (R264). -/
def transOut (n : Nat) (a : WinAxis) (outPad : Nat) : Int :=
  ((n : Int) - 1) * a.s - a.padLo - a.padHi + a.d * (a.k - 1) + 1 + outPad

/-- The element that an index of an axis takes under a padding mode; none where a fill value stands
(R246). -/
def padIndex (p : PadMode) (n : Nat) (i : Int) : Option Nat :=
  if 0 ≤ i ∧ i < n then some i.toNat
  else match p with
    | .replicate => some (clampInt 0 (n - 1) i).toNat
    | .reflect => some (if i < 0 then (-i).toNat else (2 * ((n : Int) - 1) - i).toNat)
    | _ => none

/-- The fill value of a padding mode (R246). -/
def padFill (p : PadMode) (t : TensorDecl) : Int :=
  match p with
  | .constant v => v
  | _ => zeroOf t

/-- The input index of a tap (R245). -/
def tapIndex (a : WinAxis) (o k : Nat) : Int := (o * a.s + k * a.d : Nat) - (a.padLo : Int)

/-- An input element under padding. -/
def Maps.padded (m : Maps) (id : Nat) (p : PadMode) (iy ix : Int) (c : Nat) : Int :=
  let t := m.decl id
  match padIndex p (dimBack t 2) iy, padIndex p (dimBack t 1) ix with
  | some y, some x => m.at id 0 y x c
  | _, _ => padFill p t

/-- The taps of a kernel in ascending (kh, kw) order. -/
def taps (row col : WinAxis) : List (Nat × Nat) :=
  (List.range row.k).flatMap (fun h => (List.range col.k).map (fun w => (h, w)))

/-! ## Matrix reductions -/

/-- A list cut into pieces of `k`, the last one shorter. -/
def cut {α : Type} (k : Nat) : Nat → List α → List (List α)
  | 0, _ => []
  | n + 1, l => if l = [] ∨ k = 0 then (if l = [] then [] else [l]) else l.take k :: cut k n (l.drop k)

/-- A list cut into pieces of `k`. -/
def pieces {α : Type} (k : Nat) (l : List α) : List (List α) := cut k (l.length + 1) l

/-- K of the matrix unit for a pairing (R240), 32 for INT4 × INT4 under GROUP32 (R275). -/
def kOf (a w : Fmt) (epi : Epilogue) : Nat :=
  if a = .int4 ∧ w = .int4 then
    (match epi with
     | .requant q => if q.grain = .group 32 then 32 else 64
     | _ => 64)
  else 32

/-- Columns of a weight block (R240). -/
def nOf (a : Fmt) : Nat := if a = .fp16 ∨ a = .bf16 then 32 else 64

/-- The reduction of one output of a matrix operator: for each tap that takes part its products, in ascending
channel order, each with its place in the whole reduction. A transposed convolution uses the taps that reach the
output's phase (R264); an input position that does not exist gives nothing. -/
def Maps.reduction (m : Maps) (op : Op) (pos : Nat) (oc : Nat) (out : TensorDecl) :
    List (List (Nat × Int × Int)) :=
  match op with
  | .matmul inp wt =>
    let k := dimBack (m.decl wt) 1
    let n := dimBack (m.decl wt) 0
    [(List.range k).map (fun i => (i, (m.vals inp).getD (pos * k + i) 0, (m.vals wt).getD (i * n + oc) 0))]
  | .conv2d inp wt groups row col pad _ =>
    let c := dimBack (m.decl inp) 0
    let n := dimBack out 0
    let cg := c / groups
    let base := oc / (n / groups) * cg
    let y := pos / dimBack out 1
    let x := pos % dimBack out 1
    (taps row col).map (fun t => (List.range cg).map (fun i =>
      let j := (t.1 * col.k + t.2) * cg + i
      (j, m.padded inp pad (tapIndex row y t.1) (tapIndex col x t.2) (base + i),
       (m.vals wt).getD (j * n + oc) 0)))
  | .convTranspose inp wt row col _ _ _ =>
    let c := dimBack (m.decl inp) 0
    let n := dimBack out 0
    let y := pos / dimBack out 1
    let x := pos % dimBack out 1
    let src (a : WinAxis) (o k : Nat) : Int := (o + a.padLo : Nat) - (k * a.d : Nat)
    let inside (v : Int) (a : WinAxis) (size : Nat) : Bool := decide (0 ≤ v) && decide (v / a.s < size)
    ((taps row col).filter (fun t => src row y t.1 % row.s == 0 && src col x t.2 % col.s == 0)).map
      (fun t =>
        let iy := src row y t.1
        let ix := src col x t.2
        let real := inside iy row (dimBack (m.decl inp) 2) && inside ix col (dimBack (m.decl inp) 1)
        (List.range c).map (fun i =>
          let j := (t.1 * col.k + t.2) * c + i
          if real then
            (j, m.at inp 0 (iy / row.s).toNat (ix / col.s).toNat i, (m.vals wt).getD (j * n + oc) 0)
          else (j, 0, 0)))
  | _ => []

/-- The tensors of a matrix operator: input, weights. -/
def matTensors : Op → Option (Nat × Nat)
  | .matmul i w => some (i, w)
  | .conv2d i w _ _ _ _ _ => some (i, w)
  | .convTranspose i w _ _ _ _ _ => some (i, w)
  | _ => none

/-- The length of an operator's reduction dimension (R252, R254, R264, R273). -/
def reductionLen (decl : Nat → TensorDecl) : Op → Nat
  | .matmul _ wt => dimBack (decl wt) 1
  | .conv2d i _ gr row col _ _ => dimBack (decl i) 0 / gr * row.k * col.k
  | .convTranspose i _ row col _ _ _ => dimBack (decl i) 0 * row.k * col.k
  | .depthwise _ _ row col _ => row.k * col.k
  | _ => 0

/-- The rows that the matrix unit takes, K elements at most each (R252): the whole window cut every K for
copied expansion and MATMUL, every tap by itself for shifted products. -/
def matPieces {α : Type} (op : Op) (k : Nat) (r : List (List α)) : List (List α) :=
  match op with
  | .conv2d _ _ _ _ _ _ .shifted => r.flatMap (pieces k)
  | .convTranspose _ _ _ _ _ _ .shifted => r.flatMap (pieces k)
  | _ => pieces k r.flatten

/-- Levels of a tree over `n` values. -/
def levels (n : Nat) : Nat := if n ≤ 1 then 0 else Nat.log2 (n - 1) + 1

/-- One row of K products summed by the tree of R269; lanes without a product hold +0. -/
def rowTree (k : Nat) (products : List Nat) : Nat :=
  treeSum (levels k) (products ++ List.replicate (k - products.length) 0)

/-- The rows of a canonical chunk added one after another to the accumulator (R269). -/
def floatRows (k : Nat) (rows : List (List Nat)) : Nat := rows.foldl (fun a r => fadd a (rowTree k r)) 0

/-- A floating reduction in one chunk (R269). -/
def floatAcc (k : Nat) (products : List Nat) : Nat := floatRows k (pieces k products)

/-- The group length of an operator's way out; 0 without groups (R273). -/
def groupLen (epi : Epilogue) : Nat :=
  let len (g : Grain) : Nat := match g with
    | .group l => l
    | _ => 0
  match epi with
  | .requant q => len q.grain
  | .float g .. => len g
  | _ => 0

/-- BIAS with which an accumulator starts: under tensor and channel grain (R268, R274). -/
def biasOf (epi : Epilogue) (c : Nat) : Int :=
  match epi with
  | .requant q => if Requant.grouped q then 0 else perChannel 0 q.bias c
  | _ => 0

/-- A reduction by its groups, whole where the grain has none (R273); a group of which no product takes part is
empty. -/
def byGroup (len total : Nat) (r : List (List (Nat × Int × Int))) : List (List (List (Nat × Int × Int))) :=
  if len = 0 then [r]
  else (List.range (total / len)).map (fun g => r.map (fun t => t.filter (fun x => x.1 / len == g)))

/-- The canonical chunks of a reduction, in ascending order (R324). -/
def byChunk (len total : Nat) (r : List (List (Nat × Int × Int))) : List (List (List (Nat × Int × Int))) :=
  let cs := if len = 0 then [] else
    ((List.range ((total + len - 1) / len)).map (fun c => r.map (fun t => t.filter (fun x => x.1 / len == c)))).filter
      (fun c => c.any (fun t => !t.isEmpty))
  if cs = [] then [r] else cs

/-- The rows of products that make up the partial sums of one output: by group, by canonical chunk, by row of the
matrix unit (R252, R273, R324). -/
abbrev Parts := List (List (List (List (Int × Int))))

/-- The products of one output of a matrix operator, as the matrix unit takes them. -/
def Maps.matParts (m : Maps) (o : OpNode) (pos oc : Nat) : Parts :=
  match matTensors o.op with
  | none => []
  | some (inp, wt) =>
    let out := m.decl o.out
    let k := kOf (m.decl inp).fmt (m.decl wt).fmt o.epi
    let total := reductionLen m.decl o.op
    (byGroup (groupLen o.epi) total (m.reduction o.op pos oc out)).map (fun g =>
      (byChunk o.chunk total g).map (fun c => (matPieces o.op k c).map (fun row => row.map (·.2))))

/-- Partial sums: by group and by canonical chunk; an FP32 value is its pattern. -/
abbrev Sums := List (List Int)

/-- The partial sums of one output (R268, R269, R274); BIAS lies in the first of an output without groups. -/
def Maps.matSums (m : Maps) (o : OpNode) (pos oc : Nat) : Sums :=
  match matTensors o.op with
  | none => []
  | some (inp, wt) =>
    let a := (m.decl inp).fmt
    let w := (m.decl wt).fmt
    let k := kOf a w o.epi
    (m.matParts o pos oc).map (fun g => g.mapIdx (fun i rows =>
      if Fmt.isInt a then
        wrap32 ((if i = 0 then biasOf o.epi oc else 0)
          + (rows.map (fun r => (r.map (fun p => p.1 * p.2)).sum)).sum)
      else (floatRows k (rows.map (fun r => r.map (fun p => fmul (widen a p.1) (widen w p.2)))) : Nat)))

/-- The partial sums of every group combined in the balanced tree of R324. -/
def combine (isInt : Bool) (p : Sums) : Acc :=
  if isInt then .ints (p.map (fun g => wrap32 g.sum))
  else .flts (p.map (fun g => treeSum (levels g.length) (g.map Int.toNat)))

/-- The accumulators of one output of a matrix operator. -/
def Maps.matAcc (m : Maps) (o : OpNode) (pos oc : Nat) : Acc :=
  match matTensors o.op with
  | none => .ints [0]
  | some (inp, _) => combine (Fmt.isInt (m.decl inp).fmt) (m.matSums o pos oc)

/-! ## Vector unit: windows -/

/-- Depthwise convolution: taps in ascending order in INT32 or FP32 (R254). -/
def Maps.depthAcc (m : Maps) (o : OpNode) (inp wt : Nat) (row col : WinAxis) (pad : PadMode) (i : Nat) :
    Acc :=
  let a := (m.decl inp).fmt
  let (y, x, c) := outPos (m.decl o.out) i
  let n := dimBack (m.decl o.out) 0
  let terms := (taps row col).map (fun t =>
    (m.padded inp pad (tapIndex row y t.1) (tapIndex col x t.2) c,
     (m.vals wt).getD ((t.1 * col.k + t.2) * n + c) 0))
  let groups := if groupLen o.epi = 0 then [terms] else pieces (groupLen o.epi) terms
  if Fmt.isInt a then .ints (groups.map (fun g => wrap32 (biasOf o.epi c + (g.map (fun p => p.1 * p.2)).sum)))
  else .flts (groups.map (fun g =>
    g.foldl (fun s p => fadd s (fmul (widen a p.1) (widen (m.decl wt).fmt p.2))) 0))

/-- The real elements of a window, padded positions ignored (R251). -/
def Maps.window (m : Maps) (inp : Nat) (row col : WinAxis) (y x c : Nat) : List Int :=
  let t := m.decl inp
  (taps row col).filterMap (fun k =>
    let iy := tapIndex row y k.1
    let ix := tapIndex col x k.2
    if 0 ≤ iy ∧ iy < dimBack t 2 ∧ 0 ≤ ix ∧ ix < dimBack t 1 then
      some (m.at inp 0 iy.toNat ix.toNat c) else none)

/-- The largest element of a window; BIAS is added to an integer (R268). -/
def maxOf (f : Fmt) (bias : Int) (l : List Int) : Acc :=
  match l with
  | [] => .stored 0
  | v :: r =>
    if Fmt.isInt f then .ints [wrap32 (bias + r.foldl max v)]
    else .flts [quiet (r.foldl (fun a x => fmax a (widen f x)) (widen f v))]

/-- The mean of a window: BIAS and an integer sum with M and S of its count, or an FP32 sum divided by its
count (R251, R268). -/
def meanOf (f : Fmt) (bias : Int) (l : List Int) : Acc :=
  if Fmt.isInt f then .ints [wrap32 (bias + l.sum)]
  else .flts [fdiv (match l.map (widen f) with
    | [] => 0
    | v :: r => r.foldl fadd v) (toF32 (Fl.ofInt l.length))]

/-! ## Resampling -/

/-- The sample coordinate of R261 in 32-bit signed arithmetic. -/
def sampleCoord (c0 c1 : Int) (n i : Nat) : Int :=
  let step := Int.tdiv (wrap32 (c1 - c0)) n
  wrap32 (c0 + step * i + step / 2 - 0x8000)

/-- The sample coordinate of a resize (R263). -/
def resizeCoord (mode : ResizeMode) (inSize outSize i : Nat) : Int :=
  match mode with
  | .halfPixel => sampleCoord 0 (inSize * 65536 : Nat) outSize i
  | .alignCorners => if outSize = 1 then 0 else (((inSize - 1) * 65536 / (outSize - 1)) * i : Nat)

/-- An element for a sample: inside the map, or the fill value; without one the nearest element
(R261, R263). -/
def Maps.sample (m : Maps) (id b : Nat) (fill : Option Int) (y x : Int) (c : Nat) : Int :=
  let t := m.decl id
  let inside := decide (0 ≤ y) && decide (y < dimBack t 2) && decide (0 ≤ x) && decide (x < dimBack t 1)
  match fill with
  | some v => if inside then m.at id b y.toNat x.toNat c else v
  | none => m.at id b (clampInt 0 ((dimBack t 2 : Int) - 1) y).toNat
      (clampInt 0 ((dimBack t 1 : Int) - 1) x).toNat c

/-- The limits of an integer format. -/
def fmtLo (f : Fmt) : Int := -(2 ^ (Fmt.bits f - 1))
def fmtHi (f : Fmt) : Int := 2 ^ (Fmt.bits f - 1) - 1

/-- The bilinear sample (R262). -/
def Maps.bilinear (m : Maps) (id bt : Nat) (fill : Option Int) (outFmt : Fmt) (y x : Int) (ch : Nat) : Acc :=
  let t := m.decl id
  let iy := y / 65536
  let ix := x / 65536
  let fy := y / 256 % 256
  let fx := x / 256 % 256
  let e (dy dx : Int) : Int := m.sample id bt fill (iy + dy) (ix + dx) ch
  if Fmt.isInt t.fmt then
    let z (v : Int) : Int := v - t.zp
    let v := wrap32 ((256 - fx) * (256 - fy) * z (e 0 0) + fx * (256 - fy) * z (e 0 1)
      + (256 - fx) * fy * z (e 1 0) + fx * fy * z (e 1 1))
    .stored (clampInt (fmtLo outFmt) (fmtHi outFmt) (roundShift .halfAway v 16 + t.zp))
  else
    let w (v : Int) : Nat := widen t.fmt v
    let mix (f : Int) (p q : Nat) : Nat :=
      fadd p (fmul (fdiv (toF32 (Fl.ofInt f)) (toF32 (Fl.ofInt 256))) (fsub q p))
    .flts [mix fy (mix fx (w (e 0 0)) (w (e 0 1))) (mix fx (w (e 1 0)) (w (e 1 1)))]

/-- The nearest sample: the element at (y + 0x8000) >> 16 (R261). -/
def Maps.nearest (m : Maps) (id bt : Nat) (fill : Option Int) (y x : Int) (ch : Nat) : Acc :=
  .stored (m.sample id bt fill ((y + 0x8000) / 65536) ((x + 0x8000) / 65536) ch)

/-- The bytes of stored values (R266). -/
def packValues (f : Fmt) (l : List Int) : Bytes :=
  if f = .int4 then
    (pieces 2 l).map (fun p => BitVec.ofNat 8 ((p.getD 0 0 % 16).toNat + 16 * (p.getD 1 0 % 16).toNat))
  else l.flatMap (fun v => leInt (Fmt.bits f / 8) v)

/-- `n` bytes of a tensor as a number, little-endian: the box list and the count are tensors of bytes (R260). -/
def Maps.number (m : Maps) (id off n : Nat) : Nat := leNat (packValues (m.decl id).fmt (m.vals id)) off n

/-- A field of a box entry (R260). -/
def Maps.boxField (m : Maps) (boxes b off n : Nat) : Nat := m.number boxes (32 * b + off) n

/-- One element of CROP_RESIZE (R260, R261): outputs are MAX_BOXES × CH × CW × C. -/
def Maps.crop (m : Maps) (inp boxes count : Nat) (ch cw maxBoxes : Nat) (bil : Bool) (extra : Int)
    (out : TensorDecl) (i : Nat) : Acc :=
  let c := dimBack out 0
  let b := i / c / cw / ch
  let y := i / c / cw % ch
  let x := i / c % cw
  let n := m.number count 0 4
  if min n maxBoxes ≤ b then .stored (zeroOf (m.decl inp))
  else
    let f (o : Nat) : Int := signed 32 (m.boxField boxes b o 4)
    let bt := m.boxField boxes b 16 2
    if dimBack (m.decl inp) 3 ≤ bt then .stored extra
    else
      let sy := sampleCoord (f 0) (f 8) ch y
      let sx := sampleCoord (f 4) (f 12) cw x
      if bil then m.bilinear inp bt (some extra) out.fmt sy sx (i % c)
      else m.nearest inp bt (some extra) sy sx (i % c)

/-! ## Elementwise -/

/-- Integer functions whose result R250 states: operands with zero point 0. -/
def elemInt (f : ElemFn) (x y : Int) (zx zy p0 p1 : Int) : Int :=
  let free := Config.elemInt f [x, y, zx, zy, p0, p1]
  let plain := zx == 0 && zy == 0
  match f with
  | .add => if plain then x + y else free
  | .sub => if plain then x - y else free
  | .mul => if plain then x * y else free
  | .max => if zx = zy then max x y else free
  | .min => if zx = zy then min x y else free
  | .relu => if plain then max x 0 else free
  | .clamp => if plain then clampInt p0 p1 x else free
  | _ => free

/-- Floating functions on FP32 patterns (R242, R250). -/
def elemFp (f : ElemFn) (fmt : Fmt) (stored : Int) (x y p0 p1 : Nat) : Nat :=
  match f with
  | .add => fadd x y
  | .sub => fsub x y
  | .mul => fmul x y
  | .max => fmax x y
  | .min => fmin x y
  | .relu => fmax x 0
  | .leakyRelu => if (f32 x).lt (f32 0) then fmul x p0 else x
  | .clamp => fmin (fmax x p0) p1
  | .exp => fexp x
  | .recip => frecip x
  | .rsqrt => frsqrt x
  | .cast => x
  | .sigmoid | .tanh | .gelu =>
    if f32 x = .nan then fp32Fmt.nanBits else quiet (Config.activation f fmt stored % 2 ^ 32).toNat

/-- One element of ELEMENTWISE; an integer result starts from BIAS as an accumulator does (R268, R272). -/
def Maps.elem (m : Maps) (bias : Int) (f : ElemFn) (a : Nat) (b : Option Nat) (p0 p1 : Int) (i : Nat) : Acc :=
  let ta := m.decl a
  let x := (m.vals a).getD i 0
  let y := match b with
    | some id => (m.vals id).getD (i % max 1 (m.vals id).length) 0
    | none => 0
  let tb := match b with
    | some id => m.decl id
    | none => { ta with zp := 0 }
  let pat (v : Int) : Nat := (v % 2 ^ 32).toNat
  if Fmt.isInt ta.fmt then
    match f with
    | .cast => .flts [toF32 ((Fl.ofInt (x - ta.zp)).mul (f32 (pat p0)))]
    | .exp | .recip | .rsqrt | .sigmoid | .tanh | .gelu =>
      .ints [wrap32 (bias + Config.activation f ta.fmt x)]
    | _ => .ints [wrap32 (bias + elemInt f x y ta.zp tb.zp p0 p1)]
  else .flts [elemFp f ta.fmt x (widen ta.fmt x) (widen tb.fmt y) (pat p0) (pat p1)]

/-! ## Data movement -/

/-- SPACE_TO_DEPTH (R258). -/
def Maps.spaceToDepth (m : Maps) (inp b : Nat) (pad : PadMode) (out : TensorDecl) (i : Nat) : Int :=
  let (y, x, k) := outPos out i
  let c := dimBack (m.decl inp) 0
  m.padded inp pad ((y * b + k / c / b : Nat) : Int) ((x * b + k / c % b : Nat) : Int) (k % c)

/-- DEPTH_TO_SPACE, the inverse (R258). -/
def Maps.depthToSpace (m : Maps) (inp b : Nat) (out : TensorDecl) (i : Nat) : Int :=
  let (y, x, c) := outPos out i
  m.at inp 0 (y / b) (x / b) ((y % b * b + x % b) * dimBack out 0 + c)

/-! ## One output element -/

/-- A value held in a format's pattern. -/
def fitFormat (f : Fmt) (v : Int) : Int :=
  if Fmt.isInt f then signed (Fmt.bits f) (v % 2 ^ Fmt.bits f).toNat else v % 2 ^ Fmt.bits f

/-- What an operator of the vector unit sees of a tensor: format, shape, zero point, values. -/
def Maps.seen (m : Maps) (id : Nat) : Fmt × List Nat × Int × List Int :=
  ((m.decl id).fmt, (m.decl id).dims, (m.decl id).zp, m.vals id)

/-- The elements that share a reduction with element `i` along an axis counted from the last. -/
def alongAxis (t : TensorDecl) (axis i : Nat) : List Nat :=
  let below := ((List.range axis).map (dimBack t)).foldl (· * ·) 1
  let n := dimBack t axis
  (List.range n).map (fun k => i / (below * n) * (below * n) + k * below + i % below)

/-- A norm or a softmax has a NaN among the elements that it reduces (R267); the reach of GROUP_NORM and of
ATTENTION is the image's own, and a NaN there is left to the free value. -/
def Maps.nanIn (m : Maps) (kind : VecKind) (inps : List Nat) (axis i : Nat) : Bool :=
  let a := inps.headD 0
  let t := m.decl a
  match kind with
  | .layerNorm | .rmsNorm | .softmax =>
    !Fmt.isInt t.fmt && (alongAxis t axis i).any (fun j => decide (f32 (widen t.fmt ((m.vals a).getD j 0)) = .nan))
  | _ => false

/-- The accumulators of element `i` of an operator's output. -/
def Maps.acc (m : Maps) (o : OpNode) (i : Nat) : Acc :=
  let out := m.decl o.out
  let n := dimBack out 0
  let bias := biasOf o.epi (i % n)
  match o.op with
  | .matmul .. | .conv2d .. | .convTranspose .. => m.matAcc o (i / n) (i % n)
  | .depthwise inp wt row col pad => m.depthAcc o inp wt row col pad i
  | .maxPool inp row col =>
    let (y, x, c) := outPos out i
    maxOf (m.decl inp).fmt bias (m.window inp row col y x c)
  | .avgPool inp row col _ =>
    let (y, x, c) := outPos out i
    meanOf (m.decl inp).fmt bias (m.window inp row col y x c)
  | .globalAvgPool inp _ =>
    let t := m.decl inp
    meanOf t.fmt bias ((List.range (dimBack t 2 * dimBack t 1)).map (fun p =>
      m.at inp 0 (p / dimBack t 1) (p % dimBack t 1) (i % n)))
  | .resizeNearest inp mode =>
    let (y, x, c) := outPos out i
    m.nearest inp 0 none (resizeCoord mode (dimBack (m.decl inp) 2) (dimBack out 2) y)
      (resizeCoord mode (dimBack (m.decl inp) 1) (dimBack out 1) x) c
  | .resizeBilinear inp mode =>
    let (y, x, c) := outPos out i
    m.bilinear inp 0 none out.fmt (resizeCoord mode (dimBack (m.decl inp) 2) (dimBack out 2) y)
      (resizeCoord mode (dimBack (m.decl inp) 1) (dimBack out 1) x) c
  | .cropResize inp boxes count ch cw maxBoxes bil extra =>
    m.crop inp boxes count ch cw maxBoxes bil extra out i
  | .vector kind inps axis params =>
    .flts [if m.nanIn kind inps axis i then fp32Fmt.nanBits
      else quiet (Config.vecReduce kind axis params (inps.map m.seen) i).toNat]
  | .elementwise f a b p0 p1 => m.elem bias f a b p0 p1 i
  | .spaceToDepth inp b pad => .stored (m.spaceToDepth inp b pad out i)
  | .depthToSpace inp b => .stored (m.depthToSpace inp b out i)
  | .move g => .stored (match g[i]? with
    | some p => (m.vals p.1).getD p.2 0
    | none => 0)

/-- M and S of a pooling count replace the requantiser's (R251); the one count of GLOBAL_AVGPOOL has one entry. -/
def poolRequant (m : Maps) (o : OpNode) (i : Nat) (q : Requant) : Requant :=
  let pick (per : List (Int × Nat)) (count : Nat) : Requant :=
    match per[count - 1]? with
    | some p => { q with grain := .tensor, m := [p.1], s := [p.2] }
    | none => q
  match o.op with
  | .avgPool inp row col per =>
    let (y, x, c) := outPos (m.decl o.out) i
    pick per (m.window inp row col y x c).length
  | .globalAvgPool _ per => pick per 1
  | _ => q

/-- The block of accumulators that the Spreader rotates for element `i`, and its place in it (R280). -/
def rotated (n : Nat) (acc : Nat → Acc) (c i : Nat) : Acc :=
  let base := i - c % n
  let block := (List.range n).map (fun j => acc (base + j))
  match acc i with
  | .ints _ => .ints [(spreadInt (block.map (fun a => match a with
      | .ints [v] => v
      | _ => 0))).getD (c % n) 0]
  | .flts _ => .flts [(spreadFp (block.map (fun a => match a with
      | .flts [v] => v
      | _ => 0))).getD (c % n) 0]
  | a => a

/-- What reaches a requantiser: through the Spreader under ROTATE (R279, R280). -/
def spreadBy (q : Requant) (acc : Nat → Acc) (c i : Nat) : Acc :=
  match q.outlier with
  | .rotate n => rotated n acc c i
  | _ => acc i

/-- From the accumulators of element `i` to its stored value (R272, R276 to R279). -/
def Maps.finish (m : Maps) (o : OpNode) (acc : Nat → Acc) (i : Nat) : Int :=
  let out := m.decl o.out
  let c := i % dimBack out 0
  match o.epi with
  | .requant q =>
    let q := poolRequant m o i q
    (match spreadBy q acc c i with
     | .ints g => Requant.out q c g
     | .flts g => Requant.cast q c 0x3F800000 (g.headD 0)
     | .stored v => v)
  | .cast q inv =>
    (match spreadBy q acc c i with
     | .flts g => Requant.cast q c inv.toNat (g.headD 0)
     | .ints g => Requant.out q c g
     | .stored v => v)
  | .float grain scale biasF sat =>
    (match acc i with
     | .flts g => narrow out.fmt sat (floatScale grain scale biasF c g)
     | .ints g => fitFormat out.fmt (g.headD 0)
     | .stored v => v)
  | .raw sat =>
    (match acc i with
     | .ints g => fitFormat out.fmt (g.headD 0)
     | .flts g => narrow out.fmt sat (g.headD 0)
     | .stored v => v)

/-- The stored value of element `i` of an operator's output. -/
def Maps.value (m : Maps) (o : OpNode) (i : Nat) : Int := m.finish o (m.acc o) i

/-! ## Names of the library (R250) -/

/-- The ID of an operator. -/
def opId : Op → BitVec 16
  | .conv2d .. => 0x0001
  | .depthwise .. => 0x0002
  | .convTranspose .. => 0x0003
  | .maxPool .. => 0x0010
  | .avgPool .. => 0x0011
  | .globalAvgPool .. => 0x0012
  | .resizeNearest .. => 0x0020
  | .resizeBilinear .. => 0x0021
  | .cropResize .. => 0x0022
  | .matmul .. => 0x0030
  | .vector .attention .. => 0x0031
  | .vector .layerNorm .. => 0x0040
  | .vector .rmsNorm .. => 0x0041
  | .vector .groupNorm .. => 0x0042
  | .vector .softmax .. => 0x0043
  | .elementwise .. => 0x0050
  | .spaceToDepth .. => 0x0060
  | .depthToSpace .. => 0x0061
  | .move .. => 0x0070

/-- The code of an ELEMENTWISE function. -/
def elemCode : ElemFn → BitVec 8
  | .add => 0x01
  | .sub => 0x02
  | .mul => 0x03
  | .max => 0x04
  | .min => 0x05
  | .relu => 0x06
  | .leakyRelu => 0x07
  | .clamp => 0x08
  | .sigmoid => 0x09
  | .tanh => 0x0A
  | .gelu => 0x0B
  | .exp => 0x0C
  | .recip => 0x0D
  | .rsqrt => 0x0E
  | .cast => 0x0F

end Sys2Proof.Machine
end

