-- ==== Sys2Proof/Machine/Abft.lean ====
section
/-!
DEFINITION. The check column (R339 to R344): what the ABFT comparator forms for one accumulator row
of a weight block, group by group and canonical chunk by canonical chunk, and when the row passes.
-/

namespace Sys2Proof.Machine

/-! ## Weight blocks -/

/-- The columns of the weight block that holds a column: N of R240, within one group of channels. -/
def blockCols (op : Op) (a : Fmt) (n col : Nat) : List Nat :=
  let per := match op with
    | .conv2d _ _ g _ _ _ _ => n / max 1 g
    | _ => n
  let base := col / max 1 per * per
  let lo := base + (col - base) / nOf a * nOf a
  (List.range (min (nOf a) (base + per - lo))).map (· + lo)

/-- One accumulator row of a weight block: the formats of activations and weights, K, and for each column the
products that make up its partial sums, from the weights as they were loaded (R339), with its BIAS. -/
structure CheckRow where
  a    : Fmt
  w    : Fmt
  k    : Nat
  cols : List Parts
  bias : List Int

/-- The rows of one chunk of one group, column by column. -/
def CheckRow.chunk (r : CheckRow) (g c : Nat) : List (List (List (Int × Int))) :=
  r.cols.map (fun p => (p.getD g []).getD c [])

/-- Partial sums of the columns: column, group, chunk; an FP32 value is its pattern. -/
abbrev ColSums := List Sums

/-- The sums of one chunk of one group, column by column. -/
def chunkSums (s : ColSums) (g c : Nat) : List Int := s.map (fun p => (p.getD g []).getD c 0)

/-- Products of a chunk of one group, all columns alike. -/
def CheckRow.len (r : CheckRow) (g c : Nat) : Nat := (((r.chunk g c).headD []).map List.length).sum

/-- Element `j` of row `i` of the first column: every column has the same activations. -/
def activation (cs : List (List (List (Int × Int)))) (i j : Nat) : Int :=
  ((((cs.headD []).getD i []).getD j (0, 0))).1

/-- The weights of element `j` of row `i` in every column. -/
def weightRow (cs : List (List (List (Int × Int)))) (i j : Nat) : List Int :=
  cs.map (fun rows => ((rows.getD i []).getD j (0, 0)).2)

/-- Every element of a chunk by row and place, row by row. -/
def places (cs : List (List (List (Int × Int)))) : List (List (Nat × Nat)) :=
  ((cs.headD []).zipIdx).map (fun row => (List.range row.1.length).map (fun j => (row.2, j)))

/-! ## Integer pairings -/

/-- C of R340 and R341 for one chunk: the biases in the first, and every activation times the sum of its weight
row. -/
def CheckRow.checkInt (r : CheckRow) (g c : Nat) : Int :=
  let cs := r.chunk g c
  wrap32 ((if c = 0 then r.bias.sum else 0)
    + ((places cs).flatten.map (fun p => activation cs p.1 p.2 * (weightRow cs p.1 p.2).sum)).sum)

/-! ## Floating pairings -/

/-- Binary64, in which the comparator computes (R342). -/
def fp64Fmt : FpFmt := ⟨52, 11, -1074, true⟩

/-- A value rounded to binary64. -/
def r64 (x : Fl) : Fl := fp64Fmt.decode (fp64Fmt.encode false x)

/-- The tolerance of R342. -/
def tolerance (len k n : Nat) (g : Nat) : Fl :=
  let lk := r64 ((Fl.ofInt (2 * len)).div (Fl.ofInt k))
  let f := r64 ((r64 (lk.add (Fl.ofInt (levels n)))).add (Fl.ofInt 14))
  r64 ((r64 (f.mul ((Fl.fin false 1 (-24)).mul (f32 g)))).add (.fin false 1 (-126)))

/-- The exact sum of FP32 patterns. -/
def exactSum (l : List Nat) : Fl := l.foldl (fun a x => a.add (f32 x)) (.fin false 0 0)

/-- An FP32 sum of magnitudes, rounded up (R339, R342): free, but never below the exact sum. -/
def absSum (l : List Nat) : Nat :=
  let mags := l.map (fun x => x % 2 ^ 31)
  let free := (Config.absSum (mags.map (BitVec.ofNat 32))).toNat
  let e := exactSum mags
  if (f32 free).lt e ∨ ((f32 free).special ∧ e.special = false) then mags.foldl faddUp 0 else free

/-- w of R339, the FP32 sum of a weight row: free within what the order of the additions can change. -/
def rowSum (l : List Nat) : Nat :=
  let free := (Config.rowSum (l.map (BitVec.ofNat 32))).toNat
  let e := exactSum l
  let slack := (exactSum (l.map (fun x => x % 2 ^ 31))).mul (.fin false l.length (-24))
  if (f32 free).special = e.special ∧ slack.lt ((f32 free).add e.neg).abs = false then free else l.foldl fadd 0

/-- C and G of R342 for one chunk. -/
def CheckRow.checkFloat (r : CheckRow) (g c : Nat) : Nat × Nat :=
  let cs := r.chunk g c
  let act (p : Nat × Nat) : Nat := widen r.a (activation cs p.1 p.2)
  let row (p : Nat × Nat) : List Nat := (weightRow cs p.1 p.2).map (widen r.w)
  (floatRows r.k ((places cs).map (fun l => l.map (fun p => fmul (act p) (rowSum (row p))))),
   (places cs).foldl (fun g l => faddUp g (fmulUp (absSum (l.map act)) ((l.map (fun p => absSum (row p))).foldl fmax 0))) 0)

/-- The outcome of a comparison (R341, R342, R344). -/
inductive Compared where
  | unchecked
  | passed
  | failed
  deriving DecidableEq, Repr

/-- The comparison of R342, and of R344. -/
def compareFloat (len k n c g : Nat) (accs : List Nat) : Compared :=
  let s := treeSum (levels accs.length) accs
  if (f32 c).special || (f32 s).special || accs.any (fun x => (f32 x).special) then .unchecked
  else if (tolerance len k n g).lt (r64 ((f32 c).add (f32 s).neg).abs) then .failed
  else .passed

/-! ## One row -/

/-- The comparison of a group, as partial sums where it has several chunks (R343): each with its own check value
over its chunk, and all combined in the same tree and order over the full length. -/
def CheckRow.group (r : CheckRow) (s : ColSums) (g : Nat) : List Compared :=
  let cs := List.range ((r.cols.headD []).getD g []).length
  if Fmt.isInt r.a then
    let one (c : Nat) : Compared :=
      if wrap32 (chunkSums s g c).sum = r.checkInt g c then .passed else .failed
    let all : Compared :=
      if wrap32 ((cs.map (fun c => (chunkSums s g c).sum)).sum) = wrap32 ((cs.map (r.checkInt g)).sum) then .passed
      else .failed
    if cs.length ≤ 1 then [all] else cs.map one ++ [all]
  else
    let checks := cs.map (r.checkFloat g)
    let one (c : Nat) : Compared :=
      let x := checks.getD c (0, 0)
      compareFloat (r.len g c) r.k (nOf r.a) x.1 x.2 ((chunkSums s g c).map Int.toNat)
    let tree (l : List Nat) : Nat := treeSum (levels l.length) l
    let all := compareFloat ((cs.map (r.len g)).sum) r.k (nOf r.a) (tree (checks.map (·.1)))
      ((checks.map (·.2)).foldl faddUp 0) (s.map (fun p => tree ((p.getD g []).map Int.toNat)))
    if cs.length ≤ 1 then [all] else cs.map one ++ [all]

/-- Every comparison of a row. -/
def CheckRow.compare (r : CheckRow) (s : ColSums) : List Compared :=
  (List.range (r.cols.headD []).length).flatMap (r.group s)

/-- The row fails graft point 5. -/
def CheckRow.fails (r : CheckRow) (s : ColSums) : Bool := (r.compare s).contains .failed

/-- The row counts in the engine's unchecked-row counter (R344). -/
def CheckRow.unchecked (r : CheckRow) (s : ColSums) : Bool := (r.compare s).contains .unchecked

/-- The row of an output position and of columns of one weight block. -/
def Maps.checkRow (m : Maps) (o : OpNode) (pos : Nat) (cols : List Nat) : CheckRow :=
  match matTensors o.op with
  | none => { a := .int8, w := .int8, k := 32, cols := [], bias := [] }
  | some (inp, wt) =>
    { a := (m.decl inp).fmt, w := (m.decl wt).fmt, k := kOf (m.decl inp).fmt (m.decl wt).fmt o.epi
      cols := cols.map (m.matParts o pos), bias := cols.map (biasOf o.epi) }

/-- A pattern with bits inverted: the value of a partial sum after a disturbance. -/
def flipSum (isInt : Bool) (mask : BitVec 32) (v : Int) : Int :=
  let b := BitVec.ofInt 32 v ^^^ mask
  if isInt then b.toInt else (b.toNat : Int)

end Sys2Proof.Machine
end

