-- ==== Sys2Proof/Machine/Image.lean ====
section
/-!
DEFINITION. Graph images: tiles and the parts of maps that they need (R256, R311), the checks of GRAPH_LOAD (R244
to R248, R250, R251, R255 to R260, R264, R270 to R273, R281, R311, R324), which tiles may start, and what a tile
computes (R255, R256, R311), with what the check column makes of disturbances (R339 to R344).
-/

namespace Sys2Proof

open Machine

/-! ## Parts of an image -/

/-- A tensor without a declaration. -/
def noTensor (id : Nat) : TensorDecl :=
  { id := id, fmt := .int8, dims := [], role := .internal, data := [], zp := 0, exportTo := none, slotOff := 0 }

/-- The declaration of a tensor. -/
def GraphImage.tensor (g : GraphImage) (id : Nat) : TensorDecl :=
  (g.tensors.find? (fun t => t.id == id)).getD (noTensor id)

/-- Bytes of a tensor in memory: INT4 packs two elements a byte (R266). -/
def TensorDecl.bytes (t : TensorDecl) : Nat := (TensorDecl.size t * Fmt.bits t.fmt + 7) / 8

/-- The tensors that an operator reads. -/
def opInputs : Op → List Nat
  | .conv2d i w _ _ _ _ _ | .depthwise i w _ _ _ | .convTranspose i w _ _ _ _ _ | .matmul i w => [i, w]
  | .maxPool i _ _ | .avgPool i _ _ _ | .globalAvgPool i _ | .resizeNearest i _ | .resizeBilinear i _
  | .spaceToDepth i _ _ | .depthToSpace i _ => [i]
  | .cropResize i b c _ _ _ _ _ => [i, b, c]
  | .vector _ l _ _ => l
  | .elementwise _ a b _ _ => a :: b.toList
  | .move g => (g.map (·.1)).dedup

/-- The tensors that the host binds (R145). -/
def TensorDecl.bindable (t : TensorDecl) : Bool :=
  t.role == .input || t.role == .frame || t.role == .output

/-- A tensor whose values come from outside the operators. -/
def TensorDecl.given (t : TensorDecl) : Bool := t.role == .input || t.role == .frame || t.role == .const

/-! ## Tiles and the parts of maps that they need -/

/-- Rows of a map; the rows of a batch follow one another. -/
def mapRows (t : TensorDecl) : Nat := TensorDecl.size t / max 1 (dimBack t 1 * dimBack t 0)

/-- The numbers of a span. -/
def Span.list (s : Span) : List Nat := (List.range (s.hi - s.lo)).map (· + s.lo)

/-- The elements of a tile, in ascending order. -/
def TileDecl.elems (t : TileDecl) (out : TensorDecl) : List Nat :=
  (Span.list t.rows).flatMap (fun y => (Span.list t.cols).flatMap (fun x =>
    (Span.list t.chans).map (fun c => (y * dimBack out 1 + x) * dimBack out 0 + c)))

/-- A part of a map: rows from `r0` to `r1 - 1` and columns from `x0` to `x1 - 1`, which may lie outside it. -/
structure Box where
  r0 : Int
  r1 : Int
  x0 : Int
  x1 : Int
  deriving DecidableEq, Repr

/-- The box of a tile. -/
def TileDecl.box (t : TileDecl) : Box := ⟨t.rows.lo, t.rows.hi, t.cols.lo, t.cols.hi⟩

/-- The part of a box inside a map. -/
def Box.clip (b : Box) (t : TensorDecl) : Box :=
  let h : Int := mapRows t
  let w : Int := dimBack t 1
  ⟨clampInt 0 h b.r0, clampInt 0 h b.r1, clampInt 0 w b.x0, clampInt 0 w b.x1⟩

/-- Positions of a box. -/
def Box.area (b : Box) : Nat := (b.r1 - b.r0).toNat * (b.x1 - b.x0).toNat

/-- The positions of a map in a box inside it. -/
def Box.positions (b : Box) (t : TensorDecl) : List Nat :=
  (List.range (b.r1 - b.r0).toNat).flatMap (fun y => (List.range (b.x1 - b.x0).toNat).map (fun x =>
    (b.r0.toNat + y) * dimBack t 1 + b.x0.toNat + x))

/-- Input positions `lo` to `hi - 1` of a windowed axis for outputs `lo` to `hi - 1`: (T − 1) × s + d × (k − 1) + 1
of them (R256). -/
def WinAxis.need (a : WinAxis) (p : Int × Int) : Int × Int :=
  (p.1 * a.s - a.padLo, (p.2 - 1) * a.s - a.padLo + a.d * (a.k - 1) + 1)

/-- The inputs that reach a span of outputs of a transposed convolution (R264). -/
def WinAxis.needTransposed (a : WinAxis) (p : Int × Int) : Int × Int :=
  (-(-(p.1 + a.padLo - a.d * (a.k - 1)) / a.s), (p.2 - 1 + a.padLo) / a.s + 1)

/-- What an operator needs of an axis of its input for a span of its output (R256): the row axis or the column
axis of windows, `n` elements in and `m` out. -/
def axisNeed (op : Op) (rows : Bool) (n m : Nat) (p : Int × Int) : Int × Int :=
  let pick (row col : WinAxis) : WinAxis := if rows then row else col
  let near (mode : ResizeMode) (half past : Int) : Int × Int :=
    ((resizeCoord mode n m p.1.toNat + half) / 65536, (resizeCoord mode n m (p.2 - 1).toNat + half) / 65536 + past)
  match op with
  | .conv2d _ _ _ row col _ _ | .depthwise _ _ row col _ | .maxPool _ row col | .avgPool _ row col _ =>
    WinAxis.need (pick row col) p
  | .convTranspose _ _ row col _ _ _ => WinAxis.needTransposed (pick row col) p
  | .resizeNearest _ mode => near mode 0x8000 1
  | .resizeBilinear _ mode => near mode 0 2
  | .spaceToDepth _ b _ => (p.1 * b, p.2 * b)
  | .depthToSpace _ b => (p.1 / b, (p.2 - 1) / b + 1)
  | .elementwise .. | .matmul .. => p
  | .vector k .. => if k = .layerNorm ∨ k = .rmsNorm ∨ k = .softmax then p else (0, n)
  | _ => (0, n)

/-- A tile's own share of an axis of an operator's input: what it needs without the growth of the windows (R256). -/
def axisShare (op : Op) (rows : Bool) (n m : Nat) (p : Int × Int) : Int × Int :=
  let by_ (s : Nat) : Int × Int := (p.1 * s, p.2 * s)
  match op with
  | .conv2d _ _ _ row col _ _ | .depthwise _ _ row col _ | .maxPool _ row col | .avgPool _ row col _ =>
    by_ (if rows then row.s else col.s)
  | .convTranspose _ _ row col _ _ _ =>
    let s : Int := if rows then row.s else col.s
    (p.1 / s, -(-p.2 / s))
  | .resizeNearest .. | .resizeBilinear .. => (p.1 * n / max 1 m, -(-(p.2 * n) / max 1 m))
  | op => axisNeed op rows n m p

/-- A part of an operator's input for a part of its output, by a rule for each axis. -/
def backBox (rule : Op → Bool → Nat → Nat → Int × Int → Int × Int) (op : Op) (inp out : TensorDecl) (b : Box) : Box :=
  let r := rule op true (mapRows inp) (mapRows out) (b.r0, b.r1)
  let x := rule op false (dimBack inp 1) (dimBack out 1) (b.x0, b.x1)
  ⟨r.1, r.2, x.1, x.2⟩

/-- The operators of a chain, the last first, each with the part of its output that is needed; and the part of the
chain's input (R256). -/
def GraphImage.walkBack (g : GraphImage) (rule : Op → Bool → Nat → Nat → Int × Int → Int × Int) :
    List OpNode → Box → List (OpNode × Box) × Box
  | [], b => ([], b)
  | o :: r, b =>
    let inp := match r with
      | p :: _ => p.out
      | [] => (opInputs o.op).headD 0
    let (l, i) := g.walkBack rule r (backBox rule o.op (g.tensor inp) (g.tensor o.out) b)
    ((o, b) :: l, i)

/-- The operators that a tile of an operator runs: the fused group that ends there, or it alone. -/
def GraphImage.chain (g : GraphImage) (i : Nat) : List Nat :=
  match g.groups.find? (fun f => f.ops.getLast? == some i) with
  | some f => f.ops
  | none => [i]

/-- Passes of a tile through the accumulator file, which holds 512 rows of positions (R240, R257). -/
def TileDecl.passes (t : TileDecl) : Nat := (Box.area (TileDecl.box t) + 511) / 512

/-! ## Step 4 of R248 -/

/-- The matrix pairings of R240. -/
def pairingOk (a w : Fmt) : Bool :=
  let fp8 (f : Fmt) : Bool := f == .e4m3 || f == .e5m2
  (a == .int8 && w == .int8) || (fp8 a && fp8 w) || (a == .int8 && w == .int4)
    || (a == .int4 && w == .int4) || (a == .bf16 && w == .bf16) || (a == .fp16 && w == .fp16)

/-- One axis of a window within R245. -/
def WinAxis.ok (a : WinAxis) : Bool :=
  decide (1 ≤ a.k) && decide (a.k ≤ 16) && decide (1 ≤ a.s) && decide (a.s ≤ 8) && decide (1 ≤ a.d)
    && decide (a.d ≤ 16) && decide (a.padLo ≤ 15) && decide (a.padHi ≤ 15)
    && decide (a.d * (a.k - 1) + 1 ≤ 255)

/-- An axis whose output size is as declared, with padding that REFLECT can serve (R245, R246). -/
def WinAxis.fits (a : WinAxis) (p : PadMode) (n out : Nat) : Bool :=
  WinAxis.ok a && decide (1 ≤ winOut n a) && decide (winOut n a = out)
    && (decide (p ≠ .reflect) || (decide (a.padLo < n) && decide (a.padHi < n)))

/-- Real elements of an axis of a window, for each output (R251). -/
def WinAxis.counts (a : WinAxis) (n out : Nat) : List Nat :=
  (List.range out).map (fun o => ((List.range a.k).filter (fun k =>
    decide (0 ≤ tapIndex a o k) && decide (tapIndex a o k < n))).length)

/-- The formats of an operator (R250). -/
def opFormats (o : Op) : List Fmt :=
  match o with
  | .depthwise .. | .avgPool .. | .globalAvgPool .. | .resizeBilinear .. | .cropResize .. =>
    [.int8, .fp16, .bf16]
  | .maxPool .. => [.int8, .e4m3, .e5m2, .fp16, .bf16]
  | .vector .attention .. => [.int8, .e4m3, .e5m2, .fp16, .bf16]
  | .vector .. => [.fp16, .bf16, .int8]
  | _ => [.int4, .int8, .e4m3, .e5m2, .fp16, .bf16, .fp32, .int32]

/-- The tensors of an operator whose formats R250 limits: a crop's boxes and count are bytes. -/
def opMaps (o : Op) : List Nat :=
  match o with
  | .cropResize i .. => [i]
  | o => opInputs o

/-- M and S within their ranges (R271). -/
def perCountOk (per : List (Int × Nat)) : Bool := per.all (fun p => decide (-(2 ^ 31) ≤ p.1) && decide (p.1 < 2 ^ 31)
  && decide (p.2 ≤ 63))

/-- An operator within its rules (R245, R246, R250, R251, R258, R260, R264, R270). -/
def GraphImage.opOk (g : GraphImage) (o : OpNode) : Bool :=
  let t := g.tensor
  let out := t o.out
  let h (i : Nat) : Nat := dimBack (t i) 2
  let w (i : Nat) : Nat := dimBack (t i) 1
  let c (i : Nat) : Nat := dimBack (t i) 0
  let win (i : Nat) (row col : WinAxis) (p : PadMode) : Bool :=
    WinAxis.fits row p (h i) (dimBack out 2) && WinAxis.fits col p (w i) (dimBack out 1)
  let mat (i wt : Nat) : Bool := pairingOk (t i).fmt (t wt).fmt && (t wt).zp == 0
  let formats := (opMaps o.op).all (fun i => (opFormats o.op).contains (t i).fmt)
  let oneBy (i : Nat) : Bool := c i == dimBack out 0
  let counts (i : Nat) (row col : WinAxis) : List Nat :=
    (WinAxis.counts row (h i) (dimBack out 2)).flatMap (fun a =>
      (WinAxis.counts col (w i) (dimBack out 1)).map (a * ·))
  let pads (b n : Nat) : Nat := (n + b - 1) / b * b - n
  formats && match o.op with
  | .conv2d i wt gr row col p _ =>
    mat i wt && win i row col p && decide (1 ≤ gr) && decide (gr ≤ c i) && c i % gr == 0
      && dimBack out 0 % gr == 0 && dimBack (t wt) 0 == dimBack out 0
  | .depthwise i wt row col p => win i row col p && (t wt).zp == 0 && oneBy i && decide ((t wt).fmt = (t i).fmt)
  | .convTranspose i wt row col pr pc _ =>
    mat i wt && WinAxis.ok row && WinAxis.ok col && decide (pr < row.s) && decide (pc < col.s)
      && decide (transOut (h i) row pr = dimBack out 2) && decide (transOut (w i) col pc = dimBack out 1)
      && decide (1 ≤ dimBack out 2) && decide (1 ≤ dimBack out 1) && dimBack (t wt) 0 == dimBack out 0
  | .maxPool i row col => win i row col .zero && oneBy i && (counts i row col).all (fun n => decide (1 ≤ n))
  | .avgPool i row col per =>
    win i row col .zero && oneBy i && perCountOk per && (counts i row col).all (fun n =>
      decide (1 ≤ n) && (!Fmt.isInt (t i).fmt || decide (n ≤ per.length)))
  | .globalAvgPool i per =>
    oneBy i && perCountOk per && decide (1 ≤ h i * w i) && (!Fmt.isInt (t i).fmt || per.length == 1)
  | .resizeNearest i _ | .resizeBilinear i _ => oneBy i
  | .cropResize i b n ch cw mb _ _ =>
    decide (1 ≤ mb) && decide (mb ≤ 4096) && oneBy i && dimBack out 2 == ch && dimBack out 1 == cw
      && decide (32 * mb ≤ TensorDecl.bytes (t b)) && decide (4 ≤ TensorDecl.bytes (t n))
  | .matmul i wt => mat i wt && dimBack (t wt) 1 == c i && dimBack (t wt) 0 == dimBack out 0
  | .spaceToDepth i b p =>
    [2, 4, 8].contains b && dimBack out 2 == (h i + b - 1) / b && dimBack out 1 == (w i + b - 1) / b
      && dimBack out 0 == c i * b * b
      && (decide (p ≠ .reflect) || (decide (pads b (h i) < h i) && decide (pads b (w i) < w i)))
  | .depthToSpace i b =>
    [2, 4, 8].contains b && decide (c i = dimBack out 0 * b * b) && decide (dimBack out 2 ≤ h i * b)
      && decide (dimBack out 1 ≤ w i * b)
  | .vector .. => true
  | .elementwise f a b _ _ =>
    TensorDecl.size (t a) == TensorDecl.size out && (match b with
      | some b => Fmt.isInt (t a).fmt == Fmt.isInt (t b).fmt && f != .cast
      | none => !([ElemFn.add, .sub, .mul, .max, .min].contains f))
  | .move l => l.length == TensorDecl.size out && l.all (fun p => decide (p.2 < TensorDecl.size (t p.1)))

/-- A list of one entry for all or one for each of `n`. -/
def oneOrEach {α : Type} (l : List α) (n : Nat) : Bool := l.length == 1 || l.length == n

/-- A value within a signed range of some bits. -/
def inBits (bits : Nat) (v : Int) : Bool :=
  decide (-(2 ^ (bits - 1)) ≤ v) && decide (v ≤ 2 ^ (bits - 1) - 1)

/-- The entries that a grain asks for, for `n` channels over a reduction (R273). -/
def grainOk (g : Grain) (entries n reduction : Nat) : Bool :=
  match g with
  | .tensor => entries == 1
  | .channel => entries == n
  | .group l => [32, 64, 128].contains l && decide (0 < reduction) && reduction % l == 0
      && entries == n * (reduction / l)

/-- LO, HI and ZP within the output format (R271, R272, R279). -/
def limitsOk (q : Requant) (out : TensorDecl) : Bool :=
  let n := dimBack out 0
  q.lo.length == q.hi.length && (if q.outlier = .clip then q.lo.length == n else q.lo.length == 1)
    && (q.lo.zip q.hi).all (fun p => inBits 32 p.1 && inBits 32 p.2 && decide (p.1 ≤ p.2)
      && decide (fmtLo out.fmt ≤ p.1 + q.zp) && decide (p.2 + q.zp ≤ fmtHi out.fmt))
    && inBits 8 q.zp && decide (fmtLo out.fmt ≤ q.zp) && decide (q.zp ≤ fmtHi out.fmt)
    && (decide (out.fmt ≠ .int32) || q.zp == 0)

/-- ROTATE within R280 and R281: the block divides the channels, and the grain is TENSOR. -/
def rotateOk (q : Requant) (n : Nat) : Bool :=
  match q.outlier with
  | .rotate k => [32, 64, 128].contains k && q.grain == .tensor && n % k == 0
  | _ => true

/-- Requantiser parameters within R271 to R273 and R281. -/
def requantOk (q : Requant) (out : TensorDecl) (reduction : Nat) : Bool :=
  let n := dimBack out 0
  Fmt.isInt out.fmt && limitsOk q out && rotateOk q n && grainOk q.grain q.m.length n reduction
    && (match q.grain with
      | .tensor => q.s.length == 1
      | .channel => q.s.length == n
      | .group _ => oneOrEach q.s n)
    && q.m.all (inBits 32) && q.s.all (fun s => decide (s ≤ 63)) && oneOrEach q.bias n
    && q.bias.all (inBits (if Requant.grouped q then 64 else 32))

/-- The way out of an operator fits it and its output (R268, R272, R276 to R278): an integer result passes the
requantiser, a floating one SCALE and BIAS_F; a conversion between the two is a CAST's, or that of a vector
operator to INT8; what only moves or resamples data keeps its format. -/
def GraphImage.epiOk (g : GraphImage) (o : OpNode) : Bool :=
  let out := g.tensor o.out
  let inp := g.tensor ((opInputs o.op).headD 0)
  let ints := Fmt.isInt inp.fmt
  let n := dimBack out 0
  let len := Machine.reductionLen g.tensor o.op
  let float (e : Epilogue) : Bool := match e with
    | .float gr scale biasF _ => grainOk gr scale.length n len && oneOrEach biasF n && !Fmt.isInt out.fmt
    | _ => false
  let requant (e : Epilogue) : Bool := match e with
    | .requant q => requantOk q out len
    | _ => false
  let cast (e : Epilogue) : Bool := match e with
    | .cast q _ => Fmt.isInt out.fmt && limitsOk q out && rotateOk q n
    | _ => false
  let raw (e : Epilogue) : Bool := match e with
    | .raw _ => true
    | _ => false
  match o.op with
  | .elementwise .cast .. =>
    if Fmt.isInt out.fmt then (if ints then requant o.epi else cast o.epi) else raw o.epi
  | .vector .. => if Fmt.isInt out.fmt then cast o.epi else float o.epi
  | .resizeNearest .. | .spaceToDepth .. | .depthToSpace .. => raw o.epi && out.fmt == inp.fmt && out.zp == inp.zp
  | .move l => raw o.epi && l.all (fun p => (g.tensor p.1).fmt == out.fmt)
  | .resizeBilinear .. | .cropResize .. =>
    raw o.epi && (if ints then out.fmt == inp.fmt && out.zp == inp.zp else !Fmt.isInt out.fmt)
  | _ => if ints then requant o.epi else float o.epi

/-- Canonical chunks are multiples of K of a matrix operator (R324). -/
def GraphImage.chunkOk (g : GraphImage) (o : OpNode) : Bool :=
  match matTensors o.op with
  | some (i, w) => o.chunk % kOf (g.tensor i).fmt (g.tensor w).fmt o.epi == 0
  | none => o.chunk == 0

/-- The block that an operator's output is rotated by (R279). -/
def rotation (e : Epilogue) : Option Nat :=
  let of_ (q : Requant) : Option Nat := match q.outlier with
    | .rotate n => some n
    | _ => none
  match e with
  | .requant q => of_ q
  | .cast q _ => of_ q
  | _ => none

/-- An operator takes a rotated tensor along its reduction dimension, block by block (R281). -/
def GraphImage.takesRotated (g : GraphImage) (id n : Nat) (o : OpNode) : Bool :=
  match o.op with
  | .matmul i w => i == id && w != id
  | .conv2d i w gr .. => i == id && w != id && dimBack (g.tensor i) 0 / gr % n == 0
  | .convTranspose i w .. => i == id && w != id
  | _ => false

/-- Every reader of a rotated tensor reduces its rotated dimension (R281). -/
def GraphImage.rotationOk (g : GraphImage) (o : OpNode) : Bool :=
  match rotation o.epi with
  | none => true
  | some n => g.ops.all (fun r => !(opInputs r.op).contains o.out || g.takesRotated o.out n r)

/-- Operators that may share a fused group (R255). -/
def fusible : Op → Bool
  | .conv2d .. | .depthwise .. | .convTranspose .. | .maxPool .. | .avgPool .. | .resizeNearest ..
  | .resizeBilinear .. | .elementwise .. | .spaceToDepth .. | .depthToSpace .. => true
  | .vector .layerNorm _ axis _ => axis == 0
  | .vector .rmsNorm _ axis _ => axis == 0
  | _ => false

/-- The tensors that a tile of an operator reads from outside its chain. -/
def GraphImage.reads (g : GraphImage) (i : Nat) : List Nat :=
  let ops := (g.chain i).filterMap (fun j => g.ops[j]?)
  let own := ops.map (·.out)
  ((ops.flatMap (fun o => opInputs o.op)).filter (fun t => !own.contains t)).dedup

/-- Bytes of a part of a map in the bench. -/
def boxBytes (t : TensorDecl) (b : Box) : Nat := (Box.area (Box.clip b t) * dimBack t 0 * Fmt.bits t.fmt + 7) / 8

/-- A tile of a fused group within R257: its halo at the group input, and its working set: the input tile with its
prefetch copy, every intermediate tile, the output tile and the weights. -/
def GraphImage.tileFits (g : GraphImage) (ops : List OpNode) (t : TileDecl) : Bool :=
  let box := TileDecl.box t
  let (outs, inp) := g.walkBack axisNeed ops.reverse box
  let share := (g.walkBack axisShare ops.reverse box).2
  let own := ops.map (·.out)
  let outer := ((ops.flatMap (fun o => opInputs o.op)).filter (fun t => !own.contains t)).dedup
  let weights := (outer.filter (fun i => (g.tensor i).role = .const)).map (fun i => TensorDecl.bytes (g.tensor i))
  let inputs := (outer.filter (fun i => decide ((g.tensor i).role ≠ .const))).map (fun i => boxBytes (g.tensor i) inp)
  let maps := outs.map (fun x => boxBytes (g.tensor x.1.out) x.2)
  decide (share.r0 - inp.r0 ≤ 64) && decide (inp.r1 - share.r1 ≤ 64) && decide (share.x0 - inp.x0 ≤ 64)
    && decide (inp.x1 - share.x1 ≤ 64) && decide (2 * inputs.sum + maps.sum + weights.sum ≤ 1792 * 1024)

/-- A fused group within R255 and R257: a chain in which every operator reads the one before, whose inner maps go
nowhere else, and every tile of which fits an engine. -/
def GraphImage.groupOk (g : GraphImage) (f : FusedGroup) : Bool :=
  let ops := f.ops.filterMap (fun i => g.ops[i]?)
  let inner := (ops.map (·.out)).dropLast
  let outside := (g.ops.zipIdx).filter (fun x => !f.ops.contains x.2)
  decide (1 ≤ f.ops.length) && decide (f.ops.length ≤ 8) && ops.length == f.ops.length && decide f.ops.Nodup
    && (ops.zip ops.tail).all (fun p => (opInputs p.2.op).contains p.1.out)
    && (f.ops.length == 1 || ops.all (fun o => fusible o.op))
    && inner.all (fun t => decide ((g.tensor t).role = .internal)
      && outside.all (fun x => !(opInputs x.1.op).contains t))
    && (g.tiles.filter (fun t => some t.op == f.ops.getLast?)).all (g.tileFits ops)

/-- The operator is inside a fused group and not its last. -/
def GraphImage.inner (g : GraphImage) (i : Nat) : Bool :=
  g.groups.any (fun f => f.ops.contains i && f.ops.getLast? != some i)

/-- Cycles of a tile that runs 250 µs at /4 (R42, R311). -/
def maxTileCycles : Nat := 450000

/-- A span that is not empty and lies below a bound. -/
def Span.within (s : Span) (n : Nat) : Bool := decide (s.lo < s.hi) && decide (s.hi ≤ n)

/-- A tile names an operator that ends a chain and a part of its output, within the tile bound (R311). -/
def GraphImage.tileOk (g : GraphImage) (t : TileDecl) : Bool :=
  match g.ops[t.op]? with
  | some o =>
    let out := g.tensor o.out
    !g.inner t.op && Span.within t.rows (mapRows out) && Span.within t.cols (dimBack out 1)
      && Span.within t.chans (dimBack out 0) && decide (t.cycles ≤ maxTileCycles)
  | none => false

/-- Every operator reads tensors that are given or written before it, and writes none that is given;
no two operators write one tensor. -/
def wiringOk (g : GraphImage) : List Nat → List OpNode → Bool
  | _, [] => true
  | ready, o :: r =>
    (opInputs o.op).all (fun i => ready.contains i) && !ready.contains o.out
      && (g.tensors.any (fun t => t.id == o.out)) && wiringOk g (o.out :: ready) r

/-- Two spans share a number. -/
def Span.meets (a b : Span) : Bool := decide (a.lo < b.hi) && decide (b.lo < a.hi)

/-- The tiles of an operator cover its output, each element once. -/
def GraphImage.covered (g : GraphImage) (i : Nat) : Bool :=
  let ts := g.tiles.filter (fun t => t.op == i)
  g.inner i || match g.ops[i]? with
    | some o => (ts.map (fun t => Box.area (TileDecl.box t) * (t.chans.hi - t.chans.lo))).sum
          == TensorDecl.size (g.tensor o.out)
        && decide (ts.Pairwise (fun a b =>
          (Span.meets a.rows b.rows && Span.meets a.cols b.cols && Span.meets a.chans b.chans) = false))
    | none => true

/-- A companion of a TAG_EXPORT tensor is a declared output (R350). -/
def GraphImage.exportOk (g : GraphImage) (t : TensorDecl) : Bool :=
  match t.exportTo with
  | some c => g.tensors.any (fun x => x.id == c && x.role == .output)
  | none => true

/-- Every output is written, by an operator or as the companion of an output. -/
def GraphImage.provided (g : GraphImage) (t : TensorDecl) : Bool :=
  t.role != .output || g.ops.any (fun o => o.out == t.id) || g.tensors.any (fun x => x.exportTo == some t.id)

/-- A tensor that the address generators can walk, 5-D with extents from 1 to 65,536, and a constant with all its
values in its format (R244). -/
def TensorDecl.ok (t : TensorDecl) : Bool :=
  decide (t.dims.length ≤ 5) && t.dims.all (fun n => decide (1 ≤ n) && decide (n ≤ 65536))
    && (if t.role = .const then t.data.length == TensorDecl.size t && t.data.all (fun v => decide (fitFormat t.fmt v = v))
        else t.data == [])

/-- A descriptor within R244, of a tensor that the image holds. -/
def GraphImage.descOk (g : GraphImage) (d : Descriptor) : Bool :=
  g.tensors.any (fun t => t.id == d.tensor && decide (Fmt.bits t.fmt = 4 * d.halfBytes)) && d.dims.length == 5
    && d.dims.all (fun x => decide (1 ≤ x.1) && decide (x.1 ≤ 65536) && inBits 32 x.2)
    && [1, 2, 4, 8].contains d.halfBytes && decide (1 ≤ d.dilation.1) && decide (d.dilation.1 ≤ 16)
    && decide (1 ≤ d.dilation.2) && decide (d.dilation.2 ≤ 16) && d.pads.length == 4
    && d.pads.all (fun p => decide (p ≤ 15))

/-- Step 4 of R248 passes. -/
def GraphImage.ok (g : GraphImage) : Bool :=
  decide (g.tensors.map (·.id)).Nodup && g.tensors.all TensorDecl.ok && g.descs.all g.descOk
    && g.ops.all (fun o => o.descs.all (fun d => decide (d < g.descs.length)))
    && wiringOk g ((g.tensors.filter TensorDecl.given).map (·.id)) g.ops
    && g.ops.all g.opOk && g.ops.all g.epiOk && g.ops.all g.chunkOk && g.ops.all g.rotationOk
    && g.groups.all g.groupOk && decide (g.groups.flatMap (·.ops)).Nodup && g.tiles.all g.tileOk
    && (List.range g.ops.length).all g.covered && g.tensors.all g.exportOk && g.tensors.all g.provided
    && decide ((g.tensors.filter (fun t => t.role == .frame)).length ≤ 1)

/-! ## The device's copy of a graph -/

/-- Bytes that a constant takes in the copy: whole lines. -/
def constSpan (t : TensorDecl) : Nat := if t.role = .const then (TensorDecl.bytes t + 255) / 256 * 256 else 0

/-- The offset of a tensor's data in the copy: the constants lie one after another. -/
def GraphImage.constOff (g : GraphImage) (id : Nat) : Nat :=
  ((g.tensors.takeWhile (fun t => t.id != id)).map constSpan).sum

/-- Bytes of the weights and constants of a graph (R248). -/
def GraphImage.constBytes (g : GraphImage) : Nat := (g.tensors.map constSpan).sum

/-- KiB of the weights and constants, as the quota counts them (R232). -/
def GraphImage.constKib (g : GraphImage) : Nat := (g.constBytes + 1023) / 1024

/-! ## Running tiles -/

/-- The tiles that must have ended before a tile may start: every tile of the operators that write
what it reads. -/
def GraphImage.needs (g : GraphImage) (t : TileDecl) : List Nat :=
  let rs := g.reads t.op
  (g.tiles.zipIdx).filterMap (fun x =>
    match g.ops[x.1.op]? with
    | some o => if rs.contains o.out then some x.2 else none
    | none => none)

/-- The rows of a tensor that a tile loads: the rows of the chain's input that it needs, or the whole of any other
tensor. -/
def GraphImage.rowsRead (g : GraphImage) (t : TileDecl) (id : Nat) : Span :=
  let ops := (g.chain t.op).filterMap (fun j => g.ops[j]?)
  let d := g.tensor id
  let whole : Span := ⟨0, mapRows d⟩
  match ops.head? with
  | some o =>
    if (opInputs o.op).headD 0 = id ∧ d.role ≠ .const ∧ (ops.tail.all (fun p => !(opInputs p.op).contains id)) then
      let b := Box.clip (g.walkBack axisNeed ops.reverse (TileDecl.box t)).2 d
      ⟨b.r0.toNat, b.r1.toNat⟩
    else whole
  | none => whole

/-- The maps of a run. -/
def GraphImage.maps (g : GraphImage) (vals : List (Nat × List Int)) : Maps :=
  { decl := g.tensor, vals := fun id => ((vals.find? (fun v => v.1 == id)).map (·.2)).getD [] }

/-- What disturbs a tile's arithmetic (R339, R341): partial sums of operators, and weights. -/
def disturbed (g : GraphImage) (cs : List TileCheck) (vals : List (Nat × List Int)) : List (Nat × List Int) :=
  cs.foldl (fun vals c => match c with
    | .weight op index mask =>
      (match (g.ops[op]?).bind (fun o => matTensors o.op) with
       | some (_, wt) => vals.map (fun v => if v.1 = wt then
           (v.1, v.2.modify index (fun x => fitFormat (g.tensor wt).fmt (BitVec.ofInt 32 x ^^^ mask).toInt)) else v)
       | none => vals)
    | _ => vals) vals

/-- The partial sums of one output after the disturbances that hit them. -/
def hitSums (isInt : Bool) (cs : List TileCheck) (op pos col : Nat) (s : Sums) : Sums :=
  cs.foldl (fun s c => match c with
    | .accFlip o p k g ch mask =>
      if o = op ∧ p = pos ∧ k = col then s.modify g (fun l => l.modify ch (flipSum isInt mask)) else s
    | _ => s) s

/-- What one operator computes in a tile: the accumulators of an element under the disturbances. -/
def Machine.Maps.hitAcc (m : Maps) (cs : List TileCheck) (j : Nat) (o : OpNode) (i : Nat) : Acc :=
  match matTensors o.op with
  | some (inp, _) =>
    let n := dimBack (m.decl o.out) 0
    let isInt := Fmt.isInt (m.decl inp).fmt
    combine isInt (hitSums isInt cs j (i / n) (i % n) (m.matSums o (i / n) (i % n)))
  | none => m.acc o i

/-- The weight blocks of a matrix operator among some of its columns. -/
def blocksOf (m : Maps) (o : OpNode) (cols : List Nat) : List (List Nat) :=
  match matTensors o.op with
  | some (inp, _) =>
    ((cols.map (fun c => (blockCols o.op (m.decl inp).fmt (dimBack (m.decl o.out) 0) c).filter cols.contains))).dedup
  | none => []

/-- One accumulator row of a tile: the row as loaded, and the sums as computed. -/
def rowOf (loaded used : Maps) (cs : List TileCheck) (j : Nat) (o : OpNode) (pos : Nat) (cols : List Nat) :
    CheckRow × ColSums :=
  let isInt := match matTensors o.op with
    | some (inp, _) => Fmt.isInt (loaded.decl inp).fmt
    | none => true
  (loaded.checkRow o pos cols, cols.map (fun c => hitSums isInt cs j pos c (used.matSums o pos c)))

/-- What a tile computed: its values, the disturbances that the check column catches, and the rows that R344
leaves unchecked. -/
structure TileOut where
  values    : List Int
  caught    : List TileCheck
  unchecked : Nat

/-- One operator of a tile at work on a part of its output: what is caught and what is left unchecked. -/
def opChecks (loaded used : Maps) (cs : List TileCheck) (j : Nat) (o : OpNode) (positions cols : List Nat) :
    List TileCheck × Nat :=
  match matTensors o.op with
  | none => ([], 0)
  | some (inp, _) =>
    let blocks := blocksOf loaded o cols
    let n := dimBack (loaded.decl o.out) 0
    let bad (pos : Nat) (b : List Nat) : Bool :=
      let r := rowOf loaded used cs j o pos b
      r.1.fails r.2
    (cs.filter (fun c => match c with
      | .accFlip k pos col .. => k == j && positions.contains pos && blocks.any (fun b => b.contains col && bad pos b)
      | .weight k index _ => k == j && blocks.any (fun b => b.contains (index % n) && positions.any (fun p => bad p b))
      | _ => false),
     if Fmt.isInt (loaded.decl inp).fmt then 0
     else (positions.map (fun p => (blocks.filter (fun b =>
       let r := rowOf loaded used cs j o p b
       r.1.unchecked r.2)).length)).sum)

/-- The operators of a chain before its last, each computed whole from the chain's inputs, so that a tile's halo
gives the same values (R256): the maps as the engine uses them, with what the check column finds on the part that
the tile needs. -/
def GraphImage.runInner (g : GraphImage) (cs : List TileCheck) (need : List (OpNode × Box)) :
    List Nat → List (Nat × List Int) → List (Nat × List Int) × List TileCheck × Nat
  | [], vals => (vals, [], 0)
  | j :: r, vals =>
    match g.ops[j]? with
    | none => g.runInner cs need r vals
    | some o =>
      let out := g.tensor o.out
      let used := g.maps (disturbed g cs vals)
      let box := match need.find? (fun x => x.1.out == o.out) with
        | some x => Box.clip x.2 out
        | none => ⟨0, mapRows out, 0, dimBack out 1⟩
      let found := opChecks (g.maps vals) used cs j o (Box.positions box out) (List.range (dimBack out 0))
      let map := (List.range (TensorDecl.size out)).map (used.finish o (used.hitAcc cs j o))
      let (vals, caught, n) := g.runInner cs need r ((o.out, map) :: vals)
      (vals, found.1 ++ caught, found.2 + n)

/-- A tile at work (R239, R241, R311) on what its bench holds, under disturbances (R339 to R344). -/
def GraphImage.runTile (g : GraphImage) (vals : List (Nat × List Int)) (t : TileDecl) (cs : List TileCheck) :
    TileOut :=
  match g.ops[t.op]? with
  | none => { values := [], caught := [], unchecked := 0 }
  | some o =>
    let chain := g.chain t.op
    let ops := chain.filterMap (fun j => g.ops[j]?)
    let need := (g.walkBack axisNeed ops.reverse (TileDecl.box t)).1
    let (vals, caught, n) := g.runInner cs need chain.dropLast vals
    let out := g.tensor o.out
    let used := g.maps (disturbed g cs vals)
    let found := opChecks (g.maps vals) used cs t.op o (Box.positions (TileDecl.box t) out) (Span.list t.chans)
    { values := (TileDecl.elems t out).map (used.finish o (used.hitAcc cs t.op o))
      caught := caught ++ found.1
      unchecked := n + found.2 }

/-! ## Stored bytes -/

/-- The stored values of bytes (R265, R266). -/
def unpackValues (f : Fmt) (n : Nat) (b : Bytes) : List Int :=
  (List.range n).map (fun i =>
    if f = .int4 then signed 4 ((byteAt b (i / 2)).toNat / (if i % 2 = 0 then 1 else 16))
    else
      let w := Fmt.bits f / 8
      let v := leNat b (w * i) w
      if Fmt.isInt f then signed (8 * w) v else (v : Int))

end Sys2Proof
end

