-- ==== Sys2Proof/Machine/Attend.lean ====
section
/-!
DEFINITION. The arithmetic of ATTEND (R300 to R302): one request over one sequence.
-/

namespace Sys2Proof.Machine

/-- ROW of a sequence (R284). -/
def KvSeq.row (q : KvSeq) : Nat := q.heads * q.headDim * 2 * (Fmt.bits q.fmt / 8)

/-- The address of a position's row (R284). -/
def KvSeq.rowVa (q : KvSeq) (p : Nat) : Nat := q.va + p % q.maxLen * q.row

/-- The class of a request: the least power of two from 64 to 8,192 not below KV_LEN (R302). -/
def attendClass (kvLen : Nat) : Nat :=
  ([64, 128, 256, 512, 1024, 2048, 4096, 8192].find? (fun c => decide (kvLen ≤ c))).getD 8192

/-- Query row `i` sees position `p` (R300). -/
def AttendReq.sees (r : AttendReq) (start i p : Nat) : Bool :=
  decide (start ≤ p) && (!r.causal || decide (p ≤ r.qpos + i))

/-- Query heads (R298). -/
def AttendReq.qHeads (r : AttendReq) (q : KvSeq) : Nat := q.heads * r.qPerKv

/-- Elements of the queries and of the outputs (R298). -/
def AttendReq.size (r : AttendReq) (q : KvSeq) : Nat := r.qlen * r.qHeads q * q.headDim

/-- The positions of the request's window with padding to its class: none where masked. -/
def AttendReq.window (r : AttendReq) (start i : Nat) : List (Option Nat) :=
  (List.range (attendClass r.kvLen)).map (fun j =>
    if j < r.kvLen ∧ r.sees start i (r.endPos - r.kvLen + j) then some (r.endPos - r.kvLen + j) else none)

/-- The format into which n() converts (R301). -/
def attendNarrow (f : Fmt) : Fmt := if f = .fp16 then .fp16 else .bf16

/-- From FP32 to the output format (R301, R277, R278). -/
def AttendReq.convert (r : AttendReq) (x : Nat) : Int :=
  if Fmt.isInt r.outFmt then
    Requant.cast { grain := .tensor, m := [], s := [], mode := r.outMode, bias := [],
                   lo := [-128 - r.outZp], hi := [127 - r.outZp], zp := r.outZp, outlier := .none }
      0 r.outInv.toNat x
  else narrow r.outFmt false x

/-- The elements of a row's key or value of one head. -/
def KvSeq.head (q : KvSeq) (row : Bytes) (value : Bool) (h : Nat) : List Int :=
  let w := Fmt.bits q.fmt / 8
  let at_ := (if value then q.heads * q.headDim * w else 0) + h * q.headDim * w
  unpackValues q.fmt q.headDim (row.drop at_)

/-- A disturbed partial sum of a request: in its weighted values or in its scores, by query row, head and
column. -/
structure AttnFlip where
  value : Bool
  row   : Nat
  head  : Nat
  col   : Nat
  mask  : BitVec 32

/-- A sum after the disturbances that hit it. -/
def attnSum (fl : List AttnFlip) (value : Bool) (i h : Nat) (isInt : Bool) (col : Nat) (v : Int) : Int :=
  (fl.filter (fun x => x.value == value && x.row == i && x.head == h && x.col == col)).foldl
    (fun v x => flipSum isInt x.mask v) v

/-- The check rows of a matrix product by blocks of N columns (R240, R303). -/
def attnBlocks (a w : Fmt) (bias : List Int) (parts : List Parts) (sums : List Sums) : List (CheckRow × ColSums) :=
  ((pieces (nOf a) parts).zip (pieces (nOf a) sums)).map (fun x =>
    ({ a := a, w := w, k := 32, cols := x.1, bias := bias }, x.2))

/-- What one query row and head of a request gives: its outputs, whether a row of its matrix work fails the check
column, and the rows that R344 leaves unchecked. -/
structure HeadOut where
  values    : List Int
  fails     : Bool
  unchecked : Nat

/-- One query row and head (R300, R301): scores over the seen positions by the matrix unit, exponentials and their
sum over the padded class by the vector unit, weighted values by the matrix unit. -/
def AttendReq.headOut (r : AttendReq) (q : KvSeq) (row : Nat → Bytes) (query : List Int) (fl : List AttnFlip)
    (i h : Nat) : HeadOut :=
  let win := r.window q.start i
  let kv := h / r.qPerKv
  if win.all Option.isNone then
    { values := List.replicate q.headDim (if Fmt.isInt r.outFmt then r.outZp else 0), fails := false, unchecked := 0 }
  else
    let int := Fmt.isInt q.fmt
    let rows := win.map (fun p => p.map row)
    let keyParts : List (Option Parts) := rows.map (fun b => b.map (fun b =>
      [[pieces 32 (query.zip (q.head b false kv))]]))
    let dots : List (Option Int) := (keyParts.zipIdx).map (fun x => x.1.map (fun p =>
      let products := ((p.headD []).headD []).flatten
      attnSum fl false i h int x.2 (if int then wrap32 (products.map (fun y => y.1 * y.2)).sum
        else (floatAcc 32 (products.map (fun y => fmul (widen q.fmt y.1) (widen q.fmt y.2))) : Nat))))
    let scores := dots.map (fun d => d.map (fun d =>
      fmul (if int then toF32 (Fl.ofInt d) else d.toNat) r.scoreScale.toNat))
    let seen := scores.filterMap id
    let top := match seen with
      | [] => 0
      | s :: l => l.foldl fmax s
    let e := scores.map (fun s => match s with
      | some x => fexp (fsub x top)
      | none => 0)
    let z := treeSum (levels e.length) e
    let f := attendNarrow q.fmt
    let weights : List (List Int) := rows.map (fun b => match b with
      | some b => (q.head b true kv).map (fun v => narrow f false (widen q.fmt v))
      | none => List.replicate q.headDim 0)
    let acts := e.map (narrow f false)
    let valueParts : List Parts := (List.range q.headDim).map (fun c =>
      [[pieces 32 (acts.zip (weights.map (fun w => w.getD c 0)))]])
    let sums : List Int := (valueParts.zipIdx).map (fun x =>
      attnSum fl true i h false x.2 (floatAcc 32 ((((x.1.headD []).headD []).flatten).map (fun y =>
        fmul (widen f y.1) (widen f y.2))) : Nat))
    let blocks := attnBlocks q.fmt q.fmt [] (keyParts.filterMap id) ((dots.filterMap id).map (fun d => [[d]]))
      ++ attnBlocks f f [] valueParts (sums.map (fun d => [[d]]))
    { values := sums.map (fun pv => r.convert (fmul (fmul pv.toNat (frecip z)) r.vScale.toNat))
      fails := fl.any (fun x => x.row == i && x.head == h) && blocks.any (fun b => b.1.fails b.2)
      unchecked := (blocks.filter (fun b => !Fmt.isInt b.1.a && b.1.unchecked b.2)).length }

/-- The outputs of a request in row, head, element order (R298, R300, R301): `row` gives the bytes of
a position's row. -/
def AttendReq.outputs (r : AttendReq) (q : KvSeq) (row : Nat → Bytes) (queries : Bytes) (fl : List AttnFlip) :
    List HeadOut :=
  let qs := unpackValues q.fmt (r.size q) queries
  (List.range r.qlen).flatMap (fun i => (List.range (r.qHeads q)).map (fun h =>
    r.headOut q row ((qs.drop ((i * r.qHeads q + h) * q.headDim)).take q.headDim) fl i h))

/-- The positions that a request reads, in ascending order (R300). -/
def AttendReq.positions (r : AttendReq) (start : Nat) : List Nat :=
  ((List.range r.kvLen).map (fun j => r.endPos - r.kvLen + j)).filter (fun p => r.sees start (r.qlen - 1) p)

end Sys2Proof.Machine
end

