-- ==== Sys2Proof/Machine/Mem.lean ====
section
/-!
DEFINITION. Device memory: bytes, line tags and poison (R226 to R228, R331 to R335), and the hashes
of the interleave and the yard (R221, R224).
A key is function × 2^48 + virtual address, so that no two functions share a byte (R94).
-/

namespace Sys2Proof.Machine

/-! ## Sparse tables -/

/-- The entry of an address in a table sorted by address, `d` where none is listed. -/
def sparseGet {α : Type} (d : α) : List (Nat × α) → Nat → α
  | [], _ => d
  | (x, v) :: r, a => if a = x then v else if a < x then d else sparseGet d r a

/-- Sets one entry, keeping the table sorted and free of entries equal to `d`. -/
def sparsePut {α : Type} [DecidableEq α] (d : α) : List (Nat × α) → Nat → α → List (Nat × α)
  | [], a, b => if b = d then [] else [(a, b)]
  | (x, v) :: r, a, b =>
    if a < x then (if b = d then (x, v) :: r else (a, b) :: (x, v) :: r)
    else if a = x then (if b = d then r else (a, b) :: r)
    else (x, v) :: sparsePut d r a b

/-- The canonical form: addresses strictly rising from `lo`, no entry equal to `d`. -/
def sparseWf {α : Type} [DecidableEq α] (d : α) : Nat → List (Nat × α) → Bool
  | _, [] => true
  | lo, (x, v) :: r => decide (lo ≤ x) && decide (v ≠ d) && sparseWf d (x + 1) r

/-! ## Keys, lines and units -/

/-- The key of a byte of a function's address space (R230). -/
def memKey (f : FnId) (va : Nat) : Nat := f.val * 2 ^ 48 + va

/-- The key of a byte of the device's own copy of a graph (R248): apart from every function's addresses. -/
def graphKey (f : FnId) (handle off : Nat) : Nat := 2 ^ 56 + (f.val * 2 ^ 32 + handle) * 2 ^ 32 + off

/-- The tag of 256 zero bytes (R334). -/
def zeroTag : BitVec 32 := 0xB872B190

/-- What a byte that nothing has written reads as: 0 (R232). -/
def unlisted : Byte := 0

/-- The byte at a key. -/
def Memory.byte (m : Memory) (k : Nat) : Byte := sparseGet unlisted m.cells k

/-- `n` bytes from a key. -/
def Memory.bytes (m : Memory) (k n : Nat) : Bytes := (List.range n).map (fun i => m.byte (k + i))

/-- The 256 bytes of a line. -/
def Memory.line (m : Memory) (l : Nat) : Bytes := m.bytes (256 * l) 256

/-- The stored tag of a line (R331). -/
def Memory.tag (m : Memory) (l : Nat) : BitVec 32 := sparseGet zeroTag m.tags l

/-- The unit of a tag shadow that holds the tag of a line (R332): 16 tags of 4 bytes. -/
def shadowUnit (l : Nat) : Nat := 2 ^ 80 + l / 16

/-- The unit of the shadow that holds a line's tag is poisoned (R332). -/
def Memory.tagPoisoned (m : Memory) (l : Nat) : Bool := m.poison.contains (shadowUnit l)

/-- A unit of the line, or the unit of the shadow with its tag, is poisoned (R227, R332). -/
def Memory.linePoisoned (m : Memory) (l : Nat) : Bool :=
  m.poison.any (fun u => u / 4 == l) || m.tagPoisoned l

/-- The memory's lists are in canonical form. -/
def Memory.wf (m : Memory) : Bool := sparseWf unlisted 0 m.cells && sparseWf zeroTag 0 m.tags

/-- Writes bytes one after another from a key. -/
def putBytes : List Host.Cell → Nat → Bytes → List Host.Cell
  | c, _, [] => c
  | c, k, b :: r => putBytes (sparsePut unlisted c k b) (k + 1) r

/-- A line and its tag written as one unit (R333); new check bits, and its poison is cleared (R227). The
shadow's unit is merged: where it is poisoned it stays so (R227, R332; log 121). -/
def Memory.putLine (m : Memory) (l : Nat) (b : Bytes) : Memory :=
  { cells := putBytes m.cells (256 * l) b
    tags := sparsePut zeroTag m.tags l (crc32c b)
    poison := m.poison.filter (fun u => u / 4 != l)
    upsets := m.upsets.filter (fun u => u.1 / 4 != l) }

/-- `old` with `b` laid over it from byte `off`. -/
def splice (old : Bytes) (off : Nat) (b : Bytes) : Bytes :=
  old.take off ++ b ++ old.drop (off + b.length)

/-- A write within one line (R227, R335): a whole line reads nothing; a part of a line reads the
line, fails with 0x0200 on poison and with 4 on a failed tag, and writes the merged line. -/
def Memory.storeSpan (m : Memory) (k : Nat) (b : Bytes) : Memory × Option (BitVec 16) :=
  let l := k / 256
  if b.length = 256 then (m.putLine l b, none)
  else if m.linePoisoned l then (m, some 0x0200)
  else if m.tag l ≠ crc32c (m.line l) then (m, some 4)
  else (m.putLine l (splice (m.line l) (k % 256) b), none)

/-- A write of any length, line by line, stopping at the first line that fails; the count of bytes
written comes with it. -/
def Memory.storeLines : Nat → Memory → Nat → Bytes → Memory × Nat × Option (BitVec 16)
  | 0, m, _, _ => (m, 0, none)
  | n + 1, m, k, b =>
    if b = [] then (m, 0, none)
    else
      let room := 256 - k % 256
      match m.storeSpan k (b.take room) with
      | (m', some d) => (m', 0, some d)
      | (m', none) =>
        let (m'', done, e) := Memory.storeLines n m' (k + room) (b.drop room)
        (m'', (b.take room).length + done, e)

/-- A write of any length. -/
def Memory.store (m : Memory) (k : Nat) (b : Bytes) : Memory × Nat × Option (BitVec 16) :=
  Memory.storeLines (b.length / 256 + 2) m k b

/-- What reading a line at graft point 4 finds (R338): poison before the tag. -/
def Memory.lineFault (m : Memory) (l : Nat) : Option (BitVec 16) :=
  if m.linePoisoned l then some 0x0200
  else if m.tag l ≠ crc32c (m.line l) then some 4
  else none

/-- The first failing line among `n` lines from `l`: its number and DETAIL. -/
def Memory.firstBadLine (m : Memory) : Nat → Nat → Option (Nat × BitVec 16)
  | 0, _ => none
  | n + 1, l =>
    match m.lineFault l with
    | some d => some (l, d)
    | none => m.firstBadLine n (l + 1)

/-- The number of lines that a range touches. -/
def linesOf (k n : Nat) : Nat := if n = 0 then 0 else (k + n - 1) / 256 - k / 256 + 1

/-- A read of a range: the bytes before the first failing line, and its DETAIL. -/
def Memory.load (m : Memory) (k n : Nat) : Bytes × Option (BitVec 16) :=
  match m.firstBadLine (linesOf k n) (k / 256) with
  | none => (m.bytes k n, none)
  | some (l, d) => (m.bytes k (256 * l - k), some d)

/-- A unit stays when a range is zeroed: it lies outside the range, and is no unit of the range's tag
shadow. -/
def unitKept (k n u : Nat) : Bool :=
  (64 * u < k || k + n ≤ 64 * u)
    && !(decide (2 ^ 80 ≤ u) && decide (k ≤ 4096 * (u - 2 ^ 80)) && decide (4096 * (u - 2 ^ 80) + 4096 ≤ k + n))

/-- Memory zeroed under R94: bytes, tags, poison and flipped bits of the range go. -/
def Memory.zero (m : Memory) (k n : Nat) : Memory :=
  { cells := m.cells.filter (fun c => c.1 < k || k + n ≤ c.1)
    tags := m.tags.filter (fun t => 256 * t.1 < k || k + n ≤ 256 * t.1)
    poison := m.poison.filter (unitKept k n)
    upsets := m.upsets.filter (fun u => unitKept k n u.1) }

/-- A unit poisoned (R226): raised once per poisoning (R228). -/
def Memory.poisonUnit (m : Memory) (u : Nat) : Memory :=
  if u ∈ m.poison then m else { m with poison := u :: m.poison }

/-! ## The hashes -/

/-- The XOR of the 5-bit fields of a number, `n` fields. -/
def xor5 : Nat → Nat → Nat
  | 0, _ => 0
  | n + 1, g => (g % 32) ^^^ xor5 n (g / 32)

/-- The channel of a physical address (R221). -/
def chanOf (pa : Nat) : Nat :=
  let line := pa / 256
  (line % 24 + xor5 6 (line / 24) % 24) % 24

/-- The channel offset of a physical address (R221). -/
def coffOf (pa : Nat) : Nat := (pa / 256 / 24) * 256 + pa % 256

/-- The quadrant of a channel (R220). -/
def quadrantOf (c : Nat) : Nat := c / 6

/-- Physical data space in MiB for MEM_MIB (R219). -/
def dataMib (memMib : Nat) : Nat := memMib * 31 / 32

/-- The 5 inline check bits that cover a unit's place (R226). -/
def addressCheck (coff : Nat) : Nat := xor5 6 (coff / 64)

/-- Data space of a channel in bytes, C (R219). -/
def channelBytes (memMib : Nat) : Nat := dataMib memMib / 24 * 2 ^ 20

/-- Where a channel's array holds the two inline check bytes of a unit: above its data space (R219). -/
def checkPlace (memMib coff : Nat) : Nat := channelBytes memMib + 2 * (coff / 64)

/-! ## The inline code (R226) -/

/-- What a read of a stored unit finds by the bits that have flipped: none where it is uncorrectable, else
the data bits that are still wrong in what is delivered. One flip is corrected, two are uncorrectable, and so
is an address field that does not match; what the code makes of three or more is free. -/
def unitRead (flips : List Nat) : Option (List Nat) :=
  if flips.any (fun b => decide (523 ≤ b)) then none
  else match flips with
    | [] => some []
    | [_] => some []
    | [_, _] => none
    | _ => (Config.manyFlips flips).map (fun r => r.filter (fun b => decide (b < 512)))

/-- One data bit of a unit inverted; a unit of a shadow holds tags. -/
def Memory.invert (m : Memory) (u b : Nat) : Memory :=
  if 2 ^ 80 ≤ u then
    let l := 16 * (u - 2 ^ 80) + b / 32
    { m with tags := sparsePut zeroTag m.tags l (m.tag l ^^^ BitVec.ofNat 32 (2 ^ (b % 32))) }
  else
    let k := 64 * u + b / 8
    { m with cells := sparsePut unlisted m.cells k (m.byte k ^^^ BitVec.ofNat 8 (2 ^ (b % 8))) }

/-- A read of a unit with flipped bits (R226 to R228): corrected data are written back; an uncorrectable
unit is poisoned. The event, if one is raised: once per poisoning. -/
def Memory.readUnit (m : Memory) (u : Nat) (flips : List Nat) : Memory × Option Ev :=
  let m' : Memory := { m with upsets := m.upsets.filter (fun x => x.1 != u) }
  if u ∈ m.poison ∨ flips = [] then (m', none)
  else match unitRead flips with
    | none => (m'.poisonUnit u, some .eccUe)
    | some r => (r.foldl (fun m b => m.invert u b) m', some .eccCe)

/-- The units with flipped bits in `n` lines from line `l` and in the shadow of those lines. -/
def Memory.upsetIn (m : Memory) (l n : Nat) : List (Nat × List Nat) :=
  m.upsets.filter (fun x =>
    (decide (l ≤ x.1 / 4) && decide (x.1 / 4 < l + n))
      || (decide (0 < n) && decide (shadowUnit l ≤ x.1) && decide (x.1 ≤ shadowUnit (l + n - 1))))

/-- A bit of the list becomes no bit of it, another joins it in its place. -/
def toggleBit : List Nat → Nat → List Nat
  | [], b => [b]
  | x :: r, b => if b < x then b :: x :: r else if b = x then r else x :: toggleBit r b

/-- Bits of a stored unit flip. -/
def Memory.upset (m : Memory) (u : Nat) (bits : List Nat) : Memory :=
  let now := ((m.upsets.find? (fun x => x.1 == u)).map (·.2)).getD []
  let new := bits.foldl toggleBit now
  let rest := m.upsets.filter (fun x => x.1 != u)
  { m with upsets := if new = [] ∨ u ∈ m.poison then rest else (u, new) :: rest }

/-- The address bits that differ between two places (R226). -/
def addressFlips (coff other : Nat) : List Nat :=
  ((List.range 5).filter (fun i => (addressCheck coff ^^^ addressCheck other).testBit i)).map (· + 523)

/-- The yard slice of a yard offset (R224). -/
def yardSlice (yo : Nat) : Nat :=
  let yl := yo / 256
  (yl % 4) ^^^ (yl / 256 % 4) ^^^ (yl / 65536 % 4)

/-- The slice offset of a yard offset (R224). -/
def yardOffset (yo : Nat) : Nat := (yo / 256 / 4) * 256 + yo % 256

end Sys2Proof.Machine
end

