-- ==== Sys2Proof/Machine/Partial.lean ====
section
/-!
DEFINITION. What a tile of a run reads and writes (R146, R298, R311, R350), and what a tile that
stops before its end may have written (R25, R487).
-/

namespace Sys2Proof.Machine

/-! ## Values in memory -/

/-- Bytes of a tensor's range: a TAG_EXPORT tensor covers whole lines (R350). -/
def spanOf (t : TensorDecl) : Nat :=
  if t.exportTo.isSome then (t.bytes + 255) / 256 * 256 else t.bytes

/-- Where a run finds a tensor. -/
def Run.vaOf (r : Run) (id : Nat) : Option Nat := (r.binds.find? (fun b => b.tensor == id)).map (·.va)

/-- Where the bytes of a tensor of a run lie: in device memory by key, in the yard by offset, or in the benches. -/
inductive Place where
  | mem (k : Nat)
  | yard (yo : Nat)
  | bench
  deriving DecidableEq, Repr

/-- The place of a tensor (R145, R225, R248): a constant in the device's copy of the graph, a bound tensor in the
function's memory, any other in the yard, or in the benches where the yard has no room for it. -/
def State.placeOf (s : State) (r : Run) (id : Nat) : Place :=
  if (r.image.tensor id).role = .const then .mem (graphKey r.fn r.handle (r.image.constOff id))
  else match r.vaOf id with
    | some va => .mem (memKey r.fn va)
    | none => match s.yard.spans.find? (fun x => x.run == r.id && x.tensor == id) with
      | some x => .yard x.yo
      | none => .bench

/-- `n` bytes of a tensor from an offset, as they stand at its place. -/
def State.placeBytes (s : State) (r : Run) (id off n : Nat) : Bytes :=
  match s.placeOf r id with
  | .mem k => s.mem.bytes (k + off) n
  | .yard yo => s.yard.mem.bytes (yo + off) n
  | .bench => fit n ((((r.values.find? (fun v => v.1 == id)).map (·.2)).getD []).drop off)

/-! ## Tiles -/

/-- The sequence of an ATTEND request. -/
def State.seqOf (s : State) (f : FnId) (h : Nat) : Option KvSeq :=
  (s.fns[f.val]).seqs.find? (fun q => q.handle == h)

/-- A load of a tile: what it brings into the bench, and from where. -/
structure Load where
  id    : Nat
  off   : Nat
  len   : Nat
  place : Place

/-- The loads of tile `j` of a run, in order (R298, R300, R311): the queries and the rows of the positions that a
request sees; or the rows of every tensor that the tile reads. -/
def State.loads (s : State) (r : Run) (j : Nat) : List Load :=
  match r.reqs[j]? with
  | some q =>
    (match s.seqOf r.fn q.handle with
     | none => []
     | some sq =>
       { id := 0, off := 0, len := (q.size sq * Fmt.bits sq.fmt + 7) / 8, place := .mem (memKey r.fn q.qVa) }
         :: (q.positions sq.start).map (fun p =>
           { id := p + 1, off := 0, len := sq.row, place := .mem (memKey r.fn (sq.rowVa p)) }))
  | none =>
    match r.image.tiles[j]? with
    | none => []
    | some t => (r.image.reads t.op).map (fun id =>
        let d := r.image.tensor id
        let rows := r.image.rowsRead t id
        let bits := dimBack d 1 * dimBack d 0 * Fmt.bits d.fmt
        let lo := rows.lo * bits / 8
        { id := id, off := lo, len := (if rows.hi = mapRows d then d.bytes else (rows.hi * bits + 7) / 8) - lo
          place := s.placeOf r id })

/-- The bytes of a load. -/
def State.loaded (s : State) (r : Run) (l : Load) : Bytes :=
  match l.place with
  | .mem k => s.mem.bytes (k + l.off) l.len
  | .yard yo => s.yard.mem.bytes (yo + l.off) l.len
  | .bench => s.placeBytes r l.id l.off l.len

/-- The part of a bench that holds a tensor, from its first byte. -/
def Bench.bytes (b : Bench) (id : Nat) : Bytes :=
  match b.parts.find? (fun p => p.id == id) with
  | some p => zeros p.off ++ p.bytes
  | none => []

/-- Disturbed sums of a request. -/
def attnFlips (cs : List TileCheck) : List AttnFlip :=
  cs.filterMap (fun c => match c with
    | .attnFlip v i h k m => some { value := v, row := i, head := h, col := k, mask := m }
    | _ => none)

/-- What tile `j` of a run computes from what its bench holds. -/
def State.computeTile (s : State) (b : Bench) (r : Run) (j : Nat) (cs : List TileCheck) : TileOut :=
  match r.reqs[j]? with
  | some q =>
    (match s.seqOf r.fn q.handle with
     | none => { values := [], caught := [], unchecked := 0 }
     | some sq =>
       let outs := q.outputs sq (fun p => b.bytes (p + 1)) (b.bytes 0) (attnFlips cs)
       let heads := q.qHeads sq
       { values := outs.flatMap (·.values)
         unchecked := (outs.map (·.unchecked)).sum
         caught := cs.filter (fun c => match c with
           | .attnFlip _ i h _ _ => decide (h < heads) && (match outs[i * heads + h]? with
             | some o => o.fails
             | none => false)
           | _ => false) })
  | none =>
    match r.image.tiles[j]? with
    | none => { values := [], caught := [], unchecked := 0 }
    | some t =>
      r.image.runTile ((r.image.reads t.op).map (fun id =>
        let d := r.image.tensor id
        (id, unpackValues d.fmt (TensorDecl.size d) (b.bytes id)))) t cs

/-- The runs of consecutive elements of a tile: the first and how many. -/
def TileDecl.runs (t : TileDecl) (out : TensorDecl) : List (Nat × Nat) :=
  let w := dimBack out 1
  let c := dimBack out 0
  if t.chans.lo = 0 ∧ t.chans.hi = c then
    if t.cols.lo = 0 ∧ t.cols.hi = w then [(t.rows.lo * w * c, (t.rows.hi - t.rows.lo) * w * c)]
    else (Span.list t.rows).map (fun y => ((y * w + t.cols.lo) * c, (t.cols.hi - t.cols.lo) * c))
  else (Span.list t.rows).flatMap (fun y => (Span.list t.cols).map (fun x =>
    ((y * w + x) * c + t.chans.lo, t.chans.hi - t.chans.lo)))

/-- Where the values of tile `j` go: the tensor, and the bytes by their offset in it. A byte that holds two elements
is merged; the last line of a TAG_EXPORT tensor is zero-padded (R266, R350). -/
def State.tileBytes (s : State) (r : Run) (t : TileDecl) (d : TensorDecl) (vals : List Int) : List (Nat × Bytes) :=
  let bits := Fmt.bits d.fmt
  let old := unpackValues d.fmt (TensorDecl.size d) (s.placeBytes r d.id 0 d.bytes)
  let new := packValues d.fmt (((TileDecl.elems t d).zip vals).foldl (fun l p => l.set p.1 p.2) old)
  (TileDecl.runs t d).map (fun x =>
    let a := x.1 * bits / 8
    let e := ((x.1 + x.2) * bits + 7) / 8
    (a, if d.exportTo.isSome ∧ x.1 + x.2 = TensorDecl.size d then fit (spanOf d - a) (new.drop a)
        else (new.drop a).take (e - a)))

/-- The output of tile `j` of a graph's run. -/
def Run.outOf (r : Run) (j : Nat) : Option (TileDecl × TensorDecl) :=
  match r.image.tiles[j]? with
  | none => none
  | some t => (r.image.ops[t.op]?).map (fun o => (t, r.image.tensor o.out))

/-- What tile `j` of a run writes to the function's memory: keys and bytes (R298, R311). -/
def State.landing (s : State) (r : Run) (j : Nat) (vals : List Int) : List (Nat × Bytes) :=
  match r.reqs[j]? with
  | some q => [(memKey r.fn q.outVa, packValues q.outFmt vals)]
  | none =>
    match r.outOf j with
    | none => []
    | some (t, d) => match s.placeOf r d.id with
      | .mem k => (s.tileBytes r t d vals).map (fun x => (k + x.1, x.2))
      | _ => []

/-! ## The yard -/

/-- Bytes of the yard (R224). -/
def yardSize : Nat := 2 ^ 26

/-- What the Foreman holds for runs that are over is zeroed and free (R238, R334). -/
def Yard.sweep (y : Yard) (live : Nat → Bool) : Yard :=
  { mem := (y.spans.filter (fun x => !live x.run)).foldl (fun m x => m.zero x.yo x.len) y.mem
    spans := y.spans.filter (fun x => live x.run) }

/-- Room for a number of bytes: at the start of the yard, or behind a part that is held (log 122). -/
def Yard.room (y : Yard) (n : Nat) : Option Nat :=
  (0 :: y.spans.map (fun x => x.yo + x.len)).find? (fun a =>
    decide (a + n ≤ yardSize) && y.spans.all (fun x => decide (a + n ≤ x.yo) || decide (x.yo + x.len ≤ a)))

/-- A tensor of a run gets its place in the yard, if it has none and there is room (R225). -/
def State.holdYard (s : State) (r : Run) (d : TensorDecl) : State :=
  if s.placeOf r d.id ≠ .bench then s
  else
    let y := s.yard.sweep (fun n => s.fore.runs.any (fun r => r.id == n))
    let n := (d.bytes + 255) / 256 * 256
    match y.room n with
    | none => { s with yard := y }
    | some yo => { s with yard := { y with
        spans := { yo := yo, len := n, fn := r.fn, run := r.id, tensor := d.id } :: y.spans } }

/-! ## Tiles that stop before their end -/

/-- A write of which some lines land and some do not. -/
def Memory.scatterLines : Nat → Memory → (Nat → Bool) → Nat → Bytes → Memory
  | 0, m, _, _, _ => m
  | n + 1, m, w, k, b =>
    if b = [] then m
    else
      let room := 256 - k % 256
      let m := if w (k / 256) then (m.storeSpan k (b.take room)).1 else m
      m.scatterLines n w (k + room) (b.drop room)

/-- A tile stops with part of its outputs written: which lines is free (R487). -/
def State.scatter (s : State) (r : Run) (j : Nat) (vals : List Int) : State :=
  match s.landing r j vals with
  | [] => s
  | l => { s with
      mem := l.foldl (fun m x => m.scatterLines (x.2.length / 256 + 2) (Config.wroteLine s.draws) x.1 x.2) s.mem
      draws := s.draws + 1 }

/-- The values that a failed tile of a run wrote: free, but as many as the tile has (R487). -/
def State.wrongValues (s : State) (n : Nat) : List Int :=
  (List.range n).map (fun i => Config.wrongElement s.draws i)

/-- Engine-microseconds since a device time, rounded up (R309). -/
def State.usSince (s : State) (t : BitVec 64) : Nat := (s.clk.time.toNat - t.toNat + 999) / 1000

/-- The tile at work on an engine is aborted (R25, R144, R487): the engine is free, and the run has used the engine
until now (R309). -/
def State.abortTile (s : State) (e : EngineId) : State :=
  match (s.engines[e.val]).tile with
  | none => s
  | some t =>
    let b := (s.engines[e.val]).bench
    let us := s.usSince t.start
    let s : State := { s with
      engines := s.engines.set e.val { s.engines[e.val] with tile := none }
      fore := { s.fore with runs := s.fore.runs.map (fun r =>
        if r.id = t.run then { r with usedUs := r.usedUs + us } else r) } }
    match s.fore.runs.find? (fun r => r.id == t.run) with
    | none => s
    | some r => s.scatter r t.tile (s.computeTile b r t.tile []).values

/-- The tiles of the runs of a set are aborted, engine by engine. -/
def State.abortTiles (s : State) (p : Nat → Bool) : State :=
  (List.finRange 64).foldl (fun s (e : EngineId) =>
    match (s.engines[e.val]).tile with
    | some t => if p t.run then s.abortTile e else s
    | none => s) s

end Sys2Proof.Machine
end

