-- ==== Sys2Proof/Machine/Ops.lean ====
section
/-!
DEFINITION. The named operations that the meanings share: access to the units of the state,
functions and interrupts (R91, R104 to R115), taken commands and their completion (R132 to R139),
capture of a fault (R379 to R392), and entry to the safe state on either die (R396, R28).
-/

namespace Sys2Proof.Machine

/-! ## Numbers of the device's choice -/

/-- A number from `lo` to `hi` that is not in use: the free one where it is unused, else the least
unused (R248, R285, R306; log 12). -/
def State.unusedNumber (s : State) (lo hi : Nat) (used : List Nat) : Nat :=
  let n := lo + Config.givenNumber s.draws % (hi + 1 - lo)
  if used.contains n then
    (((List.range (hi + 1 - lo)).map (fun k => lo + k)).find? (fun k => !used.contains k)).getD lo
  else n

/-- One value more has been drawn. -/
def State.drawn (s : State) : State := { s with draws := s.draws + 1 }

/-! ## Units -/

/-- The port of a function (R91). -/
def portOf (f : FnId) : HostPort := if f.val < 64 then .a else .b

/-- The PF of a port (R91). -/
def pfOf : HostPort → FnId
  | .a => 0
  | .b => 64

/-- The function is a VF. -/
def isVf (f : FnId) : Bool := f.val % 64 != 0

/-- The port's number: 0 Port A, 1 Port B. -/
def HostPort.num : HostPort → Nat
  | .a => 0
  | .b => 1

/-- A port. -/
def State.port (s : State) : HostPort → PciePort
  | .a => s.portA
  | .b => s.portB

/-- Changes a port. -/
def State.setPort (s : State) (p : HostPort) (g : PciePort → PciePort) : State :=
  match p with
  | .a => { s with portA := g s.portA }
  | .b => { s with portB := g s.portB }

/-- A function. -/
def State.fn (s : State) (f : FnId) : Fn := s.fns[f.val]

/-- Changes a function. -/
def State.setFn (s : State) (f : FnId) (g : Fn → Fn) : State :=
  { s with fns := s.fns.set f.val (g s.fns[f.val]) }

/-- Changes a stream context. -/
def State.setStream (s : State) (c : CtxId) (g : Stream → Stream) : State :=
  { s with streams := s.streams.set c.val (g s.streams[c.val]) }

/-- Changes a Chroylink port. -/
def State.setCl (s : State) (p : ClPortId) (g : ClPort → ClPort) : State :=
  { s with cl := s.cl.set p.val (g s.cl[p.val]) }

/-- Changes an Ethernet port. -/
def State.setEth (s : State) (p : Port4) (g : EthPort → EthPort) : State :=
  { s with eth := s.eth.set p.val (g s.eth[p.val]) }

/-- Changes a UART port. -/
def State.setUart (s : State) (p : Port4) (g : UartPort → UartPort) : State :=
  { s with uart := s.uart.set p.val (g s.uart[p.val]) }

/-- Changes a Drift port. -/
def State.setDrift (s : State) (p : Port4) (g : DriftPort → DriftPort) : State :=
  { s with drift := s.drift.set p.val (g s.drift[p.val]) }

/-- Changes a CAN controller. -/
def State.setCan (s : State) (b : BusId) (g : CanBus → CanBus) : State :=
  { s with can := s.can.set b.val (g s.can[b.val]) }

/-- Changes a watchdog. -/
def State.setWdog (s : State) (w : WdogId) (g : Wdog → Wdog) : State :=
  { s with wdog := s.wdog.set w.val (g s.wdog[w.val]) }

/-- Changes a scion. -/
def State.setScion (s : State) (n : ScionId) (g : Scion → Scion) : State :=
  { s with scions := s.scions.set n.val (g s.scions[n.val]) }

/-- Changes an engine. -/
def State.setEngine (s : State) (e : EngineId) (g : Engine → Engine) : State :=
  { s with engines := s.engines.set e.val (g s.engines[e.val]) }

/-- Changes the Foreman. -/
def State.setFore (s : State) (g : Foreman → Foreman) : State := { s with fore := g s.fore }

/-- Changes the lamp die. -/
def State.setLamp (s : State) (g : Lamp → Lamp) : State := { s with lamp := g s.lamp }

/-- Changes the clocks. -/
def State.setClk (s : State) (g : Clocks → Clocks) : State := { s with clk := g s.clk }

/-- Changes the start-up state. -/
def State.setBoot (s : State) (g : Boot → Boot) : State := { s with boot := g s.boot }

/-- Records what the device sends. -/
def State.send (s : State) (x : Sent) : State := { s with sent := x :: s.sent }

/-- Device time as every record reports it: the integer part (R53). -/
def State.now (s : State) : BitVec 64 := s.clk.time

/-- SCIONS_JOINED (R34). -/
def State.joined (s : State) : BitVec 4 :=
  (List.finRange 4).foldl
    (fun (a : BitVec 4) (n : ScionId) => if s.scions[n.val].state = .joined then a ||| (1 <<< n.val) else a) 0

/-- The number of joined scions. -/
def State.joinedCount (s : State) : Nat := popcount 4 s.joined.toNat

/-- A reset pin is low (R66). -/
def State.held (s : State) : Bool := s.boot.porstLow || s.boot.sysresetLow

/-- The rootstock's clocks run: out of reset, root PLL locked, not in Night (R37, R52, R435). -/
def State.rootRuns (s : State) : Bool :=
  !s.held && s.clk.rootLocked && decide (s.power.state ≠ .night)

/-- The lamp die is out of reset and not in Night. -/
def State.lampRuns (s : State) : Bool :=
  !s.held && decide (s.power.state ≠ .night) && !s.lamp.noscStopped

/-- Night is being entered (R435): the completion of POWER_STATE has been written, and neither die has entered
the safe state meanwhile (log 99). -/
def State.entersNight (s : State) : Bool :=
  s.power.nightDue && !s.safe && !s.lamp.safe && s.fore.taken.all (fun c => c.opcode != 0x0600)

/-- A wake event during the entry to Night takes effect when the device is in Night (R436). -/
def State.wakeLater (s : State) (c : WakeCause) : State :=
  { s with power := { s.power with wakeDue := some (s.power.wakeDue.getD c) } }

/-- A change that only happens under a condition: otherwise the event finds nothing to act on. -/
def State.when (s : State) (c : Bool) (t : State) : State := if c then t else s

/-! ## Functions -/

/-- Safety authority (R102). -/
def State.hasAuth (s : State) (f : FnId) : Bool :=
  !isVf f || match (s.fn f).provision with
    | some p => p.safetyAuth
    | none => false

/-- STATE of FN_STATUS (R105, R106). -/
def State.fnState (s : State) (f : FnId) : Nat :=
  if (s.fn f).resetting then 4
  else if s.boot.failCause.isSome then 2
  else if s.safe then 3
  else if s.boot.complete then 1
  else 0

/-- Signals a vector of a function (R114): nothing without MSI-X, the PBA bit when the vector or the
whole function is masked. While an FLR of the function runs, no request goes out for it (R119). -/
def State.signal (s : State) (f : FnId) (v : Fin 32) : State :=
  if (s.fn f).msixEnable && !(s.fn f).resetting then
    if (s.fn f).msixMask || (s.fn f).msix[v.val].masked then
      s.setFn f (fun x => { x with msix := x.msix.set v.val { x.msix[v.val] with pba := true } })
    else s.send (.msix f v.val)
  else s

/-- Sets bits of FN_EVENT; a bit that rises while unmasked signals vector 0 (R107). -/
def State.setEvent (s : State) (f : FnId) (bits : BitVec 7) : State :=
  let old := (s.fn f).event
  let s := s.setFn f (fun x => { x with event := x.event ||| bits })
  if bits &&& ~~~old &&& ~~~(s.fn f).mask = 0 then s else s.signal f 0

/-- FN_EVENT bits (R107). -/
def evtBootDone : BitVec 7 := 0x01
def evtFault : BitVec 7 := 0x02
def evtSafe : BitVec 7 := 0x04
def evtHwdogWarn : BitVec 7 := 0x08
def evtShare : BitVec 7 := 0x10
def evtProvision : BitVec 7 := 0x20
def evtError : BitVec 7 := 0x40

/-- FN_ERROR bits (R107). -/
def errBadTail : BitVec 4 := 1
def errBadHead : BitVec 4 := 2
def errRingConfig : BitVec 4 := 4
def errDma : BitVec 4 := 8

/-- Sets a bit of FN_ERROR with its RING; ERROR of FN_EVENT is set when the bit becomes 1. -/
def State.setError (s : State) (f : FnId) (bit : BitVec 4) (ring : Nat) : State :=
  let old := (s.fn f).error
  let s := s.setFn f (fun x =>
    { x with error := x.error ||| bit, errorRing := BitVec.ofNat 5 ring })
  if old &&& bit = 0 then s.setEvent f evtError else s

/-- An operation on every function in ascending order. -/
def State.eachFn (s : State) (g : State → FnId → State) : State :=
  (List.finRange 128).foldl g s

/-! ## Taken commands -/

/-- The taken command of a number. -/
def State.cmd (s : State) (id : Nat) : Option Cmd := s.fore.taken.find? (fun c => c.id == id)

/-- OUTSTANDING of FN_TALLY (R83). -/
def State.outstanding (s : State) (f : FnId) : Nat :=
  (s.fore.taken.filter (fun c => c.fn == f)).length

/-- Changes the taken command of a number. -/
def State.setCmd (s : State) (id : Nat) (g : Cmd → Cmd) : State :=
  s.setFore (fun x => { x with taken := x.taken.map (fun c => if c.id = id then g c else c) })

/-- Its completion is not yet formed. -/
def Cmd.live (c : Cmd) : Bool :=
  match c.phase with
  | .formed .. => false
  | _ => true

/-- Forms a command's completion now, unless it is formed already (R132, R135, R144). -/
def State.finish (s : State) (id : Nat) (status detail : BitVec 16) (result : BitVec 64) : State :=
  s.setCmd id (fun c => if c.live then { c with phase := .formed status detail result s.now } else c)

/-- The command of a row: taken, begun, with that opcode. Otherwise the row has nothing to act on
and the state stays as it is (log 1). -/
def State.withCmd (s : State) (id : Nat) (o : Opcode) (g : Cmd → State) : State :=
  match s.cmd id with
  | some c => if s.rootRuns = true ∧ c.phase = .begun ∧ opcodeOf c.opcode = some o then g c else s
  | none => s

/-- Marks a begun command as at work: a later event completes it. -/
def State.hold (s : State) (id : Nat) : State := s.setCmd id (fun c => { c with phase := .running })

/-- A parameter of a descriptor: `n` bytes from byte `i` (R123). -/
def Cmd.arg (c : Cmd) (i n : Nat) : Nat := leNat c.desc i n

/-- The offset of the first bad field of a list in ascending order (R150). -/
def firstBad : List (Nat × Bool) → Option Nat
  | [] => none
  | (o, bad) :: r => if bad then some o else firstBad r

/-- The reserved bytes from `lo` to `hi - 1` that are not 0 (R12). -/
def reservedBad (b : Bytes) (lo hi : Nat) : List (Nat × Bool) :=
  (List.range (hi - lo)).map (fun i => (lo + i, byteAt b (lo + i) != 0))

/-- BAD_PARAM at a block offset (R150). -/
def State.badBlock (s : State) (id off : Nat) : State :=
  s.finish id stBadParam (BitVec.ofNat 16 (0x8000 + off)) 0

/-! ## CAN transmission -/

/-- The data bytes of the safe message with its insertions (R425). -/
def safeData (f : CanFrame) (alive : BitVec 4) (cause : Nat) : Bytes :=
  let d := f.data
  let d := if f.flags.getLsbD 2 then
    d.set f.counterB ((byteAt d f.counterB &&& 0xF0) ||| alive.setWidth 8) else d
  let d := if f.flags.getLsbD 3 then d.set f.causeB (BitVec.ofNat 8 cause) else d
  if f.flags.getLsbD 4 then d.set f.crcB (crc8 (d.eraseIdx f.crcB)) else d

/-- An idle controller starts its next frame: the safe message ahead of every other (R424, R426). -/
def State.kick (s : State) (b : BusId) : State :=
  let x := s.can[b.val]
  if x.wire = .idle ∧ x.normal ∧ ¬ x.silenced ∧ ¬ x.busOff then
    if x.safePending then
      (s.setCan b (fun x => { x with wire := .safe })).send
        (.can b true (safeData x.message x.alive (s.lamp.cause.getD 0)))
    else
      match x.queue with
      | [] => s
      | (id, f) :: r =>
        (s.setCan b (fun x => { x with wire := .frame id f false, queue := r })).send
          (.can b false f.data)
  else s

/-- A controller enters the safe state: normal mode at once (R89), queue withdrawn, the frame on the
wire not retried (R422), the safe message pending (R424), recovery begun (R426). -/
def CanBus.enterSafe (x : CanBus) : CanBus :=
  { x with
    normal := x.normal || !x.silenced
    queue := []
    wire := match x.wire with
      | .frame id f _ => .frame id f true
      | w => w
    safePending := !x.silenced
    recovering := x.recovering || x.busOff }

/-! ## The safe state -/

/-- The lamp die enters the safe state (R396, R28): drives both pins low, releases the safe message
on both buses, tells the rootstock. The first cause stays (R425). -/
def State.lampSafe (s : State) (cause : Nat) : State :=
  if s.lamp.safe then s
  else
    let s : State := { s with
      lampDrivesLow := true
      lamp := { s.lamp with
        safe := true
        cause := some (s.lamp.cause.getD cause)
        toRoot := s.lamp.toRoot ++ [.safeRequest cause] }
      can := s.can.map CanBus.enterSafe }
    (s.kick 0).kick 1

/-- What the safe state leaves of an outstanding command (R139): one marked S at CLASS 0 runs on,
every other completes with SAFE_STATE. -/
def Cmd.enterSafe (now : BitVec 64) (result : BitVec 64) (c : Cmd) : Cmd :=
  let keeps := match opcodeOf c.opcode with
    | some o => o.safeMark && c.cls == 0
    | none => false
  if c.live && !keeps then
    { c with phase := .formed stSafe 0 result now }
  else c

/-- The command that a run belongs to. -/
def Run.cmd (r : Run) : Option Nat :=
  match r.kind with
  | .job c => some c
  | .attend c => some c
  | .bound .. => none

/-- RESULT of JOB_SUBMIT and ATTEND (R141, R309, R327): ENTRY and the engine time measured. -/
def Run.result (r : Run) : BitVec 64 := BitVec.ofNat 64 (r.entry.toNat + min r.usedUs (2 ^ 32 - 1) * 2 ^ 32)

/-- RESULT of the command whose run has been admitted, 0 for any other. -/
def State.runResult (s : State) (id : Nat) : BitVec 64 :=
  match s.fore.runs.find? (fun r => r.admitted && r.cmd == some id) with
  | some r => r.result
  | none => 0

/-- A closed stream context: nothing of the stream is left but its record of frames (R193, R217). -/
def Stream.close (x : Stream) : Stream :=
  { x with isOpen := false, opening := none, closing := none, closeDone := false, bound := none, asm := none,
           nextCfg := none, linkDown := false, newSeed := none, grace := 0, entries := [],
           swallow := none, awaitGap := false }

/-- A stream in the safe state (R397): it stays open, its frame in progress goes, an opening that
waits is over, and a closing that waits is done, since no run is left. -/
def Stream.enterSafe (x : Stream) : Stream :=
  { x with
    asm := none
    entries := []
    opening := none
    isOpen := x.isOpen && x.closing.isNone
    bound := if x.closing.isNone then x.bound else none
    closing := none
    closeDone := false }

/-- An engine stops in the safe state: a slice ends without result (R397). -/
def Engine.rest (e : Engine) : Engine :=
  { e with tile := none, slice := false, state := if e.state = .underTest then .inPool else e.state }

/-- The rootstock enters the safe state (R396, R397, R487): pins low, result gate closed, engines and
timers stopped, outstanding commands completed, both hosts told, the lamp die told. Before
BOOT_COMPLETE, and on a BOOT_TIMEOUT (R70), the first boot-failure cause is recorded (R74, R85). -/
def State.rootSafe (s : State) (cause : Nat) (bootCause : Nat) : State :=
  if s.safe then s
  else
    let pre := !s.boot.complete || bootCause == 6
    let s := s.abortTiles (fun _ => true)
    let s : State := { s with
      safe := true
      rootDrivesLow := true
      postBoot := !pre
      boot := { s.boot with
        failCause := if pre then some (s.boot.failCause.getD bootCause) else s.boot.failCause }
      scions := s.scions.map (fun x =>
        { x with state := if x.state = .restoring then .fenced else x.state })
      fcu := { s.fcu with timers := [] }
      engines := s.engines.map Engine.rest
      fore := { s.fore with
        runs := []
        restoring := none
        taken := s.fore.taken.map (fun c => c.enterSafe s.now (s.runResult c.id)) }
      streams := s.streams.map Stream.enterSafe
      cl := s.cl.map (fun x => { x with retrainCmd := none })
      lamp := { s.lamp with toLamp := s.lamp.toLamp ++ [.safeRequest cause] } }
    let bits := if pre then evtSafe ||| evtBootDone else evtSafe
    s.eachFn (fun s f => s.setEvent f bits)

/-! ## Capture of a fault -/

/-- A rising edge on its way to the FCU. `tier` overrides the base tier (R377); `time` is the time
of an edge that crossed the lamp seam. -/
structure Raise where
  source   : Nat
  event    : Ev
  owner    : Option FnId := none
  class2   : Bool := false
  tier     : Option Nat := none
  stays    : Bool := false
  injected : Bool := false
  context  : Option (BitVec 9) := none
  time     : Option (BitVec 64) := none

/-- A rising edge of a condition that neither stands nor is in holdoff (R379, R395). -/
def Fcu.isEdge (c : Fcu) (src : Nat) (e : Ev) : Bool :=
  !c.holdoff.contains (src, e) && !c.live.contains (src, e) && !c.holds.contains (src, e)

/-- N and W of a promotable edge (R377, R388). -/
def Fcu.threshold (c : Fcu) (src : Nat) (e : Ev) : Option (Nat × Nat) :=
  match promotion e with
  | none => none
  | some d =>
    match c.thresholds.find? (fun t => t.1 == src) with
    | some t => some t.2
    | none => some d

/-- Promotable edges of the source within W, the edge at `t` included (R381). -/
def Fcu.countAt (c : Fcu) (src : Nat) (t : BitVec 64) (w : Nat) : Nat :=
  (c.window.filter (fun x => x.1 == src && decide (t.toNat < x.2.toNat + w * 1000)
    && decide (x.2.toNat ≤ t.toNat))).length + 1

/-- CONTEXT of ORIGIN (R386): the owner, or 0xFF. -/
def contextOf : Option FnId → BitVec 9
  | some f => BitVec.ofNat 9 f.val
  | none => 0xFF

/-- COUNT and tier of an edge before the timer rule (R377, R381, R386). -/
def Fcu.judge (c : Fcu) (r : Raise) (t : BitVec 64) : Nat × Nat :=
  match c.threshold r.source r.event with
  | some (n, w) =>
    let k := c.countAt r.source t w
    (min k 255, if n ≤ k then 2 else 1)
  | none => (1, r.tier.getD (baseTier r.source r.event))

/-- The reaction timer that runs for a source (R389). -/
def Fcu.timerOf (c : Fcu) (src : Nat) : Option ReactionTimer := c.timers.find? (fun t => t.source == src)

/-- The FCU's own part of a capture: the record, and the FCU after it (R379 to R389). In the safe
state no reaction follows (R397). -/
def Fcu.capture (c : Fcu) (r : Raise) (t : BitVec 64) (reactionUs : Nat) (safe : Bool) : Fcu × Rec :=
  let (count, tier) := c.judge r t
  let ctx := r.context.getD (contextOf r.owner)
  let base : Rec :=
    { time := t, count := count, latched := tier != 0, injected := r.injected, seq := c.nextSeq,
      context := ctx, source := r.source, event := r.event, die := dieOf r.source, timer := false,
      tier := tier, owner := r.owner, class2 := r.class2, episode := none }
  let c := { c with
    nextSeq := c.nextSeq + 1
    holdoff := (r.source, r.event) :: c.holdoff
    live := if r.stays && !r.injected then (r.source, r.event) :: c.live else c.live
    holds := if r.stays && r.injected then (r.source, r.event) :: c.holds else c.holds
    window := if (promotion r.event).isSome then (r.source, t) :: c.window else c.window }
  if tier = 2 ∧ safe = false then
    match c.timerOf r.source with
    | some tm =>
      ({ c with timers := c.timers.map (fun x =>
          if x.source = r.source then
            { x with members := ⟨base.seq, r.event, r.class2, ctx⟩ :: x.members } else x) },
       { base with episode := some tm.startSeq })
    | none =>
      if c.timers.length < Config.timerSlots then
        let tm : ReactionTimer :=
          { source := r.source, startSeq := base.seq, members := [⟨base.seq, r.event, r.class2, ctx⟩],
            lengthUs := reactionUs, owner := r.owner, context := ctx, class2 := r.class2 }
        ({ c with timers := c.timers ++ [tm] },
         { base with timer := true, episode := some base.seq })
      else (c, { base with tier := 3 })
  else (c, base)

/-- The functions whose view a record enters (R382). -/
def State.viewers (s : State) (r : Rec) (f : FnId) : Bool :=
  match r.owner with
  | none => true
  | some o =>
    f == o || f == pfOf (portOf o) ||
      (decide (2 ≤ r.tier) && decide (portOf f = portOf o) && s.hasAuth f)

/-- A record enters the view queue of a function (R384). -/
def Fn.enterView (x : Fn) (r : Rec) : Fn := { x with view := (r :: x.view).take 32, total := x.total + 1 }

/-- A record enters the views, and FAULT is set for Alert and above (R382, R383). -/
def State.distribute (s : State) (r : Rec) : State :=
  s.eachFn (fun s f =>
    if s.viewers r f then
      let s := s.setFn f (fun x => x.enterView r)
      if r.tier = 0 then s else s.setEvent f evtFault
    else s)

/-- The boot-failure cause that a Fatal event before BOOT_COMPLETE stands for (R85, log 15). -/
def bootCauseOf (src : Nat) : Ev → Nat
  | .bootTimeout => 0x06
  | .lampSeamLost => 0x04
  | .clockMonitor => 0x04
  | _ => if lampSource src then 0x04 else 0x03

/-- An edge reaches the FCU, which stops with the rootstock's clocks (R52, R379 to R392, R396). -/
def State.raiseFcu (s : State) (r : Raise) : State :=
  if s.rootRuns && s.fcu.isEdge r.source r.event then
    let (c, rc) := s.fcu.capture r (r.time.getD s.now) s.fore.safety.reactionUs s.safe
    let s : State := { s with fcu := c }
    let s := if rc.timer then
        s.setLamp (fun l => { l with toLamp := l.toLamp ++ [.timerStart r.source] })
      else s
    let s := s.distribute rc
    if rc.tier = 3 then s.rootSafe (Ev.code r.event) (bootCauseOf r.source r.event) else s
  else s

/-- The lamp seam carries nothing any more. -/
def Lamp.seamLost (l : Lamp) : Bool := l.rootSide.lost || l.lampSide.lost

/-- A lamp-die source raises an event (R380, R28): the lamp die acts on a Fatal one on its own side,
and the record goes to the FCU over the lamp seam, or nowhere if the seam is lost. -/
def State.raiseLamp (s : State) (r : Raise) : State :=
  let s := if s.lamp.seamLost then s
    else s.setLamp (fun l => { l with
      toRoot := l.toRoot ++ [.record r.source r.event r.owner s.now r.injected r.stays] })
  if r.tier.getD (baseTier r.source r.event) = 3 then s.lampSafe (Ev.code r.event) else s

/-- A source raises an event, on whichever die it sits. -/
def State.raise (s : State) (r : Raise) : State :=
  if lampSource r.source then s.raiseLamp r else s.raiseFcu r

/-- The condition of a source and event no longer stands. -/
def State.clearLive (s : State) (src : Nat) (e : Ev) : State :=
  { s with fcu := { s.fcu with live := s.fcu.live.filter (fun x => x != (src, e)) } }

/-- A device-wide edge without further data. -/
def State.raiseWide (s : State) (src : Nat) (e : Ev) : State := s.raise { source := src, event := e }

end Sys2Proof.Machine
end

