-- ==== Sys2Proof/Machine/Space.lean ====
section
/-!
DEFINITION. Function address spaces: mappings and the checks on them (R230 to R236), writes and
reads through them with graft points 4 and 7 (R335, R338, R348, R349), 2 MiB frames and the ports'
shares of them (R95, R486), quotas and page pools (R99, R232, R287).
-/

namespace Sys2Proof.Machine

/-! ## Ranges within mappings -/

/-- The end of the space of R230. -/
def vaEnd : Nat := 2 ^ 48

/-- The first address that can be mapped (R230). -/
def vaStart : Nat := 0x10000

/-- Two ranges share an address. -/
def overlap (a n b m : Nat) : Bool := decide (a < b + m) && decide (b < a + n) && n != 0 && m != 0

/-- The mapping of a function that holds an address. -/
def Fn.mapAt (x : Fn) (va : Nat) : Option Mapping :=
  x.maps.find? (fun m => decide (m.va ≤ va) && decide (va < m.va + m.size))

/-- A part of a range that lies within one mapping. -/
structure Seg where
  va  : Nat
  len : Nat
  map : Mapping

/-- The parts of a range, mapping by mapping; none if an address is unmapped. -/
def Fn.segsFuel (x : Fn) : Nat → Nat → Nat → Option (List Seg)
  | _, _, 0 => some []
  | 0, _, _ + 1 => none
  | k + 1, va, n + 1 =>
    match x.mapAt va with
    | none => none
    | some m =>
      let l := min (n + 1) (m.va + m.size - va)
      match x.segsFuel k (va + l) (n + 1 - l) with
      | none => none
      | some r => some ({ va := va, len := l, map := m } :: r)

/-- The parts of a range of `n` bytes. -/
def Fn.segs (x : Fn) (va n : Nat) : Option (List Seg) := x.segsFuel (x.maps.length + 1) va n

/-- What a range must grant. -/
inductive Need where
  | rd
  | wr
  | any
  deriving DecidableEq, Repr

/-- The mapping grants it. -/
def Mapping.grants (m : Mapping) : Need → Bool
  | .rd => m.rd
  | .wr => m.wr
  | .any => true

/-- The whole range lies in mappings that grant the need (R234), of device memory only if asked. -/
def Fn.spans (x : Fn) (va n : Nat) (need : Need) (deviceOnly : Bool) : Bool :=
  match x.segs va n with
  | none => false
  | some r => r.all (fun g => g.map.grants need && !(deviceOnly && g.map.host))

/-- A range touches a host window. -/
def Fn.touchesHost (x : Fn) (va n : Nat) : Bool :=
  match x.segs va n with
  | none => false
  | some r => r.any (fun g => g.map.host)

/-- The region overlaps a range. -/
def KvSeq.meets (q : KvSeq) (va n : Nat) : Bool := overlap q.va (q.maxLen * q.row) va n

/-- A range overlaps a mapping or a region of the function (R232, R285). -/
def Fn.taken (x : Fn) (va n : Nat) : Bool :=
  x.maps.any (fun m => overlap m.va m.size va n) || x.seqs.any (fun q => q.meets va n)

/-! ## Units as they are read -/

/-- The function in whose mapping, cache page or loaded graph a unit lies, or whose tag shadow holds it
(R227): none for free memory and the firmware reserve. -/
def State.unitOwner (s : State) (u : Nat) : Option FnId :=
  let k := if 2 ^ 80 ≤ u then 4096 * (u - 2 ^ 80) else 64 * u
  if 2 ^ 56 ≤ k then
    let g := (k - 2 ^ 56) / 2 ^ 32
    (List.finRange 128).find? (fun f => g / 2 ^ 32 == f.val
      && (s.fn f).graphs.any (fun x => x.handle == g % 2 ^ 32))
  else
    let va := k % 2 ^ 48
    (List.finRange 128).find? (fun f => k / 2 ^ 48 == f.val
      && ((s.fn f).maps.any (fun m => !m.host && decide (m.va ≤ va) && decide (va < m.va + m.size))
        || (s.fn f).seqs.any (fun q => decide (q.va ≤ va) && q.pages.any (fun x => x.1 == (va - q.va) / 65536))))

/-- The physical address at which a unit stands (R219, R221, R223). -/
def State.unitPlace (s : State) (u : Nat) : Nat :=
  64 * (Config.physUnit u % max 1 (dataMib s.boot.memMib * 16384))

/-- A unit with flipped bits is read (R226 to R228): the data corrected and written back, or the unit poisoned;
the event of its channel, owned as R227 says. -/
def State.readUnit (s : State) (x : Nat × List Nat) : State :=
  let r := s.mem.readUnit x.1 x.2
  let t : State := { s with mem := r.1 }
  match r.2 with
  | none => t
  | some e => t.raise { source := 0x020 + chanOf (s.unitPlace x.1), event := e, owner := s.unitOwner x.1 }

/-- `n` lines from line `l` are read (R226, R336 point 3), with the tags that their shadow holds. -/
def State.senseLines (s : State) (l n : Nat) : State := (s.mem.upsetIn l n).foldl State.readUnit s

/-- The lines of a range of keys are read. -/
def State.senseRange (s : State) (k n : Nat) : State := s.senseLines (k / 256) (linesOf k n)

/-- The lines of which a write of `n` bytes writes a part are read (R227, R335). -/
def State.senseEdges (s : State) (k n : Nat) : State :=
  let e := k + n
  let s := if n = 0 ∨ (k % 256 = 0 ∧ 256 ≤ n) then s else s.senseLines (k / 256) 1
  if n = 0 ∨ e % 256 = 0 ∨ e / 256 = k / 256 then s else s.senseLines (e / 256) 1

/-- A range of a function's space is read (R226, R235): the lines of device memory, and a request to the host
for every window. -/
def State.access (s : State) (f : FnId) (va n : Nat) : State :=
  (((s.fn f).segs va n).getD []).foldl (fun s g =>
    if g.map.host then s.send (.hostRead f (g.map.hostAddr + (g.va - g.map.va)) g.len)
    else s.senseRange (memKey f g.va) g.len) s

/-! ## Access -/

/-- A GRAFT_MISMATCH of the copy agent on behalf of a function (R348). -/
def State.graftCopy (s : State) (f : FnId) (class2 : Bool) : State :=
  s.raise { source := 0x07C, event := .graftMismatch, owner := some f, class2 := class2 }

/-- Raises the copy agent's event when a line tag failed at graft point 4 (R338, R348). -/
def State.graftIf (s : State) (f : FnId) (class2 : Bool) (d : BitVec 16) : State :=
  if d = 4 then s.graftCopy f class2 else s

/-- Writes one part: a posted write to the host, or lines of device memory (R335). -/
def State.writeSeg (s : State) (f : FnId) (g : Seg) (b : Bytes) : State × Nat × Option (BitVec 16) :=
  if g.map.host then (s.send (.hostWrite f (g.map.hostAddr + (g.va - g.map.va)) b), b.length, none)
  else
    let s := s.senseEdges (memKey f g.va) b.length
    let (m, n, e) := s.mem.store (memKey f g.va) b
    ({ s with mem := m }, n, e)

/-- Writes the parts of a range in order, stopping at the first failure. -/
def State.writeSegs (s : State) (f : FnId) : List Seg → Bytes → State × Nat × Option (BitVec 16)
  | [], _ => (s, 0, none)
  | g :: r, b =>
    if b = [] then (s, 0, none)
    else
      match s.writeSeg f g (b.take g.len) with
      | (s, n, some e) => (s, n, some e)
      | (s, n, none) =>
        let (s, k, e) := s.writeSegs f r (b.drop g.len)
        (s, n + k, e)

/-- The bytes of a command's transfer that reach their end before a host request fails (R236). -/
def ioLimit (host : Bool) (io : HostIo) (n : Nat) : Option Nat :=
  match io with
  | .ok => none
  | .fail d => if host then some (min d n) else none

/-- Writes bytes to a checked range of a function's space: the bytes written and the DETAIL of the
first failure, a host request's failure included (R236, with the AER report). -/
def State.writeVa (s : State) (f : FnId) (class2 : Bool) (va : Nat) (b : Bytes) (io : HostIo) :
    State × Nat × Option (BitVec 16) :=
  let x := s.fn f
  let segs := (x.segs va b.length).getD []
  match ioLimit (x.touchesHost va b.length) io b.length with
  | none =>
    match s.writeSegs f segs b with
    | (s, n, some e) => (s.graftIf f class2 e, n, some e)
    | r => r
  | some k =>
    match s.writeSegs f segs (b.take k) with
    | (s, n, some e) => (s.graftIf f class2 e, n, some e)
    | (s, n, none) => (s.send (.aer (portOf f)), n, some 7)

/-- Reads the parts of a range in order: device memory as a reader at graft point 4, a host window
from the bytes that its requests returned. The DETAIL of the first failure comes with the bytes
before it. -/
def State.readSegs (s : State) (f : FnId) : List Seg → Bytes → Bytes × Option (BitVec 16)
  | [], _ => ([], none)
  | g :: r, host =>
    if g.map.host then
      let (b, e) := s.readSegs f r (host.drop g.len)
      (fit g.len host ++ b, e)
    else
      match s.mem.load (memKey f g.va) g.len with
      | (b, some e) => (b, some e)
      | (b, none) =>
        let (b', e) := s.readSegs f r host
        (b ++ b', e)

/-- Reads a checked range of a function's space. -/
def State.readVa (s : State) (f : FnId) (va n : Nat) (host : Bytes) : Bytes × Option (BitVec 16) :=
  s.readSegs f (((s.fn f).segs va n).getD []) host

/-- The bytes of a range of device memory as they stand, checks aside. -/
def State.peekVa (s : State) (f : FnId) (va n : Nat) : Bytes := s.mem.bytes (memKey f va) n

/-- Writes a query record to OUT_VA and completes the command (R140, R236). -/
def State.answer (s : State) (c : Cmd) (va : Nat) (b : Bytes) (io : HostIo) (result : BitVec 64) :
    State :=
  match s.writeVa c.fn (c.cls == 2) va b io with
  | (s, _, some d) => s.finish c.id stIntegrity d 0
  | (s, _, none) => s.finish c.id stOk 0 result

/-! ## Frames, shares and quotas -/

/-- KiB in use in a frame. -/
def frameUsed (fr : List (Nat × Nat)) : Nat := (fr.map (·.2)).sum

/-- Fills partly used frames with up to `n` pieces of `unit` KiB for a user. -/
def fillFrames (unit user : Nat) : List (List (Nat × Nat)) → Nat → List (List (Nat × Nat)) × Nat
  | [], n => ([], n)
  | fr :: r, n =>
    let k := min n ((2048 - frameUsed fr) / unit)
    let fr := if k = 0 then fr else (user, k * unit) :: fr
    let (r, m) := fillFrames unit user r (n - k)
    (fr :: r, m)

/-- `n` pieces in frames newly taken, a full frame at a time. -/
def newFrames (unit user : Nat) : Nat → Nat → List (List (Nat × Nat))
  | 0, _ => []
  | k + 1, n =>
    let per := 2048 / unit
    if n = 0 then [] else [(user, min n per * unit)] :: newFrames unit user k (n - min n per)

/-- Takes `n` pieces of `unit` KiB: from frames held first, then from at most `free` new frames
(R486). -/
def allocPieces (free unit user : Nat) (held : List (List (Nat × Nat))) (n : Nat) :
    Option (List (List (Nat × Nat))) :=
  let (h, rest) := fillFrames unit user held n
  let per := 2048 / unit
  let need := (rest + per - 1) / per
  if need ≤ free then some (h ++ newFrames unit user need rest) else none

/-- Gives back what a user holds; a frame with nothing in use is free again (R486). -/
def releaseUser (user : Nat) (held : List (List (Nat × Nat))) : List (List (Nat × Nat)) :=
  (held.map (fun fr => fr.filter (fun p => p.1 != user))).filter (fun fr => !fr.isEmpty)

/-- Who holds memory in the frames: a mapping by its address, a graph by its handle, a cache page
by its sequence and page. -/
def mapUser (f : FnId) (va : Nat) : Nat := (f.val * 4 + 0) * 2 ^ 64 + va
def graphUser (f : FnId) (h : Nat) : Nat := (f.val * 4 + 1) * 2 ^ 64 + h
def pageUser (f : FnId) (h page : Nat) : Nat := (f.val * 4 + 2) * 2 ^ 64 + h * 2 ^ 20 + page

/-- Frames of function memory on the device (R95, R486). -/
def State.frames (s : State) : Nat := (dataMib s.boot.memMib - Config.reserveMib) / 2

/-- A port's share of frames for given MEM_PARTS_A (R95). -/
def State.shareOf (s : State) (memA : Nat) : HostPort → Nat
  | .a => s.frames * memA / 64
  | .b => s.frames - s.frames * memA / 64

/-- A port's share of frames (R95). -/
def State.share (s : State) (p : HostPort) : Nat := s.shareOf s.fore.memA p

/-- Frames that a port may still take. -/
def State.freeFrames (s : State) (p : HostPort) : Nat := s.share p - (s.port p).frames.length

/-- Takes pieces for a user of a function's port. -/
def State.alloc (s : State) (f : FnId) (unit user n : Nat) : Option State :=
  match allocPieces (s.freeFrames (portOf f)) unit user (s.port (portOf f)).frames n with
  | none => none
  | some fr => some (s.setPort (portOf f) (fun p => { p with frames := fr }))

/-- Releases a user's pieces of a function's port. -/
def State.release (s : State) (f : FnId) (user : Nat) : State :=
  s.setPort (portOf f) (fun p => { p with frames := releaseUser user p.frames })

/-- The VFs of a port with their provisions. -/
def State.provisions (s : State) (p : HostPort) : List (FnId × Provision) :=
  (List.finRange 128).filterMap (fun f =>
    if portOf f = p ∧ isVf f then (s.fn f).provision.map (fun v => (f, v)) else none)

/-- Bytes of a cache page with its shadow (R287, R332). -/
def pageKib : Nat := 65

/-- Bytes a port's VFs are provisioned: memory and page pools (R99, R100). -/
def State.provisionedKib (s : State) (p : HostPort) : Nat :=
  ((s.provisions p).map (fun x => x.2.memMib * 1024 + x.2.kvPages * pageKib)).sum

/-- A function's memory quota in MiB (R99, R101). -/
def State.quotaMib (s : State) (f : FnId) : Nat :=
  if isVf f then match (s.fn f).provision with
    | some v => v.memMib
    | none => 0
  else (s.share (portOf f) * 2048 - s.provisionedKib (portOf f)) / 1024

/-- KiB charged against the quota: mappings of KIND 0, weights and constants of graphs (R232). -/
def Fn.chargedKib (x : Fn) : Nat :=
  ((x.maps.filter (fun m => !m.host)).map (fun m => m.size / 1024)).sum
    + (x.graphs.map (fun g => g.image.constKib)).sum

/-- Cache pages of a function's pool (R99, R287; a PF's is what its share leaves, log 12). -/
def State.kvPool (s : State) (f : FnId) : Nat :=
  if isVf f then match (s.fn f).provision with
    | some v => v.kvPages
    | none => 0
  else (s.share (portOf f) * 2048 - s.provisionedKib (portOf f)) / pageKib

/-- Cache pages committed (R148). -/
def Fn.kvUsed (x : Fn) : Nat := (x.seqs.map (fun q => q.pages.length)).sum

/-- Cache pages, each with its shadow in one frame, for which some frames and a number of free ones have room. -/
def pagesIn (held : List (List (Nat × Nat))) (free : Nat) : Nat :=
  (held.map (fun fr => (2048 - frameUsed fr) / pageKib)).sum + free * (2048 / pageKib)

/-- Cache pages that a port can still supply (R486). -/
def State.pagesLeft (s : State) (p : HostPort) : Nat := pagesIn (s.port p).frames (s.freeFrames p)

/-- Cache pages of the port's VFs that are provisioned and not committed: they are set aside (R287, R332). -/
def State.pagesAside (s : State) (p : HostPort) : Nat :=
  ((s.provisions p).map (fun x => x.2.kvPages - (s.fn x.1).kvUsed)).sum

/-- Free pages of a function's pool (R290), as far as the port can supply them (log 12). -/
def State.kvFree (s : State) (f : FnId) : Nat :=
  min (s.kvPool f - (s.fn f).kvUsed)
    (if isVf f then s.pagesLeft (portOf f) else s.pagesLeft (portOf f) - s.pagesAside (portOf f))

/-- An allocation holds only where it leaves what is set aside for the VFs' pools (R287, R332). -/
def State.backed (p : HostPort) (t : State) : Bool := decide (t.pagesAside p ≤ t.pagesLeft p)

/-- Contexts that a port holds for given STREAMS_A (R95). -/
def portContext (streamsA : Nat) (c : Nat) : HostPort → Bool
  | .a => decide (c < streamsA)
  | .b => decide (streamsA ≤ c)

/-- STREAM_MASK of a function (R99, R148, R188): bit i, context i may be opened. -/
def State.mayOpen (s : State) (f : FnId) (c : CtxId) : Bool :=
  portContext s.fore.streamsA c.val (portOf f) &&
  if isVf f then match (s.fn f).provision with
    | some v => v.streamMask.getLsbD c.val
    | none => false
  else !(s.provisions (portOf f)).any (fun x => x.2.streamMask.getLsbD c.val)

/-- Virtual engines a function holds (R99, R101). -/
def State.vengines (s : State) (f : FnId) : Nat :=
  if isVf f then match (s.fn f).provision with
    | some v => v.vengines
    | none => 0
  else Config.venginesMax

/-- Maximum tally (R115); a VF without a provision keeps the least (R101, log 13). -/
def State.maxTally (s : State) (f : FnId) : Nat :=
  if isVf f then match (s.fn f).provision with
    | some v => v.maxTally
    | none => 8
  else 256

/-- Frees the frames of a released range and zeroes it (R94, R233). -/
def State.dropMapping (s : State) (f : FnId) (m : Mapping) : State :=
  let s := s.release f (mapUser f m.va)
  let s := s.setFn f (fun x => { x with maps := x.maps.filter (fun y => y != m) })
  if m.host then s else { s with mem := s.mem.zero (memKey f m.va) m.size }

end Sys2Proof.Machine
end

