-- ==== Sys2Proof/Machine/Fault.lean ====
section
/-!
DEFINITION. Fault capture, reaction timers and the fault commands (R376 to R398), FAULT_IN_N and
the voltage monitors (R429, R430), lockstep (R360).
-/

namespace Sys2Proof.Machine

/-! ## Records and acknowledgement -/

/-- LIVE of a record (R386): the condition stands, really or by INJECT. -/
def Fcu.stands (c : Fcu) (src : Nat) (e : Ev) : Bool :=
  c.live.contains (src, e) || c.holds.contains (src, e)

/-- The STATE word (R386). -/
def Rec.stateWord (r : Rec) (live : Bool) : Nat :=
  r.count % 256 * 2 ^ 24 + live.toNat * 2 ^ 23 + r.latched.toNat * 2 ^ 22 + r.injected.toNat * 2 ^ 21
    + r.seq.toNat

/-- The ORIGIN word (R386). -/
def Rec.originWord (r : Rec) : Nat :=
  r.context.toNat * 2 ^ 23 + r.source % 2048 * 2 ^ 12 + Ev.code r.event * 2 ^ 6 + r.die.toNat * 2 ^ 3
    + r.timer.toNat * 4 + r.tier % 4

/-- A history record, 16 bytes (R386). -/
def Rec.bytes (r : Rec) (live : Bool) : Bytes :=
  leBytes 8 r.time.toNat ++ leBytes 4 (r.stateWord live) ++ leBytes 4 r.originWord

/-- What FAULT_ACK names (R391 step 2). -/
structure Named where
  event   : Ev
  class2  : Bool
  owner   : Option FnId
  tier    : Nat
  /-- The episode's starting EVENT_SEQ. -/
  episode : Option (BitVec 21)
  /-- The episode's timer runs. -/
  running : Option ReactionTimer

/-- The functions that the record which started a timer entered the views of (R382). -/
def State.seesTimer (s : State) (t : ReactionTimer) (f : FnId) : Bool :=
  match t.owner with
  | none => true
  | some o => f == o || f == pfOf (portOf o) || (decide (portOf f = portOf o) && s.hasAuth f)

/-- The record that an EVENT_SEQ names for a function: one of a running episode that it sees, else
one in its view queue (R391 step 2). -/
def State.named (s : State) (f : FnId) (q : BitVec 21) : Option Named :=
  match s.fcu.timers.find? (fun t => s.seesTimer t f && t.members.any (fun m => m.seq == q)) with
  | some t =>
    match t.members.find? (fun m => m.seq == q) with
    | some m => some { event := m.event, class2 := m.class2, owner := t.owner, tier := 2,
                       episode := some t.startSeq, running := some t }
    | none => none
  | none =>
    match (s.fn f).view.find? (fun r => r.seq == q) with
    | some r => some { event := r.event, class2 := r.class2, owner := r.owner, tier := r.tier,
                       episode := r.episode,
                       running := s.fcu.timers.find? (fun t => r.episode == some t.startSeq) }
    | none => none

/-- The remedy is valid for the named record (R377). -/
def Named.accepts (n : Named) (remedy : Nat) : Bool :=
  if n.episode.isNone then remedy == 0 else remedy == 1 || (furtherRemedies n.event).contains remedy

/-- LATCHED cleared in the record of a number, or in every record of its episode (R391). -/
def Rec.unlatch (q : BitVec 21) (episode : Option (BitVec 21)) (r : Rec) : Rec :=
  if r.seq = q ∨ (episode.isSome ∧ r.episode = episode) then { r with latched := false } else r

/-- LATCHED cleared in every view. -/
def State.unlatch (s : State) (q : BitVec 21) (episode : Option (BitVec 21)) : State :=
  { s with fns := s.fns.map (fun x => { x with view := x.view.map (Rec.unlatch q episode) }) }

/-- A reaction timer stops and the lamp die is told (R390, R392). -/
def State.stopTimer (s : State) (src : Nat) : State :=
  let s : State := { s with fcu := { s.fcu with
    timers := s.fcu.timers.filter (fun t => t.source != src) } }
  s.setLamp (fun l => { l with toLamp := l.toLamp ++ [.timerStop src] })

/-- FAULT_ACK (R391, R393). -/
def execFaultAck (cmd : Nat) (s : State) : Host.Outcome State Fault Refusal :=
  .next (s.withCmd cmd .faultAck (fun c =>
    let raw := c.arg 16 4
    let remedy := c.arg 20 2
    if 2 ^ 21 ≤ raw then s.finish cmd stBadParam 16 0
    else
      let q := BitVec.ofNat 21 raw
      match s.named c.fn q with
      | none => s.finish cmd stBadParam 16 0
      | some n =>
        if (n.class2 || (n.owner.isNone && n.tier == 2)) && !s.hasAuth c.fn then
          s.finish cmd stNotPermitted 2 0
        else if !n.accepts remedy then s.finish cmd stBadParam 20 0
        else
          let t := s.unlatch q n.episode
          if s.safe then t.finish cmd stOk 0 0
          else
            let log (t : State) : State := { t with fcu := { t.fcu with
              ackLog := (q, BitVec.ofNat 16 remedy, s.now) :: t.fcu.ackLog } }
            match n.running with
            | some tm => (log (t.stopTimer tm.source)).finish cmd stOk 0 0
            | none => if n.episode.isNone then (log t).finish cmd stOk 0 0 else t.finish cmd stOk 0 0))

/-- FAULT_HISTORY (R385): newest first, at most COUNT records. -/
def execFaultHistory (cmd : Nat) (io : HostIo) (s : State) : Host.Outcome State Fault Refusal :=
  .next (s.withCmd cmd .faultHistory (fun c =>
    let rs := (s.fn c.fn).view.take (c.arg 24 1)
    let b := rs.flatMap (fun r => r.bytes (s.fcu.stands r.source r.event))
    s.answer c (c.arg 16 8) b io
      (BitVec.ofNat 64 ((s.fn c.fn).total.toNat + rs.length * 2 ^ 32))))

/-- THRESHOLD_SET (R388): from the next edge; edges in the window stay. -/
def execThresholdSet (cmd : Nat) (s : State) : Host.Outcome State Fault Refusal :=
  .next (s.withCmd cmd .thresholdSet (fun c =>
    let src := c.arg 16 2
    let s : State := { s with fcu := { s.fcu with
      thresholds := (src, c.arg 18 1, c.arg 20 4) :: s.fcu.thresholds.filter (fun t => t.1 != src) } }
    s.finish cmd stOk 0 0))

/-- The owner and class that an event of a source has (R382): a context's function for its guard,
the function of the port's open context for a Chroylink port, the port's first reservation for
admission; otherwise device-wide. -/
def State.ownerOf (s : State) (src : Nat) : Option FnId × Bool × Option (BitVec 9) :=
  let ofStream (x : Stream) : Option FnId × Bool × Option (BitVec 9) :=
    if x.isOpen then (some x.owner, x.cfg.cls == 2, none) else (none, false, none)
  if 0x600 ≤ src ∧ src ≤ 0x62F then ofStream (s.streams.toList.getD (src - 0x600) {})
  else if 0x640 ≤ src ∧ src ≤ 0x657 then
    match s.streams.toList.find? (fun x => x.isOpen && x.cfg.source == 0 && x.cfg.port == src - 0x640) with
    | some x => ofStream x
    | none => (none, false, none)
  else if src = 0x090 ∨ src = 0x091 then
    let p : HostPort := if src = 0x090 then .a else .b
    match s.fore.reservations.find? (fun r => decide (portOf r.fn = p)) with
    | some r => (some r.fn, true, some (BitVec.ofNat 9 (256 + (r.num - 1) % 256)))
    | none => (none, false, none)
  else (none, false, none)

/-! ## Edges, holdoff, expiry -/

/-- 1 µs after a captured edge its holdoff ends (R379). -/
def execFaultHoldoffEnd (source : Nat) (event : Ev) (s : State) : Host.Outcome State Fault Refusal :=
  .next (s.when s.rootRuns { s with fcu := { s.fcu with
    holdoff := s.fcu.holdoff.filter (fun x => x != (source, event)) } })

/-- A reaction timer reaches its length (R390): REACTION_EXPIRED at Fatal with the owner and the
CONTEXT of the record that started it. -/
def execReactionExpired (source : Nat) (s : State) : Host.Outcome State Fault Refusal :=
  .next (s.when s.rootRuns
    (match s.fcu.timerOf source with
     | none => s
     | some tm =>
       let s : State := { s with fcu := { s.fcu with
         timers := s.fcu.timers.filter (fun t => t.source != source) } }
       s.raiseFcu { source := source, event := .reactionExpired, owner := tm.owner,
                    class2 := tm.class2, context := some tm.context }))

/-- A lamp-die shadow timer expires (R392): the lamp die enters the safe state. -/
def execShadowTimerExpired (source : Nat) (s : State) : Host.Outcome State Fault Refusal :=
  .next (s.when (s.lampRuns && s.lamp.shadows.contains source)
    ((s.setLamp (fun l => { l with shadows := l.shadows.filter (· != source) })).lampSafe
      (Ev.code .reactionExpired)))

/-- FAULT_IN_N low for three NOSC samples, sampled from BOOT_COMPLETE (R429); while Night is being entered it is a
wake event (R436). -/
def execFaultInNLow (s : State) : Host.Outcome State Fault Refusal :=
  .next (s.when (s.lampRuns && s.lamp.gotBoot)
    (if s.entersNight then s.wakeLater .faultIn else s.raiseWide 0x506 .externalFault))

/-- A rail crosses a threshold of its armed monitor (R430). -/
def execVoltageMonitor (rail : Fin 10) (s : State) : Host.Outcome State Fault Refusal :=
  .next (s.when (s.lampRuns && s.lamp.armed) (s.raiseWide (0x520 + rail.val) .voltageMonitor))

/-- A lockstep pair disagrees (R360, R398): Fatal, and the pair halts. -/
def execLockstepMismatch (p : Pair) (s : State) : Host.Outcome State Fault Refusal :=
  .next (match p with
    | .f0 => s.when (s.rootRuns && !s.fore.f0Halted)
        ((s.setFore (fun x => { x with f0Halted := true })).raiseWide 0x010 .lockstepMismatch)
    | .f1 => s.when (s.rootRuns && !s.fore.f1Halted)
        ((s.setFore (fun x => { x with f1Halted := true })).raiseWide 0x011 .lockstepMismatch)
    | .lamp => s.when (s.lampRuns && !s.lamp.halted)
        ((s.setLamp (fun l => { l with halted := true })).raiseWide 0x500 .lockstepMismatch))

end Sys2Proof.Machine
end

