-- ==== Sys2Proof/Machine/Flags.lean ====
section
/-!
DEFINITION. The status and flag registers of BAR0 as a host reads them (R104 to R110, R409, R410):
each is computed from the state, reserved bits 0 (R12).
-/

namespace Sys2Proof.Machine

/-- FN_ID (R105). -/
def fnIdReg (f : FnId) : Nat :=
  f.val * 2 ^ 16 + HostPort.num (portOf f) * 2 ^ 8 + (isVf f).toNat * 2 ^ 7 + f.val % 64

/-- FN_STATUS (R105, R106). -/
def State.fnStatusReg (s : State) (f : FnId) : Nat :=
  (s.hasAuth f).toNat * 2 ^ 8 + (s.fn f).helloDone.toNat * 2 ^ 7 + s.fnState f

/-- FN_TALLY (R83, R106). -/
def State.fnTallyReg (s : State) (f : FnId) : Nat := s.outstanding f * 2 ^ 16 + (s.fn f).tally

/-- FN_ERROR (R106). -/
def Fn.errorReg (x : Fn) : Nat := x.errorRing.toNat * 2 ^ 8 + x.error.toNat

/-- CQ or VECTOR, LOG2_DEPTH and ENABLE of a ring's control register. -/
def controlReg (enable : Bool) (field log2 : Nat) : Nat := enable.toNat * 2 ^ 31 + field * 2 ^ 16 + log2

/-- The watchdog of a port (R400). -/
def wdogOf : HostPort → WdogId
  | .a => 1
  | .b => 2

/-- The watchdog counts: RUNNING or WARNED (R401). -/
def Wdog.runs (w : Wdog) : Bool := w.state == .running || w.state == .warned

/-- CLOCK of a status register: 2 on the fallback (R405, R410). -/
def Wdog.clockCode (w : Wdog) : Nat := if w.fallback then 2 else w.cfg.clock

/-- HWDOG_STATUS and LAMP_STATUS (R410); OPEN is the window's state at the read. -/
def Wdog.statusReg (w : Wdog) (armed isOpen : Bool) : Nat :=
  w.runs.toNat * 2 ^ 31 + w.hwStart.toNat * 2 ^ 30 + w.woke.toNat * 2 ^ 29 + w.fallback.toNat * 2 ^ 28
    + w.clockCode % 4 * 2 ^ 24 + w.cfg.window % 4 * 2 ^ 22 + (w.state == .waiting).toNat * 2 ^ 21
    + (w.state == .warned).toNat * 2 ^ 20 + isOpen.toNat * 2 ^ 19 + armed.toNat * 2 ^ 18

/-- HWDOG_COUNTS (R410). -/
def Wdog.countsReg (w : Wdog) : Nat :=
  min w.early 255 * 2 ^ 24 + min w.keyErrors 255 * 2 ^ 16 + min w.failures 65535

/-- The first tick of the open window, and the last tick of the period (R401). -/
def WdogCfg.opens (c : WdogCfg) : Nat := c.periodUs - c.periodUs * (c.window + 1) / 4

/-- An aligned 32-bit read of BAR0 (R104); `tick` is the tick of the period that the port's own
watchdog and the lamp watchdog have reached at the read. -/
def State.barRead (s : State) (f : FnId) (offset tick : Nat) : Nat :=
  let x := s.fn f
  let w := s.wdog[(wdogOf (portOf f)).val]
  let lamp := s.wdog[0]
  let openNow (w : Wdog) : Bool := w.runs && decide (w.cfg.opens ≤ tick)
  let remain (w : Wdog) : Nat := if w.runs then w.cfg.periodUs - tick else 0
  let ring := offset % 0x400 / 0x40
  if offset % 4 ≠ 0 then 0
  else if offset = 0x0000 then fnIdReg f
  else if offset = 0x0004 then s.fnStatusReg f
  else if offset = 0x0008 then s.fnTallyReg f
  else if offset = 0x000C then x.errorReg
  else if offset = 0x0010 then x.event.toNat
  else if offset = 0x0014 then x.mask.toNat
  else if 0x0100 ≤ offset ∧ offset < 0x0200 then
    if isVf f then 0
    else if offset = 0x0104 then w.statusReg (s.port (portOf f)).keyArmed (openNow w)
    else if offset = 0x0108 then remain w
    else if offset = 0x010C then w.cfg.periodUs
    else if offset = 0x0110 then w.countsReg
    else if offset = 0x0120 then lamp.statusReg false (openNow lamp)
    else if offset = 0x0124 then remain lamp
    else 0
  else if 0x1000 ≤ offset ∧ offset < 0x1400 then
    let q := x.sqs.toList.getD ring {}
    let o := offset % 0x40
    if o = 0 then q.base.toNat % 2 ^ 32
    else if o = 4 then q.base.toNat / 2 ^ 32
    else if o = 8 then controlReg q.enable q.cq.toNat q.log2.toNat
    else if o = 12 then q.head.toNat
    else 0
  else if 0x1400 ≤ offset ∧ offset < 0x1800 then
    let q := x.cqs.toList.getD ring {}
    let o := offset % 0x40
    if o = 0 then q.base.toNat % 2 ^ 32
    else if o = 4 then q.base.toNat / 2 ^ 32
    else if o = 8 then controlReg q.enable q.vector.toNat q.log2.toNat
    else if o = 12 then q.tail.toNat
    else if o = 16 then q.modTime.toNat * 2 ^ 16 + q.modCount.toNat
    else 0
  else if 0x8000 ≤ offset ∧ offset < 0x8200 then
    let v := x.msix.toList.getD ((offset - 0x8000) / 16) {}
    let o := offset % 16
    if o = 0 then v.addr.toNat % 2 ^ 32
    else if o = 4 then v.addr.toNat / 2 ^ 32
    else if o = 8 then v.data.toNat
    else v.masked.toNat
  else if offset = 0x9000 then
    (x.msix.toList.mapIdx (fun i v => v.pba.toNat * 2 ^ i)).sum
  else 0

/-- A read of BAR0 (R104): an aligned 64-bit access acts as two reads, the lower address first; any other
size or alignment returns 0. -/
def State.hostRead (s : State) (f : FnId) (offset size tick : Nat) : Nat :=
  if size = 4 then s.barRead f offset tick
  else if size = 8 ∧ offset % 8 = 0 then
    s.barRead f offset tick + 2 ^ 32 * s.barRead f (offset + 4) tick
  else 0

end Sys2Proof.Machine
end

