-- ==== Sys2Proof/Machine/Interface.lean ====
section
/-!
DEFINITION. The hosts' interface: PCIe ports (R78, R473), BAR0 writes and doorbells (R104 to R110),
completions and interrupts (R112 to R114, R118, R132, R133), the service sequence of a host
watchdog (R410), Function Level Reset (R119 to R122).
-/

namespace Sys2Proof.Machine

/-! ## Access -/

/-- The function exists: a PF, or a VF that its PF enabled (R79). -/
def State.enabled (s : State) (f : FnId) : Bool :=
  !isVf f || decide (f.val % 64 ≤ (s.port (portOf f)).vfs)

/-- A memory request of the host reaches the function's BAR0: link up and config-ready (R78). -/
def State.reaches (s : State) (f : FnId) : Bool :=
  s.rootRuns && s.boot.configReady && (s.port (portOf f)).linkUp && s.enabled f

/-- Changes a submission ring. -/
def State.setSq (s : State) (f : FnId) (n : RingId) (g : SubRing → SubRing) : State :=
  s.setFn f (fun x => { x with sqs := x.sqs.set n.val (g x.sqs[n.val]) })

/-- Changes a completion ring. -/
def State.setCq (s : State) (f : FnId) (n : RingId) (g : CompRing → CompRing) : State :=
  s.setFn f (fun x => { x with cqs := x.cqs.set n.val (g x.cqs[n.val]) })

/-- A submission ring, a completion ring. -/
def State.sq (s : State) (f : FnId) (n : RingId) : SubRing := (s.fn f).sqs[n.val]
def State.cq (s : State) (f : FnId) (n : RingId) : CompRing := (s.fn f).cqs[n.val]

/-! ## Doorbells and ring registers -/

/-- SQ_TAIL_DB (R80, R110). -/
def State.tailDoorbell (s : State) (f : FnId) (n : RingId) (v : Nat) : State :=
  let q := s.sq f n
  if (s.fn f).resetting ∨ q.enable = false then s
  else if v % 4096 < 2 ^ q.log2.toNat then s.setSq f n (fun q => { q with tail := BitVec.ofNat 12 v })
  else s.setError f errBadTail n.val

/-- CQ_HEAD_DB (R110). -/
def State.headDoorbell (s : State) (f : FnId) (n : RingId) (v : Nat) : State :=
  let q := s.cq f n
  if (s.fn f).resetting ∨ q.enable = false then s
  else if v % 4096 < 2 ^ q.log2.toNat then s.setCq f n (fun q => { q with head := BitVec.ofNat 12 v })
  else s.setError f errBadHead (16 + n.val)

/-- A depth that may be enabled (R108). -/
def depthOk (log2 : Nat) : Bool := decide (4 ≤ log2) && decide (log2 ≤ 12)

/-- The write to a submission ring's control register is refused (R108). -/
def State.sqRefused (s : State) (f : FnId) (n : RingId) (v : BitVec 32) : Bool :=
  let q := s.sq f n
  let cq : BitVec 4 := v.extractLsb' 16 4
  let log2 : BitVec 4 := v.extractLsb' 0 4
  let sets := v.getLsbD 31 && !q.enable
  (q.enable && (cq != q.cq || log2 != q.log2))
    || (sets && (!depthOk log2.toNat || !((s.fn f).cqs[cq.toNat]).enable || q.dead))

/-- A write to a submission ring's control register (R108, R109). -/
def State.sqControl (s : State) (f : FnId) (n : RingId) (v : BitVec 32) : State :=
  if s.sqRefused f n v then s.setError f errRingConfig n.val
  else s.setSq f n (fun q =>
    let sets := v.getLsbD 31 && !q.enable
    { q with
      enable := v.getLsbD 31
      cq := v.extractLsb' 16 4
      log2 := v.extractLsb' 0 4
      head := if sets then 0 else q.head
      tail := if sets then 0 else q.tail })

/-- The write to a completion ring's control register is refused (R108). -/
def State.cqRefused (s : State) (f : FnId) (n : RingId) (v : BitVec 32) : Bool :=
  let q := s.cq f n
  let vector : BitVec 5 := v.extractLsb' 16 5
  let log2 : BitVec 4 := v.extractLsb' 0 4
  let sets := v.getLsbD 31 && !q.enable
  let clears := !v.getLsbD 31 && q.enable
  vector == 0 || (q.enable && (vector != q.vector || log2 != q.log2))
    || (sets && (!depthOk log2.toNat || q.dead))
    || (clears && ((s.fn f).sqs.toList.any (fun x => x.enable && x.cq.toNat == n.val)
        || s.fore.taken.any (fun c => c.fn == f && c.cq == n)))

/-- A write to a completion ring's control register (R108, R109, R133). Setting ENABLE also starts the
count of unsignalled completions at 0, so that a signal still due from before is not sent (DESIGN CHOICE,
log 109). -/
def State.cqControl (s : State) (f : FnId) (n : RingId) (v : BitVec 32) : State :=
  if s.cqRefused f n v then s.setError f errRingConfig (16 + n.val)
  else s.setCq f n (fun q =>
    let sets := v.getLsbD 31 && !q.enable
    { q with
      enable := v.getLsbD 31
      vector := v.extractLsb' 16 5
      log2 := v.extractLsb' 0 4
      head := if sets then 0 else q.head
      tail := if sets then 0 else q.tail
      phase := if sets then true else q.phase
      unsignalled := if sets then 0 else q.unsignalled })

/-- One half of a 64-bit register replaced. -/
def setHalf (old : BitVec 64) (high : Bool) (v : BitVec 32) : BitVec 64 :=
  if high then v ++ old.extractLsb' 0 32 else old.extractLsb' 32 32 ++ v

/-- SQ_TAIL_DB (R110). -/
def execSqTailDb (f : FnId) (ring : RingId) (value : BitVec 32) (s : State) :
    Host.Outcome State Fault Refusal :=
  .next (s.when (s.reaches f) (s.tailDoorbell f ring value.toNat))

/-- CQ_HEAD_DB (R110). -/
def execCqHeadDb (f : FnId) (ring : RingId) (value : BitVec 32) (s : State) :
    Host.Outcome State Fault Refusal :=
  .next (s.when (s.reaches f) (s.headDoorbell f ring value.toNat))

/-- A submission ring's control register written (R108). -/
def execSqRingControlWrite (f : FnId) (ring : RingId) (value : BitVec 32) (s : State) :
    Host.Outcome State Fault Refusal :=
  .next (s.when (s.reaches f) (s.sqControl f ring value))

/-- A completion ring's control register written (R108). -/
def execCqRingControlWrite (f : FnId) (ring : RingId) (value : BitVec 32) (s : State) :
    Host.Outcome State Fault Refusal :=
  .next (s.when (s.reaches f) (s.cqControl f ring value))

/-! ## The service sequence -/

/-- The watchdog of a function's port takes key writes: PF only, RUNNING or WARNED (R105, R410). -/
def State.takesKeys (s : State) (f : FnId) : Bool :=
  s.reaches f && !isVf f && (s.wdog[(wdogOf (portOf f)).val]).runs

/-- A message for the lamp die waits to cross the lamp seam (R27); nothing crosses a lost seam. -/
def State.toLampDie (s : State) (m : SeamMsg) : State :=
  if s.lamp.seamLost then s else s.setLamp (fun l => { l with toLamp := l.toLamp ++ [m] })

/-- A service or key error sets out for the lamp die (R401). -/
def State.sendService (s : State) (w : WdogId) (x : Service) : State := s.toLampDie (.service w x)

/-- The sequence is armed or disarmed. -/
def State.arm (s : State) (p : HostPort) (b : Bool) : State := s.setPort p (fun x => { x with keyArmed := b })

/-- A key error (R410). -/
def State.keyError (s : State) (p : HostPort) : State := (s.arm p false).sendService (wdogOf p) .keyError

/-- KEY2 (R410). -/
def State.key2 (s : State) (p : HostPort) : State :=
  if (s.port p).keyArmed then (s.arm p false).sendService (wdogOf p) .service else s.keyError p

/-- KEY1 written (R410). -/
def execHwdogServiceKey1 (f : FnId) (s : State) : Host.Outcome State Fault Refusal :=
  .next (s.when (s.takesKeys f) (s.arm (portOf f) true))

/-- KEY2 written (R410). -/
def execHwdogServiceKey2 (f : FnId) (s : State) : Host.Outcome State Fault Refusal :=
  .next (s.when (s.takesKeys f) (s.key2 (portOf f)))

/-- Any other value written (R410). -/
def execHwdogServiceOther (f : FnId) (s : State) : Host.Outcome State Fault Refusal :=
  .next (s.when (s.takesKeys f) (s.keyError (portOf f)))

/-- 1 ms after KEY1 without KEY2 (R410). -/
def execHwdogKeyTimeout (p : HostPort) (s : State) : Host.Outcome State Fault Refusal :=
  .next (s.when s.rootRuns (s.arm p false))

/-! ## Other registers -/

/-- An MSI-X vector's mask bit written; unmasking with the PBA bit set signals (R114). -/
def State.msixMask (s : State) (f : FnId) (v : Fin 32) (masked : Bool) : State :=
  let old := (s.fn f).msix[v.val]
  let s := s.setFn f (fun x => { x with msix := x.msix.set v.val { old with masked := masked } })
  if old.pba ∧ masked = false ∧ (s.fn f).msixMask = false ∧ (s.fn f).resetting = false then
    (s.setFn f (fun x => { x with msix := x.msix.set v.val { old with masked := false, pba := false } })).signal f v
  else s

/-- An MSI-X vector unmasked (R114). -/
def execMsixVectorUnmask (f : FnId) (vector : Fin 32) (s : State) : Host.Outcome State Fault Refusal :=
  .next (s.when (s.reaches f) (s.msixMask f vector false))

/-- A write of one half of a submission ring's base: only while ENABLE is 0 (R108). -/
def State.sqBase (s : State) (f : FnId) (n : RingId) (high : Bool) (v : BitVec 32) : State :=
  let v := if high then v else v &&& 0xFFFFF000
  let new := setHalf (s.sq f n).base high v
  if (s.sq f n).enable ∧ new ≠ (s.sq f n).base then s.setError f errRingConfig n.val
  else s.setSq f n (fun q => { q with base := new })

/-- A write of one half of a completion ring's base. -/
def State.cqBase (s : State) (f : FnId) (n : RingId) (high : Bool) (v : BitVec 32) : State :=
  let v := if high then v else v &&& 0xFFFFF000
  let new := setHalf (s.cq f n).base high v
  if (s.cq f n).enable ∧ new ≠ (s.cq f n).base then s.setError f errRingConfig (16 + n.val)
  else s.setCq f n (fun q => { q with base := new })

/-- A write to a word of the MSI-X table (R104). -/
def State.msixWrite (s : State) (f : FnId) (i : Fin 32) (word : Nat) (v : BitVec 32) : State :=
  let upd (g : MsixVector → MsixVector) : State :=
    s.setFn f (fun x => { x with msix := x.msix.set i.val (g x.msix[i.val]) })
  if word = 0 then upd (fun e => { e with addr := setHalf e.addr false v })
  else if word = 1 then upd (fun e => { e with addr := setHalf e.addr true v })
  else if word = 2 then upd (fun e => { e with data := v })
  else s.msixMask f i (v.getLsbD 0)

/-- A ring number out of a register offset. -/
def ringAt (offset : Nat) : RingId := Fin.ofNat 16 (offset % 0x400 / 0x40)

/-- An aligned 32-bit write of BAR0 (R104); RO and unlisted registers ignore it. -/
def State.barWrite (s : State) (f : FnId) (offset : Nat) (v : BitVec 32) : State :=
  let n := ringAt offset
  if offset % 4 ≠ 0 then s
  else if offset = 0x000C then s.setFn f (fun x => { x with error := x.error &&& ~~~(v.setWidth 4) })
  else if offset = 0x0010 then s.setFn f (fun x => { x with event := x.event &&& ~~~(v.setWidth 7) })
  else if offset = 0x0014 then s.setFn f (fun x => { x with mask := v.setWidth 7 })
  else if offset = 0x0100 then
    if s.takesKeys f then
      if v = 0x00005A3C then s.arm (portOf f) true
      else if v = 0x0000C3A5 then s.key2 (portOf f)
      else s.keyError (portOf f)
    else s
  else if 0x1000 ≤ offset ∧ offset < 0x1400 then
    let o := offset % 0x40
    if o = 0 then s.sqBase f n false v
    else if o = 4 then s.sqBase f n true v
    else if o = 8 then s.sqControl f n v
    else s
  else if 0x1400 ≤ offset ∧ offset < 0x1800 then
    let o := offset % 0x40
    if o = 0 then s.cqBase f n false v
    else if o = 4 then s.cqBase f n true v
    else if o = 8 then s.cqControl f n v
    else if o = 16 then s.setCq f n (fun q =>
      { q with modTime := v.extractLsb' 16 16, modCount := v.extractLsb' 0 8 })
    else s
  else if 0x2000 ≤ offset ∧ offset < 0x2080 ∧ offset % 8 = 0 then
    s.tailDoorbell f (Fin.ofNat 16 ((offset - 0x2000) / 8)) v.toNat
  else if 0x2080 ≤ offset ∧ offset < 0x2100 ∧ offset % 8 = 0 then
    s.headDoorbell f (Fin.ofNat 16 ((offset - 0x2080) / 8)) v.toNat
  else if 0x8000 ≤ offset ∧ offset < 0x8200 then
    s.msixWrite f (Fin.ofNat 32 ((offset - 0x8000) / 16)) (offset % 16 / 4) v
  else s

/-- A write to BAR0 (R104): a 64-bit access acts as two, the lower address first; a misaligned
access and one of any other size are ignored. -/
def execRegisterWrite (f : FnId) (offset : Nat) (size : Nat) (value : BitVec 64) (s : State) :
    Host.Outcome State Fault Refusal :=
  if size = 4 then
    .next (s.when (s.reaches f && decide (offset % 4 = 0)) (s.barWrite f offset (value.setWidth 32)))
  else if size = 8 then
    .next (s.when (s.reaches f && decide (offset % 8 = 0))
      ((s.barWrite f offset (value.setWidth 32)).barWrite f (offset + 4) (value.extractLsb' 32 32)))
  else .next s

/-! ## Completions -/

/-- The 28 bytes of a completion ahead of its GRAFT (R132). -/
def completionBody (seq : BitVec 32) (opcode status detail : BitVec 16) (sq : Nat) (phase : Bool)
    (time result : BitVec 64) : Bytes :=
  leBytes 4 seq.toNat ++ leBytes 2 opcode.toNat ++ leBytes 2 status.toNat ++ leBytes 2 detail.toNat
    ++ leBytes 1 sq ++ leBytes 1 phase.toNat ++ leBytes 8 time.toNat ++ leBytes 8 result.toNat

/-- A completion, 32 bytes, GRAFT over bytes 0 to 27 (R129, R132). -/
def completionEntry (seq : BitVec 32) (opcode status detail : BitVec 16) (sq : Nat) (phase : Bool)
    (time result : BitVec 64) : Bytes :=
  let b := completionBody seq opcode status detail sq phase time result
  b ++ leBytes 4 (crc32c b).toNat

/-- A command is no longer outstanding. -/
def State.retire (s : State) (id : Nat) : State :=
  s.setFore (fun x => { x with taken := x.taken.filter (fun c => c.id != id) })

/-- A completion ring after one more entry (R112, R133). -/
def CompRing.advance (q : CompRing) : CompRing :=
  let t := q.tail.toNat + 1
  if t < 2 ^ q.log2.toNat then { q with tail := BitVec.ofNat 12 t }
  else { q with tail := 0, phase := !q.phase }

/-- A completion ring signals its vector; its moderation starts again (R113, R124). -/
def State.signalCq (s : State) (f : FnId) (n : RingId) : State :=
  let v : Fin 32 := (s.cq f n).vector.toFin
  (s.setCq f n (fun q => { q with unsignalled := 0 })).signal f v

/-- Moderation after an entry: NOTIFY, or MOD_COUNT entries (R113, R124). -/
def State.moderate (s : State) (f : FnId) (n : RingId) (notify : Bool) : State :=
  let s := s.setCq f n (fun q => { q with unsignalled := q.unsignalled + 1 })
  if notify ∨ max 1 (s.cq f n).modCount.toNat ≤ (s.cq f n).unsignalled then s.signalCq f n else s

/-- What HELLO's completion changes (R82, R83, R142, R404): HELLO_DONE, the tally, and the restart
of the port's waiting host watchdog. -/
def State.helloDone (s : State) (f : FnId) (status : BitVec 16) (result : BitVec 64) : State :=
  if status = stOk ∨ status = stDegraded ∨ status = stSafe then
    let s := s.setFn f (fun x =>
      { x with
        helloDone := true
        tally := if status = stSafe then x.tally else (result.setWidth 16).toNat })
    if isVf f then s
    else s.setWdog (wdogOf (portOf f)) (fun w =>
      if w.state = .waiting then
        { w with state := .running, cfg := w.next.getD w.cfg, next := none, lastTick := 0 }
      else w)
  else s

/-- The completion of a formed command is written (R112, R118, R135). -/
def execCompletionWrite (cmd : Nat) (ok : Bool) (s : State) : Host.Outcome State Fault Refusal :=
  .next (match s.cmd cmd with
    | some c =>
      match c.phase with
      | .formed status detail result time =>
        if s.rootRuns = false then s
        else
          let q := s.cq c.fn c.cq
          let t := s.retire cmd
          if q.dead then t
          else if ok then
            let t := t.send (.hostWrite c.fn (q.base.toNat + 32 * q.tail.toNat)
              (completionEntry c.seq c.opcode status detail c.sq.val q.phase time result))
            let t := (t.setCq c.fn c.cq CompRing.advance).moderate c.fn c.cq (c.flags.getLsbD 2)
            if c.opcode = 0x0002 then t.helloDone c.fn status result else t
          else
            let t := t.setCq c.fn c.cq (fun q => { q with enable := false, dead := true })
            (t.setError c.fn errDma (16 + c.cq.val)).send (.aer (portOf c.fn))
      | _ => s
    | none => s)

/-- MOD_TIME after the first unsignalled completion (R113). -/
def execCqModerationTimer (f : FnId) (ring : RingId) (s : State) : Host.Outcome State Fault Refusal :=
  .next (s.when (s.rootRuns && decide ((s.cq f ring).modTime ≠ 0)
      && decide (0 < (s.cq f ring).unsignalled)) (s.signalCq f ring))

/-! ## Function Level Reset -/

/-- Runs that satisfy a test are gone: their tiles are aborted. -/
def State.dropRuns (s : State) (p : Run → Bool) : State :=
  let gone := (s.fore.runs.filter p).map (·.id)
  let s := s.abortTiles (fun n => gone.contains n)
  s.setFore (fun x => { x with runs := x.runs.filter (fun r => !gone.contains r.id) })

/-- A function's FLR begins (R119): RESETTING, its commands and runs gone without completion, its
streams accept nothing. -/
def State.flrBegin (s : State) (f : FnId) : State :=
  let s := s.setFn f (fun x => { x with resetting := true })
  let s := s.dropRuns (fun r => r.fn == f)
  let s := s.setFore (fun x => { x with taken := x.taken.filter (fun c => c.fn != f) })
  { s with streams := s.streams.map (fun x =>
      if x.isOpen ∧ x.owner = f then { x with bound := none, entries := [], asm := none, closing := none, closeDone := false }
      else x) }

/-- FLR of a function: of a PF, also of its VFs, with VF Enable, the port's provisions, its stored
proposal and its service sequence cleared (R120, R122, R410). -/
def State.flr (s : State) (f : FnId) : State :=
  if isVf f then s.flrBegin f
  else
    let p := portOf f
    let s := s.eachFn (fun s g => if portOf g = p then s.flrBegin g else s)
    let s := s.eachFn (fun s g =>
      if portOf g = p then s.setFn g (fun x => { x with provision := none }) else s)
    s.setPort p (fun x => { x with vfs := 0, proposal := none, keyArmed := false })

/-- FLR written by the host (R119). -/
def execFunctionLevelReset (f : FnId) (s : State) : Host.Outcome State Fault Refusal :=
  .next (s.when (s.reaches f && !(s.fn f).resetting) (s.flr f))

/-- The frames that a function's users hold are given back (R94, R486). -/
def releaseFn (f : FnId) (held : List (List (Nat × Nat))) : List (List (Nat × Nat)) :=
  (held.map (fun fr => fr.filter (fun p => p.1 / 2 ^ 66 != f.val))).filter (fun fr => !fr.isEmpty)

/-- A function's FLR ends (R119): its resources are released and zeroed, its registers return to
reset; its view queue, TOTAL and, for a VF alone, its provision stay (R120, R384). -/
def State.flrEnd (s : State) (f : FnId) : State :=
  let x := s.fn f
  let s : State := { s with
    streams := s.streams.map (fun y => if y.isOpen ∧ y.owner = f then y.close else y)
    mem := (s.mem.zero (memKey f 0) (2 ^ 48)).zero (graphKey f 0 0) (2 ^ 64) }
  let s := s.setFore (fun y => { y with
    reservations := y.reservations.filter (fun r => r.fn != f)
    resChanged := y.resChanged || y.reservations.any (fun r => r.fn == f) })
  let s := s.setPort (portOf f) (fun p => { p with frames := releaseFn f p.frames })
  s.setFn f (fun _ => ({ provision := x.provision, view := x.view, total := x.total,
                         ringTurn := x.ringTurn } : Fn))

/-- The end of a function's FLR (R119). -/
def execFlrDone (f : FnId) (s : State) : Host.Outcome State Fault Refusal :=
  .next (s.when (s.rootRuns && (s.fn f).resetting) (s.flrEnd f))

/-! ## The ports -/

/-- PERST_N of a port falls (R473): the link goes down and its functions reset as by an FLR of the PF. -/
def execPerstNAssert (p : HostPort) (s : State) : Host.Outcome State Fault Refusal :=
  .next (s.when (!s.held)
    ((s.flr (pfOf p)).setPort p (fun x => { x with perstLow := true, linkUp := false, training := false })))

/-- PERST_N of a port rises (R473): the port trains, once training has opened (R68). -/
def execPerstNDeassert (p : HostPort) (s : State) : Host.Outcome State Fault Refusal :=
  .next (s.when (!s.held)
    (s.setPort p (fun x => { x with perstLow := false, training := x.training || s.boot.trainingOpen })))

/-- 2 ms after time zero the ports that are not held begin link training (R68, R78, R473). -/
def execPcieTrainingStart (s : State) : Host.Outcome State Fault Refusal :=
  .next (s.when s.rootRuns
    (let go (x : PciePort) : PciePort := { x with training := x.training || !x.perstLow }
     ((s.setBoot (fun b => { b with trainingOpen := true })).setPort .a go).setPort .b go))

/-- A port's link comes up (R78). -/
def execPcieLinkUp (p : HostPort) (s : State) : Host.Outcome State Fault Refusal :=
  .next (s.when (s.rootRuns && (s.port p).training)
    (s.setPort p (fun x => { x with linkUp := true })))

/-- The pending vectors of a function that are masked no more are signalled (R114). -/
def State.signalPending (s : State) (f : FnId) : State :=
  (List.finRange 32).foldl (fun s (v : Fin 32) =>
    if (s.fn f).msix[v.val].pba && !(s.fn f).msix[v.val].masked then
      (s.setFn f (fun x => { x with msix := x.msix.set v.val { x.msix[v.val] with pba := false } })).signal f v
    else s) s

/-- MSI-X Enable and Function Mask of a function (R114). -/
def State.msixControl (s : State) (f : FnId) (enable mask : Bool) : State :=
  let t := s.setFn f (fun x => { x with msixEnable := enable, msixMask := mask })
  if enable && !mask && !(s.fn f).resetting then t.signalPending f else t

/-- A configuration request (R78, R79, R473): Retry Status until config-ready and until a reset of
the port's PF has ended; then VF Enable, MSI-X Enable and Function Mask take their values. A host that
lowers VF Enable without an FLR leaves what the VFs hold as it is (DESIGN CHOICE, log 108). -/
def execPcieConfigRequest (p : HostPort) (req : ConfigReq) (s : State) :
    Host.Outcome State Fault Refusal :=
  .next (s.when (s.rootRuns && (s.port p).linkUp)
    (if s.boot.configReady = false ∨ (s.fn (pfOf p)).resetting then s.send (.config p true)
     else
       let t := match req with
         | .read => s
         | .setVfs n => s.setPort p (fun x => { x with vfs := n.val })
         | .setMsix f e m => if portOf f = p then s.msixControl f e m else s
       t.send (.config p false)))

end Sys2Proof.Machine
end

