-- ==== Sys2Proof/Machine/Lamp.lean ====
section
/-!
DEFINITION. The lamp die: clock monitors (R45 to R51), the lamp seam (R26 to R28), the windowed
watchdogs (R400 to R415), the CAN controllers and the safe message (R416 to R427), and the die's own
reset (R453).
-/

namespace Sys2Proof.Machine

/-! ## The lamp seam -/

/-- The rootstock declares the lamp seam lost (R28). -/
def State.rootLosesSeam (s : State) : State :=
  if s.lamp.rootSide.lost then s
  else
    (s.setLamp (fun l => { l with rootSide := { l.rootSide with lost := true } })).raiseWide 0x003
      .lampSeamLost

/-- The lamp die declares the lamp seam lost and enters the safe state (R28). -/
def State.lampLosesSeam (s : State) : State :=
  if s.lamp.lampSide.lost then s
  else
    (s.setLamp (fun l => { l with lampSide := { l.lampSide with lost := true } })).raiseWide 0x504
      .lampSeamLost

/-- A side declares the lamp seam lost. -/
def State.losesSeam (s : State) : Side → State
  | .rootstock => s.rootLosesSeam
  | .lamp => s.lampLosesSeam

/-- A side's view of the seam. -/
def Lamp.side (l : Lamp) : Side → SeamSide
  | .rootstock => l.rootSide
  | .lamp => l.lampSide

/-- Changes a side's view. -/
def Lamp.setSide (l : Lamp) (d : Side) (g : SeamSide → SeamSide) : Lamp :=
  match d with
  | .rootstock => { l with rootSide := g l.rootSide }
  | .lamp => { l with lampSide := g l.lampSide }

/-- The die of a side runs. -/
def State.sideRuns (s : State) : Side → Bool
  | .rootstock => s.rootRuns
  | .lamp => s.lampRuns

/-! ## Clock monitors -/

/-- A count of LOSC cycles over 100 NOSC cycles ends (R45). -/
def execLoscQualifyCount (count : Nat) (ran4096 : Bool) (s : State) : Host.Outcome State Fault Refusal :=
  .next (s.when (s.lampRuns && !s.lamp.onLosc && ran4096 && decide (3564 ≤ count) && decide (count ≤ 4533))
    (s.setLamp (fun l => { l with onLosc := true })))

/-- The limits of a monitor (R47). -/
def Monitor.limits : Monitor → Nat × Nat
  | .pclkByLosc => (196, 204)
  | .loscByPclk => (196, 204)
  | .noscByLosc => (80, 120)
  | .loscByNosc => (3200, 4800)

/-- The source of a monitor (R376). -/
def Monitor.source : Monitor → Nat
  | .pclkByLosc => 0x501
  | .loscByPclk => 0x002
  | .noscByLosc => 0x502
  | .loscByNosc => 0x503

/-- A monitor runs: on its die, with both of its clocks there (R45, R47). -/
def State.monitors (s : State) : Monitor → Bool
  | .pclkByLosc => s.lampRuns && s.lamp.onLosc && s.lamp.seamUp
  | .loscByPclk => s.rootRuns && s.lamp.seamUp
  | .noscByLosc => s.lampRuns && s.lamp.onLosc
  | .loscByNosc => s.lampRuns

/-- A trip of a monitor raises CLOCK_MONITOR, a condition that stands. -/
def State.clockTrip (s : State) (m : Monitor) : State :=
  s.raise { source := Monitor.source m, event := .clockMonitor, stays := true }

/-- The lamp seam is lost by a partner's clock, on both sides (R48). -/
def State.partnerLost (s : State) : State :=
  (s.rootLosesSeam).setLamp (fun l => { l with lampSide := { l.lampSide with lost := true } })

/-- A LOSC failure (R50): the pins go low from NOSC-clocked logic and neither controller transmits. -/
def State.loscFails (s : State) : State :=
  let s : State := { s with
    lampDrivesLow := true
    can := s.can.map (fun x => { x with silenced := true, wire := .idle, queue := [], safePending := false })
    lamp := { s.lamp with safe := true, loscTripped := true } }
  s.clockTrip .loscByNosc

/-- The watchdogs on NOSC move to LOSC ÷ 40 (R49, R405). -/
def State.noscFallback (s : State) : State :=
  { s with wdog := s.wdog.map (fun w => if w.cfg.clock = 0 ∧ w.state ≠ .stopped then { w with fallback := true } else w) }

/-- A trip (R48 to R50). -/
def State.trip (s : State) : Monitor → State
  | .pclkByLosc => (s.clockTrip .pclkByLosc).partnerLost
  | .loscByPclk => ((s.clockTrip .loscByPclk).partnerLost).lampSafe 0x02
  | .noscByLosc =>
    ((s.setLamp (fun l => { l with noscTripped := true })).clockTrip .noscByLosc).noscFallback
  | .loscByNosc => s.loscFails

/-- The window of a clock monitor ends (R47): the monitor trips outside its limits. -/
def execClockMonitorWindow (m : Monitor) (count : Nat) (s : State) : Host.Outcome State Fault Refusal :=
  .next (s.when (s.monitors m)
    (if count < (Monitor.limits m).1 ∨ (Monitor.limits m).2 < count then s.trip m
     else
       let s := s.clearLive (Monitor.source m) .clockMonitor
       match m with
       | .noscByLosc => s.setLamp (fun l => { l with noscTripped := false })
       | _ => s))

/-! ## Watchdogs -/

/-- Source of a watchdog (R400). -/
def wdogSource (w : WdogId) : Nat := 0x510 + w.val

/-- The port of a host watchdog. -/
def wdogPort (w : WdogId) : HostPort := if w.val = 2 then .b else .a

/-- A failure in RUNNING (R402): WARNED and a new period, WDOG_WARN, HWDOG_WARN of the port's PF; while Night is
being entered it is a wake event too (R413, R436). -/
def State.wdogWarns (s : State) (w : WdogId) : State :=
  let s := if s.entersNight then s.wakeLater (.watchdog w) else s
  let s := s.setWdog w (fun x => { x with state := .warned, lastTick := 0, failures := satAdd 16 x.failures 1 })
  if w.val = 0 then s.raiseWide (wdogSource w) .wdogWarn
  else
    let pf := pfOf (wdogPort w)
    (s.raise { source := wdogSource w, event := .wdogWarn, owner := some pf }).setEvent pf evtHwdogWarn

/-- A final failure (R403, R404). -/
def State.wdogFails (s : State) (w : WdogId) : State :=
  if w.val = 0 then
    let s := s.setWdog w (fun x => { x with lastTick := 0, failures := satAdd 16 x.failures 1 })
    (s.setLamp (fun l => { l with resetDue := true })).lampSafe 0x00
  else
    let s := s.setWdog w (fun x => { x with state := .waiting, lastTick := 0, failures := satAdd 16 x.failures 1 })
    let s := s.raiseWide (wdogSource w) (if w.val = 1 then .hostLossA else .hostLossB)
    if s.lamp.seamLost then s
    else s.setLamp (fun l => { l with toRoot := l.toRoot ++ [.channelReset (wdogPort w)] })

/-- A failure (R402); in Doze it returns the device to Run (R412). -/
def State.wdogFailure (s : State) (w : WdogId) : State :=
  let s : State := if s.power.state = .doze then
      { s with power := { s.power with state := .run, dozeDue := false, eclkStopped := false } }
    else s
  if (s.wdog[w.val]).state = .warned then s.wdogFails w else s.wdogWarns w

/-- A service is valid (R402): RUNNING, a new period, and a waiting configuration takes effect (R408). -/
def Wdog.valid (x : Wdog) : Wdog :=
  { x with state := .running, lastTick := 0, cfg := x.next.getD x.cfg, next := none }

/-- A service or key error is judged on the tick at which it arrives (R401, R402). -/
def State.wdogJudge (s : State) (w : WdogId) (x : Service) (tick : Nat) : State :=
  if (s.wdog[w.val]).runs then
    match x with
    | .keyError => (s.setWdog w (fun y => { y with keyErrors := satAdd 8 y.keyErrors 1 })).wdogFailure w
    | .service =>
      if (s.wdog[w.val]).cfg.opens ≤ tick then s.setWdog w Wdog.valid
      else
        (s.setWdog w (fun y => { y with early := satAdd 8 y.early 1, lastTick := tick })).wdogFailure w
  else s

/-- A service reaches the lamp die (R401, R402). -/
def execWdogService (w : WdogId) (tick : Nat) (s : State) : Host.Outcome State Fault Refusal :=
  .next (s.when s.lampRuns
    (match (s.wdog[w.val]).inbound with
     | [] => s
     | x :: r => (s.setWdog w (fun y => { y with inbound := r })).wdogJudge w x tick))

/-- A period ends without valid service (R402). -/
def execWdogPeriodEnd (w : WdogId) (s : State) : Host.Outcome State Fault Refusal :=
  .next (s.when (s.lampRuns && (s.wdog[w.val]).runs) (s.wdogFailure w))

/-- A watchdog's clock stops (R405): also that of one on NOSC that has moved to LOSC ÷ 40 on the trip of
NOSC by LOSC (R49). A clock that has stopped before raises no second edge. -/
def execWdogClockStopped (w : WdogId) (s : State) : Host.Outcome State Fault Refusal :=
  .next (s.when (s.lampRuns && decide ((s.wdog[w.val]).state ≠ .stopped))
    ((s.setWdog w (fun x => { x with fallback := true })).raise
      { source := 0x518 + w.val, event := .clockMonitor, stays := true }))

/-- Foreman firmware services the lamp watchdog when its liveness conditions hold (R398, R411). -/
def execForemanWdogService (loopPassed f0Answered f1Answered timersReadable : Bool) (s : State) :
    Host.Outcome State Fault Refusal :=
  .next (s.when (s.rootRuns && s.boot.firmware.isSome && !(s.fore.f0Halted && s.fore.f1Halted)
      && loopPassed && (s.fore.f0Halted || f0Answered) && (s.fore.f1Halted || f1Answered)
      && timersReadable)
    (s.sendService 0 .service))

/-- A command that the lamp die carries out crosses the lamp seam (R27): it is at work until its message is
acted on. -/
def State.crosses (s : State) (m : SeamMsg) (cmd : Nat) : State := (s.toLampDie m).hold cmd

/-- The command of a message that has crossed: still at work, with that opcode. -/
def State.withCrossed (s : State) (id : Nat) (o : Opcode) (g : Cmd → State) : State :=
  match s.cmd id with
  | some c => if c.phase = .running ∧ opcodeOf c.opcode = some o then g c else s
  | none => s

/-- WDOG_CONFIG reaches the lamp die: the conditions on the watchdog's state, and its effect (R408). -/
def State.wdogConfigArrives (s : State) (cmd : Nat) : State :=
  s.withCrossed cmd .wdogConfig (fun c =>
    let w : WdogId := Fin.ofNat 3 (c.arg 16 1)
    let enable := (c.arg 19 1) % 2 = 1
    let cfg : WdogCfg := { clock := c.arg 17 1, window := c.arg 18 1, periodUs := c.arg 20 4 }
    let x := s.wdog[w.val]
    if x.state = .warned then s.finish cmd stBusy 8 0
    else if ¬ enable ∧ s.fixed.wdogHwStart then s.finish cmd stBusy 8 0
    else if ¬ enable ∧ w.val = 0 ∧ s.fore.reservations ≠ [] then s.finish cmd stBusy 6 0
    else if ¬ enable then
      (s.setWdog w (fun x => { x with state := .stopped, next := none, lastTick := 0 })).finish cmd stOk 0 0
    else
      let s := match x.state with
        | .stopped => s.setWdog w (fun x =>
            { x with state := .running, cfg := cfg, next := none, lastTick := 0, hwStart := false })
        | _ => s.setWdog w (fun x => { x with next := some cfg })
      s.finish cmd stOk 0 0)

/-- WDOG_CONFIG sets out for the lamp die (R27, R408). -/
def execWdogConfig (cmd : Nat) (s : State) : Host.Outcome State Fault Refusal :=
  .next (s.withCmd cmd .wdogConfig (fun _ => s.crosses (.wdogConfig cmd) cmd))

/-! ## CAN commands -/

/-- The CAN block of 64 bytes (R419). -/
def parseCanCfg (b : Bytes) : CanCfg :=
  let n (i : Nat) := (byteAt b i).toNat
  { fd := (byteAt b 0).getLsbD 0, autoRecover := (byteAt b 0).getLsbD 1, tdc := (byteAt b 0).getLsbD 2,
    nbrp := n 1, ntseg1 := leNat b 2 2, ntseg2 := n 4, nsjw := n 5, dbrp := n 6, dtseg1 := n 7,
    dtseg2 := n 8, dsjw := n 9, tdcOffset := n 10 }

/-- A value lies outside a range. -/
def outside (lo v hi : Nat) : Bool := decide (v < lo) || decide (hi < v)

/-- Time quanta × prescaler of one nominal bit, one data bit (R419). -/
def CanCfg.nominal (c : CanCfg) : Nat := c.nbrp * (1 + c.ntseg1 + c.ntseg2)
def CanCfg.dataBit (c : CanCfg) : Nat := c.dbrp * (1 + c.dtseg1 + c.dtseg2)

/-- DETAIL of the first breach of R419: 0x8000 + offset of a field, 0xFFFF for a rate. -/
def canCfgBad (b : Bytes) : Option Nat :=
  let c := parseCanCfg b
  let fdRange (lo v hi : Nat) : Bool := if c.fd then outside lo v hi else v != 0
  match firstBad ([(0, decide (8 ≤ (byteAt b 0).toNat)), (1, outside 1 c.nbrp 32), (2, outside 2 c.ntseg1 256),
      (4, outside 2 c.ntseg2 128), (5, outside 1 c.nsjw c.ntseg2), (6, fdRange 1 c.dbrp 32),
      (7, fdRange 2 c.dtseg1 32), (8, fdRange 1 c.dtseg2 16), (9, fdRange 1 c.dsjw c.dtseg2),
      (10, if c.tdc then outside 0 c.tdcOffset 127 else c.tdcOffset != 0)] ++ reservedBad b 11 64) with
  | some o => some (0x8000 + o)
  | none =>
    if outside 40 c.nominal 2000 || (c.fd && outside 8 c.dataBit c.nominal) then some 0xFFFF else none

/-- The CAN frame block of 80 bytes (R421). -/
def parseCanFrame (b : Bytes) : CanFrame :=
  let flags := byteAt b 5
  let len := canLength (flags.getLsbD 0) ((byteAt b 4).toNat % 16)
  { id := BitVec.ofNat 32 (leNat b 0 4), dlc := (byteAt b 4).toNat, flags := flags,
    repeatMs := leNat b 6 2, counterB := (byteAt b 8).toNat, causeB := (byteAt b 9).toNat,
    crcB := (byteAt b 10).toNat, data := (b.drop 16).take len }

/-- The indexes of the inserted fields (R421). -/
def CanFrame.inserted (f : CanFrame) : List Nat :=
  (if f.flags.getLsbD 2 then [f.counterB] else []) ++ (if f.flags.getLsbD 3 then [f.causeB] else [])
    ++ (if f.flags.getLsbD 4 then [f.crcB] else [])

/-- DETAIL of the first breach of R421; `send` for CAN_SEND; `fdOff` if a named bus has FD 0. -/
def canFrameBad (b : Bytes) (send fdOff : Bool) : Option Nat :=
  let f := parseCanFrame b
  let id := f.id.toNat
  let idx (ins : Bool) (v : Nat) : Bool := (send || !ins) && v != 0
  match firstBad ([(0, decide (id / 2 ^ 29 % 4 ≠ 0) || (decide (id < 2 ^ 31) && decide (2 ^ 11 ≤ id))),
      (4, decide (16 ≤ f.dlc)), (5, decide (32 ≤ f.flags.toNat) || (send && f.flags.toNat / 4 != 0)),
      (6, f.repeatMs != 0 && (send || outside 10 f.repeatMs 1000)),
      (8, idx (f.flags.getLsbD 2) f.counterB), (9, idx (f.flags.getLsbD 3) f.causeB),
      (10, idx (f.flags.getLsbD 4) f.crcB)] ++ reservedBad b 11 16
      ++ reservedBad b (16 + f.data.length) 80) with
  | some o => some (0x8000 + o)
  | none =>
    if (f.flags.getLsbD 1 && !f.flags.getLsbD 0) || (f.flags.getLsbD 0 && fdOff)
        || !f.inserted.Nodup || f.inserted.any (fun i => decide (f.data.length ≤ i)) then some 0xFFFF
    else none

/-- Frames of a queue that fail a test complete with a status, the others stay (R420, R422). -/
def State.withdrawFrames (s : State) (b : BusId) (p : Nat × CanFrame → Bool) (status detail : BitVec 16) :
    State :=
  let gone := (s.can[b.val]).queue.filter p
  let s := s.setCan b (fun x => { x with queue := x.queue.filter (fun y => !p y) })
  gone.foldl (fun s y => s.finish y.1 status detail 0) s

/-- CAN_CONFIG reaches the lamp die (R420). -/
def State.canConfigArrives (s : State) (cmd : Nat) : State :=
  s.withCrossed cmd .canConfig (fun c =>
    let b : BusId := Fin.ofNat 2 (c.arg 16 1)
    if (s.can[b.val]).recovering then s.finish cmd stBusy 8 0
    else
      let cfg := parseCanCfg c.block
      let s := s.setCan b (fun x => { x with cfg := cfg, recovering := x.busOff })
      let s := if cfg.fd then s
        else s.withdrawFrames b (fun y => y.2.flags.getLsbD 0) stBadParam 0xFFFF
      s.finish cmd stOk 0 0)

/-- CAN_CONFIG (R419, R420): refused, or on its way to the lamp die. -/
def execCanConfig (cmd : Nat) (s : State) : Host.Outcome State Fault Refusal :=
  .next (s.withCmd cmd .canConfig (fun c =>
    match canCfgBad c.block with
    | some d => s.finish cmd stBadParam (BitVec.ofNat 16 d) 0
    | none => s.crosses (.canConfig cmd) cmd))

/-- The bus of a CAN_SEND or CAN_CONFIG. -/
def Cmd.bus (c : Cmd) : BusId := Fin.ofNat 2 (c.arg 16 1)

/-- CAN_SEND reaches the lamp die (R422): queued, or refused. A frame that the bus no longer allows is
refused as a queued one is (R420); a lamp die in the safe state takes no frame. -/
def State.canSendArrives (s : State) (cmd : Nat) : State :=
  s.withCrossed cmd .canSend (fun c =>
    let b := c.bus
    let x := s.can[b.val]
    let f := parseCanFrame c.block
    if s.lamp.safe then s
    else if f.flags.getLsbD 0 ∧ x.cfg.fd = false then s.finish cmd stBadParam 0xFFFF 0
    else if 16 ≤ x.queue.length then s.finish cmd stNoResource 8 0
    else if x.busOff ∧ x.cfg.autoRecover = false ∧ x.recovering = false then s.finish cmd stBusy 8 0
    else (s.setCan b (fun x => { x with queue := x.queue ++ [(cmd, f)] })).kick b)

/-- CAN_SEND (R421, R422): refused, or on its way to the lamp die (R27). -/
def execCanSend (cmd : Nat) (s : State) : Host.Outcome State Fault Refusal :=
  .next (s.withCmd cmd .canSend (fun c =>
    match canFrameBad c.block true (!(s.can[c.bus.val]).cfg.fd) with
    | some d => s.finish cmd stBadParam (BitVec.ofNat 16 d) 0
    | none => s.crosses (.canSend cmd) cmd))

/-- SAFE_MESSAGE_SET reaches the lamp die: the replacement takes effect as the command completes (R423); a lamp
die in the safe state sends the message that it had (R139). -/
def State.safeMessageArrives (s : State) (cmd : Nat) : State :=
  s.withCrossed cmd .safeMessageSet (fun c =>
    let named (b : BusId) : Bool := (c.arg 16 1).testBit b.val
    let f := parseCanFrame c.block
    if s.lamp.safe then s
    else
      let s := if named 0 then s.setCan 0 (fun x => { x with message := f }) else s
      let s := if named 1 then s.setCan 1 (fun x => { x with message := f }) else s
      s.finish cmd stOk 0 0)

/-- SAFE_MESSAGE_SET (R421, R423): refused, or on its way to the lamp die (R27). -/
def execSafeMessageSet (cmd : Nat) (s : State) : Host.Outcome State Fault Refusal :=
  .next (s.withCmd cmd .safeMessageSet (fun c =>
    let fdOff := (List.finRange 2).any (fun (b : BusId) =>
      (c.arg 16 1).testBit b.val && !(s.can[b.val]).cfg.fd)
    match canFrameBad c.block false fdOff with
    | some d => s.finish cmd stBadParam (BitVec.ofNat 16 d) 0
    | none => s.crosses (.safeMessage cmd) cmd))

/-! ## CAN events -/

/-- A controller that is not bus-off becomes error-passive (R426). -/
def State.canPassive (s : State) (b : BusId) : State :=
  let x := s.can[b.val]
  if (128 ≤ x.tec ∨ 128 ≤ x.rec') ∧ x.passive = false then
    (s.setCan b (fun x => { x with passive := true })).raiseWide (0x670 + b.val) .canErrorPassive
  else if x.tec < 128 ∧ x.rec' < 128 then s.setCan b (fun x => { x with passive := false })
  else s

/-- Bus-off (R422, R426): recovery begins with AUTO_RECOVER or in the safe state; otherwise the
frames that wait are withdrawn. -/
def State.canBusOff (s : State) (b : BusId) : State :=
  let x := s.can[b.val]
  if 255 < x.tec ∧ x.busOff = false then
    let s := s.setCan b (fun x =>
      { x with busOff := true, recovering := x.cfg.autoRecover || s.lamp.safe })
    let s := s.raiseWide (0x670 + b.val) .canBusOff
    if (s.can[b.val]).recovering then s else s.withdrawFrames b (fun _ => true) stBusy 8
  else s

/-- The attempt on the wire failed: TEC rises by 8, save for an acknowledgement error of an
error-passive controller; the frame keeps its place unless it was withdrawn (R422, R424, R426). -/
def CanBus.failed (x : CanBus) (ackError : Bool) : CanBus :=
  { x with
    tec := if ackError && x.passive then x.tec else x.tec + 8
    queue := match x.wire with
      | .frame id f false => (id, f) :: x.queue
      | _ => x.queue
    wire := .idle }

/-- The attempt on the wire was acknowledged (R422, R425). -/
def CanBus.sent (x : CanBus) : CanBus :=
  { x with
    tec := x.tec - 1
    safePending := match x.wire with
      | .safe => false
      | _ => x.safePending
    alive := match x.wire with
      | .safe => x.alive + 1
      | _ => x.alive
    wire := .idle }

/-- The CAN_SEND command whose frame is on the wire. -/
def OnWire.cmd : OnWire → Option Nat
  | .frame id _ _ => some id
  | _ => none

/-- A frame on the wire ends (R422, R424, R426). -/
def execCanFrameEnd (b : BusId) (o : CanOutcome) (s : State) : Host.Outcome State Fault Refusal :=
  let x := s.can[b.val]
  .next (s.when (s.lampRuns && decide (x.wire ≠ .idle))
    (match o with
     | .acked =>
       let t := s.setCan b CanBus.sent
       let t := match x.wire.cmd with
         | some id => t.finish id stOk 0 0
         | none => t
       (t.canPassive b).kick b
     | _ =>
       let t := s.setCan b (fun y => y.failed (decide (o = .ackError)))
       ((t.canPassive b).canBusOff b).kick b))

/-- 128 sequences of 11 recessive bits have passed (R426). -/
def execCanBusOffRecoveryDone (b : BusId) (s : State) : Host.Outcome State Fault Refusal :=
  .next (s.when (s.lampRuns && (s.can[b.val]).busOff && (s.can[b.val]).recovering)
    ((s.setCan b (fun x =>
      { x with busOff := false, recovering := false, passive := false, tec := 0, rec' := 0 })).kick b))

/-- A CAN_SEND frame has not been sent within 1 s (R422): withdrawn, after any attempt on the wire. -/
def execCanSendTimeout (b : BusId) (cmd : Nat) (s : State) : Host.Outcome State Fault Refusal :=
  let x := s.can[b.val]
  .next (s.when (s.rootRuns && (x.queue.any (fun y => y.1 == cmd) || decide (x.wire.cmd = some cmd)))
    ((s.setCan b (fun x => { x with
      queue := x.queue.filter (fun y => y.1 != cmd)
      wire := match x.wire with
        | .frame id f w => .frame id f (w || id == cmd)
        | w => w })).finish cmd stBusy 8 0))

/-- A received frame is acknowledged, checked and discarded (R418); the receive error counter
follows ISO 11898-1 (log 18). -/
def execCanFrameReceived (b : BusId) (good : Bool) (s : State) : Host.Outcome State Fault Refusal :=
  .next (s.when (s.lampRuns && !(s.can[b.val]).busOff)
    (let t := s.setCan b (fun x => { x with
       rec' := if good then (if 127 < x.rec' then 119 + Config.canRec s.draws % 9 else x.rec' - 1)
               else x.rec' + 1 })
     ({ t with draws := t.draws + 1 } : State).canPassive b))

/-- REPEAT_MS after the safe message, in the safe state (R424). -/
def execSafeMessageRepeat (b : BusId) (s : State) : Host.Outcome State Fault Refusal :=
  let x := s.can[b.val]
  .next (s.when (s.lampRuns && s.lamp.safe && decide (x.message.repeatMs ≠ 0) && !x.silenced)
    ((s.setCan b (fun x => { x with safePending := true })).kick b))

/-! ## Frames of the lamp seam -/

/-- The level of a message on the lamp seam, 1 first (R27). The rule does not name a lamp-die source's
record and the reset of a channel: they go with the fault-reaction messages; a host watchdog's service
goes with everything else (DESIGN CHOICE, log 113). -/
def SeamMsg.level : SeamMsg → Nat
  | .safeRequest _ | .timerStart _ | .timerStop _ | .record .. | .channelReset _ => 1
  | .heartbeat => 2
  | .service w _ => if w.val = 0 then 3 else 5
  | .canSend _ | .safeMessage _ => 4
  | .canConfig _ | .wdogConfig _ | .bootComplete => 5

/-- The message that crosses next: the oldest of the first level that has one (R27). -/
def nextMsg (q : List SeamMsg) : Option SeamMsg :=
  [1, 2, 3, 4, 5].findSome? (fun k => q.find? (fun m => m.level == k))

/-- Which boot-failure cause a safe-state request of the lamp die stands for (R85). -/
def bootCauseOfCode (code : Nat) : Nat := if code = 0x1C then 0x06 else 0x04

/-- A heartbeat reaches a side (R28). -/
def State.beatHeard (s : State) (d : Side) : State :=
  s.setLamp (fun l => l.setSide d (fun x => { x with heard := true }))

/-- The lamp die acts on a message of the rootstock (R70, R392, R396, R401, R408, R420 to R423). -/
def State.lampActs (s : State) : SeamMsg → State
  | .safeRequest cause => s.lampSafe cause
  | .timerStart src => s.setLamp (fun l => { l with shadows := src :: l.shadows.filter (· != src) })
  | .timerStop src => s.setLamp (fun l => { l with shadows := l.shadows.filter (· != src) })
  | .bootComplete => if s.lamp.timedOut then s else s.setLamp (fun l => { l with gotBoot := true })
  | .heartbeat => s.beatHeard .lamp
  | .service w x => s.setWdog w (fun y => { y with inbound := y.inbound ++ [x] })
  | .canSend id => s.canSendArrives id
  | .safeMessage id => s.safeMessageArrives id
  | .canConfig id => s.canConfigArrives id
  | .wdogConfig id => s.wdogConfigArrives id
  | _ => s

/-- The rootstock acts on a message of the lamp die (R380, R396, R404). -/
def State.rootActs (s : State) : SeamMsg → State
  | .safeRequest cause => s.rootSafe cause (bootCauseOfCode cause)
  | .record src e owner time injected stays =>
    s.raiseFcu { source := src, event := e, owner := owner, time := some time, injected := injected,
                 stays := stays }
  | .channelReset p => s.flr (pfOf p)
  | .heartbeat => s.beatHeard .rootstock
  | _ => s

/-- The messages that wait for a side, and those after a change of them. -/
def Lamp.inbox (l : Lamp) : Side → List SeamMsg
  | .lamp => l.toLamp
  | .rootstock => l.toRoot

/-- A message leaves the queue of a side. -/
def State.dropMsg (s : State) (d : Side) (m : SeamMsg) : State :=
  match d with
  | .lamp => s.setLamp (fun l => { l with toLamp := l.toLamp.erase m })
  | .rootstock => s.setLamp (fun l => { l with toRoot := l.toRoot.erase m })

/-- The side takes its next message out of the other side's queue and acts on it. -/
def State.deliver (s : State) (d : Side) : State :=
  match nextMsg (s.lamp.inbox d) with
  | none => s
  | some m =>
    match d with
    | .lamp => (s.dropMsg d m).lampActs m
    | .rootstock => (s.dropMsg d m).rootActs m

/-- A lamp-seam frame reaches a side (R27, R28): acted on, or counted; the third failure in a row
loses the seam. A frame that fails its CRC leaves its message to be sent again, unless it was a heartbeat
(log 17). -/
def execLampSeamFrame (dest : Side) (crcOk : Bool) (s : State) : Host.Outcome State Fault Refusal :=
  .next (s.when (s.sideRuns dest && s.lamp.seamUp && !(s.lamp.side dest).lost)
    (if crcOk then
       (s.setLamp (fun l => l.setSide dest (fun x => { x with badCrc := 0 }))).deliver dest
     else
       let s := if nextMsg (s.lamp.inbox dest) = some .heartbeat then s.dropMsg dest .heartbeat else s
       let s := s.setLamp (fun l => l.setSide dest (fun x =>
         { x with badCrc := x.badCrc + 1, crcErrors := x.crcErrors + 1 }))
       if 3 ≤ (s.lamp.side dest).badCrc then s.losesSeam dest else s))

/-- A side sends its heartbeat (R27): one that still waits is not doubled. -/
def State.beat (s : State) (d : Side) : State :=
  s.setLamp (fun l => match d with
    | .rootstock => if l.toLamp.contains .heartbeat then l else { l with toLamp := l.toLamp ++ [.heartbeat] }
    | .lamp => if l.toRoot.contains .heartbeat then l else { l with toRoot := l.toRoot ++ [.heartbeat] })

/-- A heartbeat interval of a side ends (R27, R28): it sends its own heartbeat, and the third interval in a
row without a valid one from the other side loses the seam, also one that has never come up. -/
def execLampSeamHeartbeatInterval (side : Side) (s : State) : Host.Outcome State Fault Refusal :=
  .next (s.when (s.sideRuns side && !(s.lamp.side side).lost
      && (decide (side = .rootstock) || s.lamp.booted))
    (let t := s.beat side
     if (s.lamp.side side).heard then
       t.setLamp (fun l => l.setSide side (fun x => { x with missed := 0, heard := false }))
     else
       let t := t.setLamp (fun l => l.setSide side (fun x => { x with missed := x.missed + 1 }))
       if 3 ≤ (t.lamp.side side).missed then t.losesSeam side else t))

/-! ## The die's own reset -/

/-- A watchdog at the start of the lamp die (R407). -/
def Wdog.start (hw woke : Bool) : Wdog :=
  { state := if hw then .running else .stopped, hwStart := hw, woke := woke }

/-- The controllers at the start of the lamp die: bus monitoring mode, the signed configuration's
block and message (R89, R417, R420, R423). -/
def CanBus.start (f : Fixed) (b : BusId) : CanBus :=
  { cfg := { f.canDefault[b.val] with autoRecover := decide (b = f.safetyBus) }
    message := f.msgDefault[b.val] }

/-- The lamp die resets alone (R431, R453): it reboots from ROM and its watchdogs restart; the
rootstock loses the lamp seam; a rootstock in the safe state is what it will find. -/
def execLampDieReset (s : State) : Host.Outcome State Fault Refusal :=
  .next (s.when s.lampRuns
    (let s : State := { s with
       lamp := { rootSide := s.lamp.rootSide }
       can := Vector.ofFn (fun b => CanBus.start s.fixed b)
       wdog := Vector.replicate 3 (Wdog.start s.fixed.wdogHwStart false) }
     let s := if s.rootRuns then s.rootLosesSeam else s
     s.setLamp (fun l => { l with toLamp := if s.safe then [.safeRequest 0x03] else [] })))

end Sys2Proof.Machine
end

