-- ==== Sys2Proof/Machine/Time.lean ====
section
/-!
DEFINITION. Device time (R53 to R63): the count on ICLK, its sources, TIME_SET and the gPTP servo.
-/

namespace Sys2Proof.Machine

/-! ## The count -/

/-- A correction within ±500 ppm (R55). -/
def clampCorr (c : Int) : Int := max (-(Config.maxCorrection : Int)) (min (Config.maxCorrection : Int) c)

/-- What a slew adds in this ICLK cycle: the difference between the correction in force and the one
before it, or the rest of the offset where that is less (R58). -/
def Clocks.gain (c : Clocks) : Int :=
  match c.slew with
  | some w => max (-(w.left : Int)) (min (w.left : Int) (c.corr - w.prev))
  | none => 0

/-- The total correction applied to INCREMENT in this ICLK cycle (R55, R58, R61). -/
def Clocks.rate (c : Clocks) : Int :=
  match c.slew with
  | some w => w.prev + c.gain
  | none => c.corr

/-- What one ICLK cycle adds, in 2^-32 ns (R53, R55). -/
def Clocks.increment (c : Clocks) : Nat := ((Config.increment : Int) + clampCorr c.rate).toNat

/-- The count with its fraction, in 2^-32 ns. -/
def Clocks.total (c : Clocks) : Nat := c.time.toNat * 2 ^ 32 + c.frac.toNat

/-- One ICLK cycle (R53); a slew has less of its offset left (R58). -/
def Clocks.cycle (c : Clocks) : Clocks :=
  let t := c.total + c.increment
  { c with
    iclk := c.iclk + 1, time := BitVec.ofNat 64 (t / 2 ^ 32), frac := BitVec.ofNat 32 (t % 2 ^ 32)
    slew := c.slew.map (fun w => { w with left := w.left - c.gain.natAbs }) }

/-- An idle step: one ICLK cycle while the rootstock's clocks run (R52, R54, log 16); cycles in Run
count towards the engines' diagnostic ages (R373). -/
def State.tick (s : State) : State :=
  if s.rootRuns then
    s.setClk (fun c => { c.cycle with
      runCycles := if s.power.state = .run then c.runCycles + 1 else c.runCycles })
  else s

/-- Device time moved to a target (R58, R60); after a forward step every stream's guard skips one
interval check (R62). -/
def State.stepTime (s : State) (target : Nat) : State :=
  let t : State := if s.now.toNat < target then
      { s with streams := s.streams.map (fun x => { x with skipInterval := true }) }
    else s
  t.setClk (fun c => { c with time := BitVec.ofNat 64 target, frac := 0 })

/-- Some stream context of some function is open. -/
def State.anyOpen (s : State) : Bool := s.streams.toList.any (fun x => x.isOpen)

/-- A slew in progress ends at once; what it added is kept (R58). -/
def Clocks.endSlew (c : Clocks) : Clocks :=
  match c.slew with
  | some w => { c with corr := w.prev, slew := none }
  | none => c

/-- A slew by `ns`, forward where it is positive, at a correction moved by `by_` units and held within
±500 ppm (R55, R58, R60). -/
def Clocks.startSlew (c : Clocks) (ns : Int) (by_ : Nat) : Clocks :=
  if ns = 0 then c
  else { c with
    slew := some { prev := c.corr, left := ns.natAbs * 2 ^ 32 }
    corr := clampCorr (if 0 < ns then c.corr + by_ else c.corr - by_) }

/-! ## TIME_SET and TIME_GET -/

/-- SOURCE of TIME_SET and TIME_GET (R141). -/
def TimeSource.code : TimeSource → Nat
  | .free => 0
  | .host => 1
  | .gptp p => 2 + p.val

/-- A source without a servo (R61). -/
def Clocks.noServo (c : Clocks) (src : TimeSource) : Clocks :=
  { c with source := src, servo := .free, offset := 0, goodSyncs := 0, acquired := false }

/-- The source of device time is gPTP (R58). -/
def Clocks.onGptp (c : Clocks) : Bool :=
  match c.source with
  | .gptp _ => true
  | _ => false

/-- priority1 that the device announces: it is never grandmaster-capable (R59). -/
def gptpPriority1 : Nat := 255

/-- TIME_SET (R57, R58, R143). One that is taken ends a slew in progress, when it is taken and again when
it acts, as one taken before it may have begun another; so one that is refused here has ended it as well
(DESIGN CHOICE, log 43). A slew goes by TARGET less device time,
at ±500 ppm. A target time is refused while the source is gPTP when the command acts, as it is when
it is taken. -/
def execTimeSet (cmd : Nat) (s : State) : Host.Outcome State Fault Refusal :=
  .next (s.withCmd cmd .timeSet (fun c =>
    let s := s.setClk Clocks.endSlew
    let source := c.arg 16 1
    let mode := c.arg 17 1
    let target := c.arg 24 8
    let done (s : State) : State := s.finish cmd stOk 0 s.now
    if source = 0 then done (s.setClk (fun k => { k.noServo .free with corr := 0 }))
    else if h : 2 ≤ source ∧ source < 6 then
      let p : Port4 := ⟨source - 2, by omega⟩
      done ((s.setClk (fun k => { k.noServo (.gptp p) with servo := .acquiring })).send
        (.gptp p (.announce gptpPriority1 false)))
    else if mode = 0 then done (s.setClk (fun k => k.noServo .host))
    else if s.clk.onGptp then s.finish cmd stNotPermitted 4 0
    else if mode = 1 then
      if target < s.now.toNat ∧ s.anyOpen then s.finish cmd stNotPermitted 4 0
      else done ((s.setClk (fun k => k.noServo .host)).stepTime target)
    else done (s.setClk (fun k =>
      (k.noServo .host).startSlew ((target : Int) - s.now.toNat) (2 * Config.maxCorrection)))))

/-- The whole offset of a slew has been added: the correction before it returns (R58). -/
def execTimeSlewEnd (s : State) : Host.Outcome State Fault Refusal :=
  .next (s.when (s.rootRuns && s.clk.slew.any (fun w => w.left == 0)) (s.setClk Clocks.endSlew))

/-- RATE_PPB (R61, R149): the whole number of ppb next to the total correction. -/
def ratePpb (corr : Int) : Int :=
  let n := corr * 1000000000
  let d : Int := Config.increment
  if n % d = 0 then n / d else if Config.ppbUp corr then n / d + 1 else n / d

/-- SERVO of the time record (R149). -/
def Servo.code : Servo → Nat
  | .free => 0
  | .acquiring => 1
  | .locked => 2
  | .holdover => 3

/-- The time record, 24 bytes (R149). -/
def timeRecord (c : Clocks) : Bytes :=
  leBytes 8 c.time.toNat ++ leBytes 1 c.source.code ++ leBytes 1 c.servo.code ++ zeros 2
    ++ leInt 4 (ratePpb c.rate) ++ leInt 8 c.offset

/-- TIME_GET (R149): OUT_VA 0 writes nothing. -/
def execTimeGet (cmd : Nat) (io : HostIo) (s : State) : Host.Outcome State Fault Refusal :=
  .next (s.withCmd cmd .timeGet (fun c =>
    if c.arg 16 8 = 0 then s.finish cmd stOk 0 s.now
    else s.answer c (c.arg 16 8) (timeRecord s.clk) io s.now))

/-! ## The servo -/

/-- A Sync that the device accepts: gPTP domain 0, at log intervals from −5 to 0 (R59). -/
def syncValid (m : SyncMeasure) : Bool :=
  m.domain == 0 && decide (-5 ≤ m.logInterval) && decide (m.logInterval ≤ 0)

/-- The servo has stepped or corrected; what a valid Sync makes of its state (R59, R61). -/
def Clocks.synced (c : Clocks) (m : SyncMeasure) : Clocks :=
  let good := if m.offset.natAbs ≤ 1000 then
      (if c.servo = .holdover then 1 else c.goodSyncs + 1) else 0
  { c with
    offset := m.offset
    acquired := true
    corr := clampCorr m.rate
    slew := none
    goodSyncs := good
    servo := if c.servo = .locked ∨ 8 ≤ good then .locked else .acquiring }

/-- The servo steps this offset (R60): on first acquisition and above 1 ms, a forward one always, a
backward one only with no stream open. -/
def State.servoSteps (s : State) (m : SyncMeasure) : Bool :=
  (!s.clk.acquired || decide (1000000 < m.offset.natAbs)) && decide (m.offset ≠ 0)
    && (!s.anyOpen || decide (m.offset < 0))

/-- A gPTP Sync on the selected port (R59 to R61): the servo sets its rate correction, and steps the
offset or slews it away; the slew moves the correction by what the servo chooses, at least one unit
(log 43). -/
def execGptpSync (p : Port4) (m : SyncMeasure) (s : State) : Host.Outcome State Fault Refusal :=
  .next (s.when (s.rootRuns && decide (s.clk.source = .gptp p) && syncValid m)
    (if s.servoSteps m then
       (s.stepTime ((s.now.toNat : Int) - m.offset).toNat).setClk (fun c => c.synced m)
     else s.setClk (fun c => (c.synced m).startSlew (-m.offset) (max 1 m.slewBy))))

/-- Peer-delay measurement (R59): a request is answered, the device's own measurement sends a request,
and a response completes it. -/
def execGptpPeerDelay (p : Port4) (m : PeerDelay) (s : State) : Host.Outcome State Fault Refusal :=
  .next (s.when (s.rootRuns && decide (s.clk.source = .gptp p))
    (match m with
     | .request => s.send (.gptp p .delayResponse)
     | .initiate => s.send (.gptp p .delayRequest)
     | .response d => s.setClk (fun c => { c with peerDelay := d })))

/-- 3 s without a valid Sync (R61): HOLDOVER with the last rate correction. -/
def execGptpHoldover (s : State) : Host.Outcome State Fault Refusal :=
  .next (s.when (s.rootRuns && decide (s.clk.servo ≠ .free))
    (s.setClk (fun c => { c with servo := .holdover, goodSyncs := 0 })))

end Sys2Proof.Machine
end

