-- ==== Sys2Proof/Machine/Operands.lean ====
section
/-!
DEFINITION. The operand forms of a command descriptor (R123, R130, R141): which opcode may come
from whom (step 5 of R134), the ranges of the inline fields (step 6), and the ranges of memory that
a command names, checked when it is taken (R140, R234).
-/

namespace Sys2Proof.Machine

/-! ## Ranges of the inline fields -/

/-- Any of the bits from `b` upward of a byte is set: reserved bits (R12). -/
def bitsFrom (v b : Nat) : Bool := decide (v / 2 ^ b ≠ 0)

/-- ROW of a sequence (R284). -/
def kvRow (heads headDim : Nat) (f : Fmt) : Nat := heads * headDim * 2 * (Fmt.bits f / 8)

/-- ROW is a power of two from 256 to 65,536 (R284). -/
def kvRowOk (row : Nat) : Bool := [256, 512, 1024, 2048, 4096, 8192, 16384, 32768, 65536].contains row

/-- Formats of a sequence (R285). -/
def kvFormat (c : Nat) : Option Fmt :=
  match fmtOfCode c with
  | some .int8 => some .int8
  | some .e4m3 => some .e4m3
  | some .e5m2 => some .e5m2
  | some .fp16 => some .fp16
  | some .bf16 => some .bf16
  | _ => none

/-- The bytes of a position by HEADS, HEAD_DIM and a FORMAT of R265, whether or not KV_OPEN admits them; 0
where FORMAT has no element size. -/
def kvAsked (d : Bytes) : Nat :=
  match fmtOfCode (leNat d 32 1) with
  | some f => leNat d 28 2 * leNat d 30 2 * 2 * Fmt.bits f / 8
  | none => 0

/-- ROW that KV_OPEN asks for, 0 where a field of it is bad. -/
def kvOpenRow (d : Bytes) : Nat :=
  let heads := leNat d 28 2
  let dim := leNat d 30 2
  if outside 1 heads 128 || !([16, 32, 64, 128, 256].contains dim) then 0
  else match kvFormat (leNat d 32 1) with
    | some f => if kvRowOk (kvRow heads dim f) then kvRow heads dim f else 0
    | none => 0

/-- The checks of KV_OPEN that give an offset (R285), in the order of its table: the region and SPP are
those that the fields ask for, also where a later line refuses a field. MAXLEN is a multiple of SPP where
the region is whole pages (DEDUCED, log 111). -/
def kvOpenFields (d : Bytes) : List (Nat × Bool) :=
  let va := leNat d 16 8
  let maxLen := leNat d 24 4
  let row := kvAsked d
  [(16, va % 65536 != 0 || va < vaStart || vaEnd ≤ va || vaEnd < va + maxLen * row),
   (24, outside 1 maxLen 1048576 || maxLen * row % 65536 != 0),
   (28, outside 1 (leNat d 28 2) 128),
   (30, !([16, 32, 64, 128, 256].contains (leNat d 30 2))),
   (32, (kvFormat (leNat d 32 1)).isNone),
   (33, bitsFrom (leNat d 33 1) 1)]

/-- The checks of MEM_MAP that give an offset (R232). -/
def memMapFields (d : Bytes) : List (Nat × Bool) :=
  let va := leNat d 16 8
  let size := leNat d 24 8
  let kind := leNat d 32 1
  let page := leNat d 33 1
  let unit := if page = 0 then 65536 else if page = 1 then 2097152 else 1
  let perm := leNat d 34 1
  let host := leNat d 40 8
  let vaBad := va % unit != 0 || va < vaStart || vaEnd ≤ va
  [(16, vaBad), (24, size % unit != 0 || size == 0 || (!vaBad && vaEnd < va + size)),
   (32, bitsFrom kind 1), (33, bitsFrom page 1), (34, bitsFrom perm 2 || perm % 4 == 0),
   (40, (kind == 0 && host != 0) || (kind == 1 && host % unit != 0))]

/-- A stream context that the T64 lacks (R33). -/
def badContext (d : Bytes) : Bool := decide (Config.streamContexts ≤ leNat d 16 1)

/-- Events that INJECT does not raise (R395). -/
def notInjected (e : Ev) : Bool := [Ev.bootInjectFail, .bootTimeout, .reactionExpired].contains e

/-- KIND of INJECT is bad for its source (R395). -/
def injectKindBad (src kind : Nat) : Bool :=
  kind / 64 == 3 || match evOfCode (kind % 64) with
    | none => true
    | some e => notInjected e || !(sourceEvents src).contains e

/-- Bounds of LOG_LEN by ACTION (R461, R462). -/
def logLenBad (action len : Nat) : Bool :=
  (action == 1 && (len % 32 != 0 || outside 32 len 268435456))
    || (action == 2 && (len % 32 != 0 || outside 65536 len 268435456))

/-- The ports that a KIND of LINK_STATUS has (R31, R141). -/
def portsOfKind (kind : Nat) : Nat := if kind = 0 then 24 else 4

/-- The inline fields of an opcode with their breaches, in no order (R33, R141 and the rule of each
opcode). An IMAGE_LEN of 0 is refused, and BIND_STREAM's VECTOR and LOG2_DEPTH are looked at only where it
binds (DESIGN CHOICE, log 112). -/
def fieldChecks (o : Opcode) (d : Bytes) (f : FnId) : List (Nat × Bool) :=
  let n (i k : Nat) := leNat d i k
  match o with
  | .deviceQuery | .functionQuery | .timeGet | .selftestStatus | .thermalQuery =>
    [(16, n 16 8 % 64 != 0)]
  | .timeSet => [(16, decide (5 < n 16 1)), (17, decide (2 < n 17 1) || (n 17 1 != 0 && n 16 1 != 1)),
                 (24, n 17 1 == 0 && n 24 8 != 0)]
  | .shareSet => [(16, decide (64 < n 16 1)), (17, decide (64 < n 17 1)), (18, decide (48 < n 18 1))]
  | .provision => [(16, outside 1 (n 16 1) 63), (17, decide (Config.venginesMax < n 17 1)),
                   (18, outside 8 (n 18 2) 256), (34, bitsFrom (n 34 1) 1)]
  | .memMap => memMapFields d
  | .memCopy => [(32, outside 1 (n 32 8) (2 ^ 40))]
  | .memFill => [(16, n 16 8 % 8 != 0), (24, n 24 8 % 8 != 0 || n 24 8 == 0)]
  | .memTagCheck => [(16, n 16 8 % 256 != 0), (24, n 24 8 % 256 != 0 || n 24 8 == 0)]
  | .streamOpen | .streamClose | .streamConfig | .guardConfig | .replayFeed => [(16, badContext d)]
  | .streamStats => [(16, badContext d), (24, n 24 8 % 64 != 0)]
  | .linkStatus => [(16, decide (3 < n 16 1)), (17, decide (portsOfKind (n 16 1) ≤ n 17 1)),
                    (24, n 24 8 % 64 != 0)]
  | .graphLoad => [(24, outside 1 (n 24 4) (512 * 2 ^ 20))]
  | .jobSubmit => [(52, decide (n 52 4 < 16 * n 20 2))]
  | .bindStream => [(16, badContext d), (17, decide (1 < n 17 1)),
                    (18, n 17 1 == 1 && decide (31 < n 18 1)),
                    (19, n 17 1 == 1 && outside 4 (n 19 1) 12),
                    (40, n 17 1 == 1 && n 40 8 % 256 != 0),
                    (48, n 17 1 == 1 && n 48 4 % 256 != 0)]
  | .reserve => [(20, outside 100 (n 20 4) 2000000), (24, decide (1 < n 24 1))]
  | .kvOpen => kvOpenFields d
  | .attend => [(16, outside 1 (n 16 2) 1024), (52, decide (n 52 4 < 64 * n 16 2))]
  | .safetyConfig => [(16, n 16 4 != 0 && outside 10000 (n 16 4) 100000),
                      (20, n 20 4 != 0 && outside 500 (n 20 4) 50000),
                      (24, n 24 4 != 0 && outside 250 (n 24 4) 10000), (28, bitsFrom (n 28 1) 1)]
  | .faultAck => [(16, decide (2 ^ 21 ≤ n 16 4))]
  | .faultHistory => [(16, n 16 8 % 64 != 0), (24, outside 1 (n 24 1) 32)]
  | .inject => [(16, (sourceEvents (n 16 2)).isEmpty), (18, injectKindBad (n 16 2) (n 18 1))]
  | .thresholdSet => [(16, !sourcePromotable (n 16 2)), (18, n 18 1 == 0),
                      (20, outside 1000 (n 20 4) 10000000)]
  | .powerState => [(16, decide (2 < n 16 1))]
  | .dieRestore => [(16, decide (3 < n 16 1))]
  | .canConfig | .canSend => [(16, decide (1 < n 16 1))]
  | .safeMessageSet => [(16, n 16 1 == 0 || bitsFrom (n 16 1) 2)]
  | .uartConfig => [(16, decide (3 < n 16 1)), (17, bitsFrom (n 17 1) 1), (18, outside 7 (n 18 1) 8),
                    (19, decide (2 < n 19 1)), (20, outside 1 (n 20 1) 2),
                    (24, outside 9600 (n 24 4) 3000000)]
  | .driftConfig => [(16, decide (3 < n 16 1)), (17, bitsFrom (n 17 1) 1), (20, decide (2 < n 20 1))]
  | .replayArm => [(24, logLenBad (n 32 1) (n 24 8)), (32, decide (2 < n 32 1))]
  | .crosscheckConfig => [(16, decide (3 < n 16 1)), (17, decide (1 < n 17 1))]
  | .wdogConfig =>
    let w := n 16 1
    let on := n 19 1 % 2 == 1
    [(16, decide (2 < w) || (w != 0 && w != (wdogOf (portOf f)).val)), (17, on && decide (1 < n 17 1)),
     (18, on && decide (2 < n 18 1)), (19, bitsFrom (n 19 1) 1),
     (20, on && (if w = 0 then outside 1000 (n 20 4) 2000000 else outside 10000 (n 20 4) 10000000))]
  | .firmwareStage => [(16, !([0, 1, 255].contains (n 16 1))), (32, outside 1 (n 32 4) (8 * 2 ^ 20))]
  | .firmwareCommit => [(16, decide (1 < n 16 1))]
  | .debugUnlock => [(16, decide (1 < n 16 1))]
  | .nop | .hello | .memUnmap | .graphUnload | .jobCancel | .kvScatter | .kvTrim | .kvClose
  | .kvQuery | .budgetSet => []

/-! ## The block, the reserved bytes and step 6 -/

/-- The length that a block must have, where a rule fixes one (R189, R215, R288, R419, R421). -/
def Opcode.blockLen : Opcode → Option Nat
  | .streamOpen | .streamConfig => some 128
  | .guardConfig => some 32
  | .kvScatter | .canConfig => some 64
  | .canSend | .safeMessageSet => some 80
  | _ => none

/-- BLOCK_LEN is bad (R130); a rule that fixes the length goes before R130 (log 19). -/
def blockLenBad (o : Opcode) (len : Nat) : Bool :=
  match o.blockLen with
  | some l => len != l
  | none => outside 64 len 65536 || len % 4 != 0

/-- The parameter bytes that R141 does not name: reserved (R12). -/
def reservedParams (o : Opcode) (d : Bytes) : List (Nat × Bool) :=
  ((List.range (if o.chained then 28 else 44)).map (· + 16)).map (fun i =>
    (i, !(o.named.any (fun r => decide (r.1 ≤ i) && decide (i < r.1 + r.2))) && byteAt d i != 0))

/-- The checks of FLAGS, CLASS and the chain fields (R123, R124, R130, R142). -/
def headChecks (o : Opcode) (d : Bytes) : List (Nat × Bool) :=
  let flags := byteAt d 2
  let cls := leNat d 3 1
  [(2, bitsFrom flags.toNat 4 || flags.getLsbD 3 != o.chained),
   (3, decide (2 < cls) || (decide (o = .hello) && cls != 0))]
    ++ (if o.chained then [(44, leNat d 44 8 % 64 != 0), (52, blockLenBad o (leNat d 52 4))] else [])

/-- Step 6 of R134: the offset of the first bad field of the descriptor (R150). -/
def fieldBad (o : Opcode) (d : Bytes) (f : FnId) : Option Nat :=
  (((headChecks o d ++ fieldChecks o d f ++ reservedParams o d).filter (·.2)).map (·.1)).min?

/-! ## Permissions -/

/-- No TIME_SET taken earlier is still to be applied (R57): with one, the source that the next finds is
known when that acts. -/
def State.timeTaken (s : State) : Bool :=
  s.fore.taken.all (fun c => !(c.live && opcodeOf c.opcode == some .timeSet))

/-- Step 5 of R134: the reason code of R151. MODE 1 and 2 of TIME_SET carry a target time (R58, R143). -/
def State.permission (s : State) (o : Opcode) (d : Bytes) (f : FnId) : Option Nat :=
  if o.pfOnly && isVf f then some 1
  else if (leNat d 3 1 == 2 || decide (o = .reserve)) && !s.hasAuth f then some 2
  else if decide (o = .inject) && !s.fore.safety.maintenance then some 3
  else if decide (o = .timeSet) && (leNat d 17 1 == 1 || leNat d 17 1 == 2) && s.timeTaken
      && s.clk.onGptp then some 4
  else if decide (o = .debugUnlock) && s.fixed.debugOff then some 5
  else none

/-! ## Ranges of memory -/

/-- Size of the record that LINK_STATUS writes, by KIND (R186, R201, R207, R471). -/
def linkRecordSize (kind : Nat) : Nat := [96, 64, 48, 72].getD kind 72

/-- OUT_VA of a query and the size of what it may write (R140). -/
def outRange (o : Opcode) (d : Bytes) : Option (Nat × Nat) :=
  match o with
  | .deviceQuery => some (16, 64)
  | .functionQuery => some (16, 32)
  | .timeGet => if leNat d 16 8 = 0 then none else some (16, 24)
  | .streamStats => some (24, 80)
  | .linkStatus => some (24, linkRecordSize (leNat d 16 1))
  | .faultHistory => some (16, 16 * leNat d 24 1)
  | .selftestStatus => some (16, 1056)
  | .thermalQuery => some (16, 256)
  | _ => none

/-- A range of a function touches one of its key-value regions. -/
def Fn.meetsRegion (x : Fn) (va n : Nat) : Bool := x.seqs.any (fun q => q.meets va n)

/-- The ranges that a command names by its descriptor alone, checked when it is taken (R140, R234,
R237, R352): the DETAIL of the first breach. -/
def State.rangeBad (s : State) (o : Opcode) (d : Bytes) (f : FnId) : Option Nat :=
  let x := s.fn f
  let bad (r : Option (Nat × Bool)) : Option Nat := match r with
    | some (i, true) => some i
    | _ => none
  match o with
  | .memCopy =>
    let len := leNat d 32 8
    if !x.spans (leNat d 16 8) len .rd false then some 16
    else if !x.spans (leNat d 24 8) len .wr false then some 24
    else if overlap (leNat d 16 8) len (leNat d 24 8) len then some 0xFFFF
    else none
  | .memFill => bad (some (16, !x.spans (leNat d 16 8) (leNat d 24 8) .wr false))
  | .memTagCheck => bad (some (16, !x.spans (leNat d 16 8) (leNat d 24 8) .rd true))
  | _ => match outRange o d with
    | some (i, n) => if x.spans (leNat d i 8) n .wr false then none else some i
    | none => none

end Sys2Proof.Machine
end

