-- ==== Sys2Proof/Machine/Drift.lean ====
section
/-!
DEFINITION. Drift links (R455 to R460) and cross-checking (R468 to R470).
-/

namespace Sys2Proof.Machine

/-! ## Packets -/

/-- TYPE codes of R455. -/
def typeLink : Nat := 1
def typeDigest : Nat := 2
def typeLack : Nat := 3

/-- A packet (R455). -/
def driftBytes (dest type src : Nat) (lseq : BitVec 16) (payload : Bytes) : Bytes :=
  let b := leBytes 2 (dest % 4096 + 4096 * type) ++ leBytes 2 (src % 4096) ++ leBytes 2 payload.length
    ++ leBytes 2 lseq.toNat ++ payload
  b ++ leBytes 4 (crc32c b).toNat

/-- A packet as received: its fields, if its length and its CRC are right (R455). -/
structure DriftIn where
  dest    : Nat
  type    : Nat
  src     : Nat
  lseq    : BitVec 16
  payload : Bytes

/-- The packet in received bytes. -/
def parseDrift (b : Bytes) : Option DriftIn :=
  let len := leNat b 4 2
  if b.length = 12 + len ∧ len ≤ 256 ∧ len % 4 = 0 ∧ leNat b (8 + len) 4 = (crc32c (b.take (8 + len))).toNat
  then some { dest := leNat b 0 2 % 4096, type := leNat b 0 2 / 4096, src := leNat b 2 2 % 4096,
              lseq := BitVec.ofNat 16 (leNat b 6 2), payload := (b.drop 8).take len }
  else none

/-- Sequence numbers are counted round 2^16. -/
def seqAhead (a b : BitVec 16) : Nat := (a - b).toNat

/-- Packets that may be sent and not acknowledged (R456). -/
def driftWindow : Nat := 64

/-- A packet goes onto the wire. -/
def State.driftWire (s : State) (p : Port4) (b : Bytes) : State :=
  (s.setDrift p (fun x => { x with sent := satAdd 64 x.sent 1 })).send (.drift p b)

/-- A sequenced packet: kept until it is acknowledged, sent once the 64-packet buffer has room (R456). -/
def State.driftSend (s : State) (p : Port4) (dest type src : Nat) (payload : Bytes) : State :=
  let x := s.drift[p.val]
  let b := driftBytes dest type src x.txSeq payload
  let s := s.setDrift p (fun x => { x with txBuf := x.txBuf ++ [(x.txSeq, b)], txSeq := x.txSeq + 1 })
  if x.txBuf.length < driftWindow then s.driftWire p b else s

/-- A LACK: outside the sequence, never acknowledged itself (R456, log 21). -/
def State.driftLack (s : State) (p : Port4) (lseq : BitVec 16) (nak : Bool) : State :=
  let x := s.drift[p.val]
  s.driftWire p (driftBytes x.neighbour typeLack x.nodeId 0 (leBytes 4 (lseq.toNat + nak.toNat * 2 ^ 31)))

/-- Sends a list of packets. -/
def State.driftWireAll (s : State) (p : Port4) (l : List (BitVec 16 × Bytes)) : State :=
  l.foldl (fun s x => s.driftWire p x.2) s

/-! ## Topology -/

/-- The dimensions fit the topology (R457). -/
def dimsOk (topology x y : Nat) : Bool :=
  if topology = 0 then !outside 2 x 64 && y == 1
  else if topology = 1 then !outside 3 x 64 && y == 1
  else !outside 2 x 64 && !outside 2 y 64

/-- The topology uses the port (R457). -/
def usesPort (topology port : Nat) : Bool := decide (port < 2) || topology == 2

/-- The neighbour in a port's direction (R457). -/
def neighbourOf (topology x y node port : Nat) : Option Nat :=
  let nx := node % x
  let ny := node / x
  if topology = 0 then
    (if port = 0 then (if nx + 1 < x then some (node + 1) else none)
     else if port = 1 then (if 0 < nx then some (node - 1) else none) else none)
  else if port = 0 then some (ny * x + (nx + 1) % x)
  else if port = 1 then some (ny * x + (nx + x - 1) % x)
  else if topology ≠ 2 then none
  else if port = 2 then some ((ny + 1) % y * x + nx)
  else some ((ny + y - 1) % y * x + nx)

/-- The opposite port (R457). -/
def oppositePort (port : Nat) : Nat := port ^^^ 1

/-- The port by which a packet leaves for a node (R460). -/
def routePort (topology x y node dest : Nat) : Port4 :=
  let step (a b n : Nat) (plus minus : Port4) : Port4 :=
    if topology = 0 then (if a < b then plus else minus)
    else if (b + n - a) % n ≤ (a + n - b) % n then plus else minus
  if node % x ≠ dest % x then step (node % x) (dest % x) x 0 1
  else step (node / x) (dest / x) y 2 3

/-- Routes a packet from this node (R460): dropped, and counted on the port it came by or would have
left by first, where its way is not UP or its destination is outside the topology. -/
def State.driftRoute (s : State) (via : Port4) (dest type src : Nat) (payload : Bytes) : State :=
  let x := s.drift[via.val]
  let drop := s.setDrift via (fun y => { y with dropped := satAdd 32 y.dropped 1 })
  if x.xDim * x.yDim ≤ dest then drop
  else
    let q := routePort x.topology x.xDim x.yDim x.nodeId dest
    if (s.drift[q.val]).state = .up then s.driftSend q dest type src payload else drop

/-! ## Cross-checking -/

/-- CROSSCHECK_MISMATCH of a context (R382, R470). -/
def State.xcMismatch (s : State) (ctx : Nat) : State :=
  match s.xc.port with
  | none => s
  | some p =>
    let x := s.streams.toList.getD ctx {}
    s.raise { source := 0x660 + p.val, event := .crosscheckMismatch,
              owner := if x.isOpen then some x.owner else none, class2 := true }

/-- A record is missing (R470). -/
def State.xcMissing (s : State) (ctx : Nat) : State :=
  ({ s with xc := { s.xc with missing := satAdd 32 s.xc.missing 1 } } : State).xcMismatch ctx

/-- A digest record, sent or received, is matched or held (R470). -/
def State.xcRecord (s : State) (d : Digest) : State :=
  let mate (x : Digest) : Bool := x.mine != d.mine && x.ctx == d.ctx && x.counter == d.counter
  match s.xc.held.find? mate with
  | some m =>
    let xc := { s.xc with held := s.xc.held.erase m }
    if ¬ (m.valid ∧ d.valid) then { s with xc := { xc with skipped := satAdd 32 xc.skipped 1 } }
    else if m.digest = d.digest then { s with xc := { xc with matched := satAdd 32 xc.matched 1 } }
    else ({ s with xc := { xc with mismatched := satAdd 32 xc.mismatched 1 } } : State).xcMismatch d.ctx
  | none =>
    let t : State := { s with xc := { s.xc with held := s.xc.held ++ [d] } }
    match t.xc.held with
    | old :: rest => if 1024 < t.xc.held.length then
        ({ t with xc := { t.xc with held := rest } } : State).xcMissing old.ctx else t
    | [] => t

/-- The digest of a result entry of a bound CLASS 2 context (R469); none is sent in the safe state. -/
def State.sendDigest (s : State) (ctx : Nat) (status : BitVec 16) (counter : BitVec 32)
    (time : BitVec 64) (digest : BitVec 32) : State :=
  match s.xc.port with
  | none => s
  | some p =>
    if s.safe then s
    else
      let valid := decide (status = stOk) || decide (status = stDegraded) || decide (status = stMissed)
      let dg := if valid then digest else 0
      let payload := leBytes 1 ctx ++ leBytes 1 valid.toNat ++ leBytes 2 status.toNat
        ++ leBytes 4 counter.toNat ++ leBytes 8 time.toNat ++ leBytes 4 dg.toNat ++ zeros 12
      (s.driftRoute p s.xc.peer typeDigest (s.drift[p.val]).nodeId payload).xcRecord
        { mine := true, ctx := ctx, counter := counter, valid := valid, digest := dg }

/-! ## Packets received -/

/-- The port trains again: its packets and its sequence are gone (R456). -/
def DriftPort.retrain (x : DriftPort) : DriftPort :=
  { x with state := .training, lanes := false, neighbour := 0xFFFF, txBuf := [], txSeq := 0, rxSeq := 0,
           retryRun := 0 }

/-- The link is lost: LINK_DOWNS rises by 1 (R456, R471). -/
def DriftPort.lose (x : DriftPort) : DriftPort := { x.retrain with linkDowns := satAdd 16 x.linkDowns 1 }

/-- Packets acknowledged up to and including one, in sequence order (R456). -/
def DriftPort.acked (x : DriftPort) (lseq : BitVec 16) : List (BitVec 16 × Bytes) :=
  match x.txBuf with
  | [] => []
  | (first, _) :: _ => if seqAhead lseq first < x.txBuf.length then x.txBuf.drop (seqAhead lseq first + 1)
    else x.txBuf

/-- A LACK arrives (R456). -/
def State.driftLacked (s : State) (p : Port4) (lseq : BitVec 16) (nak : Bool) : State :=
  let x := s.drift[p.val]
  if nak then
    let rest := x.acked (lseq - 1)
    let again : Bool := match rest with
      | (first, _) :: _ => first == lseq
      | [] => false
    if !again then s
    else
      let fresh := rest.length < x.txBuf.length
      let run := if fresh then 1 else x.retryRun + 1
      if 8 < run then s.setDrift p DriftPort.lose
      else
        (s.setDrift p (fun x => { x with
          txBuf := rest, retryRun := run, retries := satAdd 32 x.retries 1 })).driftWireAll p
            (rest.take driftWindow)
  else
    let rest := x.acked lseq
    let gone := x.txBuf.length - rest.length
    let s := s.setDrift p (fun x => { x with txBuf := rest, retryRun := if gone = 0 then x.retryRun else 0 })
    s.driftWireAll p ((rest.take driftWindow).drop (driftWindow - gone))

/-- The payload of a LINK packet, in the order in which R459 names its fields (log 21). -/
def linkPayload (x : DriftPort) (port : Nat) : Bytes :=
  leBytes 2 x.nodeId ++ leBytes 1 x.topology ++ leBytes 1 x.xDim ++ leBytes 1 x.yDim ++ leBytes 1 port ++ zeros 2

/-- A LINK packet arrives (R459). -/
def State.driftLink (s : State) (p : Port4) (b : Bytes) : State :=
  let x := s.drift[p.val]
  let node := leNat b 0 2
  let good := neighbourOf x.topology x.xDim x.yDim x.nodeId p.val == some node
    && leNat b 2 1 == x.topology && leNat b 3 1 == x.xDim && leNat b 4 1 == x.yDim
    && leNat b 5 1 == oppositePort p.val
  s.setDrift p (fun x => { x with
    neighbour := node
    state := if good then .up else .miswired
    lastUp := if good ∧ x.state ≠ .up then s.now else x.lastUp })

/-- A DIGEST packet arrives for this node (R468 to R470). -/
def State.driftDigest (s : State) (d : DriftIn) : State :=
  if s.xc.port.isSome ∧ d.src = s.xc.peer then
    s.xcRecord { mine := false, ctx := leNat d.payload 0 1, counter := BitVec.ofNat 32 (leNat d.payload 4 4),
                 valid := leNat d.payload 1 1 % 2 == 1, digest := BitVec.ofNat 32 (leNat d.payload 16 4) }
  else s

/-- A packet in sequence is acted on by TYPE (R455, R459, R460). -/
def State.driftAct (s : State) (p : Port4) (d : DriftIn) : State :=
  let x := s.drift[p.val]
  if d.type = typeLink then s.driftLink p d.payload
  else if d.type = typeDigest ∧ x.state = .up then
    if d.dest = x.nodeId then s.driftDigest d else s.driftRoute p d.dest d.type d.src d.payload
  else s

/-- A Drift packet arrives (R455, R456). -/
def execDriftPacket (p : Port4) (packet : Bytes) (s : State) : Host.Outcome State Fault Refusal :=
  let x := s.drift[p.val]
  .next (s.when (s.rootRuns && x.enabled && x.lanes)
    (match parseDrift packet with
     | none => (s.setDrift p (fun x => { x with crcErrors := satAdd 32 x.crcErrors 1 })).driftLack p x.rxSeq true
     | some d =>
       let s := s.setDrift p (fun x => { x with received := satAdd 64 x.received 1 })
       if d.type = typeLack then
         s.driftLacked p (BitVec.ofNat 16 (leNat d.payload 0 2)) (byteAt d.payload 3).msb
       else if d.lseq = x.rxSeq then
         ((s.setDrift p (fun x => { x with rxSeq := x.rxSeq + 1 })).driftLack p d.lseq false).driftAct p d
       else s.driftLack p (x.rxSeq - 1) false))

/-- The four lanes have trained, or an up link is lost (R455, R459). -/
def execDriftLinkChange (p : Port4) (up : Bool) (s : State) : Host.Outcome State Fault Refusal :=
  let x := s.drift[p.val]
  .next (s.when (s.rootRuns && x.enabled && (x.lanes != up))
    (if up then
       (s.setDrift p (fun x => { x.retrain with lanes := true })).driftSend p 0xFFF typeLink x.nodeId
         (linkPayload x p.val)
     else s.setDrift p (fun x => if x.state = .up then x.lose else x.retrain)))

/-- A port that is not UP trains again (R455). -/
def execDriftTrainingRetry (p : Port4) (s : State) : Host.Outcome State Fault Refusal :=
  .next (s.when (s.rootRuns && (s.drift[p.val]).enabled && decide ((s.drift[p.val]).state ≠ .up))
    (s.setDrift p DriftPort.retrain))

/-! ## Commands -/

/-- The DETAIL of the first breach of R458 for an enable. -/
def State.driftConfigBad (s : State) (p : Port4) (node topology x y : Nat) : Option Nat :=
  let others := (List.finRange 4).filter (fun (q : Port4) => q != p && (s.drift[q.val]).enabled)
  let dims := dimsOk topology x y
  if !usesPort topology p.val || (dims && decide (node < x * y)
      && (neighbourOf topology x y node p.val).isNone) then some 16
  else if dims && decide (x * y ≤ node) then some 18
  else if !dims || others.any (fun (q : Port4) =>
      let d := s.drift[q.val]
      d.nodeId != node || d.topology != topology || d.xDim != x || d.yDim != y) then some 0xFFFF
  else none

/-- DRIFT_CONFIG (R455, R458). -/
def execDriftConfig (cmd : Nat) (s : State) : Host.Outcome State Fault Refusal :=
  .next (s.withCmd cmd .driftConfig (fun c =>
    let p : Port4 := Fin.ofNat 4 (c.arg 16 1)
    let node := c.arg 18 2
    let topology := c.arg 20 1
    let xd := c.arg 21 1
    let yd := c.arg 22 1
    let x := s.drift[p.val]
    if c.arg 17 1 % 2 = 0 then
      (s.setDrift p (fun x => { x.retrain with enabled := false, state := .down })).finish cmd stOk 0 0
    else
      match s.driftConfigBad p node topology xd yd with
      | some d => s.finish cmd stBadParam (BitVec.ofNat 16 d) 0
      | none =>
        if x.enabled then
          if x.nodeId = node ∧ x.topology = topology ∧ x.xDim = xd ∧ x.yDim = yd then s.finish cmd stOk 0 0
          else s.finish cmd stBusy 8 0
        else
          (s.setDrift p (fun x => { x.retrain with
            enabled := true, nodeId := node, topology := topology, xDim := xd, yDim := yd })).finish cmd
              stOk 0 0))

/-- CROSSCHECK_CONFIG (R468). -/
def execCrosscheckConfig (cmd : Nat) (s : State) : Host.Outcome State Fault Refusal :=
  .next (s.withCmd cmd .crosscheckConfig (fun c =>
    let p : Port4 := Fin.ofNat 4 (c.arg 16 1)
    let peer := c.arg 18 2
    let x := s.drift[p.val]
    if c.arg 17 1 = 0 then
      ({ s with xc := { s.xc with port := none, held := [] } } : State).finish cmd stOk 0 0
    else if x.enabled = false then s.finish cmd stBadParam 16 0
    else if peer = x.nodeId ∨ x.xDim * x.yDim ≤ peer then s.finish cmd stBadParam 18 0
    else if s.xc.port.isSome ∧ s.xc.port ≠ some p then s.finish cmd stNoResource 8 0
    else ({ s with xc := { s.xc with port := some p, peer := peer } } : State).finish cmd stOk 0 0))

/-- A digest record stays unmatched for one Safety Frame (R470). -/
def execXcUnmatchedTimeout (c : CtxId) (counter : BitVec 32) (s : State) :
    Host.Outcome State Fault Refusal :=
  .next (s.when s.rootRuns
    (match s.xc.held.find? (fun d => d.ctx == c.val && d.counter == counter) with
     | none => s
     | some d => ({ s with xc := { s.xc with held := s.xc.held.erase d } } : State).xcMissing c.val))

end Sys2Proof.Machine
end

