-- ==== Sys2Proof/Machine/Foreman.lean ====
section
/-!
DEFINITION. The Foreman: the decision log (R327 to R330), prediction and admission (R305, R309, R310,
R314 to R320), reservations at work, and the end of a run (R146, R309, R317, R347, R448).
-/

namespace Sys2Proof.Machine

/-! ## The decision log -/

/-- KIND of a record (R329). -/
def LogBody.kind : LogBody → Nat
  | .shift .. => 1
  | .repartition .. => 2
  | .admission .. => 3
  | .shed .. => 4
  | .place .. => 5
  | .thin .. => 6
  | .kv .. => 7

/-- Bytes 16 to 27 of a record (R329). -/
def LogBody.bytes : LogBody → Bytes
  | .shift n u r => leBytes 4 n.toNat ++ leBytes 4 u ++ leBytes 4 r
  | .repartition n cause crews joined =>
    leBytes 4 n.toNat ++ leBytes 1 cause ++ leBytes 1 crews ++ zeros 2 ++ leBytes 4 joined.toNat
  | .admission subj ctx crew res us =>
    leBytes 4 subj.toNat ++ leBytes 1 ctx ++ leBytes 1 crew ++ leBytes 2 res ++ leBytes 4 us
  | .shed subj ctx reason late =>
    leBytes 4 subj.toNat ++ leBytes 1 ctx ++ leBytes 1 reason ++ zeros 2 ++ leBytes 4 late
  | .place subj ctx crew engines lowest =>
    leBytes 4 subj.toNat ++ leBytes 1 ctx ++ leBytes 1 crew ++ leBytes 2 engines ++ leBytes 4 lowest
  | .thin n ctx cls keep phase =>
    leBytes 4 n.toNat ++ leBytes 1 ctx ++ leBytes 1 cls ++ leBytes 2 keep ++ leBytes 4 phase
  | .kv len start status recycled =>
    leBytes 4 len ++ leBytes 4 start ++ leBytes 2 status ++ leBytes 2 recycled

/-- A decision-log record, 32 bytes (R328). -/
def LogRec.bytes (r : LogRec) : Bytes :=
  let b := leBytes 4 r.entry.toNat ++ leBytes 1 r.body.kind ++ leBytes 1 r.cls
    ++ leBytes 2 (match r.fn with
      | some f => f.val
      | none => 0xFFFF) ++ leBytes 8 r.time.toNat ++ r.body.bytes
  b ++ leBytes 4 (crc32c b).toNat

/-- A record mirrored into the collection ring (R461); one that cannot be written is lost. -/
def State.mirror (s : State) (r : LogRec) : State :=
  let p := s.fore.replay
  if p.state = .collecting then
    let s := (s.writeVa p.fn false (p.base + 32 * (p.count % (p.size / 32))) r.bytes .ok).1
    s.setFore (fun x => { x with replay := { x.replay with count := p.count + 1, entry := r.entry + 1 } })
  else s

/-- Writes a record of a class and a function (R327, R328). -/
def State.logRecord (s : State) (cls : Nat) (f : Option FnId) (b : LogBody) : State :=
  let r : LogRec := { entry := s.fore.nextEntry, cls := cls, fn := f, time := s.now, body := b }
  (s.setFore (fun x => { x with
    nextEntry := x.nextEntry + 1, log := (r :: x.log).take Config.logRecords })).mirror r

/-! ## Capacity (R305) -/

/-- Usable capacity for a number of scions and a Safety Frame, in engine-µs. -/
def usableOf (scions frameUs : Nat) : Nat := Config.enginesPerScion * scions * frameUs * 95 / 100

/-- A port's share of a usable capacity. -/
def partOf (usable enginesA : Nat) : HostPort → Nat
  | .a => usable * enginesA / 64
  | .b => usable * (64 - enginesA) / 64

/-- A port's reservation capacity. -/
def resCapOf (usable enginesA : Nat) (p : HostPort) : Nat := partOf usable enginesA p * 75 / 100

/-- The reservations of a port. -/
def State.portReservations (s : State) (p : HostPort) : List Reservation :=
  s.fore.reservations.filter (fun r => decide (portOf r.fn = p))

/-- The amounts last set by RESERVE, summed over a port (R307). -/
def State.reserved (s : State) (p : HostPort) : Nat := ((s.portReservations p).map (·.amount)).sum

/-- The amounts in force, summed over a port (R312). -/
def State.inForce (s : State) (p : HostPort) : Nat := ((s.portReservations p).map (·.inForce)).sum

/-- ENGINE_PARTS_A and the Safety Frame of the next shift (R97, R304, R307). -/
def State.nextEnginesA (s : State) : Nat :=
  match s.fore.agreed with
  | some (e, _, _) => e
  | none => s.fore.enginesA

def State.nextFrameUs (s : State) : Nat := s.fore.safety.nextFrame.getD s.fore.safety.frameUs

/-- The reservation of a number. -/
def State.reservation (s : State) (n : Nat) : Option Reservation :=
  s.fore.reservations.find? (fun r => r.num == n)

/-- Changes the reservation of a number. -/
def State.setReservation (s : State) (n : Nat) (g : Reservation → Reservation) : State :=
  s.setFore (fun x => { x with reservations := x.reservations.map (fun r => if r.num = n then g r else r) })

/-! ## Prediction (R315, R316) -/

/-- Time units in a nanosecond and in a microsecond: 1 / 4,718,592 ns makes every product of cycles,
divider and calibration factor whole. -/
def unitsNs : Nat := 4718592
def unitsUs : Nat := 1000 * unitsNs

/-- Units rounded up to µs. -/
def usOf (v : Nat) : Nat := (v + unitsUs - 1) / unitsUs

/-- A tile's time: cycles over the ECLK frequency at a divider of 7.2 GHz, times the calibration factor
in 1/65,536 (R42, R315). -/
def tileTime (cycles div factor : Nat) : Nat := cycles * div * 10 * factor

/-- The calibration factor of a graph in 1/65,536 (R315). -/
def factorOf (ratios : List Nat) : Nat :=
  if ratios = [] then 65536 else max 65536 (min 262144 (ratios.sum / ratios.length))

/-- The calibration factor of a run; an ATTEND belongs to no graph. -/
def State.factor (s : State) (r : Run) : Nat :=
  if r.reqs ≠ [] then 65536
  else match (s.fn r.fn).graphs.find? (fun g => g.handle == r.handle) with
    | some g => factorOf g.ratios
    | none => 65536

/-- The scion of an engine (R20). -/
def scionOf (e : EngineId) : ScionId := ⟨e.val / 16, by omega⟩

/-- The divider in force at an engine. -/
def State.divOf (s : State) (e : EngineId) : Nat := (s.scions[(scionOf e).val]).eclkDiv

/-- The engine serves a port's crew: joined, in its pool or under a slice (R312, R367, R369, R451). -/
def State.serves (s : State) (p : HostPort) (e : EngineId) : Bool :=
  let x := s.engines[e.val]
  let n := s.scions[(scionOf e).val]
  decide (x.crew = some p) && decide (n.state = .joined) && !n.withdrawing
    && (x.state == .inPool || x.state == .underTest)

/-- Nanoseconds from now to a moment. -/
def State.until (s : State) (t : Nat) : Nat := t - s.now.toNat

/-- The time from now at which an engine is free (R315, R369): `freed` names the engine whose slice
would be aborted (R368). -/
def State.freeAt (s : State) (e : EngineId) (freed : Option EngineId) : Nat :=
  let x := s.engines[e.val]
  if x.slice then
    (if freed = some e then 10000 else s.until (x.sliceAt.toNat + 220000)) * unitsNs
  else match x.tile with
    | none => 0
    | some t =>
      match s.fore.runs.find? (fun r => r.id == t.run) with
      | none => 0
      | some r => t.start.toNat * unitsNs + tileTime (r.tiles.getD t.tile 0) (s.divOf e) (s.factor r)
          - s.now.toNat * unitsNs

/-- The engines of a port's crew with their dividers and the times at which they are free. -/
def State.crewAt (s : State) (p : HostPort) (freed : Option EngineId) : List (Nat × Nat) :=
  ((List.finRange 64).filter (s.serves p)).map (fun e => (s.divOf e, s.freeAt e freed))

/-- A run begins no further tile (R144, R347, R448). -/
def Run.stopped (r : Run) : Bool := r.failed.isSome || r.dieLost.isSome || r.cancelled.isSome

/-- The numbers of the tiles not yet placed, in the image's order. -/
def Run.waitingTiles (r : Run) : List Nat :=
  if r.stopped then []
  else (List.range r.tiles.length).filter (fun j => !r.done.contains j && !r.working.contains j)

/-- Cycles of the tiles not yet placed. -/
def Run.remaining (r : Run) : List Nat := r.waitingTiles.map (fun j => r.tiles.getD j 0)

/-- A deadline as a number, none at the end (R316). -/
def Run.due (r : Run) : Nat := if r.deadline = 0 then 2 ^ 64 else r.deadline.toNat

/-- The order in which runs begin (R316). -/
def Run.before (a b : Run) : Bool :=
  decide (b.cls < a.cls) || (a.cls == b.cls && (decide (a.due < b.due) || (a.due == b.due && decide (a.id < b.id))))

/-- A run put into its place. -/
def insertRun (r : Run) : List Run → List Run
  | [] => [r]
  | x :: l => if r.before x then r :: x :: l else x :: insertRun r l

/-- Runs in the order in which they begin. -/
def orderRuns (l : List Run) : List Run := l.foldr insertRun []

/-- A tile goes to the engine that is free first, the lowest of them: the engines after it, its end and
its own time. -/
def placeTile (ready factor cycles : Nat) (es : List (Nat × Nat)) : List (Nat × Nat) × Nat × Nat :=
  let m := (es.map (·.2)).min?.getD 0
  match es.find? (fun x => x.2 == m) with
  | none => (es, ready, tileTime cycles 4 factor)
  | some x =>
    let t := tileTime cycles x.1 factor
    (mapFirst (fun y => y.2 == m) (fun y => (y.1, max m ready + t)) es, max m ready + t, t)

/-- What a layout gives: the engines after it, the last end and the engine time. -/
structure Layout where
  engines : List (Nat × Nat)
  last    : Nat
  used    : Nat

/-- Tiles laid out in order, none before `ready`. -/
def layTiles (ready factor : Nat) (cycles : List Nat) (es : List (Nat × Nat)) : Layout :=
  cycles.foldl (fun (l : Layout) c =>
    let (es, e, t) := placeTile ready factor c l.engines
    { engines := es, last := max l.last e, used := l.used + t }) { engines := es, last := ready, used := 0 }

/-- Runs laid out one behind the other; the last end of those that the new run waits for comes with
the engines. -/
def State.layRuns (s : State) (waits : List Nat) : List Run → List (Nat × Nat) → List (Nat × Nat) × Nat
  | [], es => (es, 0)
  | r :: rest, es =>
    let l := layTiles 0 (s.factor r) r.remaining es
    let (es, w) := s.layRuns waits rest l.engines
    (es, if waits.contains r.id then max l.last w else w)

/-- The prediction of a run (R315): last end and engine time in units, without the margin; no end
where the port has no engine. -/
structure Plan where
  last : Option Nat
  used : Nat
  /-- Before this time no tile of the run starts, for what it waits for. -/
  ready : Nat

/-- What a run waits for under FENCE and R297 (R315): runs, and µs for commands without one. -/
structure Waits where
  runs   : List Nat := []
  rootUs : Nat := 0

/-- Predicts a run behind all work ahead of it. -/
def State.plan (s : State) (r : Run) (waits : Waits) (freed : Option EngineId) : Plan :=
  let es := s.crewAt (portOf r.fn) freed
  let ahead := s.fore.runs.filter (fun x => x.admitted && decide (portOf x.fn = portOf r.fn)
    && x.id != r.id && (x.before r || waits.runs.contains x.id))
  let (es', ready) := s.layRuns waits.runs (orderRuns ahead) es
  let ready := ready + waits.rootUs * unitsUs
  let l := layTiles ready (s.factor r) r.remaining es'
  { last := if es = [] then none else some l.last, used := l.used, ready := ready }

/-- Predicted time to completion in µs: 2 % plus 20 µs above the last end (R315). -/
def Plan.us (p : Plan) : Nat :=
  match p.last with
  | some v => (v * 102 + 99) / 100 / unitsUs + 20 + (if (v * 102 + 99) / 100 % unitsUs = 0 then 0 else 1)
  | none => 2 ^ 32 - 1

/-- The run is predicted later than its deadline (R315). -/
def State.late (s : State) (r : Run) (p : Plan) : Bool :=
  r.deadline != 0 && match p.last with
    | some v => decide (r.deadline.toNat * unitsNs * 100 < s.now.toNat * unitsNs * 100 + v * 102 + 2000 * unitsUs)
    | none => true

/-- Predicted lateness in µs (R329). -/
def State.lateness (s : State) (r : Run) (p : Plan) : Nat :=
  match p.last with
  | some v => min (usOf ((s.now.toNat * unitsNs * 100 + v * 102 + 2000 * unitsUs
      - r.deadline.toNat * unitsNs * 100) / 100)) (2 ^ 32 - 1)
  | none => 2 ^ 32 - 1

/-! ## Self-test slices and admission (R368, R371) -/

/-- SELFTEST_STARVED from an engine (R371). -/
def State.starve (s : State) (e : EngineId) : State :=
  s.raise { source := engineSource e 0x70, event := .selftestStarved }

/-- A slice is aborted (R368, R370, R371): at the eighth abort in a row the engine is withdrawn, for a
class-2 run after that run's tiles. -/
def State.abortSlice (s : State) (e : EngineId) (run : Option Nat) : State :=
  let x := s.engines[e.val]
  let n := min 8 (x.aborts + 1)
  let s := s.setFore (fun f => { f with slicesAborted := satAdd 32 f.slicesAborted 1 })
  let s := s.setEngine e (fun x => { x with
    slice := false, aborts := n
    state := if x.state = .withdrawn ∨ n = 8 then .withdrawn else .inPool
    abortFor := if x.state ≠ .withdrawn ∧ n = 8 then run else x.abortFor })
  if x.state ≠ .withdrawn ∧ n = 8 then s.starve e else s

/-- The engine of a port whose slice admission may abort. -/
def State.sliceOf (s : State) (p : HostPort) : Option EngineId :=
  (List.finRange 64).find? (fun (e : EngineId) =>
    s.serves p e && (s.engines[e.val]).slice && (s.engines[e.val]).state == .underTest)

/-! ## Reservations at work (R309, R310) -/

/-- CONTEXT of SAFETY_OVERLOAD for a reservation (R386). -/
def reservationContext (n : Nat) : BitVec 9 := BitVec.ofNat 9 (256 + (n - 1) % 256)

/-- SAFETY_OVERLOAD, once per reservation per shift (R310). -/
def State.overload (s : State) (n : Nat) : State :=
  match s.reservation n with
  | none => s
  | some r =>
    if r.raised then s
    else
      (s.setReservation n (fun r => { r with raised := true })).raise
        { source := 0x090 + HostPort.num (portOf r.fn), event := .safetyOverload, owner := some r.fn,
          class2 := true, context := some (reservationContext n) }

/-- A charge exceeds what is left of a reservation in the shift. -/
def Reservation.overdrawn (r : Reservation) (us : Nat) : Bool := decide (r.inForce - r.spent < us)

/-- A Severe event on a reservation awaits FAULT_ACK: the low 16 bits of its EVENT_SEQ (R152, R310). -/
def State.reservationFault (s : State) (n : Nat) : Option (BitVec 16) :=
  (s.fcu.timers.findSome? (fun t => t.members.find? (fun m => m.context == reservationContext n))).map
    (fun m => m.seq.setWidth 16)

/-- A class-2 run that would overdraw a reservation whose event awaits FAULT_ACK (R310). -/
def State.pendingFault (s : State) (n us : Nat) : Option (BitVec 16) :=
  match s.reservation n with
  | some r => if r.overdrawn us then s.reservationFault n else none
  | none => none

/-- Charges a class-2 run at admission (R309, R310). -/
def State.chargeRun (s : State) (n us : Nat) : State :=
  match s.reservation n with
  | none => s
  | some r =>
    let t := if r.overdrawn us then s.overload n else s
    t.setReservation n (fun r => { r with spent := r.spent + us })

/-- The charge corrected at the end of a run, in the shift that admitted it (R309). -/
def State.correctCharge (s : State) (r : Run) : State :=
  if r.cls = 2 ∧ r.shift = s.fore.shift then
    s.setReservation r.reservation (fun x => { x with spent := x.spent - r.predictedUs + r.usedUs })
  else s

/-! ## Admission (R314 to R318) -/

/-- CONTEXT of a run's records (R329). -/
def Run.context (r : Run) : Nat :=
  match r.kind with
  | .bound c _ _ _ => c.val
  | _ => 0xFF

/-- The crew that serves a function: one for each port (R312). -/
def crewOf (f : FnId) : Nat := HostPort.num (portOf f)

/-- Demand offered (R320): of a stream, or of a port's JOB_SUBMIT and ATTEND by class. -/
def State.offer (s : State) (r : Run) (us : Nat) : State :=
  let i := 3 * HostPort.num (portOf r.fn) + min r.cls 2
  match r.kind with
  | .bound c _ _ _ => (s.setStream c (fun x => { x with demand := x.demand + us })).setFore (fun x =>
      { x with streamDemand := x.streamDemand.set i (x.streamDemand.getD i 0 + us) })
  | _ =>
    s.setFore (fun x => { x with jobDemand := x.jobDemand.set i (x.jobDemand.getD i 0 + us) })

/-- A run enters the Foreman's list. -/
def State.addRun (s : State) (r : Run) : State :=
  s.setFore (fun x => { x with runs := x.runs ++ [{ r with id := x.nextRun }], nextRun := x.nextRun + 1 })

/-- A run is admitted: charged, recorded, listed (R309, R329). -/
def State.enterRun (s : State) (r : Run) (p : Plan) : State :=
  let us := usOf p.used
  let base := p.used * 65536 / s.factor r
  let s := if r.cls = 2 then s.chargeRun r.reservation us else s
  let entry := s.fore.nextEntry
  let s := s.logRecord r.cls (some r.fn)
    (.admission r.subject r.context (crewOf r.fn) (r.reservation % 65536) (min p.us (2 ^ 32 - 1)))
  s.addRun { r with
    entry := entry, admitted := true, cleared := true, predictedUs := us, shift := s.fore.shift, base := base }

/-- A run is shed: recorded; for class 2 and reason 1 or 3 SAFETY_OVERLOAD (R310, R329). -/
def State.shedRun (s : State) (r : Run) (reason late : Nat) : State :=
  let s := s.logRecord r.cls (some r.fn) (.shed r.subject r.context reason late)
  if r.cls = 2 ∧ reason ≠ 2 then s.overload r.reservation else s

/-- What admission decides. -/
inductive Verdict where
  | admitted
  | shed (reason : Nat)
  deriving DecidableEq, Repr

/-- The prediction step of admission (R315, R368, R369). -/
def State.judgeRun (s : State) (r : Run) (waits : Waits) : State × Verdict :=
  let p := s.plan r waits none
  if !s.late r p then (s.enterRun r p, .admitted)
  else match (if r.cls = 2 then s.sliceOf (portOf r.fn) else none) with
    | none => (s.shedRun r 1 (s.lateness r p), .shed 1)
    | some e =>
      let q := s.plan r waits (some e)
      if s.late r q then (s.shedRun r 1 (s.lateness r p), .shed 1)
      else
        let t := s.enterRun r q
        (t.abortSlice e (some (t.fore.nextRun - 1)), .admitted)

/-! ## Result entries of bound streams (R146) -/

/-- A tensor put into its place by TENSOR_ID. -/
def insertTensor (t : TensorDecl) : List TensorDecl → List TensorDecl
  | [] => [t]
  | x :: l => if t.id ≤ x.id then t :: x :: l else x :: insertTensor t l

/-- CRC-32C over the line tags of a run's output tensors in ascending TENSOR_ID (R469). -/
def State.outputDigest (s : State) (r : Run) : BitVec 32 :=
  let outs := (r.image.tensors.filter (fun t => t.role == .output)).foldr insertTensor []
  crc32c (outs.flatMap (fun t => match r.vaOf t.id with
    | none => []
    | some va =>
      let k := memKey r.fn va
      (List.range (linesOf k (spanOf t))).flatMap (fun i => leBytes 4 (s.mem.tag (k / 256 + i)).toNat)))

/-- One entry goes to a binding's result ring (R132, R146); one that cannot be written is lost. -/
def State.writeEntry (s : State) (c : CtxId) (b : Binding) (e : FrameEntry) : State :=
  let x := s.streams[c.val]
  let slots := 2 ^ b.log2
  let result := BitVec.ofNat 64 (e.entry.toNat + e.buffer % 256 * 2 ^ 32)
  let bytes := completionEntry e.counter 0x0304 e.status e.detail 0 (b.written / slots % 2 == 0) e.time result
  let s := (s.writeVa x.owner (x.cfg.cls == 2) (b.ringVa + 32 * (b.written % slots)) bytes .ok).1
  let s := if b.vector = 0 then s else s.signal x.owner (Fin.ofNat 32 b.vector)
  let s := s.setStream c (fun x => { x with
    bound := x.bound.map (fun b => { b with written := b.written + 1 }) })
  if x.cfg.cls = 2 then s.sendDigest c.val e.status e.counter e.stamp e.digest else s

/-- Entries go out in frame order, up to the first that still waits for its run (R146). -/
def State.flushFuel : Nat → State → CtxId → State
  | 0, s, _ => s
  | n + 1, s, c =>
    let x := s.streams[c.val]
    match x.entries, x.bound with
    | e :: rest, some b =>
      if e.run.isSome then s
      else State.flushFuel n ((s.setStream c (fun x => { x with entries := rest })).writeEntry c b e) c
    | _, _ => s

/-- A binding that ends is gone once no entry waits. -/
def Stream.endBinding (x : Stream) : Stream :=
  match x.bound, x.entries with
  | some b, [] => if b.ending then { x with bound := none } else x
  | _, _ => x

/-- Writes what may be written of a stream's entries. -/
def State.flush (s : State) (c : CtxId) : State :=
  (State.flushFuel ((s.streams[c.val]).entries.length) s c).setStream c Stream.endBinding

/-- A frame's entry joins the stream's entries, if the stream is bound; none in the safe state (R397). -/
def State.pushEntry (s : State) (c : CtxId) (e : FrameEntry) : State :=
  let live := match (s.streams[c.val]).bound with
    | some b => !b.ending
    | none => false
  if live && !s.safe then
    (s.setStream c (fun x => { x with entries := x.entries ++ [e] })).flush c
  else s

/-- The entry that waits for a run is decided. -/
def State.decideEntry (s : State) (c : CtxId) (run : Nat) (g : FrameEntry → FrameEntry) : State :=
  (s.setStream c (fun x => { x with
    entries := x.entries.map (fun e => if e.run = some run then { g e with run := none } else e) })).flush c

/-! ## The end of a run -/

/-- Status and DETAIL of a run that has ended (R144, R317, R347, R448); of a failure and a loss the first in device
time decides (R338). -/
def State.runStatus (s : State) (r : Run) : BitVec 16 × BitVec 16 :=
  match r.failed, r.dieLost with
  | some (_, d), none => (stIntegrity, d)
  | some (t, d), some u => if u < t then (stDieLost, r.lost.setWidth 16) else (stIntegrity, d)
  | none, some _ => (stDieLost, r.lost.setWidth 16)
  | none, none =>
    match r.cancelled with
    | some d => (stCancelled, d)
    | none =>
      if r.deadline ≠ 0 ∧ r.deadline.toNat < s.now.toNat then
        (stMissed, BitVec.ofNat 16 (min ((s.now.toNat - r.deadline.toNat + 999) / 1000) 65535))
      else if r.lost ≠ 0 then (stDegraded, r.lost.setWidth 16)
      else (stOk, 0)

/-- Measured over uncalibrated time joins the graph's last 16 runs (R315). -/
def State.calibrate (s : State) (r : Run) : State :=
  if r.base = 0 ∨ r.stopped then s
  else s.setFn r.fn (fun x => { x with graphs := x.graphs.map (fun g =>
    if g.handle = r.handle ∧ r.reqs = [] then
      { g with ratios := (r.usedUs * unitsUs * 65536 / r.base :: g.ratios).take 16 } else g) })

/-- The runs of a context. -/
def Run.ofCtx (r : Run) (c : CtxId) : Bool :=
  match r.kind with
  | .bound d _ _ _ => d == c
  | _ => false

/-- A closing stream whose STREAM_CLOSE has completed is closed once no begun run is left (R193). -/
def State.closeIdle (s : State) (c : CtxId) : State :=
  if (s.streams[c.val]).closeDone && !s.fore.runs.any (fun r => r.ofCtx c) then s.setStream c Stream.close else s

/-- A run ends: its charge is corrected, its command completes or its entry is written. -/
def State.endRun (s : State) (r : Run) : State :=
  let (st, d) := s.runStatus r
  let s := (s.correctCharge r).calibrate r
  let s := s.setFore (fun x => { x with runs := x.runs.filter (fun y => y.id != r.id) })
  match r.kind with
  | .bound c _ _ _ => (s.decideEntry c r.id (fun e =>
      { e with status := st, detail := d, entry := r.entry, time := s.now, digest := s.outputDigest r })).closeIdle c
  | .job cmd => s.finish cmd st d r.result
  | .attend cmd => s.finish cmd st d r.result

/-- All tiles of a run have ended, or it begins no further tile and none is at work. -/
def Run.over (r : Run) : Bool := r.working.isEmpty && r.waitingTiles.isEmpty

/-- Ends a run if it is over. -/
def State.settle (s : State) (id : Nat) : State :=
  match s.fore.runs.find? (fun r => r.id == id) with
  | some r => if r.over then s.endRun r else s
  | none => s

/-- Changes the run of a number. -/
def State.setRun (s : State) (id : Nat) (g : Run → Run) : State :=
  s.setFore (fun x => { x with runs := x.runs.map (fun r => if r.id = id then g r else r) })

/-- A run's tiles at work are aborted at once and it is over (R144). -/
def State.abortRun (s : State) (id : Nat) (detail : BitVec 16) : State :=
  let s := s.abortTiles (fun n => n == id)
  let s := s.setRun id (fun r => { r with
    working := []
    cancelled := if r.failed.isSome ∨ r.dieLost.isSome then r.cancelled else some detail })
  s.settle id

end Sys2Proof.Machine
end

