-- ==== Sys2Proof/Machine/Crews.lean ====
section
/-!
DEFINITION. Shifts (R304, R305), crews and re-partition (R96, R312, R313), thinning (R320, R321), the
loss of a scion and its seam (R23 to R25, R40, R447 to R450).
-/

namespace Sys2Proof.Machine

/-! ## Measured demand (R320) -/

/-- Demand of a port's JOB_SUBMIT and ATTEND of a class since the last re-partition point. -/
def State.jobsOf (s : State) (p : HostPort) (cls : Nat) : Nat :=
  s.fore.jobDemand.getD (3 * HostPort.num p + cls) 0

/-- Demand of a port's bound frames of a class. -/
def State.framesOf (s : State) (p : HostPort) (cls : Nat) : Nat :=
  s.fore.streamDemand.getD (3 * HostPort.num p + cls) 0

/-- Demand of a port. -/
def State.portDemand (s : State) (p : HostPort) : Nat :=
  ([0, 1, 2].map (fun c => s.jobsOf p c + s.framesOf p c)).sum

/-- Demand of a class: its work outside streams, and its streams. -/
def State.classJobs (s : State) (cls : Nat) : Nat := s.jobsOf .a cls + s.jobsOf .b cls

def State.classDemand (s : State) (cls : Nat) : Nat :=
  s.classJobs cls + s.framesOf .a cls + s.framesOf .b cls

/-! ## Crews (R312, R313) -/

/-- The engine belongs to a crew: its scion is joined, and it is not retired (R312, R372). -/
def State.crewed (s : State) (e : EngineId) : Bool :=
  decide ((s.scions[(scionOf e).val]).state = .joined) && (s.engines[e.val]).state != .retired

/-- The engines that crews share, in ascending order. -/
def State.crewEngines (s : State) : List EngineId := (List.finRange 64).filter s.crewed

/-- The size of a port's crew. -/
def State.crewSize (s : State) (p : HostPort) : Nat :=
  (s.crewEngines.filter (fun e => decide ((s.engines[e.val]).crew = some p))).length

/-- The fewest engines whose time in `n` shifts covers an amount (R312 step 1). -/
def enginesFor (amount n frameUs : Nat) : Nat := (amount + n * frameUs - 1) / (n * frameUs)

/-- Engines that a port needs: steps 1 and 2 of R312, over `n` shifts. -/
def State.crewNeed (s : State) (p : HostPort) (n : Nat) (initial : Bool) : Nat :=
  let share := partOf s.fore.usable s.fore.enginesA p
  let amount := if initial then n * share else min (n * share) (max (s.portDemand p) (n * s.inForce p))
  max (if share = 0 then 0 else 1) (enginesFor amount n s.fore.safety.frameUs)

/-- The sizes of both crews (R312). With too few engines for both needs Port A's comes first, but for the one engine
that Port B keeps (log 125). -/
def State.crewSizes (s : State) (n : Nat) (initial : Bool) : Nat × Nat :=
  let total := s.crewEngines.length
  let keep := if partOf s.fore.usable s.fore.enginesA .b = 0 then 0 else 1
  let a := min (s.crewNeed .a n initial) (if 2 ≤ total then total - keep else total)
  let b := min (s.crewNeed .b n initial) (total - a)
  let excess (p : HostPort) : Int :=
    (s.portDemand p : Int) - (n * partOf s.fore.usable s.fore.enginesA p : Nat)
  if initial ∨ excess .b ≤ excess .a then (total - b, b) else (a, total - a)

/-- A crew changes by at least 2 engines and 12.5 % of its size, or not at all (R313). -/
def bigChange (old size : Nat) : Bool :=
  let d := max old size - min old size
  old == size || (decide (2 ≤ d) && decide (old ≤ 8 * d))

/-- A port with demand whose crew cannot give it its parts (R96, R313). -/
def State.starved (s : State) (p : HostPort) (n : Nat) : Bool :=
  decide (s.crewSize p * n * s.fore.safety.frameUs
    < min (n * partOf s.fore.usable s.fore.enginesA p) (s.portDemand p))

/-- Gives the lowest engines to Port A's crew and the others to Port B's; the bench of an engine that changes its
crew is zeroed, once no tile is at work on it (R238, R313). -/
def State.setCrews (s : State) (a : Nat) : State :=
  let pool := s.crewEngines
  let crew (e : EngineId) : Option HostPort :=
    if pool.contains e then (if pool.idxOf e < a then some .a else some .b) else none
  { s with engines := Vector.ofFn (fun e =>
      let x := s.engines[e.val]
      { x with
        crew := crew e
        bench := if x.crew = crew e ∨ x.tile.isSome then x.bench else {} }) }

/-! ## Thinning (R320, R321) -/

/-- λ as a fraction, for the streams of a class with weight and demand: the streams that saturate are
taken out one round after another. `none` if every stream saturates. -/
def thinLambda : Nat → List (Nat × Nat) → Nat → Option (Nat × Nat)
  | 0, _, _ => none
  | k + 1, streams, cap =>
    let den := (streams.map (fun x => x.1 * x.2)).sum
    if den = 0 then none
    else
      let full := streams.filter (fun x => decide (den ≤ x.1 * cap))
      if full.isEmpty then some (cap, den)
      else thinLambda k (streams.filter (fun x => !decide (den ≤ x.1 * cap))) (cap - (full.map (·.2)).sum)

/-- The keep count of a stream for λ (R321). -/
def keepCount (lambda : Option (Nat × Nat)) (weight : Nat) : Nat :=
  match lambda with
  | none => 256
  | some (num, den) => min 256 (256 * weight * num / den)

/-- λ of a class for a thinning capacity; every keep count is 0 without capacity. -/
def lambdaOf (streams : List (Nat × Nat)) (cap : Nat) : Option (Nat × Nat) :=
  if cap = 0 then some (0, 1) else thinLambda (streams.length + 1) streams cap

/-- The stream has a binding that is not ending. -/
def Stream.bounds (x : Stream) : Bool :=
  match x.bound with
  | some b => !b.ending
  | none => false

/-- The bound streams of a class in ascending CONTEXT. -/
def State.boundOf (s : State) (cls : Nat) : List CtxId :=
  (List.finRange 48).filter (fun (c : CtxId) => (s.streams[c.val]).bounds && (s.streams[c.val]).cfg.cls == cls)

/-- A stream's keep count from this point, with its THIN record; the phase starts again when the count
changes, or when thinning ends (R321, R329). -/
def State.setKeep (s : State) (c : CtxId) (k : Nat) (fresh : Bool) : State :=
  let s := s.setStream c (fun x => { x with
    thinPhase := if fresh ∨ x.keep ≠ k then 0 else x.thinPhase, keep := k })
  let x := s.streams[c.val]
  s.logRecord 0xFF none (.thin s.fore.shift c.val x.cfg.cls x.keep x.thinPhase)

/-- Thinning of a class at a re-partition point (R320, R321), over `n` shifts. -/
def State.thinClass (s : State) (cls n higher : Nat) (engaged : Bool) : State × Bool :=
  let cap := n * s.fore.usable - higher
  let d := s.classDemand cls
  let cs := s.boundOf cls
  if engaged ∧ 10 * d ≤ 9 * cap then (cs.foldl (fun s c => s.setKeep c 256 true) s, false)
  else if engaged ∨ cap < d then
    let l := lambdaOf (cs.map (fun c => ((s.streams[c.val]).cfg.weight, (s.streams[c.val]).demand)))
      (cap - s.classJobs cls)
    (cs.foldl (fun s c => s.setKeep c (keepCount l (s.streams[c.val]).cfg.weight) false) s, true)
  else (s, false)

/-- Thinning of both classes. -/
def State.thin (s : State) (n : Nat) : State :=
  let d2 := s.classDemand 2
  let d1 := s.classDemand 1
  let (s, e1) := s.thinClass 1 n d2 s.fore.thin1
  let (s, e0) := s.thinClass 0 n (d2 + d1) s.fore.thin0
  s.setFore (fun x => { x with thin0 := e0, thin1 := e1 })

/-! ## Re-partition -/

/-- The demand measured so far is forgotten. -/
def State.resetDemand (s : State) : State :=
  let t : State := { s with streams := s.streams.map (fun x => { x with demand := 0 }) }
  t.setFore (fun x => { x with
    jobDemand := [0, 0, 0, 0, 0, 0], streamDemand := [0, 0, 0, 0, 0, 0]
    since := 0, partAt := t.clk.iclk - x.shiftAt, partDue := false, shiftsSince := 0 })

/-- The number of crews: the ports that have engines (R312). -/
def State.crews (s : State) : Nat :=
  (if 0 < s.crewSize .a then 1 else 0) + (if 0 < s.crewSize .b then 1 else 0)

/-- A re-partition with a cause of R329: crews, record, thinning, then the measurement starts again. In
replay mode THIN records stand in for the device's own (R463). -/
def State.repartition (s : State) (cause : Nat) (midShift : Bool) : State :=
  let n := max 1 (s.fore.shiftsSince + midShift.toNat)
  let (a, b) := s.crewSizes n (cause == 5)
  let adopt := cause != 0 || (bigChange (s.crewSize .a) a && bigChange (s.crewSize .b) b)
    || s.starved .a n || s.starved .b n
  let s := if adopt then s.setCrews a else s
  let s := s.logRecord 0xFF none (.repartition s.fore.shift cause s.crews s.joined)
  let s := if s.fore.replay.state = .armed then s else s.thin n
  s.resetDemand

/-! ## Shifts -/

/-- What waits for the boundary takes effect (R97, R304, R306): the causes of a re-partition come with
it. Between an agreement and this boundary frames and contexts are still granted by the split in force,
so a port can hold more than its new share when that takes effect (DESIGN CHOICE, log 110). -/
def State.newShift (s : State) : State × List Nat :=
  let f := s.fore
  let causes := (if f.partDue then [1] else []) ++ (if f.agreed.isSome then [2] else [])
    ++ (if f.safety.nextFrame.isSome then [3] else []) ++ (if f.resChanged then [4] else [])
  let split := f.agreed.getD (f.enginesA, f.memA, f.streamsA)
  let s1 := s.setFore (fun x => { x with
    shift := x.shift + 1
    since := x.since + (400 * x.safety.frameUs - x.partAt)
    shiftAt := s.clk.iclk
    partAt := 0
    shiftsSince := x.shiftsSince + 1
    enginesA := split.1, memA := split.2.1, streamsA := split.2.2
    agreed := none
    safety := { x.safety with frameUs := x.safety.nextFrame.getD x.safety.frameUs, nextFrame := none }
    reservations := x.reservations.map (fun r =>
      { r with inForce := r.amount, spent := 0, raised := false })
    resChanged := false })
  let s2 := s1.setFore (fun x => { x with usable := usableOf s1.joinedCount x.safety.frameUs })
  let s3 := if f.agreed.isSome then (s2.setEvent (pfOf .a) evtShare).setEvent (pfOf .b) evtShare else s2
  (s3, causes)

/-- The SHIFT record (R329). -/
def State.shiftRecord (s : State) : State :=
  s.logRecord 0xFF none (.shift s.fore.shift s.fore.usable (s.inForce .a + s.inForce .b))

/-- The end of the shift falls at this instant (R304). -/
def State.boundaryDue (s : State) : Bool := s.clk.iclk - s.fore.shiftAt == 400 * s.fore.safety.frameUs

/-- A scion is fenced or rejoins: crews are re-partitioned at once (R313); at the instant of a boundary the
boundary's re-partition serves both. In replay mode REPARTITION records stand in for the device's own (R463). -/
def State.repartitionNow (s : State) : State :=
  if s.fore.replay.state = .armed then s
  else if s.boundaryDue then s.setFore (fun x => { x with partDue := true })
  else s.repartition 1 true

/-- A shift begins: what waited takes effect, the SHIFT record, and a re-partition where a cause is
present (R304, R313). -/
def State.beginShift (s : State) : State :=
  let (s, causes) := s.newShift
  let s := s.shiftRecord
  match causes.min? with
  | some c => s.repartition c false
  | none => if 40000000 ≤ s.fore.since then s.repartition 0 false else s

/-- A shift ends (R304); in replay mode the SHIFT records begin the shifts (R463). -/
def execShiftBoundary (s : State) : Host.Outcome State Fault Refusal :=
  .next (s.when (s.rootRuns && s.boot.complete && !s.safe && decide (s.fore.replay.state ≠ .armed))
    s.beginShift)

/-! ## A scion is lost -/

/-- An engine of a fenced scion: in no crew, its self-test progress discarded (R373, R450). -/
def Engine.fence (x : Engine) : Engine :=
  { x with crew := none, tile := none, slice := false, slicesDone := 0, aborts := 0, abortFor := none, bench := {}
           state := if x.state = .retired then .retired else .inPool }

/-- The engines of a scion changed. -/
def State.mapScion (s : State) (n : ScionId) (g : Engine → Engine) : State :=
  { s with engines := Vector.ofFn (fun e =>
      if scionOf e = n then g s.engines[e.val] else s.engines[e.val]) }

/-- The reset of a scion leaves nothing of its die steward's state (R19): the grant, the divider that the
budget asks for, and the intervals without a grant. -/
def Scion.stewardReset (x : Scion) : Scion := { x with grantMw := 0, budgetDiv := 4, noGrant := 0 }

/-- The scion is fenced (R25) and held in reset (R447). -/
def State.fence (s : State) (n : ScionId) : State :=
  (s.mapScion n Engine.fence).setScion n (fun x =>
    { x.stewardReset with
      state := .fenced, withdrawing := false, failsIn := 0, failsOut := 0, missed := 0 })

/-- The tier of SCION_LOST (R449). -/
def State.lossTier (s : State) : Nat :=
  let excess (p : HostPort) : Bool :=
    decide (resCapOf (usableOf s.joinedCount s.fore.safety.frameUs) s.fore.enginesA p < s.reserved p)
  if excess .a || excess .b then 2 else 1

/-- A run survives the loss of a scion with tiles at work on it (R448): it is re-placed, or begins no
further tile. -/
def State.replaceRun (s : State) (n : ScionId) (id : Nat) (gone : List Nat) : State :=
  let s := s.setRun id (fun r => { r with
    working := r.working.filter (fun j => !gone.contains j), lost := r.lost ||| (1 <<< n.val) })
  match s.fore.runs.find? (fun r => r.id == id) with
  | none => s
  | some r =>
    let isBound := match r.kind with
      | .bound .. => true
      | _ => false
    if !r.stopped && (r.replayable || isBound) && !s.late r (s.plan r {} none) then s
    else (s.setRun id (fun r => { r with
      dieLost := if r.dieLost.isNone ∧ r.cancelled.isNone then some s.now else r.dieLost })).settle id

/-- A joined scion is lost (R447 to R450): fenced, its tiles aborted, SCION_LOST, crews re-partitioned
at once, affected runs re-placed or ended, in the order in which they begin. One that was being withdrawn for
its restore is fenced by the loss, and its restore goes on (R451). -/
def State.loseScion (s : State) (n : ScionId) : State :=
  if (s.scions[n.val]).state ≠ .joined then s
  else
    let on := (List.finRange 64).filterMap (fun (e : EngineId) =>
      if scionOf e = n then (s.engines[e.val]).tile else none)
    let hit := (orderRuns (s.fore.runs.filter (fun r => on.any (fun t => t.run == r.id)))).map (·.id)
    let s := (List.finRange 64).foldl (fun s (e : EngineId) => if scionOf e = n then s.abortTile e else s) s
    let s := s.fence n
    let s := if s.fore.restoring.any (fun x => x.1 == n) then
        s.setScion n (fun x => { x with state := .restoring }) else s
    let s := s.raise { source := 0x008 + n.val, event := .scionLost, tier := some s.lossTier }
    let s := if s.boot.complete ∧ s.safe = false then s.repartitionNow else s
    hit.foldl (fun s id => s.replaceRun n id ((on.filter (fun t => t.run == id)).map (·.tile))) s

/-- A scion that is withdrawn for its restore and has no tile at work is fenced, without SCION_LOST (R313,
R451). -/
def State.settleWithdrawal (s : State) (n : ScionId) : State :=
  let busy := (List.finRange 64).any (fun (e : EngineId) =>
    decide (scionOf e = n) && (s.engines[e.val]).tile.isSome)
  if (s.scions[n.val]).withdrawing && !busy then
    ((s.fence n).setScion n (fun x => { x with state := .restoring })).repartitionNow
  else s

/-- The seam of a scion is watched: it serves (R24). -/
def State.seamLive (s : State) (n : ScionId) : Bool := s.rootRuns && decide ((s.scions[n.val]).state = .joined)

/-- Failed transfers in a row in one direction of a seam (R23, R24). -/
def Scion.failsOf (x : Scion) (toRootstock : Bool) : Nat := if toRootstock then x.failsIn else x.failsOut

/-- Sets the count of one direction. -/
def Scion.setFails (x : Scion) (toRootstock : Bool) (k : Nat) : Scion :=
  if toRootstock then { x with failsIn := k } else { x with failsOut := k }

/-- A seam transfer ends (R23, R24): a failed one is retried and counted, every 256 retries on the seam
raise SEAM_RETRY, the fifth failure in a row in either direction loses the scion. -/
def execSeamTransfer (n : ScionId) (toRootstock : Bool) (crcOk : Bool) (s : State) :
    Host.Outcome State Fault Refusal :=
  .next (s.when (s.seamLive n)
    (if crcOk then s.setScion n (fun x => x.setFails toRootstock 0)
     else
       let s := s.setScion n (fun x =>
         { x.setFails toRootstock (x.failsOf toRootstock + 1) with retries := x.retries + 1 })
       let s := if (s.scions[n.val]).retries % 256 = 0 then s.raiseWide (0x008 + n.val) .seamRetry else s
       if 5 ≤ (s.scions[n.val]).failsOf toRootstock then s.loseScion n else s))

/-- A seam heartbeat interval ends (R24): the eighth miss in a row loses the scion. -/
def execSeamHeartbeatInterval (n : ScionId) (heard : Bool) (s : State) :
    Host.Outcome State Fault Refusal :=
  .next (s.when (s.seamLive n)
    (if heard then s.setScion n (fun x => { x with missed := 0 })
     else
       let s := s.setScion n (fun x => { x with missed := x.missed + 1 })
       if 8 ≤ (s.scions[n.val]).missed then s.loseScion n else s))

/-- A scion's clock receiver loses lock (R24, R40). -/
def execScionClockLockLoss (n : ScionId) (s : State) : Host.Outcome State Fault Refusal :=
  .next (s.when (s.seamLive n) (s.loseScion n))

/-- A scion's reset is asserted (R24). -/
def execScionResetAssert (n : ScionId) (s : State) : Host.Outcome State Fault Refusal :=
  .next (s.when (s.seamLive n) (s.loseScion n))

end Sys2Proof.Machine
end

