-- ==== Sys2Proof/Machine/Tiles.lean ====
section
/-!
DEFINITION. Tiles at work (R311, R316, R317): which tile starts next, and what the end of a tile
leaves: outputs, exported tags, integrity failures (R335 to R350), the end of the run.
-/

namespace Sys2Proof.Machine

/-! ## The next tile -/

/-- The engines run: READY, Run, not in the safe state (R397, R432). -/
def State.working (s : State) : Bool :=
  s.rootRuns && s.boot.complete && !s.safe && !s.power.eclkStopped

/-- The command of a run has begun (R136, R297). -/
def State.runReleased (s : State) (r : Run) : Bool :=
  match r.cmd with
  | none => true
  | some id => match s.cmd id with
    | some c => decide (c.phase ≠ .waiting)
    | none => false

/-- The first tile of a run that may start: every tile that it needs has ended (R311). -/
def Run.nextTile (r : Run) : Option Nat :=
  r.waitingTiles.find? (fun j =>
    !r.reqs.isEmpty || match r.image.tiles[j]? with
      | some t => (r.image.needs t).all (fun k => r.done.contains k)
      | none => false)

/-- An engine may take a tile of a run: idle in its port's crew, or withdrawn after an abort for that
run (R312, R367, R371). -/
def State.takes (s : State) (r : Run) (e : EngineId) : Bool :=
  let x := s.engines[e.val]
  let n := s.scions[(scionOf e).val]
  decide (x.crew = some (portOf r.fn)) && decide (n.state = .joined) && !n.withdrawing && x.tile.isNone
    && !x.slice && (x.state == .inPool || (x.state == .withdrawn && x.abortFor == some r.id))

/-- The engines on which a run may be placed: any, or in replay mode those from the lowest engine of its PLACE record
on, if the crew has one of them, and no more at once than that record counts (R330, R463). -/
def State.placeable (s : State) (r : Run) (e : EngineId) : Bool :=
  s.takes r e && match r.place with
    | none => true
    | some (n, low) => decide (r.working.length < max 1 n)
        && (decide (low ≤ e.val) || !(List.finRange 64).any (fun x => decide (low ≤ x.val) && s.serves (portOf r.fn) x))

/-- The next placement: run, tile, engine (R316). -/
def State.nextPlacement (s : State) : Option (Run × Nat × EngineId) :=
  (orderRuns (s.fore.runs.filter (fun r => r.admitted && r.cleared && s.runReleased r))).findSome? (fun r =>
    match r.nextTile, (List.finRange 64).find? (s.placeable r) with
    | some j, some e => some (r, j, e)
    | _, _ => none)

/-! ## Failures of a run -/

/-- A failure of a run: DETAIL, the source and the event that it raises, if it raises one. -/
structure TileFault where
  detail : BitVec 16
  event  : Option (Nat × Ev)

/-- The failure that decides a run's DETAIL: the first in device time, among those of one moment the lower DETAIL
(R338). -/
def firstFailure (old : Option (BitVec 64 × BitVec 16)) (t : BitVec 64) (d : BitVec 16) : BitVec 64 × BitVec 16 :=
  match old with
  | none => (t, d)
  | some (t', d') => if t < t' ∨ (t = t' ∧ d < d') then (t, d) else (t', d')

/-- A run meets a failure at a device time: one event per run and source (R338, R347, R348). -/
def State.failRun (s : State) (id : Nat) (t : BitVec 64) (f : TileFault) : State :=
  match s.fore.runs.find? (fun r => r.id == id) with
  | none => s
  | some r =>
    let s := s.setRun id (fun r => { r with
      failed := some (firstFailure r.failed t f.detail)
      raised := match f.event with
        | some (src, _) => src :: r.raised
        | none => r.raised })
    match f.event with
    | some (src, ev) =>
      if r.raised.contains src then s
      else s.raise { source := src, event := ev, owner := some r.fn, class2 := r.cls == 2 }
    | none => s

/-- A line that an engine reads fails at graft point 4, or is poisoned (R228, R336). -/
def State.failLine (s : State) (id : Nat) (e : EngineId) (d : BitVec 16) : State :=
  s.failRun id s.now { detail := d, event := if d = 4 then some (engineSource e 0x40, .graftMismatch) else none }

/-! ## The start of a tile -/

/-- The engines on which the Foreman lays out the tiles of a run that begins on engine `e` (R315). -/
def State.placement (s : State) (r : Run) (e : EngineId) : List EngineId :=
  let p := portOf r.fn
  let ids := (List.finRange 64).filter (s.serves p)
  let old := s.crewAt p none
  let new := (layTiles 0 (s.factor r) r.remaining old).engines
  (List.finRange 64).filter (fun x => x == e || (ids.zip (old.zip new)).any (fun y => y.1 == x && y.2.1 != y.2.2))

/-- The PLACE record of a run (R329). -/
def State.placeRecord (s : State) (r : Run) (e : EngineId) : State :=
  let es := s.placement r e
  s.logRecord r.cls (some r.fn) (.place r.subject r.context (crewOf r.fn) es.length ((es.head?.getD e).val))

/-- What a load finds in its lines (R228, R338). -/
def State.loadFault (s : State) (l : Load) : Option (BitVec 16) :=
  let find (m : Memory) (k : Nat) : Option (BitVec 16) := (m.firstBadLine (linesOf k l.len) (k / 256)).map (·.2)
  match l.place with
  | .mem k => find s.mem (k + l.off)
  | .yard yo => find s.yard.mem (yo + l.off)
  | .bench => none

/-- The memory controllers read the lines of a load (R226). -/
def State.senseLoad (s : State) (l : Load) : State :=
  match l.place with
  | .mem k => s.senseRange (k + l.off) l.len
  | _ => s

/-- A tile starts: its operands go into the bench, and a line that fails fails the run (R228, R338, R339); the run's
first tile writes a PLACE record (R329). -/
def State.startTile (s : State) (r : Run) (j : Nat) (e : EngineId) : State :=
  let s := if r.begun then s else s.placeRecord r e
  let ls := s.loads r j
  let s := ls.foldl State.senseLoad s
  let bad := ls.findSome? s.loadFault
  let parts := ls.map (fun l => { id := l.id, off := l.off, bytes := s.loaded r l : BenchPart })
  let s := s.setEngine e (fun x => { x with
    tile := some { run := r.id, tile := j, start := s.now, bad := bad.isSome }
    bench := { fn := some r.fn, parts := parts } })
  let s := s.setRun r.id (fun r => { r with working := r.working ++ [j], begun := true })
  match bad with
  | some d => s.failLine r.id e d
  | none => s

/-- An admitted run's next tile starts on a free engine (R311, R316). -/
def execTileStart (s : State) : Host.Outcome State Fault Refusal :=
  .next (s.when s.working
    (match s.nextPlacement with
     | some (r, j, e) => s.startTile r j e
     | none => s))

/-! ## The end of a tile -/

/-- The failure of a run that an event of its tile is, if it is one (R336 to R348). `caught` are the disturbances
that the check column catches, `held` the bytes of the yard that hold the run's data. -/
def tileFault (e : EngineId) (caught : List TileCheck) (held : Nat → Bool) (c : TileCheck) : Option TileFault :=
  match c with
  | .tag4 => some { detail := 4, event := some (engineSource e 0x40, .graftMismatch) }
  | .weight .. | .accFlip .. | .attnFlip .. =>
    if caught.contains c then some { detail := 5, event := some (engineSource e 0x50, .abftMismatch) } else none
  | .shadow => some { detail := 5, event := some (engineSource e 0x50, .abftMismatch) }
  | .parity6 => some { detail := 6, event := some (engineSource e 0x60, .graftMismatch) }
  | .tag2Mem c => some { detail := 2, event := some (0x060 + c.val, .graftMismatch) }
  | .tag2Yard n => some { detail := 2, event := some (0x078 + n.val, .graftMismatch) }
  | .benchUe => some { detail := 0x0200, event := some (engineSource e 0x20, .eccUe) }
  | .yardUe yo => if held yo.val then some { detail := 0x0200, event := none } else none
  | .benchCe | .yardCe _ => none

/-- The function whose run's data occupy a byte of the yard (R227). -/
def Yard.owner (y : Yard) (yo : Nat) : Option FnId :=
  (y.spans.find? (fun x => decide (x.yo ≤ yo) && decide (yo < x.yo + x.len))).map (·.fn)

/-- A word of the yard is uncorrectable: poisoned, and ECC_UE once per poisoning (R227, R228). -/
def State.poisonYard (s : State) (yo : Nat) : State :=
  if s.yard.mem.poison.contains (yo / 64) then s
  else ({ s with yard := { s.yard with mem := s.yard.mem.poisonUnit (yo / 64) } } : State).raise
    { source := 0x040 + yardSlice yo, event := .eccUe, owner := s.yard.owner yo }

/-- What an event of a tile says of a store (R227, R243): ECC_CE, and poison in the yard. -/
def State.storeEvent (s : State) (e : EngineId) (f : FnId) (c : TileCheck) : State :=
  match c with
  | .benchCe => s.raise { source := engineSource e 0x20, event := .eccCe, owner := some f }
  | .yardCe yo => s.raise { source := 0x040 + yardSlice yo.val, event := .eccCe, owner := s.yard.owner yo.val }
  | .yardUe yo => s.poisonYard yo.val
  | _ => s

/-- The yard holds data of a run at an offset. -/
def Yard.heldBy (y : Yard) (run yo : Nat) : Bool :=
  y.spans.any (fun x => x.run == run && decide (x.yo ≤ yo) && decide (yo < x.yo + x.len))

/-- An event of a tile, at its device time within the tile's (R338). -/
def State.tileEvent (s : State) (e : EngineId) (r : Run) (t : TileAt) (caught : List TileCheck)
    (v : TileEvent) : State :=
  let time := if v.time < t.start then t.start else if s.now < v.time then s.now else v.time
  match tileFault e caught (s.yard.heldBy r.id) v.check with
  | some f => (s.storeEvent e r.fn v.check).failRun r.id time f
  | none => s.storeEvent e r.fn v.check

/-- Bytes that a run writes to memory at a key; a line that cannot be merged fails the run at graft point
4 (R335). -/
def State.runStore (s : State) (id : Nat) (e : EngineId) (k : Nat) (b : Bytes) : State :=
  let s := s.senseEdges k b.length
  match s.mem.store k b with
  | (m, _, none) => { s with mem := m }
  | (m, _, some d) => ({ s with mem := m } : State).failLine id e d

/-- The same for the yard (R335, R336). -/
def State.yardStore (s : State) (id : Nat) (e : EngineId) (yo : Nat) (b : Bytes) : State :=
  match s.yard.mem.store yo b with
  | (m, _, none) => { s with yard := { s.yard with mem := m } }
  | (m, _, some d) => ({ s with yard := { s.yard with mem := m } } : State).failLine id e d

/-- The tags of a TAG_EXPORT tensor go into its companion once every tile of it has ended, each copied under graft
point 4 (R350). -/
def State.exportTags (s : State) (r : Run) (j : Nat) (e : EngineId) : State :=
  match r.outOf j with
  | none => s
  | some (t, d) =>
    let ended := (r.image.tiles.zipIdx).all (fun x => x.1.op != t.op || r.done.contains x.2)
    match d.exportTo, r.vaOf d.id with
    | some c, some va =>
      (match r.vaOf c with
       | some to_ =>
         if ended then
           let k := memKey r.fn va
           let n := linesOf k (spanOf d)
           let s := s.senseLines (k / 256) n
           match s.mem.firstBadLine n (k / 256) with
           | some (_, f) => s.failLine r.id e f
           | none => s.runStore r.id e (memKey r.fn to_) ((List.range n).flatMap (fun i =>
               leBytes 4 (s.mem.tag (k / 256 + i)).toNat))
         else s
       | none => s)
    | _, _ => s

/-- A run's tensor outside memory: in the yard, or in the benches (R225). -/
def State.keepTile (s : State) (r : Run) (t : TileDecl) (d : TensorDecl) (e : EngineId) (vals : List Int) : State :=
  let s := s.holdYard r d
  match s.placeOf r d.id with
  | .mem _ => s
  | .yard yo => (s.tileBytes r t d vals).foldl (fun s x => s.yardStore r.id e (yo + x.1) x.2) s
  | .bench =>
    let b := (s.tileBytes r t d vals).foldl (fun b x => splice b x.1 x.2) (s.placeBytes r d.id 0 d.bytes)
    s.setRun r.id (fun r => { r with values := (d.id, b) :: r.values.filter (fun v => v.1 != d.id) })

/-- The outputs of a tile that ended well: written to memory, or kept for later tiles (R311, R487). -/
def State.storeTile (s : State) (r : Run) (j : Nat) (e : EngineId) (vals : List Int) : State :=
  let s := s.setRun r.id (fun r => { r with done := r.done ++ [j] })
  let s := (s.landing r j vals).foldl (fun s x => s.runStore r.id e x.1 x.2) s
  let s := match r.outOf j with
    | some (t, d) => if r.reqs.isEmpty then s.keepTile r t d e vals else s
    | none => s
  s.exportTags { r with done := r.done ++ [j] } j e

/-- A failure that leaves a tile's values wrong, not only refused. -/
def TileCheck.spoils : TileCheck → Bool
  | .weight .. | .accFlip .. | .attnFlip .. | .tag2Mem _ | .tag2Yard _ => false
  | _ => true

/-- The end of a tile (R311, R344, R347, R487): the run has used the engine, the events come in order; a tile that
failed leaves part of its outputs, any other all of them. -/
def State.endTile (s : State) (e : EngineId) (t : TileAt) (r : Run) (evs : List TileEvent) (us : Nat) : State :=
  let out := s.computeTile (s.engines[e.val]).bench r t.tile (evs.map (·.check))
  let fails := (evs.map (·.check)).filter (fun c => (tileFault e out.caught (s.yard.heldBy r.id) c).isSome)
  let s := s.setEngine e (fun x => { x with
    tile := none, unchecked := satAdd 32 x.unchecked out.unchecked
    bench := if x.crew = some (portOf r.fn) then x.bench else {} })
  let s := s.setRun r.id (fun r => { r with
    usedUs := r.usedUs + us, working := r.working.erase t.tile })
  let s := evs.foldl (fun s v => s.tileEvent e r t out.caught v) s
  match s.fore.runs.find? (fun x => x.id == r.id) with
  | none => s
  | some r =>
    let s := if t.bad ∨ fails ≠ [] then
        s.scatter r t.tile (if t.bad ∨ fails.any TileCheck.spoils then s.wrongValues out.values.length else out.values)
      else s.storeTile r t.tile e out.values
    s.settle r.id

/-- A tile finishes (R311). -/
def execTileEnd (e : EngineId) (events : List TileEvent) (measuredUs : Nat) (s : State) :
    Host.Outcome State Fault Refusal :=
  .next (s.when s.working
    (match (s.engines[e.val]).tile with
     | none => s
     | some t =>
       match s.fore.runs.find? (fun r => r.id == t.run) with
       | none => s.setEngine e (fun x => { x with tile := none })
       | some r => (s.endTile e t r events measuredUs).settleWithdrawal (scionOf e)))

end Sys2Proof.Machine
end

