-- ==== Sys2Proof/Machine/Order.lean ====
section
/-!
DEFINITION. The order among taken commands (R136, R297): which earlier commands a command waits for.
-/

namespace Sys2Proof.Machine

/-- FENCE of a command (R124). -/
def Cmd.fenced (c : Cmd) : Bool := c.flags.getLsbD 1

/-- REPLAYABLE of a command (R124). -/
def Cmd.replayable (c : Cmd) : Bool := c.flags.getLsbD 0

/-- The opcode of a command. -/
def Cmd.op (c : Cmd) : Option Opcode := opcodeOf c.opcode

/-- A field of the block. -/
def Cmd.blk (c : Cmd) (i n : Nat) : Nat := leNat c.block i n

/-- Handles of the sequences that a command names (R297). -/
def Cmd.handles (c : Cmd) : List Nat :=
  match c.op with
  | some .kvScatter | some .kvTrim | some .kvClose | some .kvQuery => [c.arg 16 4]
  | some .attend => (List.range (c.arg 16 2)).map (fun i => c.blk (64 * i) 4)
  | _ => []

/-- The command appends to or trims a sequence. -/
def Cmd.appends (c : Cmd) : Bool := c.op == some .kvScatter || c.op == some .kvTrim

/-- `c` waits for the earlier command `d` by sequence order (R297). -/
def Cmd.orderedAfter (c d : Cmd) : Bool :=
  c.fn == d.fn && c.handles.any (fun h => d.handles.contains h) &&
    ((c.appends && (d.appends || d.op == some .attend || d.op == some .kvClose)) || (c.op == some .attend && d.appends))

/-- `c` sets the same device-wide value as the earlier command `d`, which has not acted yet: the Foreman
applies them in the order in which it takes them (R57, R97, R103). A FIRMWARE_STAGE waits for none: while
another is in progress it completes with BUSY (R147). -/
def Cmd.appliedAfter (c d : Cmd) : Bool :=
  c.op == d.op && c.op != some .firmwareStage && (match c.op with
    | some o => o.pfOnly
    | none => false) && (decide (d.phase = .waiting) || decide (d.phase = .begun))

/-- `c` does not begin before `d` has completed (R136, R297), or before it has acted (R103). -/
def Cmd.waitsFor (c d : Cmd) : Bool :=
  decide (d.id < c.id) && d.live
    && ((c.fn == d.fn && c.sq == d.sq && (c.fenced || d.fenced)) || c.orderedAfter d || c.appliedAfter d)

/-- The commands that a command waits for. -/
def State.blockers (s : State) (c : Cmd) : List Cmd := s.fore.taken.filter c.waitsFor

/-- The commands for which a command waits, and those for which they wait in turn (R297, R315). A command waits
only for earlier ones, and commands stand in the order of taking. -/
def State.chain (s : State) (c : Cmd) : List Cmd :=
  s.fore.taken.foldr (fun d l => if (c :: l).any (fun x => x.waitsFor d) then d :: l else l) []

/-- What a command waits for (R315): the runs, and the time of the commands that have none. -/
def State.waits (s : State) (c : Cmd) : Waits :=
  let runOf (d : Cmd) : Option Run := s.fore.runs.find? (fun r => r.cmd == some d.id)
  { runs := (s.chain c).filterMap (fun d => (runOf d).map (·.id))
    rootUs := (((s.chain c).filter (fun d => (runOf d).isNone)).map (fun d => Config.commandUs d.opcode)).sum }

/-- What the command of a run waits for (R315). -/
def State.waitsOf (s : State) (r : Run) : Waits :=
  match r.cmd with
  | none => {}
  | some id => match s.cmd id with
    | some c => s.waits c
    | none => {}

/-- The command of a row that meets admission: taken, not completed, begun or waiting, without a run yet
(R297, R314, R315). -/
def State.withJob (s : State) (id : Nat) (o : Opcode) (g : Cmd → State) : State :=
  match s.cmd id with
  | some c =>
    if s.rootRuns = true ∧ (c.phase = .begun ∨ c.phase = .waiting) ∧ c.op = some o
        ∧ s.fore.runs.all (fun r => r.cmd != some id) = true then g c else s
  | none => s

/-- A run of a command (R314). -/
def Cmd.run (c : Cmd) (kind : RunKind) (reservation handle : Nat) (image : GraphImage)
    (reqs : List AttendReq) (binds : List Bound) (tiles : List Nat) : Run :=
  { id := 0, kind := kind, fn := c.fn, cls := c.cls.toNat, deadline := c.deadline,
    reservation := reservation, replayable := c.replayable, handle := handle, image := image, reqs := reqs,
    binds := binds, values := [], tiles := tiles, done := [], working := [], begun := false,
    admitted := false, cleared := false, failed := none, lost := 0, dieLost := none, cancelled := none,
    entry := 0, raised := [], base := 0, predictedUs := 0, usedUs := 0, shift := 0, subject := c.seq }

/-- A record of the armed log still to come admits or sheds the run (R330, R463). -/
def State.logNames (s : State) (r : Run) : Bool :=
  decide (s.fore.replay.state = .armed) && s.fore.replay.log.any (fun b =>
    (leNat b 4 1 == 3 || leNat b 4 1 == 4) && leNat b 6 2 == r.fn.val && leNat b 16 4 == r.subject.toNat)

/-- Admission of JOB_SUBMIT and ATTEND (R310, R314, R315): refused, shed, admitted, or in replay mode
waiting for its record (R463). A command held by FENCE or by sequence order stays held. -/
def State.submitRun (s : State) (c : Cmd) (r : Run) : State :=
  let waits := s.waits c
  let r := { r with id := s.fore.nextRun }
  let p := s.plan r waits none
  let work (s : State) : State :=
    s.setCmd c.id (fun c => if c.phase = .begun then { c with phase := .running } else c)
  match (if r.cls = 2 ∧ s.logNames r = false then s.pendingFault r.reservation (usOf p.used) else none) with
  | some d => s.finish c.id stFaultPending d 0
  | none =>
    if s.fore.replay.state = .armed then work ((s.offer r (usOf p.used)).addRun r)
    else
      let entry := s.fore.nextEntry
      match (s.offer r (usOf p.used)).judgeRun r waits with
      | (s, .admitted) => work s
      | (s, .shed reason) => s.finish c.id stShed (BitVec.ofNat 16 reason) (entry.setWidth 64)

/-- RESERVATION of JOB_SUBMIT, ATTEND and BIND_STREAM breaks the rule of a class (R306, R308). -/
def State.reservationBad (s : State) (f : FnId) (cls n : Nat) : Bool :=
  if cls = 2 then
    n == 0 || match s.reservation n with
      | some r => r.fn != f
      | none => true
  else n != 0

/-- RESERVATION of a JOB_SUBMIT or ATTEND is bad (R308); one taken before its VF lost its authority is past
the test (R102). -/
def State.cmdReservationBad (s : State) (c : Cmd) : Bool :=
  !c.excused && s.reservationBad c.fn c.cls.toNat (c.arg 24 4)

end Sys2Proof.Machine
end

