-- ==== Sys2Proof/Machine/Graph.lean ====
section
/-!
DEFINITION. Graphs, jobs, bindings and reservations (R144 to R146, R193, R247 to R249, R306 to R308,
R350, R394).
-/

namespace Sys2Proof.Machine

/-! ## Graphs -/

/-- A loaded graph of a function. -/
def Fn.graph (x : Fn) (h : Nat) : Option Graph := x.graphs.find? (fun g => g.handle == h)

/-- Graphs loaded on the device. -/
def State.graphCount (s : State) : Nat := (s.fns.toList.map (fun x => x.graphs.length)).sum

/-- Pieces of 64 KiB that a graph's weights take (R486, log 11). -/
def graphPieces (g : GraphImage) : Nat := (g.constBytes + 65535) / 65536

/-- The read of an image of `n` bytes at an address (R147, R236, R248): DETAIL of its failure. -/
def State.imageRead (s : State) (f : FnId) (va n : Nat) (hostFail : Bool) : Option (BitVec 16) :=
  if (s.fn f).touchesHost va n ∧ hostFail then some 7 else (s.readVa f va n []).2

/-- An image that could not be read: the copy agent's event, or the AER report (R236, R348). -/
def State.imageFails (s : State) (c : Cmd) (d : BitVec 16) : State :=
  let s := if d = 7 then s.send (.aer (portOf c.fn)) else s.graftIf c.fn (c.cls == 2) d
  s.finish c.id stIntegrity d 0

/-- The read of an image failed through a host window. -/
def ImageRead.hostFailed {α : Type} : ImageRead α → Bool
  | .hostFail _ => true
  | _ => false

/-- The handle of the next graph: unique among the function's graphs (R248). -/
def State.newGraph (s : State) (f : FnId) : Nat :=
  s.unusedNumber 0 (2 ^ 32 - 1) ((s.fn f).graphs.map (·.handle))

/-- The constants of a graph as the device keeps them (R248, R331): whole lines with their tags, zero-padded. -/
def State.copyGraph (s : State) (f : FnId) (h : Nat) (g : GraphImage) : State :=
  { s with mem := g.tensors.foldl (fun m t =>
      if constSpan t = 0 then m
      else (m.store (graphKey f h (g.constOff t.id)) (fit (constSpan t) (packValues t.fmt t.data))).1) s.mem }

/-- The device's copy of a graph zeroed (R94, R249). -/
def State.zeroGraph (s : State) (f : FnId) (h : Nat) : State :=
  { s with mem := s.mem.zero (graphKey f h 0) (2 ^ 32) }

/-- GRAPH_LOAD from step 4 on (R248). -/
def State.loadGraph (s : State) (c : Cmd) (g : GraphImage) : State :=
  let x := s.fn c.fn
  let h := s.newGraph c.fn
  if !g.ok then s.finish c.id stBadParam 0xFFFF 0
  else if 32 ≤ x.graphs.length ∨ 512 ≤ s.graphCount then s.finish c.id stNoResource 5 0
  else if s.quotaMib c.fn * 1024 < x.chargedKib + g.constKib then s.finish c.id stNoResource 2 0
  else match (s.alloc c.fn 64 (graphUser c.fn h) (graphPieces g)).filter (State.backed (portOf c.fn)) with
    | none => s.finish c.id stNoResource 2 0
    | some t =>
      ((t.drawn.copyGraph c.fn h g).setFn c.fn (fun x => { x with
        graphs := { handle := h, image := g, ratios := [] } :: x.graphs })).finish c.id stOk 0 (BitVec.ofNat 64 h)

/-- GRAPH_LOAD (R248): the signature is the image's, the hash of its key one of those fused (R247). -/
def execGraphLoad (cmd : Nat) (img : ImageRead GraphImage) (s : State) : Host.Outcome State Fault Refusal :=
  .next (s.withCmd cmd .graphLoad (fun c =>
    let va := c.arg 16 8
    let len := c.arg 24 4
    if !(s.fn c.fn).spans va len .rd false then s.finish cmd stBadParam 16 0
    else
      let s := s.access c.fn va len
      match s.imageRead c.fn va len (ImageRead.hostFailed img) with
      | some d => s.imageFails c d
      | none =>
        match img with
        | .hostFail _ => s
        | .badSignature => s.finish cmd stIntegrity 0x0100 0
        | .image g =>
          if s.fixed.graphKeys.contains g.key then s.loadGraph c g else s.finish cmd stIntegrity 0x0100 0))

/-- A graph is bound to a stream of its function, or named by an outstanding JOB_SUBMIT (R249). -/
def State.graphInUse (s : State) (f : FnId) (h : Nat) : Bool :=
  s.streams.toList.any (fun x => x.isOpen && x.owner == f && match x.bound with
      | some b => b.handle == h
      | none => false)
    || s.fore.taken.any (fun c => c.live && c.fn == f && c.op == some .jobSubmit && c.arg 16 4 == h)

/-- GRAPH_UNLOAD (R249). -/
def execGraphUnload (cmd : Nat) (s : State) : Host.Outcome State Fault Refusal :=
  .next (s.withCmd cmd .graphUnload (fun c =>
    let h := c.arg 16 4
    match (s.fn c.fn).graph h with
    | none => s.finish cmd stBadParam 16 0
    | some _ =>
      if s.graphInUse c.fn h then s.finish cmd stBusy 8 0
      else
        (((s.release c.fn (graphUser c.fn h)).zeroGraph c.fn h).setFn c.fn (fun x =>
          { x with graphs := x.graphs.filter (fun g => g.handle != h) })).finish cmd stOk 0 0))

/-! ## JOB_SUBMIT -/

/-- The breaches of one binding entry, in the order of its fields (R145, R234, R350). -/
def State.bindingChecks (s : State) (f : FnId) (g : GraphImage) (b : Bytes) (i : Nat) : List (Nat × Bool) :=
  let o := 16 * i
  let id := leNat b o 2
  let d := g.tensor id
  let out := d.role == .output
  let va := leNat b (o + 8) 8
  let known := g.tensors.any (fun t => t.id == id && t.bindable)
  let again := (List.range i).any (fun k => leNat b (16 * k) 2 == id)
  [(o, !known || again), (o + 2, leNat b (o + 2) 2 != out.toNat), (o + 4, leNat b (o + 4) 4 != 0),
   (o + 8, (d.exportTo.isSome && va % 256 != 0)
      || !(s.fn f).spans va (spanOf d) (if out then .wr else .rd) true)]

/-- DETAIL of the first breach of a binding list (R145). -/
def State.bindingsBad (s : State) (f : FnId) (g : GraphImage) (b : Bytes) (n : Nat) : Option (BitVec 16) :=
  match firstBad ((List.range n).flatMap (s.bindingChecks f g b)) with
  | some o => some (BitVec.ofNat 16 (0x8000 + o))
  | none =>
    let bound := (List.range n).map (fun i => leNat b (16 * i) 2)
    if g.tensors.all (fun t => !t.bindable || bound.contains t.id) then none else some 0xFFFF

/-- The bindings of a list. -/
def parseBinds (b : Bytes) (n : Nat) : List Bound :=
  (List.range n).map (fun i => { tensor := leNat b (16 * i) 2, va := leNat b (16 * i + 8) 8 })

/-- JOB_SUBMIT (R101, R145, R249, R308, R314). -/
def execJobSubmit (cmd : Nat) (s : State) : Host.Outcome State Fault Refusal :=
  .next (s.withJob cmd .jobSubmit (fun c =>
    let n := c.arg 20 2
    match (s.fn c.fn).graph (c.arg 16 4) with
    | none => s.finish cmd stBadParam 16 0
    | some g =>
      if s.cmdReservationBad c then s.finish cmd stBadParam 24 0
      else match s.bindingsBad c.fn g.image c.block n with
        | some d => s.finish cmd stBadParam d 0
        | none =>
          if s.vengines c.fn = 0 then s.finish cmd stNoResource 1 0
          else s.submitRun c (c.run (.job cmd) (c.arg 24 4) g.handle g.image [] (parseBinds c.block n)
            (g.image.tiles.map (·.cycles)))))

/-! ## JOB_CANCEL -/

/-- The targets of JOB_CANCEL (R144). -/
def State.cancelTargets (s : State) (c : Cmd) : List Cmd :=
  s.fore.taken.filter (fun d => d.live && d.fn == c.fn && d.seq.toNat == c.arg 16 4
    && (d.op == some .jobSubmit || d.op == some .attend))

/-- One target is cancelled: its run aborted, or the command itself if it has no run yet (R144). -/
def State.cancelTarget (s : State) (d : Cmd) : State :=
  match s.fore.runs.find? (fun r => r.cmd == some d.id) with
  | some r => s.abortRun r.id 1
  | none => s.finish d.id stCancelled 1 0

/-- JOB_CANCEL (R144). -/
def execJobCancel (cmd : Nat) (s : State) : Host.Outcome State Fault Refusal :=
  .next (s.withCmd cmd .jobCancel (fun c =>
    let ts := s.cancelTargets c
    if ts.any (fun d => d.cls == 2) && !s.hasAuth c.fn then s.finish cmd stNotPermitted 2 0
    else (ts.foldl State.cancelTarget s).finish cmd stOk 0 (BitVec.ofNat 64 ts.length)))

/-! ## BIND_STREAM -/

/-- The context is an open stream of the function (log 23). -/
def State.ownsOpen (s : State) (f : FnId) (c : CtxId) : Bool :=
  let x := s.streams[c.val]
  x.isOpen && x.opening.isNone && x.closing.isNone && x.owner == f

/-- Bytes of an image's outputs in a slot (R146). -/
def outputSize (g : GraphImage) : Nat :=
  (g.tensors.map (fun t => if t.role = .output then t.slotOff + spanOf t else 0)).foldl max 0

/-- The graph may be bound: its FRAME input is its only bindable input and fits a frame (R146). -/
def bindableGraph (g : GraphImage) (frameBytes : Nat) : Bool :=
  g.tensors.any (fun t => t.role == .frame && decide (t.bytes ≤ frameBytes))
    && g.tensors.all (fun t => t.role != .input)

/-- One mapping of device memory with WRITE holds the range. -/
def Fn.oneMapping (x : Fn) (va n : Nat) (rd wr : Bool) : Bool :=
  x.maps.any (fun m => !m.host && (!wr || m.wr) && (!rd || m.rd) && decide (m.va ≤ va)
    && decide (va + n ≤ m.va + m.size))

/-- Runs of a context that have not begun complete with CANCELLED, DETAIL 2 (R146, R193). -/
def State.cancelUnbegun (s : State) (c : CtxId) : State :=
  ((s.fore.runs.filter (fun r => r.ofCtx c && !r.begun)).map (·.id)).foldl (fun s id =>
    (s.setRun id (fun r => { r with cancelled := some 2 })).settle id) s

/-- The EVENT_SEQ that BIND_STREAM is refused for: a timer of the context's guard source, or a Severe
event of the reservation (R310, R394). -/
def State.bindPending (s : State) (c : CtxId) (reservation : Nat) : Option (BitVec 16) :=
  match s.fcu.timerOf (0x600 + c.val) with
  | some t => some (t.startSeq.setWidth 16)
  | none => if reservation = 0 then none else s.reservationFault reservation

/-- BIND_STREAM (R101, R146, R249, R308, R310, R394). A function that holds no virtual engine is refused
before its other operands are looked at. The class is that of the settings last accepted. -/
def execBindStream (cmd : Nat) (s : State) : Host.Outcome State Fault Refusal :=
  .next (s.withCmd cmd .bindStream (fun c =>
    let ctx : CtxId := Fin.ofNat 48 (c.arg 16 1)
    let x := s.streams[ctx.val]
    let f := s.fn c.fn
    if c.arg 17 1 = 1 ∧ s.vengines c.fn = 0 then s.finish cmd stNoResource 1 0
    else if !s.ownsOpen c.fn ctx then s.finish cmd stBadParam 16 0
    else if c.arg 17 1 = 0 then
      let t := s.setStream ctx (fun x => { x with
        bound := x.bound.map (fun b => { b with ending := true })
        keep := 256, thinPhase := 0 })
      ((t.cancelUnbegun ctx).flush ctx).finish cmd stOk 0 0
    else if x.bound.isSome then s.finish cmd stBusy 8 0
    else
      let res := c.arg 32 4
      let ring := c.arg 24 8
      let outVa := c.arg 40 8
      let stride := c.arg 48 4
      match f.graph (c.arg 20 4) with
      | none => s.finish cmd stBadParam 20 0
      | some g =>
        if !bindableGraph g.image x.cfg.frameBytes then s.finish cmd stBadParam 20 0
        else if !f.spans ring (32 * 2 ^ c.arg 19 1) .wr true then s.finish cmd stBadParam 24 0
        else if s.reservationBad c.fn (x.nextCfg.getD x.cfg).cls res then s.finish cmd stBadParam 32 0
        else if !f.oneMapping outVa (stride * x.cfg.ringCount) false true then s.finish cmd stBadParam 40 0
        else if stride < outputSize g.image then s.finish cmd stBadParam 48 0
        else match s.bindPending ctx res with
          | some d => s.finish cmd stFaultPending d 0
          | none =>
            (s.setStream ctx (fun x => { x with
              bound := some { handle := g.handle, vector := c.arg 18 1, log2 := c.arg 19 1, ringVa := ring,
                              reservation := res, outVa := outVa, outStride := stride, written := 0,
                              ending := false }
              entries := [], keep := 256, thinPhase := 0 })).finish cmd stOk 0 0))

/-! ## RESERVE -/

/-- The number of the next reservation, from 1 to 256 and unique across the device (R306). -/
def State.freeReservation (s : State) : Nat :=
  s.unusedNumber 1 256 (s.fore.reservations.map (·.num))

/-- An outstanding command or a bound stream names the reservation (R307). -/
def State.reservationUsed (s : State) (n : Nat) : Bool :=
  s.fore.taken.any (fun c => c.live && c.cls == 2 && (c.op == some .jobSubmit || c.op == some .attend)
      && c.arg 24 4 == n)
    || s.fore.taken.any (fun c => c.live && c.op == some .bindStream && c.arg 32 4 == n)
    || s.streams.toList.any (fun x => match x.bound with
      | some b => b.reservation == n
      | none => false)

/-- Reservation capacity of a port in the next shift (R307). -/
def State.nextCapacity (s : State) (p : HostPort) : Nat :=
  resCapOf (usableOf s.joinedCount s.nextFrameUs) s.nextEnginesA p

/-- RESERVE (R306, R307); in maintenance mode ACTION 0 is refused (R357). -/
def execReserve (cmd : Nat) (s : State) : Host.Outcome State Fault Refusal :=
  .next (s.withCmd cmd .reserve (fun c =>
    let n := c.arg 16 4
    let amount := c.arg 20 4
    let p := portOf c.fn
    let mine := match s.reservation n with
      | some r => r.fn == c.fn
      | none => false
    let old := match s.reservation n with
      | some r => r.amount
      | none => 0
    let result (k : Nat) (s : State) : State := s.finish cmd stOk 0 (BitVec.ofNat 64 k)
    if c.arg 24 1 = 1 then
      if !mine then s.finish cmd stBadParam 16 0
      else if s.reservationUsed n then s.finish cmd stBadParam 0xFFFF 0
      else result n (s.setFore (fun x => { x with
        reservations := x.reservations.filter (fun r => r.num != n), resChanged := true }))
    else if s.fore.safety.maintenance then s.finish cmd stBusy 6 0
    else if n ≠ 0 ∧ mine = false then s.finish cmd stBadParam 16 0
    else if n = 0 ∧ (16 ≤ (s.fore.reservations.filter (fun r => r.fn == c.fn)).length
        ∨ 256 ≤ s.fore.reservations.length) then s.finish cmd stNoResource 6 0
    else if old < amount ∧ s.nextCapacity p < s.reserved p - old + amount then s.finish cmd stNoResource 6 0
    else if n = 0 then
      let k := s.freeReservation
      result k (s.drawn.setFore (fun x => { x with
        reservations := x.reservations ++
          [{ num := k, fn := c.fn, amount := amount, inForce := 0, spent := 0, raised := false }]
        resChanged := true }))
    else result n ((s.setReservation n (fun r => { r with amount := amount })).setFore (fun x =>
      { x with resChanged := true }))))

end Sys2Proof.Machine
end

