-- ==== Sys2Proof/Machine/Kv.lean ====
section
/-!
DEFINITION. Key-value sequences (R284 to R297) and ATTEND (R298, R299, R302).
-/

namespace Sys2Proof.Machine

/-! ## Sequences and pages -/

/-- Positions of a page (R284). -/
def KvSeq.spp (q : KvSeq) : Nat := 65536 / q.row

/-- The page of the region that holds a position's slot. -/
def KvSeq.pageOf (q : KvSeq) (p : Nat) : Nat := p % q.maxLen / q.spp

/-- The first position of the page that a position falls in. -/
def KvSeq.pageStart (q : KvSeq) (p : Nat) : Nat := p / q.spp * q.spp

/-- The first positions of the target pages of an append, in ascending order (R290). -/
def KvSeq.targets (q : KvSeq) (count : Nat) : List Nat :=
  let lo := q.length / q.spp
  let hi := (q.length + count - 1) / q.spp
  (List.range (hi - lo + 1)).map (fun i => (lo + i) * q.spp)

/-- The page is committed. -/
def KvSeq.holds (q : KvSeq) (page : Nat) : Bool := q.pages.any (fun x => x.1 == page)

/-- An open sequence of a function. -/
def Fn.seq (x : Fn) (h : Nat) : Option KvSeq := x.seqs.find? (fun q => q.handle == h)

/-- Changes a sequence. -/
def State.setSeq (s : State) (f : FnId) (h : Nat) (g : KvSeq → KvSeq) : State :=
  s.setFn f (fun x => { x with seqs := x.seqs.map (fun q => if q.handle = h then g q else q) })

/-- Zeroes a page of a region (R287). -/
def State.zeroPage (s : State) (f : FnId) (q : KvSeq) (page : Nat) : State :=
  { s with mem := s.mem.zero (memKey f (q.va + page * 65536)) 65536 }

/-- A page returns to its function's pool (R287). -/
def State.dropPage (s : State) (f : FnId) (q : KvSeq) (page : Nat) : State :=
  (s.release f (pageUser f q.handle page)).zeroPage f q page

/-! ## KV_OPEN, KV_TRIM, KV_CLOSE, KV_QUERY -/

/-- The handle of the next sequence: not 0, and unique among the function's open sequences (R285). -/
def State.newSequence (s : State) (f : FnId) : Nat :=
  s.unusedNumber 1 (2 ^ 32 - 1) ((s.fn f).seqs.map (·.handle))

/-- KV_OPEN (R285). -/
def execKvOpen (cmd : Nat) (s : State) : Host.Outcome State Fault Refusal :=
  .next (s.withCmd cmd .kvOpen (fun c =>
    let x := s.fn c.fn
    let va := c.arg 16 8
    let maxLen := c.arg 24 4
    let row := kvOpenRow c.desc
    let h := s.newSequence c.fn
    match kvFormat (c.arg 32 1) with
    | none => s.finish cmd stBadParam 32 0
    | some f =>
      if row = 0 ∨ x.taken va (maxLen * row) = true then s.finish cmd stBadParam 0xFFFF 0
      else if 256 ≤ x.seqs.length ∨ 4096 ≤ (s.fns.toList.map (fun y => y.seqs.length)).sum then
        s.finish cmd stNoResource 3 0
      else
        (s.drawn.setFn c.fn (fun x => { x with
          seqs := { handle := h, va := va, maxLen := maxLen, heads := c.arg 28 2, headDim := c.arg 30 2,
                    fmt := f, window := c.arg 33 1 % 2 == 1, length := 0, start := 0, pages := [] } :: x.seqs })).finish cmd stOk 0 (BitVec.ofNat 64 h)))

/-- KV_TRIM (R294). -/
def execKvTrim (cmd : Nat) (s : State) : Host.Outcome State Fault Refusal :=
  .next (s.withCmd cmd .kvTrim (fun c =>
    let h := c.arg 16 4
    let len := c.arg 20 4
    match (s.fn c.fn).seq h with
    | none => s.finish cmd stBadParam 16 0
    | some q =>
      if len < q.start ∨ q.length < len then s.finish cmd stBadParam 20 0
      else
        let empty (x : Nat × Nat) : Bool := decide (len ≤ x.2) || decide (x.2 + q.spp ≤ q.start)
        let s := (q.pages.filter empty).foldl (fun s x => s.dropPage c.fn q x.1) s
        (s.setSeq c.fn h (fun q => { q with
          length := len, pages := q.pages.filter (fun x => !empty x) })).finish cmd stOk 0
            (BitVec.ofNat 64 len)))

/-- KV_CLOSE (R296): BUSY is judged when it is taken. -/
def execKvClose (cmd : Nat) (s : State) : Host.Outcome State Fault Refusal :=
  .next (s.withCmd cmd .kvClose (fun c =>
    let h := c.arg 16 4
    match (s.fn c.fn).seq h with
    | none => s.finish cmd stBadParam 16 0
    | some q =>
      if c.naming then s.finish cmd stBusy 8 0
      else
        let s := q.pages.foldl (fun s x => s.dropPage c.fn q x.1) s
        (s.setFn c.fn (fun x => { x with seqs := x.seqs.filter (fun q => q.handle != h) })).finish cmd stOk 0 0))

/-- KV_QUERY (R295). -/
def execKvQuery (cmd : Nat) (s : State) : Host.Outcome State Fault Refusal :=
  .next (s.withCmd cmd .kvQuery (fun c =>
    match (s.fn c.fn).seq (c.arg 16 4) with
    | none => s.finish cmd stBadParam 16 0
    | some q => s.finish cmd stOk 0 (BitVec.ofNat 64 (q.length + q.start * 2 ^ 32))))

/-! ## KV_SCATTER -/

/-- DETAIL of the first breach of the block or of COUNT (R288, R289). -/
def State.scatterBad (s : State) (c : Cmd) (q : KvSeq) : Option Nat :=
  let count := c.arg 20 4
  let half := q.row / 2
  let range (src stride : Nat) : Bool :=
    (List.range count).all (fun i => (s.fn c.fn).spans (src + i * stride) half .rd true)
  if count = 0 ∨ q.maxLen - q.spp < count ∨ 8 * 2 ^ 20 < count * q.row then some 20
  else
    (firstBad ([(0, c.blk 0 8 % 256 != 0 || !range (c.blk 0 8) (c.blk 16 4)),
      (8, c.blk 8 8 % 256 != 0 || !range (c.blk 8 8) (c.blk 20 4)),
      (16, c.blk 16 4 % 256 != 0 || decide (c.blk 16 4 < half)),
      (20, c.blk 20 4 % 256 != 0 || decide (c.blk 20 4 < half)),
      (24, c.blk 24 4 != 0xFFFFFFFF && c.blk 24 4 != q.length)] ++ reservedBad c.block 28 64)).map (0x8000 + ·)

/-- The rows that an append writes, or the DETAIL of the first source line that fails (R290 step 3). -/
def State.scatterRows (s : State) (c : Cmd) (half : Nat) : Nat → Nat → List Bytes × Option (BitVec 16)
  | 0, _ => ([], none)
  | n + 1, i =>
    match s.readVa c.fn (c.blk 0 8 + i * c.blk 16 4) half [], s.readVa c.fn (c.blk 8 8 + i * c.blk 20 4) half [] with
    | (_, some d), _ => ([], some d)
    | _, (_, some d) => ([], some d)
    | (k, none), (v, none) =>
      let (r, e) := s.scatterRows c half n (i + 1)
      ((k ++ v) :: r, e)

/-- The source rows are read (R226, R290). -/
def State.scatterAccess (s : State) (c : Cmd) (half : Nat) : State :=
  (List.range (c.arg 20 4)).foldl (fun s i =>
    (s.access c.fn (c.blk 0 8 + i * c.blk 16 4) half).access c.fn (c.blk 8 8 + i * c.blk 20 4) half) s

/-- The pages of a sequence while an append commits them: pages, first positions recycled, free pages
that may still be taken. -/
structure Commit where
  state    : State
  pages    : List (Nat × Nat)
  recycled : List Nat
  free     : Nat

/-- One target page (R291): recycled in place, taken from the pool, or moved from the oldest page that is
no target; none if no page can be had. -/
def commitPage (f : FnId) (q : KvSeq) (targets : List Nat) (m : Commit) (first : Nat) : Option Commit :=
  let page := q.pageOf first
  match m.pages.find? (fun x => x.1 == page) with
  | some x =>
    if x.2 = first then some m
    else some { m with
      pages := m.pages.filter (fun y => y.1 != page) ++ [(page, first)], recycled := x.2 :: m.recycled }
  | none =>
    let taken := if 0 < m.free then m.state.alloc f 65 (pageUser f q.handle page) 1 else none
    match taken with
    | some s => some { m with
        state := s.zeroPage f q page, pages := m.pages ++ [(page, first)], free := m.free - 1 }
    | none =>
      if !q.window then none
      else match m.pages.find? (fun x => !targets.any (fun t => q.pageOf t == x.1)) with
        | none => none
        | some old =>
          match (m.state.dropPage f q old.1).alloc f 65 (pageUser f q.handle page) 1 with
          | none => none
          | some s => some { m with
              state := s.zeroPage f q page
              pages := m.pages.filter (fun y => y.1 != old.1) ++ [(page, first)]
              recycled := old.2 :: m.recycled }

/-- All target pages, in ascending position order. -/
def commitPages (f : FnId) (q : KvSeq) (targets : List Nat) : List Nat → Commit → Option Commit
  | [], m => some m
  | t :: r, m =>
    match commitPage f q targets m t with
    | none => none
    | some m => commitPages f q targets r m

/-- START after pages were recycled: the first position that none of them held (R291). -/
def newStart (spp : Nat) (recycled : List Nat) : Nat → Nat → Nat
  | 0, start => start
  | n + 1, start =>
    match recycled.find? (fun fp => decide (fp ≤ start) && decide (start < fp + spp)) with
    | some fp => newStart spp recycled n (fp + spp)
    | none => start

/-- KV_NO_PAGE (R290 step 2). -/
def KvSeq.noPage (q : KvSeq) (targets : List Nat) (free : Nat) : Bool :=
  let pages := targets.map q.pageOf
  let need := (pages.filter (fun p => !q.holds p)).length
  let other := (q.pages.filter (fun x => !pages.contains x.1)).length
  if q.window then decide (free + other < need) else decide (free < need)

/-- KV_FULL (R290 step 1). -/
def KvSeq.full (q : KvSeq) (count : Nat) : Bool :=
  if q.window then decide (2 ^ 32 - 1 < q.length + count) else decide (q.maxLen < q.length + count)

/-- Rows are written to the slots of consecutive positions. -/
def State.writeRows (s : State) (f : FnId) (q : KvSeq) : Nat → List Bytes → State
  | _, [] => s
  | p, b :: r =>
    let s := s.senseEdges (memKey f (q.rowVa p)) b.length
    ({ s with mem := (s.mem.store (memKey f (q.rowVa p)) b).1 } : State).writeRows f q (p + 1) r

/-- Ends a KV_SCATTER with its KV record (R292). -/
def State.scatterEnd (s : State) (c : Cmd) (status : BitVec 16) (detail : Nat) (length start recycled : Nat) :
    State :=
  (s.logRecord 0xFF (some c.fn) (.kv length start status.toNat recycled)).finish c.id status
    (BitVec.ofNat 16 detail) (BitVec.ofNat 64 (length % 2 ^ 32))

/-- A KV_SCATTER that a check at take has stopped: its KV record (R292). One whose OPCODE no check has vouched for,
or that comes in the safe state, where the log is preserved, leaves none (log 123). -/
def State.scatterStopped (s : State) (c : Cmd) (status detail : BitVec 16) : State :=
  if c.op = some .kvScatter ∧ status ≠ stBooting ∧ status ≠ stSafe ∧ ¬(status = stBadGraft ∧ detail = 0) then
    let (len, start) := match (s.fn c.fn).seq (c.arg 16 4) with
      | some q => (q.length, q.start)
      | none => (0, 0)
    let s := s.logRecord 0xFF (some c.fn) (.kv len start status.toNat 0)
    if s.fore.replay.state = .armed then
      s.setFore (fun x => { x with replay := { x.replay with stopped := x.replay.stopped ++ [(c.fn, status)] } })
    else s
  else s

/-- The append (R290, R291), with the free pages that it may take; a row that fails graft point 2 on its way to
memory ends it with INTEGRITY, DETAIL 2, and nothing is committed (R290, R336). -/
def State.append (s : State) (c : Cmd) (q : KvSeq) (free : Nat) (graft2 : Option WriteFault) : State :=
  let count := c.arg 20 4
  let targets := q.targets count
  let keep (st : BitVec 16) (d : Nat) (s : State) : State := s.scatterEnd c st d q.length q.start 0
  if q.full count then keep stKvFull 0 s
  else if q.noPage targets free then keep stKvNoPage 0 s
  else
    let s := s.scatterAccess c (q.row / 2)
    let (rows, e) := s.scatterRows c (q.row / 2) count 0
    match e, graft2 with
    | some d, _ => keep stIntegrity d.toNat (s.graftIf c.fn (c.cls == 2) d)
    | none, some x => keep stIntegrity 2 (s.raise
        { source := 0x060 + x.channel.val, event := .graftMismatch, owner := some c.fn, class2 := c.cls == 2 })
    | none, none =>
      match commitPages c.fn q targets targets { state := s, pages := q.pages, recycled := [], free := free } with
      | none => keep stKvNoPage 0 s
      | some m =>
        let start := newStart q.spp m.recycled (m.recycled.length + 1) q.start
        let s := m.state.writeRows c.fn q q.length rows
        (s.setSeq c.fn q.handle (fun q => { q with
          length := q.length + count, start := start, pages := m.pages })).scatterEnd c stOk 0
            (q.length + count) start m.recycled.length

/-- The next record of an armed replay. -/
def State.nextReplay (s : State) : Option Bytes :=
  if s.fore.replay.state = .armed then s.fore.replay.log.head? else none

/-- The next record has been applied (R463). -/
def State.consume (s : State) : State :=
  s.setFore (fun x => { x with replay := { x.replay with
    log := x.replay.log.tail, entry := x.replay.entry + 1, loaded := x.replay.loaded - 32, frontAt := s.now } })

/-- Pages recycled in place by an append (R291). -/
def KvSeq.inPlace (q : KvSeq) (targets : List Nat) : Nat :=
  (targets.filter (fun t => q.pages.any (fun x => x.1 == q.pageOf t && x.2 != t))).length

/-- An append in replay mode (R463): the KV record gives the outcome and how many pages are recycled. -/
def State.replayAppend (s : State) (c : Cmd) (q : KvSeq) (b : Bytes) (graft2 : Option WriteFault) : State :=
  let status := BitVec.ofNat 16 (leNat b 24 2)
  if status = stOk then
    let targets := q.targets (c.arg 20 4)
    let need := (targets.filter (fun t => !q.holds (q.pageOf t))).length
    s.append c q (need - (leNat b 26 2 - q.inPlace targets)) graft2
  else
    let s := s.scatterAccess c (q.row / 2)
    s.scatterEnd c status (((s.scatterRows c (q.row / 2) (c.arg 20 4) 0).2.getD 0).toNat) q.length q.start 0

/-- The next record is the KV record of a function (R329). -/
def kvRecordOf (f : FnId) (b : Bytes) : Bool := leNat b 4 1 == 7 && leNat b 6 2 == f.val

/-- The KV_SCATTER, stopped at take, to which a KV record belongs (log 123). -/
def Replay.stoppedBy (x : Replay) (b : Bytes) : Option (FnId × BitVec 16) :=
  x.stopped.find? (fun y => kvRecordOf y.1 b && y.2.toNat == leNat b 24 2)

/-- KV_SCATTER (R288 to R293); in replay mode it waits for its KV record (R463). -/
def execKvScatter (cmd : Nat) (graft2 : Option WriteFault) (s : State) : Host.Outcome State Fault Refusal :=
  .next (s.withCmd cmd .kvScatter (fun c =>
    let go (s : State) (own : KvSeq → State → State) : State :=
      match (s.fn c.fn).seq (c.arg 16 4) with
      | none => s.scatterEnd c stBadParam 16 0 0 0
      | some q =>
        match s.scatterBad c q with
        | some d => s.scatterEnd c stBadParam d q.length q.start 0
        | none => own q s
    if s.fore.replay.state = .armed then
      match s.nextReplay with
      | some b => if kvRecordOf c.fn b && (s.fore.replay.stoppedBy b).isNone then go s.consume (fun q s => s.replayAppend c q b graft2) else s
      | none => s
    else go s (fun q s => s.append c q (s.kvFree c.fn) graft2)))

/-! ## ATTEND -/

/-- Formats of the outputs (R298). -/
def attendOut (code : Nat) : Option Fmt :=
  match fmtOfCode code with
  | some .int8 => some .int8
  | some .fp16 => some .fp16
  | some .bf16 => some .bf16
  | some .fp32 => some .fp32
  | _ => none

/-- Entry `i` of the array (R298). -/
def Cmd.attendReq (c : Cmd) (i : Nat) : AttendReq :=
  let o := 64 * i
  let n (k w : Nat) := c.blk (o + k) w
  { handle := n 0 4, endPos := n 4 4, kvLen := n 8 2, qlen := n 10 2, qPerKv := n 12 1, causal := n 13 1 == 1,
    outFmt := (attendOut (n 14 1)).getD .fp32, outMode := (modeOfCode (n 15 1)).getD .halfAway, qpos := n 16 4,
    scoreScale := BitVec.ofNat 32 (n 20 4), vScale := BitVec.ofNat 32 (n 24 4),
    outInv := BitVec.ofNat 32 (n 28 4), qVa := n 32 8, outVa := n 40 8, outZp := signed 8 (n 48 1) }

/-- Bytes of the queries and of the outputs of a request (R298). -/
def AttendReq.queryBytes (r : AttendReq) (q : KvSeq) : Nat := r.size q * Fmt.bits q.fmt / 8
def AttendReq.outBytes (r : AttendReq) (q : KvSeq) : Nat := r.size q * Fmt.bits r.outFmt / 8

/-- An earlier KV_CLOSE that will succeed names the handle: for a later command the sequence is no longer open
(R296, R297). -/
def State.closingSeq (s : State) (c : Cmd) (h : Nat) : Bool :=
  s.fore.taken.any (fun d => decide (d.id < c.id) && d.live && d.fn == c.fn && d.op == some .kvClose && !d.naming
    && d.handles.contains h)

/-- The breaches of entry `i`, in the order of its fields (R298). -/
def State.attendChecks (s : State) (c : Cmd) (i : Nat) : List (Nat × Bool) :=
  let o := 64 * i
  let n (k w : Nat) := c.blk (o + k) w
  let r := c.attendReq i
  let int8 := n 14 1 == 1
  let x := s.fn c.fn
  match (if s.closingSeq c r.handle then none else x.seq r.handle) with
  | none => [(o, true)]
  | some q =>
    [(o + 8, outside 1 r.kvLen 8192 || decide (r.endPos < r.kvLen)), (o + 10, outside 1 r.qlen 512),
     (o + 12, !([1, 2, 4, 8].contains (n 12 1))), (o + 13, decide (1 < n 13 1)),
     (o + 14, (attendOut (n 14 1)).isNone), (o + 15, int8 && (modeOfCode (n 15 1)).isNone),
     (o + 28, !int8 && n 28 4 != 0), (o + 32, !x.spans r.qVa (r.queryBytes q) .rd true),
     (o + 40, !x.spans r.outVa (r.outBytes q) .wr true), (o + 48, !int8 && n 48 1 != 0)]
      ++ (reservedBad c.block (o + 49) (o + 64))

/-- The output ranges of two requests overlap (R298). -/
def State.attendOverlap (s : State) (f : FnId) : List AttendReq → Bool
  | [] => false
  | r :: rest =>
    let size (r : AttendReq) : Nat := match (s.fn f).seq r.handle with
      | some q => r.outBytes q
      | none => 0
    rest.any (fun t => overlap r.outVa (size r) t.outVa (size t)) || s.attendOverlap f rest

/-- DETAIL of the first breach of the array. -/
def State.attendBad (s : State) (c : Cmd) : Option (BitVec 16) :=
  let n := c.arg 16 2
  match firstBad ((List.range n).flatMap (s.attendChecks c)) with
  | some o => some (BitVec.ofNat 16 (0x8000 + o))
  | none => if s.attendOverlap c.fn ((List.range n).map c.attendReq) then some 0xFFFF else none

/-- DETAIL of the first breach of the parameters of a JOB_SUBMIT or an ATTEND (R145, R234, R298, R308). -/
def State.paramsBad (s : State) (c : Cmd) : Option (BitVec 16) :=
  let reservation (d : Option (BitVec 16)) : Option (BitVec 16) := if s.cmdReservationBad c then some 24 else d
  match c.op with
  | some .jobSubmit =>
    (match (s.fn c.fn).graph (c.arg 16 4) with
     | none => some 16
     | some g => reservation (s.bindingsBad c.fn g.image c.block (c.arg 20 2)))
  | some .attend => reservation (s.attendBad c)
  | _ => none

/-- A request reaches beyond its sequence's LENGTH (R299). -/
def State.attendShort (s : State) (f : FnId) (reqs : List AttendReq) : Bool :=
  reqs.any (fun r => match (s.fn f).seq r.handle with
    | some q => decide (q.length < r.endPos)
    | none => true)

/-- Requests in buckets of ascending class, in their own order within a bucket (R302). -/
def attendOrder (reqs : List AttendReq) : List AttendReq :=
  [64, 128, 256, 512, 1024, 2048, 4096, 8192].flatMap (fun c =>
    reqs.filter (fun r => attendClass r.kvLen == c))

/-- ATTEND (R298, R299, R302, R308, R314): one tile for each request, none predicted above 250 µs at /4 (R311). -/
def execAttend (cmd : Nat) (s : State) : Host.Outcome State Fault Refusal :=
  .next (s.withJob cmd .attend (fun c =>
    let reqs := attendOrder ((List.range (c.arg 16 2)).map c.attendReq)
    if s.cmdReservationBad c then s.finish cmd stBadParam 24 0
    else match s.attendBad c with
      | some d => s.finish cmd stBadParam d 0
      | none =>
        if s.vengines c.fn = 0 then s.finish cmd stNoResource 1 0
        else if c.phase = .begun ∧ s.attendShort c.fn reqs = true then s.finish cmd stKvNoPage 0 0
        else s.submitRun c (c.run (.attend cmd) (c.arg 24 4) 0
          { tensors := [], ops := [], groups := [], tiles := [], descs := [], key := 0 } reqs []
          (reqs.map (fun r => min maxTileCycles (Config.attendCycles (attendClass r.kvLen) r.qlen))))))

end Sys2Proof.Machine
end

