-- ==== Sys2Proof/Machine/Frames.lean ====
section
/-!
DEFINITION. Frames of streams: the ring (R194, R195), the decision on a whole frame (R190, R196), the
frame guard (R208 to R214), bound runs (R146, R310, R318, R319, R321), a source link that goes down
(R197), and the back channel's messages (R176, R177).
-/

namespace Sys2Proof.Machine

/-! ## The back channel -/

/-- A back-channel message (R176). -/
def bcBytes (msgNo type : Nat) (body : Bytes) : Bytes :=
  let b := leBytes 1 (msgNo % 16 * 16 + type % 16) ++ leBytes 1 body.length ++ body
  let crc := (crc16 b).toNat
  [0x7E] ++ b ++ leBytes 1 (crc / 256) ++ leBytes 1 crc

/-- Manchester coding, most significant bit first: a 1 is a low-to-high transition at mid-bit (R176). -/
def manchester (b : Bytes) : List Bool :=
  b.flatMap (fun x => (List.range 8).flatMap (fun i => [!x.getLsbD (7 - i), x.getLsbD (7 - i)]))

/-- Bytes of 0x00 fill before a message (R176). -/
def bcFill : Nat := 4

/-- What a message puts on the line (R176). -/
def bcLine (msg : Bytes) : List Bool := manchester (zeros bcFill ++ msg)

/-- A new message on a port's back channel; every type but LINK_CTRL waits for its acknowledgement
(R176 to R178). -/
def State.bcSend (s : State) (p : ClPortId) (type : Nat) (body : Bytes) : State :=
  let n := (s.cl[p.val]).nextMsg.toNat
  let s := s.setCl p (fun x => { x with
    nextMsg := x.nextMsg + 1
    unacked := if type = 1 then x.unacked
      else x.unacked ++ [{ msgNo := n, type := type, body := body, tries := 1 }] })
  s.send (.backChannel p (bcLine (bcBytes n type body)))

/-- A new tally seed is drawn and sent (R180, R211). -/
def State.drawSeed (s : State) (c : CtxId) : State :=
  let x := s.streams[c.val]
  let seed := Config.freeWord s.draws
  let s : State := { s with draws := s.draws + 1 }
  let s := s.setStream c (fun x => { x with newSeed := some seed, seedFrames := 0 })
  s.bcSend (Fin.ofNat 24 x.cfg.port) 5 (leBytes 1 x.cfg.sub ++ leBytes 4 seed.toNat)

/-! ## The ring -/

/-- The address of a ring buffer (R189). -/
def StreamCfg.bufferVa (c : StreamCfg) (i : Nat) : Nat := c.ringVa + i * c.frameBytes

/-- The bindings of an outstanding JOB_SUBMIT with the bytes of each (R145). -/
def State.jobRanges (s : State) (c : Cmd) : List (Nat × Nat) :=
  if c.op = some .jobSubmit then
    match (s.fn c.fn).graph (c.arg 16 4) with
    | some g => (parseBinds c.block (c.arg 20 2)).map (fun b => (b.va, spanOf (g.image.tensor b.tensor)))
    | none => []
  else []

/-- A buffer is held by an outstanding bound run or by a binding of an outstanding JOB_SUBMIT that overlaps
it (R194). -/
def State.bufferHeld (s : State) (c : CtxId) (i : Nat) : Bool :=
  let x := s.streams[c.val]
  s.fore.runs.any (fun r => match r.kind with
    | .bound d b _ _ => d == c && b == i
    | _ => false)
  || s.fore.taken.any (fun d => d.fn == x.owner && (s.jobRanges d).any (fun b =>
        overlap b.1 b.2 (x.cfg.bufferVa i) x.cfg.frameBytes))

/-- The oldest buffer that is not held (R194). -/
def State.freeBuffer (s : State) (c : CtxId) : Option Nat :=
  (s.streams[c.val]).bufOrder.find? (fun i => !s.bufferHeld c i)

/-- A frame begins (R63, R192, R194, R213, R215): waiting settings take effect, a buffer is taken. A stream that
changes its class is not thinned until the new class is (R321). -/
def State.beginFrame (s : State) (c : CtxId) (counter : BitVec 32) (stamp : BitVec 64) : State :=
  let early := !(s.streams[c.val]).hasBegun
  let s := s.setStream c (fun x => { x with
    cfg := x.nextCfg.getD x.cfg, nextCfg := none, swallow := none, hasBegun := true, lateRaised := false
    keep := if (x.nextCfg.getD x.cfg).cls = x.cfg.cls then x.keep else 256
    thinPhase := if (x.nextCfg.getD x.cfg).cls = x.cfg.cls then x.thinPhase else 0 })
  let b := s.freeBuffer c
  s.setStream c (fun x => { x with
    asm := some { counter := counter, bytes := [], stamp := stamp, parts := 0, buffer := b,
                  skips := x.skipInterval, early := early }
    bufOrder := match b with
      | some i => x.bufOrder.filter (· != i) ++ [i]
      | none => x.bufOrder })

/-- Bytes rounded up to whole lines with zeros (R195). -/
def padLines (b : Bytes) : Bytes := fit ((b.length + 255) / 256 * 256) b

/-- What has arrived of a frame lies in its buffer, line by line, but for the lines that failed graft point
2 (R195, R337). -/
def State.storeFrame (s : State) (c : CtxId) (a : FrameAsm) : State :=
  let x := s.streams[c.val]
  match a.buffer with
  | none => s
  | some i =>
    let k := memKey x.owner (x.cfg.bufferVa i)
    let b := padLines (a.bytes.take x.cfg.frameBytes)
    if a.badLines = [] then { s with mem := (s.mem.store k b).1 }
    else { s with mem := s.mem.scatterLines (b.length / 256 + 2) (fun l => !a.badLines.contains (l - k / 256)) k b }

/-- A line of the frame in progress may fail graft point 2 on its way to a memory channel: the one in which
the new payload begins (R336, R337, R348, log 115). -/
def State.lineFails (s : State) (c : CtxId) (at' : Nat) (graft2 : Option ClPortId) : State :=
  let x := s.streams[c.val]
  match graft2, x.asm with
  | some ch, some a =>
    if a.broken || a.buffer.isNone then s
    else
      (s.setStream c (fun x => { x with asm := some { a with
        failed := some (a.failed.getD 2), badLines := at' / 256 :: a.badLines } })).raise
        { source := 0x060 + ch.val, event := .graftMismatch, owner := some x.owner, class2 := x.cfg.cls == 2 }
  | _, _ => s

/-- The counter becomes the reference (R209). -/
def State.seeCounter (s : State) (c : CtxId) (n : BitVec 32) : State :=
  s.setStream c (fun x => { x with counterRef := some n, lastCounter := n, counterSeen := true })

/-! ## The guard -/

/-- Bytes per pixel times 4 (R190). -/
def pixelQuarters (format : Nat) : Option Nat :=
  match format with
  | 0x01 => some 4 | 0x02 => some 5 | 0x03 => some 6 | 0x04 => some 8 | 0x05 => some 8
  | _ => none

/-- The expected length of a pixel frame (R190). -/
def StreamCfg.expected (c : StreamCfg) : Option Nat :=
  (pixelQuarters c.format).map (fun q => c.width * c.height * q / 4)

/-- The length is wrong (R190). -/
def StreamCfg.lengthBad (c : StreamCfg) (n : Nat) : Bool :=
  match c.expected with
  | some e => n != e
  | none => outside 1 n c.frameBytes

/-- Counters wrap at this bound (R209). -/
def StreamCfg.counterMod (c : StreamCfg) : Nat := if c.source = 0 then 2 ^ 32 else 2 ^ (8 * c.counterBytes)

/-- The counter's event: none passes (R208, R209, R214, log 25). -/
def counterEvent (m : Nat) (ref : Option (BitVec 32)) (n : BitVec 32) : Option Ev :=
  match ref with
  | none => none
  | some r =>
    let d := (n.toNat + m - r.toNat % m) % m
    if d = 1 then none else if 2 ≤ d ∧ 2 * d < m then some .frameLate else some .frameFrozen

/-- A tally line for a seed and a counter (R210). -/
def tallyLine (seed counter : BitVec 32) : Bytes :=
  let b := leBytes 4 seed.toNat ++ leBytes 4 counter.toNat
  leBytes 4 counter.toNat ++ leBytes 4 (crc32c b).toNat ++ zeros 248

/-- Line `i` of a frame. -/
def frameLine (b : Bytes) (i : Nat) : Bytes := fit 256 ((b.drop (256 * i)).take 256)

/-- The tally check fails (R210, R211). -/
def Stream.tallyFails (x : Stream) (b : Bytes) (n : BitVec 32) : Bool :=
  let l := frameLine b x.cfg.guard.tallyLine
  !(l == tallyLine x.seed n || (decide (0 < x.grace) && l == tallyLine x.prevSeed n))

/-- The lines that the signature samples (R212). -/
def sampledLines (seed : BitVec 32) (eligible : List Nat) : List Nat :=
  let e := eligible.length
  if e < 64 then eligible
  else (List.range 64).map (fun j =>
    let lo := j * e / 64
    let len := (j + 1) * e / 64 - lo
    let h := (crc32c (leBytes 4 seed.toNat ++ leBytes 4 j)).toNat
    eligible.getD (lo + h % len) 0)

/-- The signature of a frame (R212). -/
def StreamCfg.signature (c : StreamCfg) (b : Bytes) : BitVec 32 :=
  let lines := List.range ((b.length + 255) / 256)
  let eligible := if c.source = 0 then lines.filter (· != c.guard.tallyLine) else lines
  crc32c ((sampledLines c.guard.sigSeed eligible).flatMap (frameLine b))

/-- The interval check fails on a frame (R62, R208, R213). -/
def Stream.intervalFails (x : Stream) (a : FrameAsm) : Bool :=
  match x.lastStamp with
  | none => false
  | some t =>
    if a.skips then false
    else
      decide (a.stamp.toNat ≤ t.toNat)
        || outside ((x.cfg.periodUs - x.cfg.guard.tolUs) * 1000) (a.stamp.toNat - t.toNat)
            ((x.cfg.periodUs + x.cfg.guard.tolUs) * 1000)

/-- The checks that fail on a frame: DETAIL bit and event (R208 to R214). -/
def Stream.guardFailures (x : Stream) (a : FrameAsm) (sig : BitVec 32) : List (Nat × Ev) :=
  let on (i : Nat) : Bool := x.cfg.guard.checks.getLsbD i
  (match (if on 0 then counterEvent x.cfg.counterMod x.counterRef a.counter else none) with
   | some e => [(1, e)]
   | none => [])
  ++ (if on 1 && x.tallyFails a.bytes a.counter then [(2, Ev.tallyMismatch)] else [])
  ++ (if on 2 && x.sigs.contains sig then [(4, Ev.frameRepeated)] else [])
  ++ (if on 3 && x.intervalFails a then [(8, Ev.frameLate)] else [])

/-! ## Statistics -/

/-- Notes an offered (0), served (1) or shed (2) frame for the rates of the last second (R217). -/
def State.note (s : State) (c : CtxId) (kind : Nat) : State :=
  s.setStream c (fun x => { x with
    recent := (s.now, kind) :: x.recent.filter (fun r => decide (s.now.toNat < r.1.toNat + 1000000000)) })

/-- A whole frame is counted. -/
def State.countOffered (s : State) (c : CtxId) (stamp : BitVec 64) : State :=
  (s.setStream c (fun x => { x with offered := satAdd 64 x.offered 1, lastTime := stamp })).note c 0

def State.countServed (s : State) (c : CtxId) : State :=
  (s.setStream c (fun x => { x with served := satAdd 64 x.served 1 })).note c 1

def State.countShed (s : State) (c : CtxId) : State :=
  (s.setStream c (fun x => { x with shed := satAdd 64 x.shed 1 })).note c 2

/-- Status, DETAIL and buffer of the latest frame (R217). -/
def State.noteStatus (s : State) (c : CtxId) (status detail : BitVec 16) (buffer : Nat) : State :=
  s.setStream c (fun x => { x with lastStatus := status, lastDetail := detail, lastBuffer := buffer })

/-! ## Bound runs -/

/-- An entry for a frame without a run. -/
def plainEntry (s : State) (a : FrameAsm) (status detail : BitVec 16) (entry : BitVec 32) : FrameEntry :=
  { counter := a.counter, buffer := a.buffer.getD 0, run := none, status := status, detail := detail,
    entry := entry, stamp := a.stamp, time := s.now, digest := 0 }

/-- The bindings of a bound run: its frame's buffer and its output slot (R146). -/
def boundBinds (x : Stream) (b : Binding) (g : GraphImage) (buffer : Nat) : List Bound :=
  g.tensors.filterMap (fun t =>
    if t.role = .frame then some { tensor := t.id, va := x.cfg.bufferVa buffer }
    else if t.role = .output then some { tensor := t.id, va := b.outVa + buffer * b.outStride + t.slotOff }
    else none)

/-- The run of a valid frame (R146, R314). -/
def boundRun (x : Stream) (c : CtxId) (b : Binding) (g : Graph) (a : FrameAsm) (buffer : Nat) : Run :=
  { id := 0, kind := .bound c buffer a.counter a.stamp, fn := x.owner, cls := x.cfg.cls
    deadline := a.stamp + BitVec.ofNat 64
      ((if x.cfg.deadlineUs = 0 then x.cfg.periodUs else x.cfg.deadlineUs) * 1000)
    reservation := if x.cfg.cls = 2 then b.reservation else 0, replayable := true, handle := g.handle, image := g.image, reqs := []
    binds := boundBinds x b g.image buffer, values := [], tiles := g.image.tiles.map (·.cycles), done := []
    working := [], begun := false, admitted := false, cleared := false, failed := none, lost := 0
    dieLost := none, cancelled := none, entry := 0, raised := [], base := 0, predictedUs := 0, usedUs := 0
    shift := 0, subject := a.counter }

/-- The frame passes thinning (R321). -/
def Stream.keeps (x : Stream) : Bool :=
  decide (x.thinPhase * x.keep / 256 < (x.thinPhase + 1) * x.keep / 256)

/-- Runs of a context that are admitted and not yet begun (R319). -/
def State.backlog (s : State) (c : CtxId) : Nat :=
  (s.fore.runs.filter (fun r => r.ofCtx c && r.admitted && !r.begun)).length

/-- A frame of a bound stream is shed (R318). -/
def State.shedFrame (s : State) (c : CtxId) (a : FrameAsm) (reason : Nat) (entry : BitVec 32) : State :=
  (s.countShed c).pushEntry c (plainEntry s a stShed (BitVec.ofNat 16 reason) entry)

/-- A frame's run is admitted, or waits for its record in replay mode. -/
def State.awaitRun (s : State) (c : CtxId) (a : FrameAsm) : State :=
  s.pushEntry c { plainEntry s a 0 0 0 with run := some (s.fore.nextRun - 1) }

/-- The decision on a valid frame of a bound stream (R310, R318, R319, R321, R463). -/
def State.decideBound (s : State) (c : CtxId) (b : Binding) (g : Graph) (a : FrameAsm) (buffer : Nat) :
    State :=
  let x := s.streams[c.val]
  let r := { boundRun x c b g a buffer with id := s.fore.nextRun }
  let us := usOf (s.plan r {} none).used
  match (if r.cls = 2 ∧ s.logNames r = false then s.pendingFault r.reservation us else none) with
  | some d => (s.offer r us).pushEntry c (plainEntry s a stFaultPending d 0)
  | none =>
    if s.fore.replay.state = .armed then ((s.offer r us).addRun r).awaitRun c a
    else
      let s := (s.offer r us).setStream c (fun x => { x with thinPhase := x.thinPhase + 1 })
      let entry := s.fore.nextEntry
      if r.cls < 2 ∧ x.keeps = false then (s.shedRun r 2 0).shedFrame c a 2 entry
      else if 2 ≤ s.backlog c then (s.shedRun r 3 0).shedFrame c a 3 entry
      else match s.judgeRun r {} with
        | (s, .admitted) => (s.countServed c).awaitRun c a
        | (s, .shed n) => s.shedFrame c a n entry

/-- A valid frame (R196). -/
def State.validFrame (s : State) (c : CtxId) (a : FrameAsm) (buffer : Nat) : State :=
  let x := s.streams[c.val]
  let s := s.noteStatus c stOk 0 buffer
  match x.bound with
  | none => s.countServed c
  | some b =>
    if b.ending then s.countServed c
    else match (s.fn x.owner).graph b.handle with
      | none => s
      | some g => s.decideBound c b g a buffer

/-! ## The decision on a frame -/

/-- The guard's own record of a frame that reached step 3 (R208 to R213). -/
def State.guardSees (s : State) (c : CtxId) (a : FrameAsm) (sig : BitVec 32) : State :=
  let s := s.setStream c (fun x => { x with
    sigs := (sig :: x.sigs).take 4, lastStamp := some a.stamp, skipInterval := x.skipInterval && !a.skips
    grace := x.grace - 1, seedFrames := x.seedFrames + 1 })
  let x := s.streams[c.val]
  let period := x.cfg.guard.seedPeriod
  let s := s.seeCounter c a.counter
  if x.cfg.source = 0 ∧ period ≠ 0 ∧ period ≤ x.seedFrames then s.drawSeed c else s

/-- A frame that failed its guard (R214). -/
def State.guardFails (s : State) (c : CtxId) (a : FrameAsm) (buffer : Nat) (fs : List (Nat × Ev)) : State :=
  let x := s.streams[c.val]
  let d := BitVec.ofNat 16 ((fs.map (·.1)).sum)
  let s := (s.setStream c (fun x => { x with guardFails := satAdd 32 x.guardFails 1 })).noteStatus c
    stFrozen d buffer
  let s := fs.foldl (fun s f => s.raise
    { source := 0x600 + c.val, event := f.2, owner := some x.owner, class2 := x.cfg.cls == 2 }) s
  s.pushEntry c (plainEntry s a stFrozen d 0)

/-- A frame that fails step 2 of R196: INTEGRITY, its counter seen; no signature, no interval (R175, R200,
R337). -/
def State.integrityFrame (s : State) (c : CtxId) (a : FrameAsm) (d : BitVec 16) : State :=
  let s := s.setStream c (fun x => { x with integrityFails := satAdd 32 x.integrityFails 1 })
  let s := (s.seeCounter c a.counter).noteStatus c stIntegrity d (a.buffer.getD 0)
  s.pushEntry c (plainEntry s a stIntegrity d 0)

/-- A frame for which no buffer was free (R194). -/
def State.ringFullFrame (s : State) (c : CtxId) (a : FrameAsm) : State :=
  (s.setStream c (fun x => { x with ringFull := satAdd 32 x.ringFull 1 })).seeCounter c a.counter

/-- A whole frame is decided (R190, R194, R196); in the safe state frames are neither written nor
counted (R397). -/
def State.endFrame (s : State) (c : CtxId) (a : FrameAsm) : State :=
  let s := s.setStream c (fun x => { x with asm := none })
  if s.safe then s
  else
    let s := s.countOffered c a.stamp
    let x := s.streams[c.val]
    match a.buffer with
    | none => s.ringFullFrame c a
    | some buffer =>
      let s := s.storeFrame c a
      if x.cfg.lengthBad a.length then
        (s.setStream c (fun x => { x with lengthErrors := satAdd 32 x.lengthErrors 1 })).seeCounter c a.counter
      else match a.failed with
      | some d => s.integrityFrame c a d
      | none =>
        let sig := x.cfg.signature a.bytes
        let fs := x.guardFailures a sig
        let s := s.guardSees c a sig
        if fs.isEmpty then s.validFrame c a buffer else s.guardFails c a buffer fs

/-- An uncorrectable block, or a failed FCS or checksum, damages the frame in progress (R175, R200). -/
def State.damageFrame (s : State) (c : CtxId) : State :=
  s.setStream c (fun x => { x with asm := x.asm.map (fun a =>
    if a.broken then a else { a with failed := some (a.failed.getD 1) }) })

/-- A damaged frame whose end does not come (R175, log 115): INTEGRITY without a length. -/
def State.cutFrame (s : State) (c : CtxId) (a : FrameAsm) (d : BitVec 16) : State :=
  let s := s.setStream c (fun x => { x with asm := none })
  if s.safe then s
  else if a.buffer.isNone then s.ringFullFrame c a
  else (s.storeFrame c a).integrityFrame c a d

/-- A broken frame is discarded: what has arrived of it lies in its buffer (R173, R195, R200, R206). -/
def State.breakFrame (s : State) (c : CtxId) : State :=
  match (s.streams[c.val]).asm with
  | none => s
  | some a =>
    let s := if s.safe || a.broken then s else s.storeFrame c a
    s.setStream c (fun x => { x with asm := none })

/-- The open context of a source, port and sub-stream. -/
def State.contextOf (s : State) (source port sub : Nat) : Option CtxId :=
  (List.finRange 48).find? (fun (c : CtxId) =>
    let x := s.streams[c.val]
    x.isOpen && x.opening.isNone && x.closing.isNone && x.cfg.source == source && x.cfg.port == port
      && (decide (source ≠ 0) || x.cfg.sub == sub))

/-- The source link of a stream goes down (R197); without a counter since STREAM_OPEN, SEQ is free (log 100). -/
def State.streamDown (s : State) (c : CtxId) : State :=
  let x := s.streams[c.val]
  if !x.isOpen || x.linkDown then s
  else
    let n := s.draws
    let s := match x.asm with
      | some a => match a.failed with
        | some d => if x.cfg.source = 0 then s.cutFrame c a d else s.breakFrame c
        | none => s.breakFrame c
      | none => s
    let x := s.streams[c.val]
    let s := s.setStream c (fun x => { x with
      linkDown := true, counterRef := none, lastStamp := none, swallow := none, awaitGap := false })
    let s := if x.bound.isSome && !x.counterSeen then s.drawn else s
    s.pushEntry c
      { counter := if x.counterSeen then x.lastCounter + 1 else Config.unseenCounter n, buffer := 0, run := none, status := stStreamDown,
        detail := BitVec.ofNat 16 c.val, entry := 0, stamp := s.now, time := s.now, digest := 0 }

/-- Every open stream of a port's link goes down. -/
def State.portDown (s : State) (source port : Nat) : State :=
  (List.finRange 48).foldl (fun s (c : CtxId) =>
    let x := s.streams[c.val]
    if x.isOpen && x.cfg.source == source && x.cfg.port == port then s.streamDown c else s) s

/-- Every open stream of a port's link is up again (R197). -/
def State.portUp (s : State) (source port : Nat) : State :=
  { s with streams := s.streams.map (fun x =>
      if x.isOpen && x.cfg.source == source && x.cfg.port == port then
        { x with linkDown := false } else x) }

end Sys2Proof.Machine
end

