-- ==== Sys2Proof/Machine/StreamBlock.lean ====
section
/-!
DEFINITION. The stream context block and the guard block: their layouts (R184, R189, R190, R215) and
the checks on them (R192, R215, R216, R467).
-/

namespace Sys2Proof.Machine

/-! ## Reading the blocks -/

/-- The guard block at byte `o` (R215). -/
def parseGuard (b : Bytes) (o : Nat) : Guard :=
  { checks := BitVec.ofNat 4 (leNat b o 1), tolUs := leNat b (o + 4) 4,
    sigSeed := BitVec.ofNat 32 (leNat b (o + 8) 4), seedPeriod := leNat b (o + 12) 4,
    tallyLine := leNat b (o + 16) 4 }

/-- The stream context block (R189). -/
def parseStream (b : Bytes) : StreamCfg :=
  { source := leNat b 0 1, port := leNat b 1 1, sub := leNat b 2 1, cls := leNat b 3 1
    linkSettings := BitVec.ofNat 32 (leNat b 4 4), format := leNat b 8 1, ringCount := leNat b 9 1
    weight := leNat b 10 1, width := leNat b 12 2, height := leNat b 14 2, frameBytes := leNat b 16 4
    periodUs := leNat b 20 4, deadlineUs := leNat b 24 4, trigger := byteAt b 28, phaseUs := leNat b 32 4
    ringVa := leNat b 40 8, udpPort := leNat b 48 2, datagrams := leNat b 50 2
    srcIp := BitVec.ofNat 32 (leNat b 52 4), groupIp := BitVec.ofNat 32 (leNat b 56 4)
    counterOff := leNat b 60 4, counterBytes := leNat b 64 1, counterBig := leNat b 65 1 == 1
    framing := leNat b 66 1, idleChars := leNat b 67 1, uartLen := leNat b 68 4, guard := parseGuard b 96 }

/-! ## Checks -/

/-- The first bad field of a list in any order (R150). -/
def lowestBad (l : List (Nat × Bool)) : Option Nat := ((l.filter (·.2)).map (·.1)).min?

/-- The fields of a guard block at byte `o` (R215, R216, R467). -/
def guardFields (b : Bytes) (o source periodUs frameBytes : Nat) : List (Nat × Bool) :=
  let g := parseGuard b o
  [(o, bitsFrom (leNat b o 1) 4 || (g.checks.getLsbD 1 && source != 0)),
   (o + 4, g.tolUs == 0 || decide (periodUs < 2 * g.tolUs)),
   (o + 12, g.seedPeriod != 0 && decide (g.seedPeriod < 16)),
   (o + 16, source == 0 && decide (frameBytes / 256 ≤ g.tallyLine))]
    ++ reservedBad b (o + 1) (o + 4) ++ reservedBad b (o + 20) (o + 32)

/-- A class-2 context breaks R216: a check of its source not enabled, or too slow. -/
def State.guardWeak (s : State) (source cls : Nat) (g : Guard) : Bool :=
  cls == 2 && (!(g.checks.getLsbD 0 && g.checks.getLsbD 2 && g.checks.getLsbD 3)
    || (source == 0 && !g.checks.getLsbD 1)
    || decide (s.fore.safety.frameUs < g.tolUs + s.fore.safety.reactionUs))

/-- Ports of a SOURCE (R31, R189). -/
def sourcePorts (source : Nat) : Nat := if source = 0 then 24 else if source = 3 then 1 else 4

/-- WIDTH breaks the constraint of its format (R190). -/
def widthBad (format width : Nat) : Bool :=
  match format with
  | 0x80 => width != 0
  | 0x02 => width == 0 || width % 4 != 0
  | 0x03 | 0x05 => width == 0 || width % 2 != 0
  | 0x01 | 0x04 => width == 0
  | _ => false

/-- The fields of a stream context block (R184, R189, R190). -/
def streamFields (b : Bytes) : List (Nat × Bool) :=
  let c := parseStream b
  let src := c.source
  let only (o : Nat) (bad ok : Bool) (v : Nat) : Nat × Bool := (o, if ok then bad else v != 0)
  let link := src == 0
  let eth := src == 1
  let uart := src == 2
  let counted := src == 1 || src == 2 || src == 3
  let ls := c.linkSettings
  [(0, decide (3 < src)), (1, decide (sourcePorts src ≤ c.port)), only 2 (decide (1 < c.sub)) link c.sub,
   (3, decide (2 < c.cls)),
   only 4 (ls.extractLsb' 16 16 != 0 || ls.extractLsb' 9 6 != 0 || ls.extractLsb' 4 4 != 0) link ls.toNat,
   (8, (pixelQuarters c.format).isNone && c.format != 0x80), (9, outside 2 c.ringCount 8),
   (10, c.weight == 0), (11, byteAt b 11 != 0), (12, widthBad c.format c.width),
   (14, if c.format = 0x80 then c.height != 0 else c.height == 0),
   (16, c.frameBytes % 256 != 0 || outside 256 c.frameBytes (64 * 2 ^ 20) || match c.expected with
      | some n => decide (c.frameBytes < n)
      | none => false),
   (20, outside 1000 c.periodUs 1000000),
   only 28 (bitsFrom c.trigger.toNat 3) link c.trigger.toNat,
   (32, decide (c.periodUs ≤ c.phaseUs)), (40, c.ringVa % 4096 != 0),
   only 48 (c.udpPort == 0) eth c.udpPort, only 50 (c.datagrams == 0) eth c.datagrams,
   only 52 false eth c.srcIp.toNat, only 56 false eth c.groupIp.toNat,
   only 60 false counted c.counterOff,
   only 64 (!([1, 2, 4].contains c.counterBytes)) counted c.counterBytes,
   only 65 (decide (1 < leNat b 65 1)) counted (leNat b 65 1),
   only 66 (decide (1 < c.framing)) uart c.framing,
   only 67 (c.framing == 1 && decide (c.idleChars < 2)) uart c.idleChars,
   only 68 (c.framing == 0 && outside 1 c.uartLen 65536) uart c.uartLen]
    ++ reservedBad b 29 32 ++ reservedBad b 36 40 ++ reservedBad b 72 96
    ++ guardFields b 96 src c.periodUs c.frameBytes

/-- DETAIL of the first breach of a stream context block: a field, or the combination of R216. -/
def State.streamBlockBad (s : State) (b : Bytes) : Option (BitVec 16) :=
  match lowestBad (streamFields b) with
  | some o => some (BitVec.ofNat 16 (0x8000 + o))
  | none =>
    let c := parseStream b
    if s.guardWeak c.source c.cls c.guard then some 0xFFFF else none

/-- What STREAM_CONFIG may not change is as in force (R192). -/
def sameFixed (cur new' : StreamCfg) : Bool :=
  { new' with
    cls := cur.cls, weight := cur.weight, periodUs := cur.periodUs, deadlineUs := cur.deadlineUs
    trigger := cur.trigger, phaseUs := cur.phaseUs, linkSettings := cur.linkSettings, guard := cur.guard } == cur

end Sys2Proof.Machine
end

