-- ==== Sys2Proof/Machine/Link.lean ====
section
/-!
DEFINITION. Chroylink: training (R158 to R161, R181, R182), link blocks (R162 to R175), sync loss
(R166, R183), acknowledgements and their time-outs (R176 to R180), the retrain of new settings (R185),
triggers (R179, R189) and late frames (R213).
-/

namespace Sys2Proof.Machine

/-! ## The equaliser -/

/-- Ranges of the six taps (R160). -/
def tapRange (i : Fin 6) : Int × Int :=
  if i.val = 0 then (-32, 96) else if i.val ≤ 2 then (-48, 48) else (-24, 24)

/-- The sign of a level, as the LMS takes a decision (R161). -/
def levelSign : Pam4 → Int
  | .m3 | .m1 => -1
  | .p1 | .p3 => 1

/-- The bit pair of a level, Gray coded (R154). -/
def levelBits : Pam4 → Nat
  | .m3 => 0
  | .m1 => 1
  | .p1 => 3
  | .p3 => 2

/-- The bytes of symbols, most significant bit pair first (R154). -/
def bytesOfSymbols : List Pam4 → Bytes
  | a :: b :: c :: d :: r =>
    BitVec.ofNat 8 (64 * levelBits a + 16 * levelBits b + 4 * levelBits c + levelBits d) :: bytesOfSymbols r
  | _ => []

/-- One step of sign-sign LMS on every tap: the slicer error, and the decision `k` symbols earlier (R161). -/
def lmsStep (taps : Vector Int 6) (err : Int) (dec : Nat → Pam4) : Vector Int 6 :=
  Vector.ofFn (fun i : Fin 6 => max (tapRange i).1
    (min (tapRange i).2 (taps[i.val] + Int.sign err * levelSign (dec (i.val + 1)))))

/-- Symbols between two updates (R161). -/
def lmsEvery : Nat := 16

/-- `n` updates on received symbols: each at the last of 16 symbols (R161, log 116). -/
def lmsSymbols : Nat → Vector Int 6 → List Pam4 → List Int → Vector Int 6
  | 0, taps, _, _ => taps
  | n + 1, taps, syms, errs =>
    lmsSymbols n (lmsStep taps (errs.getD (lmsEvery - 1) 0) (fun k => syms.getD (lmsEvery - 1 - k) .p3))
      (syms.drop lmsEvery) (errs.drop lmsEvery)

/-- The next state of the PRBS7 generator x^7 + x^6 + 1 (R181). -/
def prbs7Next (x : Nat) : Nat := (x * 2 + (x / 64 + x / 32) % 2) % 128

/-- `n` bits of the PRBS7. -/
def prbs7Bits : Nat → Nat → List Bool
  | 0, _ => []
  | n + 1, x => (x / 64 % 2 == 1) :: prbs7Bits n (prbs7Next x)

/-- The preamble's 127 symbols, one bit per symbol: 1 is +3, 0 is −3 (R181). -/
def preambleSymbols : List Pam4 := (prbs7Bits 127 127).map (fun b => if b then .p3 else .m3)

/-- The updates on the known preamble (R161, R181). -/
def lmsPreamble (taps : Vector Int 6) (x : Preamble) : Vector Int 6 :=
  (x.errors.zipIdx).foldl (fun t e => lmsStep t e.1 (fun k =>
    preambleSymbols.getD ((x.phase.val + lmsEvery * e.2 + (lmsEvery - 1) - k) % 127) .p3)) taps

/-- The DFE adapts, unless its coefficients are frozen (R161). -/
def ClPort.adapt (x : ClPort) (f : Vector Int 6 → Vector Int 6) : ClPort :=
  if x.dfeFreeze then x else { x with taps := f x.taps }

/-- The DFE adapts on the preamble (R161). -/
def ClPort.adaptPreamble (x : ClPort) (l : Preamble) : ClPort := x.adapt (fun t => lmsPreamble t l)

/-- The DFE adapts on a block's own decisions, 256 updates (R161). -/
def ClPort.adaptBlock (x : ClPort) (b : LinkBlock) : ClPort :=
  x.adapt (fun t => lmsSymbols 256 t b.symbols b.errors)

/-! ## The bytes and the noise of a block -/

/-- A block's 1,024 bytes (R154, R162). -/
def blockBytes (b : LinkBlock) : Bytes := bytesOfSymbols b.symbols

/-- The four bytes at the sync place, the first sent the most significant (R162). -/
def blockSync (b : LinkBlock) : BitVec 32 := BitVec.ofNat 32 (beNat (blockBytes b) 0 4)

/-- The 1,020 coded bytes, scrambled (R155, R162). -/
def blockCoded (b : LinkBlock) : Bytes := (blockBytes b).drop 4

/-- The mean square of the slicer error over the 4,080 coded symbols, times 4,080 (R170). -/
def blockNoise (b : LinkBlock) : Nat := ((b.errors.drop 16).map (fun e => e.natAbs ^ 2)).sum

/-- The square of full scale in the unit of the running average (R170). -/
def fullScaleSq : Nat := 4080 * 2 ^ 64

/-- The exponential average with weight 1/8; where it is inexact, `up` rounds it (R170, log 117). -/
def noiseAverage (avg m : Nat) (up : Bool) : Nat :=
  (7 * avg + m) / 8 + (if (7 * avg + m) % 8 ≠ 0 ∧ up = true then 1 else 0)

/-- The average is at or below −0.25 × n dBFS (R170). -/
def belowCode (avg n : Nat) : Bool := decide (avg ^ 40 * 10 ^ n ≤ fullScaleSq ^ 40)

/-- NOISE_FLOOR of an average: n where it is −0.25 × n dBFS, 255 at −63.75 dBFS or lower, 0 above full
scale; between two codes `up` chooses (R170, log 117). -/
def noiseFloorOf (avg : Nat) (up : Bool) : BitVec 8 :=
  let n := ((List.range 256).filter (belowCode avg)).length
  if n = 0 then 0
  else if avg ^ 40 * 10 ^ (n - 1) = fullScaleSq ^ 40 ∨ n = 256 ∨ n = 255 ∨ up = false then BitVec.ofNat 8 (n - 1)
  else BitVec.ofNat 8 n

/-! ## A port without a link -/

/-- STREAM_OPEN of a context has failed: the link is down, the stream stays closed (R180, R185, R191). -/
def State.failOpen (s : State) (c : CtxId) : State :=
  match (s.streams[c.val]).opening with
  | none => s
  | some id => (s.finish id stStreamDown (BitVec.ofNat 16 c.val) 0).setStream c Stream.close

/-- Contexts of a port whose opening waits for its seed (R180). -/
def State.seedWaiters (s : State) (p : ClPortId) : List CtxId :=
  (List.finRange 48).filter (fun (c : CtxId) =>
    let x := s.streams[c.val]
    x.isOpen && x.cfg.source == 0 && x.cfg.port == p.val && x.opening.isSome
      && x.opening != (s.cl[p.val]).retrainCmd)

/-- A port's STATE returns to DOWN (R181, R183): nothing it has sent is acknowledged any more, and its
streams see STREAM_DOWN (R197). -/
def State.clDown (s : State) (p : ClPortId) : State :=
  let s := (s.seedWaiters p).foldl State.failOpen s
  (s.setCl p (fun x => { x with
    state := .down, phase := .idle, unacked := [], badSyncs := 0, resyncHits := 0
    loose0 := none, loose1 := none })).portDown 0 p.val

/-- A retrain is called for (R178, R182, R183, R185). -/
def State.retrain (s : State) (p : ClPortId) : State :=
  (s.setCl p (fun x => { x with
    retrains := if x.beenUp then satAdd 32 x.retrains 1 else x.retrains })).clDown p

/-! ## Training -/

/-- A group's training begins (R86, R182). -/
def execChroylinkGroupStart (g : Fin 6) (s : State) : Host.Outcome State Fault Refusal :=
  .next (s.when s.rootRuns { s with cl := s.cl.mapIdx (fun i x =>
    if i / 4 = g.val then { x with started := true, inWindow := true } else x) })

/-- A group's 20 ms window closes (R69, R86). -/
def execChroylinkGroupWindowClose (g : Fin 6) (s : State) : Host.Outcome State Fault Refusal :=
  .next (s.when s.rootRuns
    (let s : State := { s with
       cl := s.cl.mapIdx (fun i x => if i / 4 = g.val then { x with inWindow := false } else x) }
     s.setBoot (fun b => { b with
        groupsClosed := if b.closedMask.getLsbD g.val then b.groupsClosed else b.groupsClosed + 1
        closedMask := b.closedMask ||| (1 <<< g.val) })))

/-- A training attempt starts (R181, R182). -/
def execClTrainingAttemptStart (p : ClPortId) (s : State) : Host.Outcome State Fault Refusal :=
  .next (s.when (s.rootRuns && (s.cl[p.val]).started && decide ((s.cl[p.val]).state = .down))
    ((s.setCl p (fun x => { x with
      state := .training, phase := .preamble, trainAttempts := satAdd 16 x.trainAttempts 1
      taps := Vector.replicate 6 0, agcFrozen := false, noiseAge := 0xFFFFFFFF, noiseValid := false })).bcSend p 1 [0]))

/-- The preamble is found and the AGC has settled: the sweep, or the fixed preset (R181). -/
def execClPreambleFound (p : ClPortId) (agc : BitVec 7) (s : State) : Host.Outcome State Fault Refusal :=
  .next (s.when (s.rootRuns && decide ((s.cl[p.val]).phase = .preamble))
    (s.setCl p (fun x =>
      if x.ctleFixed then { x with agc := agc, preset := x.ctlePreset, phase := .dfe }
      else { x with agc := agc, preset := 0, phase := .sweep 0 none })))

/-- One preset of the sweep is measured; after the last the best is applied, ties to the lower (R181). -/
def ClPort.swept (x : ClPort) (error : Nat) (agc : BitVec 7) (l : Preamble) : ClPort :=
  match x.phase with
  | .sweep i best =>
    let x := { x.adaptPreamble l with agc := agc }
    let best := match best with
      | some (j, e) => if error < e then (i, error) else (j, e)
      | none => (i, error)
    if i < 7 then { x with phase := .sweep (i + 1) (some best), preset := BitVec.ofNat 3 (i + 1) }
    else { x with phase := .dfe, preset := BitVec.ofNat 3 best.1 }
  | _ => x

/-- A preset's slicer error is measured (R181). -/
def execClCtlePresetDone (p : ClPortId) (error : Nat) (agc : BitVec 7) (x : Preamble) (s : State) :
    Host.Outcome State Fault Refusal :=
  .next (s.when s.rootRuns (s.setCl p (fun y => y.swept error agc x)))

/-- The DFE has adapted on the preamble: GO (R181). -/
def execClDfePreambleDone (p : ClPortId) (x : Preamble) (s : State) : Host.Outcome State Fault Refusal :=
  .next (s.when (s.rootRuns && decide ((s.cl[p.val]).phase = .dfe))
    ((s.setCl p (fun y => { y.adaptPreamble x with phase := .lock 0 })).bcSend p 1 [1]))

/-- A bound of the attempt fails (R181). -/
def execClTrainingBoundExpired (p : ClPortId) (s : State) : Host.Outcome State Fault Refusal :=
  .next (s.when (s.rootRuns && decide ((s.cl[p.val]).state = .training)) (s.clDown p))

/-! ## The bridge's acknowledgements -/

/-- FRAME_COUNT of the frame in progress on a sub-stream without an open context (R174, R191). -/
def ClPort.loose (x : ClPort) (sub : Nat) : Option (BitVec 32) := if sub = 0 then x.loose0 else x.loose1

/-- Notes the frame in progress on a sub-stream without an open context. -/
def ClPort.setLoose (x : ClPort) (sub : Nat) (v : Option (BitVec 32)) : ClPort :=
  if sub = 0 then { x with loose0 := v } else { x with loose1 := v }

/-- STREAM_OPEN completes (R180, R191): the stream accepts frames from the first start of frame; the frame
in progress, counted at its start, is discarded. -/
def State.opened (s : State) (c : CtxId) : State :=
  let x := s.streams[c.val]
  match x.opening with
  | none => s
  | some id =>
    let y := s.cl[(Fin.ofNat 24 x.cfg.port : ClPortId).val]
    (s.setStream c (fun x => { x with
      opening := none, swallow := y.loose x.cfg.sub, grace := 0 })).finish id stOk 0 0

/-- A STREAM_CONFIG takes effect at the next start of frame and completes (R185, R192). -/
def State.configured (s : State) (id : Nat) : State :=
  match s.cmd id with
  | none => s
  | some c =>
    (s.setStream (Fin.ofNat 48 (c.arg 16 1)) (fun x => { x with nextCfg := some (parseStream c.block) })).finish
      id stOk 0 0

/-- The port is UP (R181): the command that waited for it goes on (R185). -/
def State.clUp (s : State) (p : ClPortId) (bridge : BitVec 32) : State :=
  let cmd := (s.cl[p.val]).retrainCmd
  let s := (s.setCl p (fun x => { x with
    state := .up, phase := .idle, bridgeId := bridge, bridgePresent := true, lastUp := s.now, beenUp := true
    retrainCmd := none })).portUp 0 p.val
  match cmd with
  | none => s
  | some id =>
    match (List.finRange 48).find? (fun (c : CtxId) => (s.streams[c.val]).opening == some id) with
    | some c => s.drawSeed c
    | none => s.configured id

/-- A seed is acknowledged (R180, R211); one that the bridge refuses is not. -/
def State.seedAck (s : State) (p : ClPortId) (m : BcMsg) (refused : Bool) : State :=
  let seed := BitVec.ofNat 32 (leNat m.body 1 4)
  match (List.finRange 48).find? (fun (c : CtxId) =>
      let x := s.streams[c.val]
      x.isOpen && x.cfg.source == 0 && x.cfg.port == p.val && x.cfg.sub == leNat m.body 0 1
        && x.newSeed == some seed) with
  | none => s
  | some c =>
    if refused then (s.setStream c (fun x => { x with newSeed := none })).failOpen c
    else (s.setStream c (fun x => { x with
      prevSeed := x.seed, seed := seed, newSeed := none, grace := 2 })).opened c

/-- One record of a CTRL block (R178): only the message that waits for it takes it, the one whose MSG_NO and
TYPE both match; a record with the MSG_NO of a waiting message and another TYPE is ignored (log 6). -/
def State.ack (s : State) (p : ClPortId) (r : Bytes) : State :=
  let y := s.cl[p.val]
  match y.unacked.find? (fun m => m.msgNo == leNat r 0 1 && m.type == leNat r 1 1) with
  | none => s
  | some m =>
    let s := s.setCl p (fun x => { x with unacked := x.unacked.filter (fun n => n.msgNo != m.msgNo) })
    let refused := leNat r 2 1 == 1
    if m.type = 3 ∧ y.phase = .identify ∧ refused = false then s.clUp p (BitVec.ofNat 32 (leNat r 4 4))
    else if m.type = 5 then s.seedAck p m refused
    else s

/-- The records of a CTRL block's payload (R178). A PAYLOAD_LEN that the rule does not allow, no multiple of 8
or above 128, still yields its whole records, the first 16 at most (log 6). -/
def ackRecords (payload : Bytes) (len : Nat) : List Bytes :=
  (List.range (min 16 (len / 8))).map (fun i => (payload.drop (8 * i)).take 8)

/-- No acknowledgement within 50 µs (R178, R180). -/
def execBackchannelAckTimeout (p : ClPortId) (msgNo : Fin 16) (s : State) : Host.Outcome State Fault Refusal :=
  .next (s.when s.rootRuns
    (match (s.cl[p.val]).unacked.find? (fun m => m.msgNo == msgNo.val) with
     | none => s
     | some m =>
       if m.tries < 3 then
         (s.setCl p (fun x => { x with
           bcRetries := satAdd 32 x.bcRetries 1
           unacked := x.unacked.map (fun n => if n.msgNo = m.msgNo then { n with tries := n.tries + 1 } else n) })).send
           (.backChannel p (bcLine (bcBytes m.msgNo m.type m.body)))
       else s.retrain p))

/-! ## Blocks -/

/-- The sync word (R162). -/
def syncWord : BitVec 32 := 0x4F3AD7C2

/-- Bit errors of a sync word (R166). -/
def syncErrors (w : BitVec 32) : Nat := popcount 32 (w ^^^ syncWord).toNat

/-- What the decoder makes of a block (R155, R163, R164): the coded bytes, the codewords corrected, the
symbols corrected, the uncorrectable codewords. -/
structure Decoded where
  bytes   : List Nat
  words   : Nat
  symbols : Nat
  bad     : Nat

/-- A block decoded. -/
def decodeBlock (coded : Bytes) : Decoded :=
  let raw := descramble coded
  let cws := (List.range 4).map (fun k => (codeword raw k, rsDecode (codeword raw k)))
  let n := cws.map (fun x => match x.2 with
    | some (_, k) => k
    | none => 0)
  { bytes := interleave (cws.map (fun x => match x.2 with
      | some (w, _) => w
      | none => x.1))
    words := (n.filter (fun k => k != 0)).length
    symbols := n.sum
    bad := (cws.filter (fun x => x.2.isNone)).length }

/-- The header and payload of a decoded block (R162, R165). -/
structure Header where
  type    : Nat
  flags   : Nat
  len     : Nat
  count   : BitVec 32
  offset  : Nat
  payload : Bytes

/-- Flags of a block (R165). -/
def Header.sub (h : Header) : Nat := h.flags % 2
def Header.sof (h : Header) : Bool := h.flags / 2 % 2 == 1
def Header.eof (h : Header) : Bool := h.flags / 4 % 2 == 1

/-- The header of a block. -/
def Decoded.header (d : Decoded) : Header :=
  let b : Bytes := d.bytes.map (BitVec.ofNat 8)
  { type := leNat b 0 1, flags := leNat b 1 1, len := leNat b 2 2, count := BitVec.ofNat 32 (leNat b 4 4),
    offset := leNat b 8 4, payload := (b.drop 12).take 944 }

/-- A decodable block is malformed (R168). -/
def Decoded.malformed (d : Decoded) : Bool :=
  let h := d.header
  decide (2 < h.type) || decide (8 ≤ h.flags) || decide (944 < h.len)
    || (h.type == 0 && d.bytes.any (· != 0)) || (h.type == 1 && h.sof && h.offset != 0)

/-- A broken frame is counted on its port (R173). -/
def State.countBroken (s : State) (p : ClPortId) : State :=
  s.setCl p (fun x => { x with broken := satAdd 32 x.broken 1 })

/-- The frame in progress breaks (R173); a damaged one is decided as such (R175). -/
def State.breakCl (s : State) (p : ClPortId) (c : CtxId) : State :=
  match (s.streams[c.val]).asm with
  | none => s
  | some a => match a.failed with
    | some d => s.cutFrame c a d
    | none => (s.breakFrame c).countBroken p

/-- Sync loss breaks the frame in progress, whose further blocks are not counted again (R173). -/
def State.cutCl (s : State) (p : ClPortId) (c : CtxId) : State :=
  match (s.streams[c.val]).asm with
  | none => s
  | some a => (s.breakCl p c).setStream c (fun x => { x with swallow := some a.counter })

/-- A block's payload joins the frame in progress, which ends at EOF (R172, R175). After a lost block the
payload no longer lies end to end and is not kept. -/
def State.joinBlock (s : State) (c : CtxId) (h : Header) (graft2 : Option ClPortId) : State :=
  match (s.streams[c.val]).asm with
  | none => s
  | some a =>
    let b := { a with
      bytes := if a.failed.isSome then a.bytes else a.bytes ++ h.payload.take h.len
      parts := a.parts + 1, length := h.offset + h.len }
    let s := (s.setStream c (fun x => { x with asm := some b })).lineFails c a.length graft2
    match (s.streams[c.val]).asm with
    | some b => if h.eof then s.endFrame c b else s
    | none => s

/-- A block without SOF that belongs to no frame in progress (R173): its frame is broken and counted once,
unless it is one whose blocks are discarded already. -/
def State.headless (s : State) (p : ClPortId) (c : CtxId) (h : Header) : State :=
  let s := if (s.streams[c.val]).swallow = some h.count then s else s.countBroken p
  s.setStream c (fun x => { x with swallow := if h.eof then none else some h.count })

/-- A DATA block (R172 to R175); in the safe state frames are neither written nor counted (R397). -/
def State.dataBlock (s : State) (p : ClPortId) (h : Header) (graft2 : Option ClPortId) : State :=
  if s.safe then s
  else match s.contextOf 0 p.val h.sub with
  | none => s.setCl p (fun x => { x.setLoose h.sub (if h.eof then none else some h.count) with
      discarded := if h.sof then satAdd 32 x.discarded 1 else x.discarded })
  | some c =>
    if h.sof then (((s.breakCl p c).beginFrame c h.count s.now)).joinBlock c h graft2
    else match (s.streams[c.val]).asm with
    | none => s.headless p c h
    | some a =>
      if h.count ≠ a.counter then (s.breakCl p c).headless p c h
      else if a.failed.isSome ∨ h.offset = a.length then s.joinBlock c h graft2
      else (s.breakCl p c).setStream c (fun x => { x with swallow := if h.eof then none else some h.count })

/-- An uncorrectable block damages every frame in progress on its port (R167, R175). -/
def State.uncorrectable (s : State) (p : ClPortId) (n : Nat) : State :=
  let s := s.setCl p (fun x => { x with cwUncorrectable := satAdd 32 x.cwUncorrectable n })
  let (owner, class2, _) := s.ownerOf (0x640 + p.val)
  let s := s.raise { source := 0x640 + p.val, event := .linkUncorrectable, owner := owner, class2 := class2 }
  [0, 1].foldl (fun s sub => match s.contextOf 0 p.val sub with
    | some c => s.damageFrame c
    | none => s) s

/-- An IDLE block; without a corrected symbol it measures the noise (R170, R171). -/
def State.idleBlock (s : State) (p : ClPortId) (b : LinkBlock) (symbols : Nat) : State :=
  let s := s.setCl p (fun x => { x with idleBlocks := satAdd 64 x.idleBlocks 1 })
  if symbols = 0 then
    let n := s.draws
    let s : State := { s with draws := n + 1 }
    s.setCl p (fun x =>
      let avg := if x.noiseValid then noiseAverage x.noiseAvg (blockNoise b) (Config.noiseUp n) else blockNoise b
      { x with
        noiseAvg := avg, noiseFloor := noiseFloorOf avg (Config.noiseCode n), noiseValid := true, noiseAge := 0 })
  else s

/-- A block at an accepted sync place (R166 to R178). -/
def State.takeBlock (s : State) (p : ClPortId) (b : LinkBlock) : State :=
  let d := decodeBlock (blockCoded b)
  let h := d.header
  let s := s.setCl p (fun x => { x with
    blocks := satAdd 64 x.blocks 1, badSyncs := 0
    noiseAge := if x.noiseAge = 0xFFFFFFFF then x.noiseAge else min (x.noiseAge + 1) 0xFFFFFFFE
    cwCorrected := satAdd 64 x.cwCorrected d.words
    symCorrected := satAdd 64 x.symCorrected d.symbols })
  let s :=
    if d.bad ≠ 0 then s.uncorrectable p d.bad
    else if d.malformed then s.setCl p (fun x => { x with malformed := satAdd 32 x.malformed 1 })
    else if h.type = 0 then s.idleBlock p b d.symbols
    else if h.type = 2 then (ackRecords h.payload h.len).foldl (fun s r => s.ack p r) s
    else if (s.cl[p.val]).state = .up then s.dataBlock p h b.graft2
    else s
  s.setCl p (fun x => x.adaptBlock b)

/-- Sync loss (R173, R183): in training it ends the attempt. -/
def State.syncLoss (s : State) (p : ClPortId) : State :=
  let up := decide ((s.cl[p.val]).state = .up)
  let s := s.setCl p (fun x => { x with syncLosses := satAdd 32 x.syncLosses 1, badSyncs := 0, agcFrozen := false })
  if up then
    let s := s.setCl p (fun x => { x with state := .resync, resyncHits := 0 })
    [0, 1].foldl (fun s sub => match s.contextOf 0 p.val sub with
      | some c => s.cutCl p c
      | none => s) s
  else s.clDown p

/-- The first exact sync word of an acquisition freezes the AGC (R159). -/
def ClPort.freezeAgc (x : ClPort) (b : LinkBlock) : ClPort :=
  if x.agcFrozen then x else { x with agc := b.agc, agcFrozen := true }

/-- A block while the receiver hunts (R166): block lock at the second exact match in a row. -/
def State.hunt (s : State) (p : ClPortId) (b : LinkBlock) : State :=
  let y := s.cl[p.val]
  let hits := match y.phase with
    | .lock n => n
    | _ => y.resyncHits
  let set (n : Nat) (s : State) : State := s.setCl p (fun x =>
    if x.state = .resync then { x with resyncHits := n } else { x with phase := .lock n })
  if blockSync b ≠ syncWord then (set 0 s).setCl p (fun x => if x.agcFrozen then x else { x with agc := b.agc })
  else
    let s := s.setCl p (fun x => x.freezeAgc b)
    if hits = 0 then set 1 s
    else
      let s := s.setCl p (fun x => { x with noiseValid := false, badSyncs := 0 })
      let s := if y.state = .resync then s.setCl p (fun x => { x with state := .up, resyncHits := 0, lastUp := s.now })
        else (s.setCl p (fun x => { x with phase := .identify })).bcSend p 3 [0, 0]
      s.takeBlock p b

/-- A link block arrives (R162 to R178). -/
def execLinkBlock (p : ClPortId) (b : LinkBlock) (s : State) : Host.Outcome State Fault Refusal :=
  .next (s.when s.rootRuns
    (let y := s.cl[p.val]
     match y.state, y.phase with
     | .down, _ => s
     | .resync, _ => s.hunt p b
     | .training, .lock _ => s.hunt p b
     | .training, .identify | .up, _ =>
       if syncErrors (blockSync b) ≤ 3 then s.takeBlock p b
       else if 3 ≤ y.badSyncs then s.syncLoss p
       else s.setCl p (fun x => { x.adaptBlock b with badSyncs := x.badSyncs + 1 })
     | .training, _ => s))

/-- 64 µs of RESYNC without block lock (R183). -/
def execClResyncTimeout (p : ClPortId) (s : State) : Host.Outcome State Fault Refusal :=
  .next (s.when (s.rootRuns && decide ((s.cl[p.val]).state = .resync)) (s.retrain p))

/-- The port is not UP 10 ms after new settings (R185): the settings stay. -/
def execLinkSettingsRetrainTimeout (p : ClPortId) (s : State) : Host.Outcome State Fault Refusal :=
  .next (s.when s.rootRuns
    (match (s.cl[p.val]).retrainCmd with
     | none => s
     | some id =>
       let s := s.setCl p (fun x => { x with retrainCmd := none })
       match (List.finRange 48).find? (fun (c : CtxId) => (s.streams[c.val]).opening == some id) with
       | some c => s.failOpen c
       | none => s.finish id stBusy 8 0))

/-! ## Triggers and late frames -/

/-- Time on the line of the fill and a message of `n` bytes at 50 Mb/s, in ns (R176). -/
def bcNs (n : Nat) : Nat := (bcFill + n) * 8 * 20

/-- Bytes of a TRIGGER message (R176, R177). -/
def triggerBytes : Nat := 10

/-- The first device time from `t` on, in ns, that equals TRIGGER_PHASE_US modulo PERIOD_US (R189). -/
def StreamCfg.nextTrigger (c : StreamCfg) (t : Nat) : Nat :=
  let period := c.periodUs * 1000
  t + (c.phaseUs * 1000 + period - t % period) % period

/-- DELAY_NS of a TRIGGER that is sent at `t`: from its last bit to the next time of the schedule that it
can still reach (R179, log 118). -/
def StreamCfg.triggerDelay (c : StreamCfg) (t : Nat) : Nat :=
  let sent := t + bcNs triggerBytes
  c.nextTrigger sent - sent

/-- A stream's trigger is due (R179, R189); none in the safe state (R397). -/
def execTrigger (c : CtxId) (s : State) : Host.Outcome State Fault Refusal :=
  let x := s.streams[c.val]
  .next (s.when (s.rootRuns && !s.safe && x.isOpen && x.opening.isNone && x.closing.isNone
      && x.cfg.source == 0 && x.cfg.trigger.getLsbD 0
      && decide ((s.cl[x.cfg.port % 24]).state = .up))
    (s.bcSend (Fin.ofNat 24 x.cfg.port) 4
      (leBytes 1 (x.cfg.trigger.toNat / 2 % 4) ++ leBytes 4 (x.cfg.triggerDelay s.now.toNat))))

/-- No frame has begun by the previous time stamp plus PERIOD_US + TOL_US (R213). -/
def execFrameLateTimeout (c : CtxId) (s : State) : Host.Outcome State Fault Refusal :=
  let x := s.streams[c.val]
  .next (s.when (s.rootRuns && !s.safe && x.isOpen && x.opening.isNone && x.closing.isNone
      && x.cfg.source != 3 && x.cfg.guard.checks.getLsbD 3 && x.hasBegun && !x.lateRaised)
    ((s.setStream c (fun x => { x with lateRaised := true })).raise
      { source := 0x600 + c.val, event := .frameLate, owner := some x.owner, class2 := x.cfg.cls == 2 }))

end Sys2Proof.Machine
end

