-- ==== Sys2Proof/Machine/Streams.lean ====
section
/-!
DEFINITION. The commands of streams and links (R185 to R193, R201, R207, R215 to R217, R471).
-/

namespace Sys2Proof.Machine

/-! ## Link settings -/

/-- The settings in force of a port differ from those of a word, by VALID (R184, R185): in any field,
in a field that needs a retrain. -/
def ClPort.settingsDiffer (x : ClPort) (w : BitVec 32) : Bool × Bool :=
  let ctle := w.getLsbD 3 != x.ctleFixed || w.extractLsb' 0 3 != x.ctlePreset
  (w.getLsbD 15 && (ctle || w.getLsbD 8 != x.dfeFreeze), w.getLsbD 15 && ctle)

/-- The settings take effect (R185). -/
def ClPort.applySettings (x : ClPort) (w : BitVec 32) : ClPort :=
  { x with dfeFreeze := w.getLsbD 8, ctleFixed := w.getLsbD 3, ctlePreset := w.extractLsb' 0 3 }

/-- Another context of the port is open, or a command waits for its retrain (R185). -/
def State.settingsHeld (s : State) (p : ClPortId) (c : CtxId) : Bool :=
  (s.cl[p.val]).retrainCmd.isSome || (List.finRange 48).any (fun (d : CtxId) =>
    let x := s.streams[d.val]
    d != c && x.isOpen && x.cfg.source == 0 && x.cfg.port == p.val)

/-- A command's link settings (R185): refused, or applied with or without a retrain. The command is at
work until the port is UP; `soon` is what follows where no retrain is needed. -/
def State.withSettings (s : State) (id : Nat) (c : CtxId) (p : ClPortId) (w : BitVec 32)
    (begin' soon : State → State) : State :=
  let (differ, ctle) := (s.cl[p.val]).settingsDiffer w
  if differ && s.settingsHeld p c then s.finish id stBusy 8 0
  else
    let s := begin' (if differ then s.setCl p (fun x => x.applySettings w) else s)
    if ctle then ((s.setCl p (fun x => { x with retrainCmd := some id })).hold id).retrain p else soon s

/-! ## STREAM_OPEN -/

/-- The source link of a stream is up (R191, R202, R465). -/
def State.sourceUp (s : State) (c : StreamCfg) : Bool :=
  if c.source = 0 then (s.cl[c.port % 24]).state == .up
  else if c.source = 1 then (s.eth[c.port % 4]).up
  else if c.source = 2 then (s.uart[c.port % 4]).enabled
  else s.fore.replay.state == .armed

/-- Two contexts would hold the same source (R191). -/
def sameSource (a b : StreamCfg) : Bool :=
  a.source == b.source && match a.source with
    | 0 => a.port == b.port && a.sub == b.sub
    | 1 => a.port == b.port && a.udpPort == b.udpPort
    | 2 => a.port == b.port
    | _ => false

/-- A stream as STREAM_OPEN leaves it (R208, R212, R217). -/
def openStream (f : FnId) (cfg : StreamCfg) (opening : Option Nat) : Stream :=
  { isOpen := true, opening := opening, owner := f, cfg := cfg, bufOrder := List.range cfg.ringCount }

/-- A UART frame delimited by gaps is in progress on the stream's port: its rest is discarded (R191). -/
def State.uartBusy (s : State) (cfg : StreamCfg) : Bool :=
  cfg.source == 2 && cfg.framing == 1 && (s.uart[cfg.port % 4]).loose

/-- The checks of STREAM_OPEN beside those of the block (R191): status and DETAIL of the first breach. -/
def State.openBad (s : State) (f : FnId) (ctx : CtxId) (c : StreamCfg) : Option (BitVec 16 × BitVec 16) :=
  if !s.mayOpen f ctx then some (stNoResource, 4)
  else if (s.streams[ctx.val]).isOpen then some (stBusy, 8)
  else if c.cls == 2 && !s.hasAuth f then some (stNotPermitted, 2)
  else if !(s.fn f).oneMapping c.ringVa (c.ringCount * c.frameBytes) true true then some (stBadParam, 0x8028)
  else if s.streams.toList.any (fun x => x.isOpen && sameSource x.cfg c) then some (stBusy, 8)
  else if !s.sourceUp c then some (stStreamDown, BitVec.ofNat 16 ctx.val)
  else none

/-- STREAM_OPEN (R180, R185, R188 to R191, R211, R465). -/
def execStreamOpen (cmd : Nat) (s : State) : Host.Outcome State Fault Refusal :=
  .next (s.withCmd cmd .streamOpen (fun c =>
    let ctx : CtxId := Fin.ofNat 48 (c.arg 16 1)
    match s.streamBlockBad c.block with
    | some d => s.finish cmd stBadParam d 0
    | none =>
      let cfg := parseStream c.block
      match s.openBad c.fn ctx cfg with
      | some (st, d) => s.finish cmd st d 0
      | none =>
        if cfg.source = 0 then
          s.withSettings cmd ctx (Fin.ofNat 24 cfg.port) cfg.linkSettings
            (fun s => s.setStream ctx (fun _ => openStream c.fn cfg (some cmd)))
            (fun s => (s.hold cmd).drawSeed ctx)
        else (s.setStream ctx (fun _ =>
          { openStream c.fn cfg none with awaitGap := s.uartBusy cfg })).finish cmd stOk 0 0))

/-! ## STREAM_CLOSE -/

/-- STREAM_CLOSE (R193). -/
def execStreamClose (cmd : Nat) (s : State) : Host.Outcome State Fault Refusal :=
  .next (s.withCmd cmd .streamClose (fun c =>
    let ctx : CtxId := Fin.ofNat 48 (c.arg 16 1)
    if !s.ownsOpen c.fn ctx then s.finish cmd stBadParam 16 0
    else
      let s := (s.breakFrame ctx).setStream ctx (fun x => { x with
        bound := x.bound.map (fun b => { b with ending := true }) })
      let s := (s.cancelUnbegun ctx).flush ctx
      if s.fore.runs.any (fun r => r.ofCtx ctx) then
        (s.setStream ctx (fun x => { x with closing := some cmd })).hold cmd
      else (s.setStream ctx Stream.close).finish cmd stOk 0 0))

/-- The last begun run has completed, or 2 ms have passed (R193): STREAM_CLOSE completes. Runs that are still
at work complete normally, and the ring returns to the host with the last of them. -/
def execStreamCloseDone (c : CtxId) (s : State) : Host.Outcome State Fault Refusal :=
  .next (s.when s.rootRuns
    (match (s.streams[c.val]).closing with
     | none => s
     | some id =>
       if (s.streams[c.val]).closeDone then s
       else ((s.setStream c (fun x => { x with closeDone := true })).closeIdle c).finish id stOk 0 0))

/-! ## STREAM_CONFIG and GUARD_CONFIG -/

/-- The settings of a stream as last accepted. -/
def Stream.accepted (x : Stream) : StreamCfg := x.nextCfg.getD x.cfg

/-- The checks of STREAM_CONFIG beside those of the block (R192, R308). -/
def State.configBad (s : State) (f : FnId) (x : Stream) (c : StreamCfg) : Option (BitVec 16 × BitVec 16) :=
  if !sameFixed x.accepted c then some (stBusy, 8)
  else if c.cls == 2 && x.accepted.cls != 2 && !s.hasAuth f then some (stNotPermitted, 2)
  else match x.bound with
    | some b => if (c.cls == 2) != (b.reservation != 0) then some (stBusy, 8) else none
    | none => none

/-- STREAM_CONFIG (R185, R192, R308). -/
def execStreamConfig (cmd : Nat) (s : State) : Host.Outcome State Fault Refusal :=
  .next (s.withCmd cmd .streamConfig (fun c =>
    let ctx : CtxId := Fin.ofNat 48 (c.arg 16 1)
    if !s.ownsOpen c.fn ctx then s.finish cmd stBadParam 16 0
    else match s.streamBlockBad c.block with
    | some d => s.finish cmd stBadParam d 0
    | none =>
      let cfg := parseStream c.block
      match s.configBad c.fn (s.streams[ctx.val]) cfg with
      | some (st, d) => s.finish cmd st d 0
      | none =>
        if cfg.source = 0 then
          s.withSettings cmd ctx (Fin.ofNat 24 cfg.port) cfg.linkSettings id (fun s => s.configured cmd)
        else s.configured cmd))

/-- GUARD_CONFIG (R215, R216): the history and the references stay. -/
def execGuardConfig (cmd : Nat) (s : State) : Host.Outcome State Fault Refusal :=
  .next (s.withCmd cmd .guardConfig (fun c =>
    let ctx : CtxId := Fin.ofNat 48 (c.arg 16 1)
    let cur := (s.streams[ctx.val]).accepted
    if !s.ownsOpen c.fn ctx then s.finish cmd stBadParam 16 0
    else match lowestBad (guardFields c.block 0 cur.source cur.periodUs cur.frameBytes) with
    | some o => s.badBlock cmd o
    | none =>
      let g := parseGuard c.block 0
      if s.guardWeak cur.source cur.cls g then s.finish cmd stBadParam 0xFFFF 0
      else (s.setStream ctx (fun x => { x with nextCfg := some { cur with guard := g } })).finish cmd stOk 0 0))

/-! ## STREAM_STATS -/

/-- A rate over the last second in mHz (R217). -/
def State.rate (s : State) (x : Stream) (kind : Nat) : Nat :=
  (x.recent.filter (fun r => r.2 == kind && decide (s.now.toNat < r.1.toNat + 1000000000))).length * 1000

/-- The statistics record, 80 bytes (R217). -/
def State.streamRecord (s : State) (c : CtxId) (x : Stream) : Bytes :=
  leBytes 1 c.val ++ leBytes 1 (if x.isOpen then (if x.linkDown then 2 else 1) else 0) ++ leBytes 1 x.cfg.cls
    ++ zeros 1 ++ leBytes 4 x.lastCounter.toNat ++ leBytes 8 x.lastTime.toNat ++ leBytes 8 x.offered
    ++ leBytes 8 x.served ++ leBytes 8 x.shed ++ leBytes 4 x.guardFails ++ leBytes 4 x.integrityFails
    ++ leBytes 4 x.ringFull ++ leBytes 4 x.lengthErrors ++ leBytes 4 (s.rate x 0) ++ leBytes 4 (s.rate x 1)
    ++ leBytes 4 (s.rate x 2) ++ leBytes 1 x.lastBuffer ++ zeros 1 ++ leBytes 2 x.lastStatus.toNat
    ++ leBytes 2 x.lastDetail.toNat ++ zeros 6

/-- STREAM_STATS (R217): a context open to another function is none of this one's (R94, log 23), and a
closed one shows its last frames to its last owner alone. -/
def execStreamStats (cmd : Nat) (io : HostIo) (s : State) : Host.Outcome State Fault Refusal :=
  .next (s.withCmd cmd .streamStats (fun c =>
    let ctx : CtxId := Fin.ofNat 48 (c.arg 16 1)
    let x := s.streams[ctx.val]
    if x.isOpen && x.owner != c.fn then s.finish cmd stBadParam 16 0
    else s.answer c (c.arg 24 8) (s.streamRecord ctx (if x.owner = c.fn then x else {})) io 80))

/-! ## LINK_STATUS -/

/-- STATE of a Chroylink port (R186). -/
def ClState.code : ClState → Nat
  | .down => 0
  | .training => 1
  | .up => 2
  | .resync => 3

/-- A context on a SUB of a port is open (R186). -/
def State.openSub (s : State) (p : ClPortId) (sub : Nat) : Bool := (s.contextOf 0 p.val sub).isSome

/-- The Chroylink record, 96 bytes (R186). -/
def State.clRecord (s : State) (p : ClPortId) : Bytes :=
  let x := s.cl[p.val]
  let stale := decide (65536 < x.noiseAge)
  zeros 1 ++ leBytes 1 p.val ++ leBytes 1 x.state.code
    ++ leBytes 1 (x.ctleFixed.toNat + 2 * x.dfeFreeze.toNat + 4 * stale.toNat + 8 * x.bridgePresent.toNat)
    ++ leBytes 1 x.preset.toNat ++ leBytes 1 x.agc.toNat ++ x.taps.toList.flatMap (leInt 1)
    ++ leBytes 1 x.noiseFloor.toNat ++ leBytes 1 ((s.openSub p 0).toNat + 2 * (s.openSub p 1).toNat)
    ++ leBytes 2 x.trainAttempts ++ leBytes 4 x.noiseAge ++ leBytes 4 x.bridgeId.toNat ++ leBytes 8 x.blocks
    ++ leBytes 8 x.idleBlocks ++ leBytes 8 x.cwCorrected ++ leBytes 8 x.symCorrected
    ++ leBytes 4 x.cwUncorrectable ++ leBytes 4 x.syncLosses ++ leBytes 4 x.retrains ++ leBytes 4 x.discarded
    ++ leBytes 4 x.malformed ++ leBytes 4 x.broken ++ leBytes 4 x.bcRetries ++ zeros 4
    ++ leBytes 8 x.lastUp.toNat

/-- The Ethernet record, 64 bytes (R201). -/
def State.ethRecord (s : State) (p : Port4) : Bytes :=
  let x := s.eth[p.val]
  leBytes 1 1 ++ leBytes 1 p.val ++ leBytes 1 (if x.up then 2 else 0) ++ leBytes 1 x.speed
    ++ leBytes 6 x.mac.toNat ++ leBytes 2 x.linkDowns ++ leBytes 8 x.frames ++ leBytes 4 x.fcsErrors
    ++ leBytes 4 x.sumErrors ++ leBytes 4 x.discarded ++ leBytes 4 x.other ++ leBytes 4 x.broken
    ++ leBytes 4 x.gptp ++ zeros 12 ++ leBytes 8 x.lastUp.toNat

/-- Bits of a character from the start bit to the first stop bit (R205). -/
def UartPort.charBits (x : UartPort) : Nat := 2 + x.dataBits + (if x.parity = 0 then 0 else 1)

/-- The UART record, 48 bytes (R207). -/
def State.uartRecord (s : State) (p : Port4) : Bytes :=
  let x := s.uart[p.val]
  leBytes 1 2 ++ leBytes 1 p.val ++ leBytes 1 x.enabled.toNat
    ++ leBytes 1 (x.charBits + 16 * x.parity + 64 * (decide (x.stop = 2)).toNat)
    ++ leBytes 4 x.baud ++ leBytes 8 x.chars ++ leBytes 4 x.framing ++ leBytes 4 x.parityErrs
    ++ leBytes 4 x.falseStarts ++ leBytes 4 x.breaks ++ leBytes 4 x.broken ++ leBytes 4 x.discarded ++ zeros 8

/-- STATE of a Drift port and REPLAY_STATE (R471). -/
def DriftState.code : DriftState → Nat
  | .down => 0
  | .training => 1
  | .up => 2
  | .miswired => 3

def ReplayState.code : ReplayState → Nat
  | .off => 0
  | .armed => 1
  | .collecting => 2
  | .broken => 3

/-- The Drift record, 72 bytes (R471). -/
def State.driftRecord (s : State) (p : Port4) : Bytes :=
  let x := s.drift[p.val]
  let mine := s.xc.port == some p
  let xc (n : Nat) : Bytes := leBytes 4 (if mine then n else 0)
  leBytes 1 3 ++ leBytes 1 p.val ++ leBytes 1 x.state.code ++ leBytes 1 (x.enabled.toNat + 2 * mine.toNat)
    ++ leBytes 2 x.nodeId ++ leBytes 2 x.neighbour ++ leBytes 1 s.fore.replay.state.code
    ++ leBytes 1 x.topology ++ leBytes 1 x.xDim ++ leBytes 1 x.yDim ++ leBytes 4 s.fore.replay.entry.toNat
    ++ leBytes 8 x.sent ++ leBytes 8 x.received ++ leBytes 4 x.crcErrors ++ leBytes 4 x.retries
    ++ leBytes 4 x.dropped ++ xc s.xc.matched ++ xc s.xc.mismatched ++ xc s.xc.missing ++ xc s.xc.skipped
    ++ leBytes 2 x.linkDowns ++ zeros 2 ++ leBytes 8 x.lastUp.toNat

/-- The record of a port (R186, R201, R207, R471). -/
def State.linkRecord (s : State) (kind port : Nat) : Bytes :=
  match kind with
  | 0 => s.clRecord (Fin.ofNat 24 port)
  | 1 => s.ethRecord (Fin.ofNat 4 port)
  | 2 => s.uartRecord (Fin.ofNat 4 port)
  | _ => s.driftRecord (Fin.ofNat 4 port)

/-- LINK_STATUS (R186, R201, R207, R471). -/
def execLinkStatus (cmd : Nat) (io : HostIo) (s : State) : Host.Outcome State Fault Refusal :=
  .next (s.withCmd cmd .linkStatus (fun c =>
    s.answer c (c.arg 24 8) (s.linkRecord (c.arg 16 1) (c.arg 17 1)) io
      (BitVec.ofNat 64 (linkRecordSize (c.arg 16 1)))))

end Sys2Proof.Machine
end

