-- ==== Sys2Proof/Machine/Net.lean ====
section
/-!
DEFINITION. Ethernet ingress (R87, R198 to R201) and the UART receivers (R202 to R207).
-/

namespace Sys2Proof.Machine

/-! ## Frames of the two sources -/

/-- The counter of a payload (R200): none if the payload is too short to hold it. -/
def StreamCfg.readCounter (c : StreamCfg) (b : Bytes) : Option (BitVec 32) :=
  if b.length < c.counterOff + c.counterBytes then none
  else some (BitVec.ofNat 32 (if c.counterBig then beNat b c.counterOff c.counterBytes
    else leNat b c.counterOff c.counterBytes))

/-- A frame in progress ends as broken (R200, R206): what has arrived lies in its buffer, and the rest of
the frame is swallowed. -/
def State.spoil (s : State) (c : CtxId) : State :=
  match (s.streams[c.val]).asm with
  | none => s
  | some a => (s.storeFrame c a).setStream c (fun x => { x with asm := some { a with broken := true } })

/-- The frame in progress is one that is not yet counted as broken (R200). -/
def Stream.inFrame (x : Stream) : Bool := match x.asm with
  | some a => !a.broken && a.failed != some 1
  | none => false

/-! ## Ethernet -/

/-- A broken frame of an Ethernet port (R201). -/
def State.ethBroken (s : State) (p : Port4) : State :=
  s.setEth p (fun x => { x with broken := satAdd 32 x.broken 1 })

/-- An IPv4 UDP datagram as it arrived (R198, R199). -/
structure Datagram where
  src     : BitVec 32
  port    : Nat
  payload : Bytes
  /-- A checksum fails (R200). -/
  bad     : Bool

/-- The ones' complement sum of 16-bit words, folded. -/
def onesSum : Bytes → Nat
  | a :: b :: r => a.toNat * 256 + b.toNat + onesSum r
  | [a] => a.toNat * 256
  | [] => 0

/-- A checksum that includes its own field is right. -/
def sumRight (b : Bytes) : Bool := decide (0 < onesSum b) && onesSum b % 65535 == 0

/-- A datagram of an IPv4 packet; none where it is no whole UDP datagram (R198). -/
def parseIp (b : Bytes) : Option Datagram :=
  let ihl := leNat b 0 1 % 16 * 4
  let total := beNat b 2 2
  let udp := (b.take total).drop ihl
  let len := beNat udp 4 2
  if leNat b 0 1 / 16 ≠ 4 ∨ ihl < 20 ∨ b.length < total ∨ total < ihl + 8 ∨ beNat b 6 2 % 16384 ≠ 0
      ∨ leNat b 9 1 ≠ 17 ∨ len < 8 ∨ udp.length < len then none
  else
    let pseudo := (b.drop 12).take 8 ++ [0, 17] ++ (udp.drop 4).take 2
    let udpOk := beNat udp 6 2 == 0 || sumRight (pseudo ++ udp.take len)
    some { src := BitVec.ofNat 32 (beNat b 12 4), port := beNat udp 2 2, payload := (udp.take len).drop 8
           bad := !(sumRight (b.take ihl) && udpOk) }

/-- EtherType and payload of a frame, its 802.1Q tag aside (R198). -/
def etherBody (b : Bytes) : Nat × Bytes :=
  if beNat b 12 2 = 0x8100 then (beNat b 16 2, b.drop 18) else (beNat b 12 2, b.drop 14)

/-- The MAC address of an IPv4 multicast group. -/
def groupMac (g : BitVec 32) : Nat := 0x01005E000000 + g.toNat % 2 ^ 23

/-- A frame is addressed to the port (R199): its own MAC, broadcast, a group of an open context. -/
def State.ethAddressed (s : State) (p : Port4) (b : Bytes) : Bool :=
  let d := beNat b 0 6
  d == (s.eth[p.val]).mac.toNat || d == 0xFFFFFFFFFFFF || s.streams.toList.any (fun x =>
    x.isOpen && x.cfg.source == 1 && x.cfg.port == p.val && x.cfg.groupIp != 0 && d == groupMac x.cfg.groupIp)

/-- The open context of a destination port (R191, R199). -/
def State.udpContext (s : State) (p : Port4) (port : Nat) : Option CtxId :=
  (List.finRange 48).find? (fun (c : CtxId) =>
    let x := s.streams[c.val]
    x.isOpen && x.closing.isNone && x.cfg.source == 1 && x.cfg.port == p.val && x.cfg.udpPort == port)

/-- A frame that no stream takes (R87, R191, R199). -/
def State.ethLost (s : State) (p : Port4) : State :=
  s.setEth p (fun x => { x with discarded := satAdd 32 x.discarded 1 })

/-- One more datagram of the frame in progress, which is decided when DATAGRAMS have arrived (R196, R200). -/
def State.ethJoin (s : State) (c : CtxId) (payload : Bytes) (graft2 : Option ClPortId) : State :=
  match (s.streams[c.val]).asm with
  | none => s
  | some a =>
    let b := { a with
      parts := a.parts + 1, length := a.length + payload.length
      bytes := if a.broken then a.bytes else a.bytes ++ payload }
    let s := (s.setStream c (fun x => { x with asm := some b })).lineFails c a.length graft2
    let x := s.streams[c.val]
    match x.asm with
    | none => s
    | some b =>
      if b.parts < x.cfg.datagrams then s
      else if b.broken then s.setStream c (fun x => { x with asm := none })
      else s.endFrame c b

/-- A payload too short for the counter breaks the frame in progress, which is counted unless it has been
(R200). -/
def State.ethBreak (s : State) (p : Port4) (c : CtxId) : State :=
  if (s.streams[c.val]).inFrame then (s.spoil c).ethBroken p else s

/-- A failed FCS or checksum: the frame in progress is broken and counted, and fails step 2 of R196 when it
is whole (R196, R200). -/
def State.ethFail (s : State) (p : Port4) (c : CtxId) : State :=
  if (s.streams[c.val]).inFrame then (s.damageFrame c).ethBroken p else s

/-- A datagram with another counter ends the frame in progress before DATAGRAMS have arrived (R200). The
first frame since STREAM_OPEN may have been in progress then and counts as one that no stream takes (R191,
log 119). -/
def State.ethCut (s : State) (p : Port4) (c : CtxId) : State :=
  match (s.streams[c.val]).asm with
  | none => s
  | some a =>
    let s := if (s.streams[c.val]).inFrame then (if a.early then s.ethLost p else s.ethBroken p) else s
    s.breakFrame c

/-- A datagram of a context's stream (R200). -/
def State.ethDatagram (s : State) (p : Port4) (c : CtxId) (bad : Bool) (payload : Bytes)
    (graft2 : Option ClPortId) : State :=
  let x := s.streams[c.val]
  match x.cfg.readCounter payload with
  | none => if x.asm.isSome then s.ethBreak p c else s.ethBroken p
  | some n =>
    let same := match x.asm with
      | some a => a.counter == n
      | none => false
    let s := if same then s else (s.ethCut p c).beginFrame c n s.now
    (if bad then s.ethFail p c else s).ethJoin c payload graft2

/-- A frame with a good FCS that a rule lets in is a datagram of a stream, or is counted (R87, R199). -/
def State.ethUdp (s : State) (p : Port4) (fcsOk : Bool) (g : Datagram) (graft2 : Option ClPortId) : State :=
  let s := if g.bad && fcsOk then s.setEth p (fun x => { x with sumErrors := satAdd 32 x.sumErrors 1 }) else s
  match s.udpContext p g.port with
  | none => if fcsOk then s.ethLost p else s
  | some c =>
    let want := (s.streams[c.val]).cfg.srcIp
    if want ≠ 0 ∧ want ≠ g.src then (if fcsOk then s.ethLost p else s)
    else s.ethDatagram p c (g.bad || !fcsOk) g.payload graft2

/-- A frame passes the MAC (R198 to R201); stream ingress stops in the safe state (R397). -/
def State.ethFrame (s : State) (p : Port4) (fcsOk : Bool) (b : Bytes) (graft2 : Option ClPortId) : State :=
  let other (s : State) : State := s.setEth p (fun x => { x with other := satAdd 32 x.other 1 })
  let (type, body) := etherBody b
  let udp := if s.ethAddressed p b ∧ type = 0x0800 then parseIp body else none
  if fcsOk then
    let s := s.setEth p (fun x => { x with frames := satAdd 64 x.frames 1 })
    if 9216 < b.length + 4 ∨ b.length < 14 then other s
    else if type = 0x88F7 then s.setEth p (fun x => { x with gptp := satAdd 32 x.gptp 1 })
    else match udp with
    | none => other s
    | some g => if s.safe then s else s.ethUdp p true g graft2
  else
    let s := s.setEth p (fun x => { x with fcsErrors := satAdd 32 x.fcsErrors 1 })
    match udp with
    | none => s
    | some g => if s.safe then s else s.ethUdp p false g graft2

/-- An Ethernet frame arrives, its FCS taken off. Before 250 ms the MACs are held in reset (R87). -/
def execEthFrame (p : Port4) (fcsOk : Bool) (frame : Bytes) (graft2 : Option ClPortId) (s : State) :
    Host.Outcome State Fault Refusal :=
  .next (s.when (s.rootRuns && s.boot.macsUp && (s.eth[p.val]).up) (s.ethFrame p fcsOk frame graft2))

/-- An Ethernet link goes up or down (R197, R201). -/
def execEthLinkChange (p : Port4) (up : Bool) (speed : Fin 4) (s : State) : Host.Outcome State Fault Refusal :=
  .next (s.when (s.rootRuns && s.boot.macsUp)
    (let was := (s.eth[p.val]).up
     let s := s.setEth p (fun x => { x with
       up := up
       speed := if up then speed.val else x.speed
       lastUp := if up && !was then s.now else x.lastUp
       linkDowns := if was && !up then satAdd 16 x.linkDowns 1 else x.linkDowns })
     if up && !was then s.portUp 1 p.val else if was && !up then s.portDown 1 p.val else s))

/-! ## UART -/

/-- UART_CONFIG (R202). -/
def execUartConfig (cmd : Nat) (s : State) : Host.Outcome State Fault Refusal :=
  .next (s.withCmd cmd .uartConfig (fun c =>
    let p : Port4 := Fin.ofNat 4 (c.arg 16 1)
    let x := s.uart[p.val]
    let y := { x with enabled := c.arg 17 1 == 1, dataBits := c.arg 18 1, parity := c.arg 19 1,
                      stop := c.arg 20 1, baud := c.arg 24 4 }
    let isOpen := s.streams.toList.any (fun t => t.isOpen && t.cfg.source == 2 && t.cfg.port == p.val)
    if isOpen && y != x then s.finish cmd stBusy 8 0
    else (s.setUart p (fun _ => y)).finish cmd stOk 0 0))

/-- Majority of three samples (R203). -/
def majority (a b c : Bool) : Bool := (a && b) || (b && c) || (a && c)

/-- Bit `b` of a character by its samples 7, 8 and 9 (R203). -/
def uartBit (x : List Bool) (b : Nat) : Bool :=
  majority (x.getD (16 * b + 7) true) (x.getD (16 * b + 8) true) (x.getD (16 * b + 9) true)

/-- The sample of stop bit `b` at which a falling edge is first seen (R204). -/
def stopEdge (x : List Bool) (b : Nat) : Option Nat :=
  (List.range 16).find? (fun k => x.getD (16 * b + k - 1) true && !x.getD (16 * b + k) true)

/-- The stop bit is decided high (R204): no edge before sample 8, and the majority, in which samples at or
after an edge are replaced by the last before it. -/
def stopOk (x : List Bool) (b : Nat) : Bool :=
  match stopEdge x b with
  | none => uartBit x b
  | some e =>
    let at' (k : Nat) : Bool := x.getD (16 * b + (if e ≤ k then e - 1 else k)) true
    decide (8 ≤ e) && majority (at' 7) (at' 8) (at' 9)

/-- A character as decided (R203, R204): its data, least significant bit first, framing error, parity
error, all bits 0. -/
structure Character where
  data    : Byte
  framing : Bool
  parity  : Bool
  zero    : Bool

/-- A character from its samples. -/
def UartPort.character (x : UartPort) (samples : List Bool) : Character :=
  let data := (List.range x.dataBits).map (fun i => uartBit samples (i + 1))
  let ones := (data.filter id).length
  let par := x.parity != 0 && uartBit samples (x.dataBits + 1)
  { data := BitVec.ofNat 8 ((data.mapIdx (fun i b => b.toNat * 2 ^ i)).sum)
    framing := !stopOk samples (x.charBits - 1)
    parity := (x.parity == 1 && (ones + par.toNat) % 2 != 0) || (x.parity == 2 && (ones + par.toNat) % 2 != 1)
    zero := data.all (!·) && !par }

/-- The open context of a UART port. -/
def State.uartContext (s : State) (p : Port4) : Option CtxId := s.contextOf 2 p.val 0

/-- A broken frame of a UART port (R207). -/
def State.uartBroken (s : State) (p : Port4) : State :=
  s.setUart p (fun x => { x with broken := satAdd 32 x.broken 1 })

/-- The end of a UART frame: its counter is read as R200 reads it (R206). -/
def State.uartEnd (s : State) (p : Port4) (c : CtxId) (a : FrameAsm) : State :=
  match (s.streams[c.val]).cfg.readCounter a.bytes with
  | none => (s.breakFrame c).uartBroken p
  | some n => s.endFrame c { a with counter := n }

/-- A delivered character of a stream (R206): the first begins a frame, unless the frame that was in progress
at STREAM_OPEN still goes on (R191). -/
def State.uartTake (s : State) (p : Port4) (c : CtxId) (ch : Character) (graft2 : Option ClPortId) : State :=
  let s := if (s.streams[c.val]).asm.isSome || (s.streams[c.val]).awaitGap then s else s.beginFrame c 0 s.now
  let x := s.streams[c.val]
  match x.asm with
  | none => s
  | some a =>
    if a.broken then s
    else if ch.framing || ch.parity then (s.breakFrame c).uartBroken p
    else
      let b := { a with bytes := a.bytes ++ [ch.data], parts := a.parts + 1, length := a.length + 1 }
      let s := (s.setStream c (fun x => { x with asm := some b })).lineFails c a.length graft2
      match (s.streams[c.val]).asm with
      | none => s
      | some b =>
        if x.cfg.framing = 1 ∧ x.cfg.frameBytes < b.length then (s.spoil c).uartBroken p
        else if x.cfg.framing = 0 ∧ x.cfg.uartLen ≤ b.length then s.uartEnd p c b
        else s

/-- A character without an open context: the frame it belongs to is counted once (R207). -/
def State.uartLoose (s : State) (p : Port4) : State :=
  s.setUart p (fun x => { x with
    discarded := if x.loose then x.discarded else satAdd 32 x.discarded 1, loose := true })

/-- The samples of a character from its falling edge (R203, R204, R206); in the safe state the receivers
are off (R397). -/
def execUartCharacter (p : Port4) (samples : List Bool) (graft2 : Option ClPortId) (s : State) :
    Host.Outcome State Fault Refusal :=
  .next (s.when (s.rootRuns && !s.safe && (s.uart[p.val]).enabled)
    (if uartBit samples 0 then s.setUart p (fun x => { x with falseStarts := satAdd 32 x.falseStarts 1 })
     else
       let ch := (s.uart[p.val]).character samples
       let s := s.setUart p (fun x => { x with
         chars := satAdd 64 x.chars 1
         framing := if ch.framing then satAdd 32 x.framing 1 else x.framing
         parityErrs := if ch.parity then satAdd 32 x.parityErrs 1 else x.parityErrs
         breaks := if ch.framing && ch.zero then satAdd 32 x.breaks 1 else x.breaks })
       match s.uartContext p with
       | some c => s.uartTake p c ch graft2
       | none => s.uartLoose p))

/-- IDLE_CHARS character times of high line after a character (R206). -/
def execUartIdleGap (p : Port4) (s : State) : Host.Outcome State Fault Refusal :=
  .next (s.when (s.rootRuns && !s.safe && (s.uart[p.val]).enabled)
    (let s := s.setUart p (fun x => { x with loose := false })
     match s.uartContext p with
     | none => s
     | some c =>
       let s := s.setStream c (fun x => { x with awaitGap := false })
       let x := s.streams[c.val]
       match x.asm with
       | none => s
       | some a =>
         if x.cfg.framing = 0 then s
         else if a.broken then s.setStream c (fun x => { x with asm := none })
         else s.uartEnd p c a))

end Sys2Proof.Machine
end

