-- ==== Sys2Proof/Machine/Replay.lean ====
section
/-!
DEFINITION. Replay racks (R461 to R467): collection, the records of an armed replay and how each is
applied, fed frames, and the end of a replay.
-/

namespace Sys2Proof.Machine

/-! ## Runs that wait -/

/-- What a waiting run was refused with: its command completes, or its frame's entry is written. -/
def State.refuseRun (s : State) (r : Run) (status detail : BitVec 16) (entry : BitVec 32) : State :=
  let s := s.setFore (fun x => { x with runs := x.runs.filter (fun y => y.id != r.id) })
  match r.kind with
  | .bound c _ _ _ => (if status = stShed then s.countShed c else s).decideEntry c r.id (fun e =>
      { e with status := status, detail := detail, entry := entry, time := s.now })
  | .job cmd | .attend cmd => s.finish cmd status detail (entry.setWidth 64)

/-- A waiting run is admitted (R309, R329); its tiles may start, or wait for its PLACE record (R463). -/
def State.admitRun (s : State) (r : Run) (p : Plan) (cleared : Bool) : State :=
  let us := usOf p.used
  let s := if r.cls = 2 then s.chargeRun r.reservation us else s
  let entry := s.fore.nextEntry
  let s := s.logRecord r.cls (some r.fn)
    (.admission r.subject r.context (crewOf r.fn) (r.reservation % 65536) (min p.us (2 ^ 32 - 1)))
  let s := s.setRun r.id (fun r => { r with
    entry := entry, admitted := true, cleared := cleared, predictedUs := us, shift := s.fore.shift
    base := p.used * 65536 / s.factor r })
  match r.kind with
  | .bound c _ _ _ => s.countServed c
  | _ => s

/-- A waiting run is shed (R329). -/
def State.shedWaiting (s : State) (r : Run) (reason late : Nat) : State :=
  let entry := s.fore.nextEntry
  (s.shedRun r reason late).refuseRun r stShed (BitVec.ofNat 16 reason) entry

/-- A valid frame of a bound stream counts in the stream's phase (R321). -/
def State.passPhase (s : State) (r : Run) : State :=
  match r.kind with
  | .bound c _ _ _ => s.setStream c (fun x => { x with thinPhase := x.thinPhase + 1 })
  | _ => s

/-- A waiting run meets normal admission (R310, R318, R464). -/
def State.readmit (s : State) (r : Run) : State :=
  let p := s.plan r (s.waitsOf r) none
  let us := usOf p.used
  match (if r.cls = 2 then s.pendingFault r.reservation us else none) with
  | some d => s.refuseRun r stFaultPending d 0
  | none =>
    let thinned := match r.kind with
      | .bound c _ _ _ => decide (r.cls < 2) && !(s.streams[c.val]).keeps
      | _ => false
    let crowded := match r.kind with
      | .bound c _ _ _ => decide (2 ≤ s.backlog c)
      | _ => false
    let s := s.passPhase r
    if thinned then s.shedWaiting r 2 0
    else if crowded then s.shedWaiting r 3 0
    else if !s.late r p then s.admitRun r p true
    else match (if r.cls = 2 then s.sliceOf (portOf r.fn) else none) with
      | none => s.shedWaiting r 1 (s.lateness r p)
      | some e =>
        let q := s.plan r (s.waitsOf r) (some e)
        if s.late r q then s.shedWaiting r 1 (s.lateness r p)
        else (s.admitRun r q true).abortSlice e (some r.id)

/-! ## The end of a replay -/

/-- The device disarms (R464): SOURCE 3 streams see their link go down, admitted runs go on, waiting runs
meet normal admission. -/
def State.disarm (s : State) (state : ReplayState) : State :=
  let s := s.setFore (fun x => { x with
    replay := { x.replay with state := state, log := [], loaded := 0, stopped := [] }
    runs := x.runs.map (fun r => if r.admitted then { r with cleared := true } else r) })
  let s := s.portDown 3 0
  (s.fore.runs.filter (fun r => !r.admitted)).foldl State.readmit s

/-- The replay breaks (R464): the next record has waited 2 s of device time, or no record before the next SHIFT
record names a run that is present and waits. A SHIFT record that is itself the next is applied first. -/
def State.replayBreaks (s : State) : Bool :=
  let p := s.fore.replay
  decide (p.log ≠ [] ∧ p.frontAt.toNat + 2000000000 ≤ s.now.toNat)
    || ((p.log.head?.map (fun b => leNat b 4 1)) != some 1
        && s.fore.runs.any (fun r => !r.admitted && !(p.log.takeWhile (fun b => leNat b 4 1 != 1)).any (fun b =>
          (leNat b 4 1 == 3 || leNat b 4 1 == 4) && leNat b 6 2 == r.fn.val && leNat b 16 4 == r.subject.toNat)))

/-- REPLAY_BREAK (R464). -/
def execReplayBreak (s : State) : Host.Outcome State Fault Refusal :=
  .next (s.when (s.rootRuns && decide (s.fore.replay.state = .armed) && s.replayBreaks) (s.disarm .broken))

/-! ## REPLAY_ARM -/

/-- Records of 32 bytes. -/
def splitRecords (b : Bytes) : List Bytes :=
  (List.range (b.length / 32)).map (fun i => (b.drop (32 * i)).take 32)

/-- ENTRY of a record (R328). -/
def recordEntry (r : Bytes) : BitVec 32 := BitVec.ofNat 32 (leNat r 0 4)

/-- Every CHECK is right and the ENTRY values are consecutive from the first (R462). -/
def recordsOk : BitVec 32 → List Bytes → Bool
  | _, [] => true
  | n, r :: rest =>
    recordEntry r == n && leNat r 28 4 == (crc32c (r.take 28)).toNat && recordsOk (n + 1) rest

/-- Bytes of log that the firmware reserve holds: the longest LOG_LEN (R462). -/
def replaySpace : Nat := 268435456

/-- Nothing stands against a first arm (R462). -/
def State.armHeld (s : State) (id : Nat) : Bool :=
  decide (s.fore.replay.state = .collecting)
    || s.streams.toList.any (fun x => x.isOpen && x.cfg.source != 3 && x.bound.isSome)
    || s.fore.taken.any (fun d => d.id != id && d.live && (d.op == some .jobSubmit || d.op == some .attend))

/-- ACTION 1 on records that were read (R462). -/
def State.arm1 (s : State) (c : Cmd) (rs : List Bytes) : State :=
  let p := s.fore.replay
  let first := recordEntry (rs.headD [])
  let armed := decide (p.state = .armed)
  let load (f : List Bytes) (s : State) : State := s.setFore (fun x => { x with replay := { x.replay with
    state := .armed, log := f ++ rs, loaded := x.replay.loaded + 32 * rs.length
    frontAt := if f = [] then s.now else x.replay.frontAt
    follow := first + BitVec.ofNat 32 rs.length } })
  if !recordsOk first rs then s.finish c.id stBadParam 0xFFFF 0
  else if armed then
    if first ≠ p.follow then s.finish c.id stBadParam 0xFFFF 0
    else if replaySpace < p.loaded + 32 * rs.length then s.finish c.id stNoResource 2 0
    else (load p.log s).finish c.id stOk 0 0
  else if leNat (rs.headD []) 4 1 ≠ 1 then s.finish c.id stBadParam 0xFFFF 0
  else if s.armHeld c.id then s.finish c.id stBusy 8 0
  else
    let s := s.setFore (fun x => { x with replay := { x.replay with entry := first, loaded := 0 } })
    ((load [] s).portUp 3 0).finish c.id stOk 0 0

/-- REPLAY_ARM (R461, R462, R464). -/
def execReplayArm (cmd : Nat) (s : State) : Host.Outcome State Fault Refusal :=
  .next (s.withCmd cmd .replayArm (fun c =>
    let va := c.arg 16 8
    let len := c.arg 24 8
    let action := c.arg 32 1
    let p := s.fore.replay
    if action = 0 then
      (if p.state = .armed then s.disarm .off
       else s.setFore (fun x => { x with replay := { x.replay with state := .off } })).finish cmd stOk 0 0
    else if action = 1 then
      if !(s.fn c.fn).spans va len .rd true then s.finish cmd stBadParam 16 0
      else
        let s := s.access c.fn va len
        match s.readVa c.fn va len [] with
        | (_, some d) => (s.graftIf c.fn (c.cls == 2) d).finish cmd stIntegrity d 0
        | (b, none) => s.arm1 c (splitRecords b)
    else if !(s.fn c.fn).oneMapping va len false true then s.finish cmd stBadParam 16 0
    else if p.state = .armed then s.finish cmd stBusy 8 0
    else (s.setFore (fun x => { x with replay := { x.replay with
      state := .collecting, base := va, size := len, fn := c.fn, count := 0, entry := x.nextEntry } })).finish
      cmd stOk 0 0))

/-! ## The records -/

/-- The run that a record names by FUNCTION and SUBJECT (R463). -/
def State.namedRun (s : State) (b : Bytes) (admitted : Bool) : Option Run :=
  s.fore.runs.find? (fun r => r.fn.val == leNat b 6 2 && r.subject.toNat == leNat b 16 4
    && r.admitted == admitted && (!admitted || !r.cleared))

/-- A THIN record gives a stream its keep count and phase (R329, R463). -/
def State.applyThin (s : State) (b : Bytes) : State :=
  let c : CtxId := Fin.ofNat 48 (leNat b 20 1)
  (s.setStream c (fun x => { x with keep := leNat b 22 2, thinPhase := leNat b 24 4 })).logRecord 0xFF none
    (.thin s.fore.shift (leNat b 20 1) (leNat b 21 1) (leNat b 22 2) (leNat b 24 4))

/-- One record applied (R330, R463): none where the run that it names is not there; a KV record goes to its
KV_SCATTER, which takes it itself unless a check has stopped it. -/
def State.applyRecord (s : State) (b : Bytes) : Option State :=
  match leNat b 4 1 with
  | 1 => some s.newShift.1.shiftRecord
  | 2 => some (s.repartition (leNat b 20 1) (leNat b 20 1 == 1))
  | 3 => (s.namedRun b false).map (fun r => (s.passPhase r).admitRun r (s.plan r (s.waitsOf r) none) false)
  | 4 => (s.namedRun b false).map (fun r => (s.passPhase r).shedWaiting r (leNat b 21 1) (leNat b 24 4))
  | 5 => (s.namedRun b true).map (fun r => s.setRun r.id (fun r => { r with
      cleared := true, place := some (leNat b 22 2, leNat b 24 4) }))
  | 6 => some (s.applyThin b)
  | 7 => (s.fore.replay.stoppedBy b).map (fun y => s.setFore (fun x => { x with
      replay := { x.replay with stopped := x.replay.stopped.erase y } }))
  | _ => none

/-- The next record of an armed replay is applied (R463). -/
def execReplayRecordApply (s : State) : Host.Outcome State Fault Refusal :=
  .next (s.when (s.rootRuns && !s.safe)
    (match s.nextReplay with
     | none => s
     | some b => match s.applyRecord b with
       | none => s
       | some t => t.consume))

/-! ## REPLAY_FEED -/

/-- What was copied of a fed frame lies in the buffer; no frame comes of it (R195, R466). -/
def State.feedFailed (s : State) (c : CtxId) (b : Bytes) (arrival : BitVec 64) : State :=
  let s := s.beginFrame c 0 arrival
  match (s.streams[c.val]).asm with
  | none => s
  | some a => (s.setStream c (fun x => { x with asm := some { a with bytes := b } })).breakFrame c

/-- A frame is fed (R466): into the next buffer, then decided. One too short to hold the counter is broken, as
R200 reads it. -/
def State.feed (s : State) (c : CtxId) (b : Bytes) (arrival : BitVec 64) : State :=
  match (s.streams[c.val]).accepted.readCounter b with
  | none => s.feedFailed c b arrival
  | some n =>
    let s := s.beginFrame c n arrival
    match (s.streams[c.val]).asm with
    | none => s
    | some a => s.endFrame c { a with bytes := b, length := b.length }

/-- REPLAY_FEED (R465, R466). -/
def execReplayFeed (cmd : Nat) (s : State) : Host.Outcome State Fault Refusal :=
  .next (s.withCmd cmd .replayFeed (fun c =>
    let ctx : CtxId := Fin.ofNat 48 (c.arg 16 1)
    let x := s.streams[ctx.val]
    let va := c.arg 24 8
    let len := c.arg 32 4
    let arrival := c.arg 36 8
    if s.fore.replay.state ≠ .armed then s.finish cmd stStreamDown (BitVec.ofNat 16 ctx.val) 0
    else if !(x.isOpen && x.closing.isNone && x.cfg.source == 3 && decide (portOf x.owner = portOf c.fn)) then
      s.finish cmd stBadParam 16 0
    else if !(s.fn c.fn).spans va len .rd true then s.finish cmd stBadParam 24 0
    else if (match x.lastFed with
      | some t => decide (arrival ≤ t.toNat)
      | none => false) then s.finish cmd stBadParam 36 0
    else
      let at' : BitVec 64 := BitVec.ofNat 64 arrival
      let s := s.access c.fn va len
      match s.readVa c.fn va len [] with
      | (b, some d) => ((s.feedFailed ctx b at').graftIf c.fn (c.cls == 2) d).finish cmd stIntegrity d 0
      | (b, none) => ((s.setStream ctx (fun x => { x with lastFed := some at' })).feed ctx b at').finish
          cmd stOk 0 0))

end Sys2Proof.Machine
end

