-- ==== Sys2Proof/Machine/Boot.lean ====
section
/-!
DEFINITION. Whole-device resets (R64 to R67, R403, R485), the root PLL (R37, R52) and start-up (R68 to
R77, R81, R89, R327, R361 to R363).
-/

namespace Sys2Proof.Machine

/-! ## Whole-device resets -/

/-- What every whole-device reset leaves (R64): the fuses, the flash, the pins; and the model's own record,
draws and queue. What FIRMWARE_STAGE verified counts from the last reset (R147). -/
def State.blank (s : State) : State :=
  { fixed := s.fixed
    flash := { s.flash with slots := s.flash.slots.map (fun x => { x with staged := false }) }
    sent := s.sent, draws := s.draws, pending := s.pending
    portA := { perstLow := s.portA.perstLow }
    portB := { perstLow := s.portB.perstLow }
    eth := Vector.ofFn (fun p => { mac := s.fixed.macs[p.val] })
    boot := { cause := s.boot.cause, porstLow := s.boot.porstLow, sysresetLow := s.boot.sysresetLow } }

/-- Time zero (R64, R68, R407): the lamp die leaves reset on NOSC; in test mode it enters the safe state
at once and no firmware is loaded (R485). -/
def State.startUp (s : State) (cause : ResetCause) (test : Bool) : State :=
  let b := s.blank
  let t : State := { b with
    boot := { cause := cause, testMode := test }
    wdog := Vector.replicate 3 (Wdog.start s.fixed.wdogHwStart false)
    can := Vector.ofFn (fun b => CanBus.start s.fixed b) }
  if test then t.lampSafe 0x3F else t

/-- PORST_N falls (R66): it wins over SYSRESET_N. -/
def execPorstNAssert (s : State) : Host.Outcome State Fault Refusal :=
  .next { s.blank with boot := { cause := s.boot.cause, porstLow := true } }

/-- PORST_N rises: time zero of a cold start (R64), with the level of TRST_N (R485). -/
def execPorstNDeassert (trstHigh : Bool) (s : State) : Host.Outcome State Fault Refusal :=
  .next (s.when s.boot.porstLow (s.startUp .porst trstHigh))

/-- SYSRESET_N falls; ignored while PORST_N is low (R66). A warm reset keeps the mode that PORST_N's
deassertion fixed (R485). -/
def execSysresetNAssert (s : State) : Host.Outcome State Fault Refusal :=
  .next (s.when (!s.boot.porstLow)
    { s.blank with boot := { cause := s.boot.cause, sysresetLow := true, testMode := s.boot.testMode } })

/-- SYSRESET_N rises: time zero of a warm start (R64). -/
def execSysresetNDeassert (s : State) : Host.Outcome State Fault Refusal :=
  .next (s.when (s.boot.sysresetLow && !s.boot.porstLow) (s.startUp .sysreset s.boot.testMode))

/-- The lamp watchdog's reset pulse ends (R403): a warm start. -/
def execLampWatchdogReset (s : State) : Host.Outcome State Fault Refusal :=
  .next (s.when (s.lampRuns && s.lamp.resetDue) (s.startUp .lampWatchdog s.boot.testMode))

/-! ## The root PLL -/

/-- The root PLL locks (R37): the rootstock's clocks run and device time counts from 0. -/
def execRootPllLock (s : State) : Host.Outcome State Fault Refusal :=
  .next (s.when (!s.held && !s.clk.lost && !s.clk.rootLocked && decide (s.power.state ≠ .night))
    (s.setClk (fun c => { c with rootLocked := true })))

/-- The root PLL loses lock (R52): pins low by a path without a clock, every rootstock and scion clock
stops, the PCIe links fail. -/
def execRootPllLockLoss (s : State) : Host.Outcome State Fault Refusal :=
  .next (s.when s.rootRuns
    { s with
      rootDrivesLow := true
      clk := { s.clk with rootLocked := false, lost := true }
      portA := { s.portA with linkUp := false }
      portB := { s.portB with linkUp := false } })

/-! ## Start-up -/

/-- A boot failure without an event of its own (R72, R76, R77): the safe state with a boot-failure cause. -/
def State.bootFails (s : State) (cause : Nat) : State := s.rootSafe Config.bootFailCode cause

/-- The lamp die has booted (R45, R68, R417, R430): seam up, monitors armed; a signed configuration that
does not verify silences both controllers. -/
def execLampBootDone (configValid : Bool) (s : State) : Host.Outcome State Fault Refusal :=
  .next (s.when (s.lampRuns && s.lamp.onLosc && !s.lamp.booted)
    (let s := s.setLamp (fun l => { l with booted := true, seamUp := true, armed := true, configOk := configValid })
     if configValid then s
     else
       let s : State := { s with can := s.can.map (fun x => { x with silenced := true, safePending := false }) }
       s.raiseWide 0x500 .bootInjectFail))

/-- A checker's injection may run (R73, R77): once in a start on the rootstock and the lamp die, once in
each test of a scion that has not yet joined. -/
def State.mayInject (s : State) (k : Checker) : Bool :=
  !s.boot.complete && !s.boot.passed.contains k && !s.boot.failing.contains k && match checkerDie k with
    | .lamp => s.lampRuns
    | .rootstock => s.rootRuns
    | .scion n => s.rootRuns && decide ((s.scions[n.val]).state = .untested)

/-- A list with an element that it may hold already. -/
def addOnce (k : Checker) (l : List Checker) : List Checker := if l.contains k then l else k :: l

/-- The start-up injection of one checker ends (R73, R361, R362): it passes if it raised its own source and
stayed silent on the clean stimulus, else it raises BOOT_INJECT_FAIL: Fatal on the rootstock and the lamp
die, Alert on a scion. -/
def execStartupInjection (checker : Checker) (raised : Option Nat) (silentOnClean : Bool) (s : State) :
    Host.Outcome State Fault Refusal :=
  let ok := decide (raised = some (checkerSource checker)) && silentOnClean
  .next (s.when (s.mayInject checker)
    (let s := s.setBoot (fun b => { b with injected := addOnce checker b.injected })
     if ok then s.setBoot (fun b => { b with passed := checker :: b.passed })
     else
       let s := s.setBoot (fun b => { b with
         failing := checker :: b.failing, injectFailed := addOnce checker b.injectFailed })
       s.raise { source := checkerSource checker, event := .bootInjectFail
                 tier := some (match checkerDie checker with
                   | .scion _ => 1
                   | _ => 3) }))

/-- A firmware slot passes (R71). -/
def State.slotOk (s : State) (n : Fin 2) : Bool :=
  (s.flash.slots[n.val]).signed && decide (s.fixed.rollback ≤ (s.flash.slots[n.val]).rollback)

/-- The other slot. -/
def otherSlot (n : Fin 2) : Fin 2 := if n = 0 then 1 else 0

/-- The boot ROM has tried the slots (R71, R72): the firmware runs, or the recovery service. In test mode
none is loaded (R485). -/
def execFirmwareAuthentication (s : State) : Host.Outcome State Fault Refusal :=
  .next (s.when (s.rootRuns && !s.boot.testMode && s.boot.firmware.isNone && !s.boot.recovery)
    (let n := s.flash.selected
     if s.slotOk n then s.setBoot (fun b => { b with firmware := some n })
     else if s.slotOk (otherSlot n) then
       s.setBoot (fun b => { b with firmware := some (otherSlot n), fallbackSlot := true })
     else (s.setBoot (fun b => { b with recovery := true })).bootFails 0x01))

/-- Memory is trained (R76): the smallest trained capacity of any channel rules. -/
def execMemoryTrainingDone (gibPerChannel : List Nat) (s : State) : Host.Outcome State Fault Refusal :=
  .next (s.when (s.rootRuns && !s.boot.memTrained && !s.boot.recovery)
    (let least := gibPerChannel.min?.getD 0
     if least = 0 then s.bootFails 0x02
     else s.setBoot (fun b => { b with
       memTrained := true
       scrub := 0
       memReduced := decide (least < s.fixed.fittedGib)
       memMib := Config.memChannels * min least s.fixed.fittedGib * 1024 })))

/-- Every scion is excluded: NO_SCION (R77). -/
def State.noScion (s : State) : State :=
  if s.scions.toList.all (fun x => decide (x.state = .excluded)) then s.bootFails 0x05 else s

/-- A scion joins (R77, R363, R373, R451): its engines are in no crew yet, and the test that it passed
counts for each of them. -/
def State.joinScion (s : State) (n : ScionId) : State :=
  (s.mapScion n (fun e => { e with
    state := .inPool, crew := none, tile := none, slice := false, slicesDone := 0, aborts := 0
    abortFor := none, testAt := s.clk.runCycles, diagMs := s.fore.safety.diagMs })).setScion n (fun x =>
      { x.stewardReset with
        state := .joined, excluded := false, withdrawing := false, failsIn := 0, failsOut := 0, missed := 0 })

/-- A scion's test failed: the event at Alert (R73). -/
def State.scionFailed (s : State) (n : ScionId) : ScionTest → State
  | .pass => s
  | .bistFail e => s.raise
      { source := 0x100 * (1 + n.val) + 0x70 + e.val, event := .selftestFail, tier := some 1 }
  | .injectFail src => s.raise { source := src, event := .bootInjectFail, tier := some 1 }

/-- A scion is excluded (R77, R85). -/
def Scion.exclude (x : Scion) : Scion := { x with state := .excluded, excluded := true }

/-- A scion has failed a start-up test (R77): it is tested once more, from the first checker on, then
excluded. -/
def State.scionTestFails (s : State) (n : ScionId) : State :=
  let s := s.setScion n (fun x => { x with failures := x.failures + 1 })
  let s := s.setBoot (fun b => { b with
    passed := b.passed.filter (fun k => decide (checkerDie k ≠ .scion n))
    failing := b.failing.filter (fun k => decide (checkerDie k ≠ .scion n)) })
  if 2 ≤ (s.scions[n.val]).failures then (s.setScion n Scion.exclude).noScion else s

/-- A scion's start-up test ends (R73, R77, R363): it joins once its engines have passed logic BIST and each
of its checkers its injection; with a checker still to be injected the test is not over. -/
def execScionStartupTestDone (n : ScionId) (bistFailed : Option (Fin 16)) (s : State) :
    Host.Outcome State Fault Refusal :=
  .next (s.when (s.rootRuns && !s.boot.complete && decide ((s.scions[n.val]).state = .untested))
    (match bistFailed with
     | some e => (s.scionFailed n (.bistFail e)).scionTestFails n
     | none =>
       if s.boot.failing.any (fun k => decide (checkerDie k = .scion n)) then s.scionTestFails n
       else if (scionCheckers n).all s.boot.passed.contains then s.joinScion n
       else s))

/-- 260 ms (R77): a scion that has not passed is excluded. -/
def execScionJoinDeadline (s : State) : Host.Outcome State Fault Refusal :=
  .next (s.when (s.rootRuns && !s.boot.complete)
    ({ s with scions := s.scions.map (fun x =>
        if x.state = .untested then x.exclude else x) } : State).noScion)

/-- Config-ready on both ports (R68, R78), whether or not boot goes on to complete. -/
def execConfigReady (s : State) : Host.Outcome State Fault Refusal :=
  .next (s.when s.rootRuns (s.setBoot (fun b => { b with configReady := true })))

/-- 250 ms: the Ethernet MACs are up (R68, R87). -/
def execEthernetMacsUp (s : State) : Host.Outcome State Fault Refusal :=
  .next (s.when s.rootRuns (s.setBoot (fun b => { b with macsUp := true })))

/-- 300 ms: both CAN controllers enter normal mode (R89), unless they are silenced. -/
def execCanNormalMode (s : State) : Host.Outcome State Fault Refusal :=
  .next (s.when (s.lampRuns && s.lamp.booted)
    (let s : State := { s with can := s.can.map (fun x => { x with normal := x.normal || !x.silenced }) }
     ((s.setBoot (fun b => { b with canNormal := true })).kick 0).kick 1))

/-- The conditions of BOOT_COMPLETE (R69, R74): neither die has entered the safe state. -/
def State.bootReady (s : State) : Bool :=
  s.rootRuns && !s.boot.complete && !s.safe && !s.lamp.safe && s.boot.failCause.isNone
    && s.boot.firmware.isSome && dieCheckers.all s.boot.passed.contains && s.boot.memTrained
    && s.scions.toList.all (fun x => decide (x.state = .joined) || decide (x.state = .excluded))
    && s.boot.macsUp && s.boot.canNormal && decide (s.boot.groupsClosed = 6)

/-- BOOT_COMPLETE (R69, R70, R81, R147, R304, R313, R327): the fuse counter rises to the image's rollback
index, shift 0 begins, the first partition, every function READY. The raised counter is the one in use from
here on, also after a warm reset, which does not sense the fuses again (DESIGN CHOICE, log 106). -/
def State.completeBoot (s : State) : State :=
  let rb := match s.boot.firmware with
    | some n => (s.flash.slots[n.val]).rollback
    | none => 0
  let s : State := { s with fixed := { s.fixed with rollback := max s.fixed.rollback rb } }
  let s := s.setBoot (fun b => { b with complete := true })
  let s := s.setFore (fun x => { x with
    usable := usableOf s.joinedCount x.safety.frameUs, shiftAt := s.clk.iclk, since := 0 })
  let s := s.shiftRecord.repartition 5 false
  let s := if s.lamp.seamLost then s else s.setLamp (fun l => { l with toLamp := l.toLamp ++ [.bootComplete] })
  s.eachFn (fun s f => s.setEvent f evtBootDone)

/-- BOOT_COMPLETE occurs (R69). -/
def execBootComplete (s : State) : Host.Outcome State Fault Refusal :=
  .next (s.when s.bootReady s.completeBoot)

/-- 1,000 ms without BOOT_COMPLETE at the lamp die (R70): one that arrives later has no effect. -/
def execBootTimeout (s : State) : Host.Outcome State Fault Refusal :=
  .next (s.when (s.lampRuns && s.lamp.onLosc && !s.lamp.gotBoot && !s.lamp.timedOut)
    ((s.setLamp (fun l => { l with timedOut := true })).raiseWide 0x505 .bootTimeout))

end Sys2Proof.Machine
end

