-- ==== Sys2Proof/Machine/Power.lean ====
section
/-!
DEFINITION. Power, heat and the restore of a scion (R42, R43, R405, R412 to R414, R432 to R452).
-/

namespace Sys2Proof.Machine

/-! ## Power states -/

/-- R414 refuses Night: a running watchdog is not on NOSC, or NOSC by LOSC is tripped (R405). -/
def State.nightBarred (s : State) : Bool :=
  s.wdog.toList.any (fun w => w.runs && w.clockCode != 0) || s.lamp.noscTripped

/-- What POWER_STATE to a state meets (R433): status and DETAIL of the first condition. -/
def State.powerHeld (s : State) (id state : Nat) : Option (BitVec 16 × BitVec 16) :=
  if state = 0 then none
  else if state = 2 && s.nightBarred then some (stNotPermitted, 7)
  else if s.fore.reservations ≠ [] then some (stBusy, 6)
  else if s.streams.toList.any (fun x => x.isOpen && x.bound.isSome) then some (stBusy, 8)
  else if state = 2 && (s.anyOpen || !s.fcu.timers.isEmpty || s.fore.taken.any (fun c => c.id != id)) then
    some (stBusy, 8)
  else none

/-- The device is in Run again (R412, R434). -/
def State.wakeRun (s : State) : State :=
  { s with power := { s.power with state := .run, dozeDue := false, eclkStopped := false } }

/-- POWER_STATE (R433 to R435). -/
def execPowerState (cmd : Nat) (s : State) : Host.Outcome State Fault Refusal :=
  .next (s.withCmd cmd .powerState (fun c =>
    let n := c.arg 16 1
    match s.powerHeld cmd n with
    | some (st, d) => s.finish cmd st d 0
    | none =>
      let s := s.finish cmd stOk 0 0
      if n = 0 then s.wakeRun
      else if n = 1 then
        if s.power.state = .doze then s else { s with power := { s.power with dozeDue := true } }
      else { s with power := { s.power with nightDue := true } }))

/-- A slice stops with its engine's clock (R373). -/
def Engine.stopSlice (x : Engine) : Engine :=
  if x.slice then { x with slice := false, state := if x.state = .underTest then .inPool else x.state } else x

/-- Doze is entered (R432, R434): ECLK of every engine stops. -/
def execDozeEntry (s : State) : Host.Outcome State Fault Refusal :=
  .next (s.when (s.rootRuns && s.power.dozeDue)
    { s with
      power := { s.power with state := .doze, dozeDue := false, eclkStopped := true }
      engines := s.engines.map Engine.stopSlice })

/-- The device in Night (R432, R435): the rootstock, the scions and both CAN controllers have stopped and every
state of theirs is lost; the watchdogs count on, and the TAP keeps its mode (R485). -/
def State.asleep (s : State) : State :=
  let b := s.blank
  { b with
    boot := { b.boot with testMode := s.boot.testMode }
    power := { state := .night }
    wdog := s.wdog
    can := s.can.map (fun x => { cfg := x.cfg, message := x.message, silenced := true }) }

/-- A wake event acts (R413, R436): start-up from Night; a watchdog whose failure woke the device has WOKE. -/
def State.wake (s : State) : WakeCause → State
  | .faultIn => s.startUp .night s.boot.testMode
  | .watchdog w => (s.startUp .night s.boot.testMode).setWdog w (fun x => { x with woke := true })

/-- Night is entered (R435). A safe state that either die entered meanwhile stays (R399, log 99); a wake event
that came meanwhile acts at once (R436). -/
def execNightEntry (s : State) : Host.Outcome State Fault Refusal :=
  .next (s.when (s.rootRuns && s.entersNight)
    (match s.power.wakeDue with
     | none => s.asleep
     | some c => s.asleep.wake c))

/-- The device sleeps, and a wake event would act (R436, R437). -/
def State.sleeps (s : State) : Bool := !s.held && decide (s.power.state = .night) && !s.lamp.deaf

/-- A wake event (R413, R436). -/
def execNightWake (cause : WakeCause) (s : State) : Host.Outcome State Fault Refusal :=
  .next (s.when (s.sleeps && (match cause with
    | .faultIn => true
    | .watchdog w => (s.wdog[w.val]).runs)) (s.wake cause))

/-- NOSC shows no edge for 5 µs in Night (R405, R436): start-up begins with NOSC stopped. -/
def execNoscMissingEdge (s : State) : Host.Outcome State Fault Refusal :=
  .next (s.when s.sleeps
    ((s.startUp .night s.boot.testMode).setLamp (fun l => { l with noscStopped := true })))

/-- A crossing on rail 5 or 9 in Night (R437): pins low, and the lamp die stays in Night. -/
def execNightRailCrossing (rail : Fin 10) (s : State) : Host.Outcome State Fault Refusal :=
  .next (s.when (!s.held && decide (s.power.state = .night) && (rail == 5 || rail == 9))
    { s with lampDrivesLow := true, lamp := { s.lamp with deaf := true } })

/-! ## The budget -/

/-- BUDGET_MW in force (R438). -/
def State.budget (s : State) : Nat := min (s.portA.budgetMw.getD 95000) (s.portB.budgetMw.getD 95000)

/-- BUDGET_SET (R438). -/
def execBudgetSet (cmd : Nat) (s : State) : Host.Outcome State Fault Refusal :=
  .next (s.withCmd cmd .budgetSet (fun c =>
    let v := c.arg 16 4
    let mw := if v = 0 then 95000 else max 30000 (min 95000 v)
    let s := s.setPort (portOf c.fn) (fun p => { p with budgetMw := some mw })
    s.finish cmd stOk 0 (BitVec.ofNat 64 s.budget)))

/-- The excursion allowance after an interval (R440): 1 ms of it is used by an interval above the budget;
once it is used up, 90 intervals in a row at or below the budget give a new one. -/
def PowerMgr.account (p : PowerMgr) (packageMw budget : Nat) : PowerMgr :=
  let p := { p with packageMw := packageMw }
  if p.excursionUs = 0 then
    let quiet := if packageMw ≤ budget then p.quiet + 1 else 0
    if 90 ≤ quiet then { p with excursionUs := 10000, quiet := 0 } else { p with quiet := quiet }
  else if budget < packageMw then { p with excursionUs := p.excursionUs - 1000, quiet := 0 }
  else p

/-- The scion pool (R439, R440): what the package may draw less the rootstock and the lamp die. -/
def scionPool (excursionUs budget baseMw : Nat) : Nat :=
  (if excursionUs = 0 then budget else 120000) - baseMw

/-- A scion's grant (R439 step 3). -/
def grantOf (pool total d4 : Nat) : Nat := if total ≤ pool then d4 else pool * d4 / total

/-- A steward's budget divider (R439 step 4). -/
def budgetDivOf (q : PowerRequest) (grant : Nat) : Nat :=
  if q.d4 ≤ grant then 4 else if q.d5 ≤ grant then 5 else if q.d6 ≤ grant then 6 else 8

/-- The setpoint to which the power manager moves a rail in one interval, for the divider that the grant allows
(R476): up for a faster step, by at most 25 mV; down no further than the divider in force needs. -/
def nextSetpoint (mv want inForce : Nat) : Nat :=
  let need := Config.railMv want
  let floor := max need (Config.railMv inForce)
  if mv < need then min need (mv + 25) else if floor < mv then max floor (mv - 25) else mv

/-- The budget divider (R439, R476): the one that the grant allows, or the fastest slower one that the setpoint
supports. -/
def heldDiv (mv want : Nat) : Nat :=
  ([4, 5, 6].find? (fun d => decide (want ≤ d) && decide (Config.railMv d ≤ mv))).getD 8

/-- A scion in one budget interval (R439, R476): its grant, its rail, and then its divider. -/
def Scion.budget (x : Scion) (q : PowerRequest) (grant : Nat) (acked : Bool) : Scion :=
  let want := budgetDivOf q grant
  let mv := if acked then nextSetpoint x.setpointMv want x.eclkDiv else x.setpointMv
  { x with grantMw := grant, setpointMv := mv, budgetDiv := heldDiv mv want, noGrant := 0 }

/-- A budget interval ends and the next begins (R439 to R441): each joined scion's steward sends its
request and takes its grant; a setpoint that changes is written over AVSBus, and the regulator acknowledges it or
not (R476). -/
def execBudgetInterval (packageMw baseMw : Nat) (requests : List (Option PowerRequest)) (acked : List Bool) (s : State) :
    Host.Outcome State Fault Refusal :=
  .next (s.when s.rootRuns
    (let p := s.power.account packageMw s.budget
     let req (n : Nat) : Option PowerRequest :=
       if (s.scions.toList.getD n {}).state = .joined then (requests[n]?).join else none
     let total := ((List.range 4).map (fun n => ((req n).map (·.d4)).getD 0)).sum
     let pool := scionPool p.excursionUs s.budget baseMw
     let moves := (List.range 4).filterMap (fun n =>
       let x := s.scions.toList.getD n {}
       match req n with
       | none => none
       | some q =>
         let mv := nextSetpoint x.setpointMv (budgetDivOf q (grantOf pool total q.d4)) x.eclkDiv
         if mv = x.setpointMv then none else some (Sent.avsWrite n mv))
     { s with
       power := p
       sent := moves.reverse ++ s.sent
       scions := s.scions.mapIdx (fun n x => match req n with
         | none => x
         | some q => x.budget q (grantOf pool total q.d4) (acked.getD n false)) }))

/-- A steward receives no grant in an interval (R441): after 3 in a row its divider is /8. -/
def execStewardNoGrant (n : ScionId) (s : State) : Host.Outcome State Fault Refusal :=
  .next (s.when (s.seamLive n) (s.setScion n (fun x =>
    { x with noGrant := min 3 (x.noGrant + 1), budgetDiv := if 2 ≤ x.noGrant then 8 else x.budgetDiv })))

/-- The divider in force changes (R42, R43): the larger of the two. -/
def execEclkDividerChange (n : ScionId) (s : State) : Host.Outcome State Fault Refusal :=
  .next (s.when s.rootRuns (s.setScion n (fun x =>
    let d := max x.footprintDiv x.budgetDiv
    { x with
      eclkDiv := d
      throttleSteps := if x.eclkDiv < d then satAdd 32 x.throttleSteps 1 else x.throttleSteps })))

/-! ## Heat -/

/-- The footprint maximum of a scion, 1/8 °C (R442). -/
def State.footprintMax (s : State) (n : Nat) : Int :=
  ((s.footprint.drop (4 * n)).take 4).max?.getD 0

/-- The footprint divider that a maximum demands (R443). -/
def footprintStep (t : Int) : Nat :=
  if 106 * 8 ≤ t then 8 else if 103 * 8 ≤ t then 6 else if 100 * 8 ≤ t then 5 else 4

/-- The threshold of a divider's step (R443), and the next faster step (R444). -/
def stepThreshold (d : Nat) : Int := if d = 8 then 106 * 8 else if d = 6 then 103 * 8 else 100 * 8
def fasterStep (d : Nat) : Nat := if d = 8 then 6 else if d = 6 then 5 else 4

/-- The 10 µs samples of 1 ms (R442, R444, log 128). -/
def coolFor : Nat := 100

/-- A temperature sensor's conditions (R443 to R445): what rises is raised and stands; THERMAL_FOOTPRINT
clears below 112 °C, THERMAL_TRIP below its threshold. The scion of a trip is held in reset. -/
def State.sense (s : State) (source : Nat) (n : ScionId) (t : Int) : State :=
  let s := if t < 112 * 8 then s.clearLive source .thermalFootprint else s
  let s := if t < 125 * 8 then s.clearLive source .thermalTrip else s
  let s := if 115 * 8 ≤ t then
      s.raise { source := source, event := .thermalFootprint, stays := true } else s
  if 125 * 8 ≤ t then
    (s.raise { source := source, event := .thermalTrip, stays := true }).loseScion n
  else s

/-- A footprint maximum is sampled (R443, R444): the divider moves slower at once; below /4, a maximum at least
3 °C below the threshold of the step counts towards the next faster one. -/
def Scion.sampled (x : Scion) (t : Int) : Scion :=
  let d := max x.footprintDiv (footprintStep t)
  { x with footprintDiv := d, cool := if 4 < d ∧ t + 24 ≤ stepThreshold d then min coolFor (x.cool + 1) else 0 }

/-- Every sensor is sampled (R442 to R445); a die sensor of a scion that is not joined is not read. -/
def execFootprintSample (footprint : List Int) (die : List Int) (s : State) : Host.Outcome State Fault Refusal :=
  .next (s.when s.rootRuns
    (let s : State := { s with footprint := footprint, dieTemp := die }
     let s : State := { s with scions := s.scions.mapIdx (fun n x => x.sampled (s.footprintMax n)) }
     let s := (List.range 16).foldl (fun s i =>
       s.sense (0x0A0 + i) (Fin.ofNat 4 (i / 4)) (footprint.getD i 0)) s
     (List.range 64).foldl (fun s i =>
       let n : ScionId := Fin.ofNat 4 (i / 16)
       if (s.scions[n.val]).state = .joined then
         s.sense (0x100 * (1 + i / 16) + 0x80 + i % 16) n (die.getD i 0)
       else s) s))

/-- The footprint maximum has stayed 3 °C below the threshold of the step for 1 ms (R444): one step faster, and
the next not before another 1 ms. -/
def execFootprintCoolStep (n : ScionId) (s : State) : Host.Outcome State Fault Refusal :=
  let x := s.scions[n.val]
  .next (s.when (s.rootRuns && decide (4 < x.footprintDiv) && decide (coolFor ≤ x.cool))
    (s.setScion n (fun x => { x with footprintDiv := fasterStep x.footprintDiv, cool := 0 })))

/-- STATE of a scion entry (R446). -/
def ScionState.code : ScionState → Nat
  | .joined => 0
  | .fenced => 1
  | .excluded => 2
  | .restoring => 3
  | .untested => 2

/-- A scion's reading: none unless it is joined (R446). -/
def State.dieReading (s : State) (n i : Nat) : Int :=
  if (s.scions.toList.getD n {}).state = .joined then s.dieTemp.getD (16 * n + i) 0 else -32768

/-- A scion's entry, 16 bytes (R446). -/
def State.scionEntry (s : State) (n : ScionId) : Bytes :=
  let x := s.scions[n.val]
  let die := ((List.range 16).map (s.dieReading n.val)).max?.getD 0
  leBytes 1 (if x.state = .joined then x.eclkDiv else 0) ++ leBytes 1 x.footprintDiv ++ leBytes 1 x.budgetDiv
    ++ leBytes 1 (ScionState.code x.state) ++ leInt 2 (s.footprintMax n.val) ++ leInt 2 die
    ++ leBytes 4 x.grantMw ++ leBytes 4 x.throttleSteps

/-- POWER_STATE of the record (R446). -/
def Power.code : Power → Nat
  | .run => 0
  | .doze => 1
  | .night => 2

/-- The thermal record, 256 bytes (R446). -/
def State.thermalRecord (s : State) : Bytes :=
  leBytes 4 s.budget ++ leBytes 4 s.power.packageMw ++ leBytes 1 s.power.state.code ++ leBytes 1 4 ++ zeros 2
    ++ leBytes 4 s.power.excursionUs ++ zeros 16 ++ (List.finRange 4).flatMap s.scionEntry
    ++ (List.range 16).flatMap (fun i => leInt 2 (s.footprint.getD i 0))
    ++ (List.range 64).flatMap (fun i => leInt 2 (s.dieReading (i / 16) (i % 16)))

/-- THERMAL_QUERY (R446). -/
def execThermalQuery (cmd : Nat) (io : HostIo) (s : State) : Host.Outcome State Fault Refusal :=
  .next (s.withCmd cmd .thermalQuery (fun c => s.answer c (c.arg 16 8) s.thermalRecord io 256))

/-! ## DIE_RESTORE -/

/-- An engine of a scion is retired (R372). -/
def State.hasRetired (s : State) (n : ScionId) : Bool :=
  (List.finRange 64).any (fun (e : EngineId) =>
    decide (scionOf e = n) && decide ((s.engines[e.val]).state = .retired))

/-- DIE_RESTORE (R451): a joined scion is withdrawn first. -/
def execDieRestore (cmd : Nat) (s : State) : Host.Outcome State Fault Refusal :=
  .next (s.withCmd cmd .dieRestore (fun c =>
    let n : ScionId := Fin.ofNat 4 (c.arg 16 1)
    let joined := decide ((s.scions[n.val]).state = .joined)
    if s.fore.restoring.isSome then s.finish cmd stBusy 8 0
    else if joined && !s.hasRetired n then s.finish cmd stBusy 1 0
    else if 106 * 8 ≤ s.footprintMax n.val then s.finish cmd stThermal (BitVec.ofNat 16 n.val) 0
    else
      let s := (s.setFore (fun x => { x with restoring := some (n, cmd) })).hold cmd
      if joined then (s.setScion n (fun x => { x with withdrawing := true })).settleWithdrawal n
      else s.setScion n (fun x => { x with state := .restoring })))

/-- The restore's tests end (R452): the scion joins, or stays fenced. -/
def execDieRestoreDone (result : ScionTest) (s : State) : Host.Outcome State Fault Refusal :=
  .next (s.when s.rootRuns
    (match s.fore.restoring with
     | none => s
     | some (n, id) =>
       let s := s.settleWithdrawal n
       if (s.scions[n.val]).state ≠ .restoring then s
       else
         let s := s.setFore (fun x => { x with restoring := none })
         match result with
         | .pass => ((s.joinScion n).repartitionNow).finish id stOk 0 0
         | r =>
           ((s.fence n).scionFailed n r).finish id stDieLost (1 <<< n.val) 0))

end Sys2Proof.Machine
end

