-- ==== Sys2Proof/Machine/Admin.lean ====
section
/-!
DEFINITION. Administration: NOP, HELLO and the boot report (R82, R85, R115, R142), the device and
function records (R34, R148), SHARE_SET (R95 to R98), PROVISION (R99 to R102), SAFETY_CONFIG (R355 to
R357), firmware slots (R71, R147), DEBUG_UNLOCK (R141), INJECT (R395) and captured edges (R379, R382).
-/

namespace Sys2Proof.Machine

/-- NOP (R141). -/
def execNop (cmd : Nat) (s : State) : Host.Outcome State Fault Refusal :=
  .next (s.withCmd cmd .nop (fun _ => s.finish cmd stOk 0 0))

/-! ## HELLO -/

/-- RESET_CAUSE (R85). -/
def ResetCause.code : ResetCause → Nat
  | .porst => 0
  | .sysreset => 1
  | .lampWatchdog => 2
  | .night => 3

/-- The degradation bits (R85). -/
def State.degradation (s : State) : Nat :=
  (List.finRange 4).foldl (fun a (n : ScionId) =>
    if (s.scions[n.val]).excluded then a + 2 ^ n.val else a) 0
    + 16 * s.boot.memReduced.toNat + 32 * s.boot.fallbackSlot.toNat

/-- The boot report (R85). -/
def State.bootReport (s : State) : BitVec 16 :=
  BitVec.ofNat 16 (256 * s.boot.cause.code + match s.boot.failCause with
    | some k => k
    | none => s.degradation + if s.safe then 1024 else 0)

/-- FW_VERSION (R34): 0 while no firmware runs. -/
def State.fwVersion (s : State) : BitVec 32 :=
  match s.boot.firmware with
  | some n => (s.flash.slots[n.val]).version
  | none => 0

/-- The tally that HELLO grants (R115); in the safe state it stays as it is (R142). -/
def State.helloGrant (s : State) (c : Cmd) : Nat :=
  if s.safe then (s.fn c.fn).tally else max 8 (min (c.arg 16 2) (min (s.maxTally c.fn) 256))

/-- HELLO (R82, R85, R115, R141, R142). -/
def execHello (cmd : Nat) (s : State) : Host.Outcome State Fault Refusal :=
  .next (s.withCmd cmd .hello (fun c =>
    let status := if s.safe then stSafe else if s.degradation = 0 then stOk else stDegraded
    s.finish cmd status s.bootReport (BitVec.ofNat 64
      (s.helloGrant c + Config.firmwareAbi.toNat * 2 ^ 16 + s.fwVersion.toNat * 2 ^ 32))))

/-! ## Records -/

/-- The device record, 64 bytes (R31, R34); in the recovery service memory and scions read 0 (R72). -/
def State.deviceRecord (s : State) : Bytes :=
  let joined := if s.boot.recovery then 0 else s.joined.toNat
  let mem := if s.boot.recovery then 0 else s.boot.memMib
  leBytes 2 Config.memberId.toNat ++ leBytes 1 Config.stepping.toNat ++ leBytes 1 s.fixed.rackCode.toNat
    ++ leBytes 1 4 ++ leBytes 1 Config.enginesPerScion ++ leBytes 1 joined ++ zeros 1
    ++ leBytes 1 Config.streamContexts ++ leBytes 1 24 ++ leBytes 1 4 ++ leBytes 1 4 ++ leBytes 1 4
    ++ leBytes 1 2 ++ leBytes 1 2 ++ zeros 1
    ++ leBytes 2 128 ++ leBytes 2 63 ++ leBytes 1 Config.memChannels ++ leBytes 1 16 ++ leBytes 2 7200
    ++ leBytes 4 mem ++ leBytes 2 64 ++ leBytes 1 4 ++ zeros 1
    ++ leBytes 2 2048 ++ leBytes 2 1800 ++ leBytes 2 Config.venginesMax ++ zeros 2
    ++ leBytes 4 s.fwVersion.toNat
    ++ leBytes 4 (s.fixed.wdogHwStart.toNat + 2 * s.fixed.debugOff.toNat)
    ++ leBytes 8 s.fixed.deviceUid.toNat ++ zeros 8

/-- DEVICE_QUERY (R34, R35). -/
def execDeviceQuery (cmd : Nat) (io : HostIo) (s : State) : Host.Outcome State Fault Refusal :=
  .next (s.withCmd cmd .deviceQuery (fun c => s.answer c (c.arg 16 8) s.deviceRecord io 64))

/-- STREAM_MASK of a function as a number (R148). -/
def State.streamMask (s : State) (f : FnId) : Nat :=
  ((List.finRange 48).map (fun (c : CtxId) => if s.mayOpen f c then 2 ^ c.val else 0)).sum

/-- The function record, 32 bytes (R148). -/
def State.functionRecord (s : State) (f : FnId) : Bytes :=
  let x := s.fn f
  let v := s.vengines f
  leBytes 2 f.val ++ leBytes 1 (HostPort.num (portOf f))
    ++ leBytes 1 ((s.hasAuth f).toNat + 2 * (isVf f).toNat) ++ leBytes 2 v
    ++ leBytes 2 (min v s.crewEngines.length) ++ leBytes 4 (s.quotaMib f) ++ leBytes 4 (x.chargedKib / 1024)
    ++ leBytes 4 (s.kvPool f) ++ leBytes 4 x.kvUsed ++ leBytes 6 (s.streamMask f) ++ leBytes 2 (s.maxTally f)

/-- FUNCTION_QUERY (R148). -/
def execFunctionQuery (cmd : Nat) (io : HostIo) (s : State) : Host.Outcome State Fault Refusal :=
  .next (s.withCmd cmd .functionQuery (fun c => s.answer c (c.arg 16 8) (s.functionRecord c.fn) io 32))

/-! ## SHARE_SET -/

/-- The other port. -/
def otherPort : HostPort → HostPort
  | .a => .b
  | .b => .a

/-- A port holds its frames, open contexts and reservations under a split (R97, R307). -/
def State.portFits (s : State) (split : Nat × Nat × Nat) (p : HostPort) : Bool :=
  decide ((s.port p).frames.length ≤ s.shareOf split.2.1 p)
    && (List.finRange 48).all (fun (c : CtxId) =>
        let x := s.streams[c.val]
        !(x.isOpen && decide (portOf x.owner = p)) || portContext split.2.2 c.val p)
    && decide (s.reserved p ≤ resCapOf (usableOf s.joinedCount s.nextFrameUs) split.1 p)

/-- SHARE_SET (R97, R98). -/
def execShareSet (cmd : Nat) (s : State) : Host.Outcome State Fault Refusal :=
  .next (s.withCmd cmd .shareSet (fun c =>
    let split := (c.arg 16 1, c.arg 17 1, c.arg 18 1)
    let p := portOf c.fn
    let t := s.setPort p (fun x => { x with proposal := some split })
    if (s.port (otherPort p)).proposal ≠ some split then t.finish cmd stOk 0 0
    else if s.portFits split .a && s.portFits split .b then
      (t.setFore (fun x => { x with agreed := some split })).finish cmd stOk 0 1
    else
      let t := (t.setPort .a (fun x => { x with proposal := none })).setPort .b
        (fun x => { x with proposal := none })
      (((t.setEvent (pfOf .a) evtShare).setEvent (pfOf .b) evtShare)).finish cmd stBusy 9 0))

/-! ## PROVISION -/

/-- The VF that PROVISION names (R99). -/
def Cmd.vf (c : Cmd) : FnId := Fin.ofNat 128 ((pfOf (portOf c.fn)).val + c.arg 16 1 % 64)

/-- The provision in the descriptor (R141). -/
def Cmd.provision (c : Cmd) : Provision :=
  { vengines := c.arg 17 1, maxTally := c.arg 18 2, memMib := c.arg 20 4, kvPages := c.arg 24 4,
    streamMask := BitVec.ofNat 48 (c.arg 28 6), safetyAuth := c.arg 34 1 % 2 == 1 }

/-- NO_RESOURCE of PROVISION (R100): the resource code. -/
def State.provisionOver (s : State) (p : HostPort) (vf : FnId) (v : Provision) : Option (BitVec 16) :=
  let others := ((s.provisions p).filter (fun x => x.1 != vf)).map (·.2)
  let mem := (others.map (·.memMib)).sum + v.memMib
  let pages := (others.map (·.kvPages)).sum + v.kvPages
  let share := s.share p * 2048
  if share < mem * 1024 then some 2
  else if share < mem * 1024 + pages * pageKib then some 3
  else if (List.range 48).any (fun c => v.streamMask.getLsbD c && !portContext s.fore.streamsA c p) then some 4
  else none

/-- BUSY of PROVISION (R100): the VF has more in use. -/
def State.provisionUnder (s : State) (vf : FnId) (v : Provision) : Option (BitVec 16) :=
  let x := s.fn vf
  if v.memMib * 1024 < x.chargedKib then some 2
  else if v.kvPages < x.kvUsed then some 3
  else if (List.finRange 48).any (fun (c : CtxId) =>
      let y := s.streams[c.val]
      y.isOpen && y.owner == vf && !v.streamMask.getLsbD c.val) then some 4
  else none

/-- The reservations of a function are released, and its commands of class 2 that have been taken run to
completion without them (R102). -/
def State.releaseReservations (s : State) (f : FnId) : State :=
  s.setFore (fun x => { x with
    reservations := x.reservations.filter (fun r => r.fn != f)
    resChanged := x.resChanged || x.reservations.any (fun r => r.fn == f)
    taken := x.taken.map (fun c => if c.fn = f ∧ c.cls = 2 then { c with excused := true } else c) })

/-- PROVISION (R99 to R102). -/
def execProvision (cmd : Nat) (s : State) : Host.Outcome State Fault Refusal :=
  .next (s.withCmd cmd .provision (fun c =>
    let vf := c.vf
    let v := c.provision
    match s.provisionOver (portOf c.fn) vf v with
    | some d => s.finish cmd stNoResource d 0
    | none =>
      match s.provisionUnder vf v with
      | some d => s.finish cmd stBusy d 0
      | none =>
        let t := s.setFn vf (fun x => { x with provision := some v })
        let t := if s.hasAuth vf && !v.safetyAuth then t.releaseReservations vf else t
        let t := if (s.fn vf).provision = some v then t else t.setEvent vf evtProvision
        t.finish cmd stOk 0 0))

/-! ## SAFETY_CONFIG -/

/-- A reservation of either port, or an open stream of class 2 (R357). -/
def State.maintenanceHeld (s : State) : Bool :=
  !s.fore.reservations.isEmpty || s.streams.toList.any (fun x => x.isOpen && x.cfg.cls == 2)

/-- A shorter Safety Frame holds less than a port has reserved (R307). -/
def State.frameShort (s : State) (frame : Nat) : Bool :=
  decide (frame < s.nextFrameUs) &&
    [HostPort.a, HostPort.b].any (fun p =>
      decide (resCapOf (usableOf s.joinedCount frame) s.nextEnginesA p < s.reserved p))

/-- The frame that waits for the shift boundary after a SAFETY_CONFIG (R304, R355): 0 leaves what waits,
and the frame in force takes a waiting one back (log 83). -/
def SafetyCfg.nextWith (x : SafetyCfg) (v : Nat) : Option Nat :=
  if v = 0 then x.nextFrame else if v = x.frameUs then none else some v

/-- SAFETY_CONFIG (R304, R307, R355 to R357): 0 keeps a value, and stands for the value in force in the
test of R356. -/
def execSafetyConfig (cmd : Nat) (s : State) : Host.Outcome State Fault Refusal :=
  .next (s.withCmd cmd .safetyConfig (fun c =>
    let keep (v old : Nat) : Nat := if v = 0 then old else v
    let frame := keep (c.arg 16 4) s.fore.safety.frameUs
    let reaction := keep (c.arg 20 4) s.fore.safety.reactionUs
    let maintenance := c.arg 28 1 % 2 == 1
    if frame < reaction + 1000 then s.finish cmd stBadParam 0xFFFF 0
    else if c.arg 16 4 ≠ 0 ∧ s.frameShort frame then s.finish cmd stBusy 6 0
    else if maintenance && s.maintenanceHeld then s.finish cmd stBusy 8 0
    else
      (s.setFore (fun x => { x with safety := { x.safety with
        nextFrame := x.safety.nextWith (c.arg 16 4)
        reactionUs := reaction
        diagMs := keep (c.arg 24 4) x.safety.diagMs
        maintenance := maintenance } })).finish cmd stOk 0 0))

/-! ## Firmware -/

/-- The slot that FIRMWARE_STAGE names (R147); none if it names the running slot. -/
def State.stageSlot (s : State) (v : Nat) : Option (Fin 2) :=
  if v = 255 then some (match s.boot.firmware with
    | some n => otherSlot n
    | none => 0)
  else if s.boot.firmware = some (Fin.ofNat 2 v) then none
  else some (Fin.ofNat 2 v)

/-- Another FIRMWARE_STAGE is in progress (R147). -/
def State.staging (s : State) (id : Nat) : Bool :=
  s.fore.taken.any (fun d => decide (d.id < id) && decide (d.phase = .begun) && d.op == some .firmwareStage)

/-- A flash slot changed. -/
def State.setSlot (s : State) (n : Fin 2) (g : FlashSlot → FlashSlot) : State :=
  { s with flash := { s.flash with slots := s.flash.slots.set n.val (g s.flash.slots[n.val]) } }

/-- FIRMWARE_STAGE (R71, R147). -/
def execFirmwareStage (cmd : Nat) (img : ImageRead FwImage) (s : State) : Host.Outcome State Fault Refusal :=
  .next (s.withCmd cmd .firmwareStage (fun c =>
    let va := c.arg 24 8
    let len := c.arg 32 4
    let invalid (s : State) (n : Fin 2) (g : FlashSlot → FlashSlot) : State :=
      (s.setSlot n (fun x => { g x with signed := false, staged := false })).finish cmd stIntegrity 0x0100 0
    if !(s.fn c.fn).spans va len .rd false then s.finish cmd stBadParam 24 0
    else match s.stageSlot (c.arg 16 1) with
      | none => s.finish cmd stBadParam 16 0
      | some n =>
        if s.staging cmd then s.finish cmd stBusy 8 0
        else
          let s := s.access c.fn va len
          match s.imageRead c.fn va len (ImageRead.hostFailed img) with
          | some d => s.imageFails c d
          | none =>
            match img with
            | .hostFail _ => s
            | .badSignature => invalid s n id
            | .image g =>
              if g.rollback < s.fixed.rollback then
                invalid s n (fun x => { x with rollback := g.rollback, version := g.version })
              else
                (s.setSlot n (fun _ =>
                  { signed := true, rollback := g.rollback, version := g.version, staged := true })).finish cmd
                    stOk 0 (BitVec.ofNat 64 n.val)))

/-- FIRMWARE_COMMIT (R147). -/
def execFirmwareCommit (cmd : Nat) (s : State) : Host.Outcome State Fault Refusal :=
  .next (s.withCmd cmd .firmwareCommit (fun c =>
    let n : Fin 2 := Fin.ofNat 2 (c.arg 16 1)
    if (s.flash.slots[n.val]).staged then
      ({ s with flash := { s.flash with selected := n } } : State).finish cmd stOk 0 0
    else s.finish cmd stBadParam 16 0))

/-- DEBUG_UNLOCK (R141, R151): a challenge is drawn, or a response to the last one judged. -/
def execDebugUnlock (cmd : Nat) (s : State) : Host.Outcome State Fault Refusal :=
  .next (s.withCmd cmd .debugUnlock (fun c =>
    if c.arg 16 1 = 0 then
      let v := Config.debugChallenge s.draws
      (({ s with draws := s.draws + 1 } : State).setFore (fun x =>
        { x with debugChallenge := some v })).finish cmd stOk 0 v
    else match s.fore.debugChallenge with
      | none => s.finish cmd stNotPermitted 5 0
      | some v =>
        if Config.debugAccepts v ((c.desc.drop 24).take 32) then s.finish cmd stOk 0 v
        else s.finish cmd stNotPermitted 5 0))

/-! ## INJECT and captured edges -/

/-- The tier of an event whose tier depends on the state: SCION_LOST (R449). -/
def State.tierOf (s : State) (e : Ev) : Option Nat := if e = .scionLost then some s.lossTier else none

/-- INJECT (R395): PULSE raises one edge, HOLD asserts the condition, RELEASE ends a HOLD. -/
def execInject (cmd : Nat) (s : State) : Host.Outcome State Fault Refusal :=
  .next (s.withCmd cmd .inject (fun c =>
    let src := c.arg 16 2
    let kind := c.arg 18 1
    match evOfCode (kind % 64) with
    | none => s.finish cmd stBadParam 18 0
    | some e =>
      if kind / 64 = 2 then
        let s : State := { s with fcu := { s.fcu with holds := s.fcu.holds.filter (fun x => x != (src, e)) } }
        s.finish cmd stOk 0 0
      else
        let (owner, class2, context) := s.ownerOf src
        let hold := decide (kind / 64 = 1)
        let t := s.finish cmd stOk 0 0
        let t := if s.fcu.stands src e then t else t.raise
          { source := src, event := e, owner := owner, class2 := class2, stays := hold,
            injected := true, context := context, tier := s.tierOf e }
        if hold ∧ ¬ lampSource src ∧ ¬ t.fcu.holds.contains (src, e) then
          { t with fcu := { t.fcu with holds := (src, e) :: t.fcu.holds } }
        else t))

/-- The source checks data, so that its event's owner and class are those of the data (R227, R348); every
other source's are `ownerOf` (R382). -/
def dataSource (src : Nat) : Bool :=
  (sourceEvents src).any (fun e =>
    e == .eccCe || e == .eccUe || e == .graftMismatch || e == .abftMismatch || e == .crosscheckMismatch)

/-- A rising edge of a condition (R379 to R389): the condition had fallen before it rose. The FCU stops
with the root PLL, so source 0x001 comes through INJECT alone (R52). -/
def execFaultEdgeCapture (source : Nat) (event : Ev) (owner : Option FnId) (class2 : Bool)
    (stays : Bool) (s : State) : Host.Outcome State Fault Refusal :=
  let (owner', class2', context) := s.ownerOf source
  .next (s.when ((if lampSource source then s.lampRuns else s.rootRuns) && source != 0x001 && (sourceEvents source).contains event)
    ((s.clearLive source event).raise
      { source := source, event := event, stays := stays, context := context, tier := s.tierOf event
        owner := if dataSource source then owner else owner'
        class2 := if dataSource source then class2 else class2' }))

end Sys2Proof.Machine
end

