-- ==== Sys2Proof/Machine/MemCmd.lean ====
section
/-!
DEFINITION. The memory commands: MEM_MAP (R231, R232, R332, R486), MEM_UNMAP (R233), MEM_COPY and
MEM_FILL (R236, R237, R349), MEM_TAG_CHECK (R352); and the patrol scrub (R226 to R229).
-/

namespace Sys2Proof.Machine

/-! ## MEM_MAP -/

/-- The mapping in the descriptor (R141, R231). -/
def Cmd.mapping (c : Cmd) : Mapping :=
  { va := c.arg 16 8, size := c.arg 24 8, host := c.arg 32 1 == 1, big := c.arg 33 1 == 1,
    rd := c.arg 34 1 % 2 == 1, wr := c.arg 34 1 / 2 % 2 == 1, hostAddr := c.arg 40 8 }

/-- KiB of a mapping's page. -/
def Mapping.pageKib (m : Mapping) : Nat := if m.big then 2048 else 64

/-- The frames for a mapping's pages and for its tag shadow, 1/64 of its size (R332, R486); what is set aside for
page pools stays. -/
def State.allocMapping (s : State) (f : FnId) (m : Mapping) : Option State :=
  match s.alloc f m.pageKib (mapUser f m.va) (m.size / 1024 / m.pageKib) with
  | none => none
  | some t => (t.alloc f 1 (mapUser f m.va) (m.size / 65536)).filter (State.backed (portOf f))

/-- A mapping enters a function's address space; what it newly backs reads as zero (R232). -/
def State.addMapping (s : State) (f : FnId) (m : Mapping) : State :=
  let t := s.setFn f (fun x => { x with maps := m :: x.maps })
  if m.host then t else { t with mem := t.mem.zero (memKey f m.va) m.size }

/-- MEM_MAP (R232); the recovery service maps host windows alone, 16 for each function (R72). -/
def execMemMap (cmd : Nat) (s : State) : Host.Outcome State Fault Refusal :=
  .next (s.withCmd cmd .memMap (fun c =>
    let f := c.fn
    let x := s.fn f
    let m := c.mapping
    if x.taken m.va m.size then s.finish cmd stBadParam 0xFFFF 0
    else if s.boot.recovery && (!m.host || decide (16 ≤ (x.maps.filter (·.host)).length)) then
      s.finish cmd stNoResource 2 0
    else if m.host then (s.addMapping f m).finish cmd stOk 0 0
    else if s.quotaMib f * 1024 < x.chargedKib + m.size / 1024 then s.finish cmd stNoResource 2 0
    else match s.allocMapping f m with
      | none => s.finish cmd stNoResource 2 0
      | some t => (t.addMapping f m).finish cmd stOk 0 0))

/-! ## MEM_UNMAP -/

/-- The mappings that a range touches. -/
def Fn.touched (x : Fn) (va n : Nat) : List Mapping := x.maps.filter (fun m => overlap m.va m.size va n)

/-- The range starts with a mapping, ends with a mapping, cuts none, and touches no key-value region
(R233). -/
def Fn.wholeMappings (x : Fn) (va n : Nat) : Bool :=
  let ms := x.touched va n
  ms.all (fun m => decide (va ≤ m.va) && decide (m.va + m.size ≤ va + n))
    && ms.any (fun m => m.va == va) && ms.any (fun m => m.va + m.size == va + n) && !x.meetsRegion va n

/-- The ranges of its function's memory that an outstanding command works on (R233). -/
def State.cmdRanges (s : State) (c : Cmd) : List (Nat × Nat) :=
  let x := s.fn c.fn
  match c.op with
  | none => []
  | some o =>
    match o with
    | .memCopy => [(c.arg 16 8, c.arg 32 8), (c.arg 24 8, c.arg 32 8)]
    | .memFill | .memTagCheck | .replayArm => [(c.arg 16 8, c.arg 24 8)]
    | .graphLoad => [(c.arg 16 8, c.arg 24 4)]
    | .firmwareStage | .replayFeed => [(c.arg 24 8, c.arg 32 4)]
    | .jobSubmit => s.jobRanges c
    | .bindStream =>
      let n := (s.streams[c.arg 16 1 % 48]'(Nat.mod_lt _ (by decide))).cfg.ringCount
      [(c.arg 24 8, 32 * 2 ^ c.arg 19 1), (c.arg 40 8, c.arg 48 4 * n)]
    | .streamOpen =>
      let b := parseStream c.block
      [(b.ringVa, b.ringCount * b.frameBytes)]
    | .kvScatter => match x.seq (c.arg 16 4) with
      | none => []
      | some q => (List.range (c.arg 20 4)).flatMap (fun i =>
          [(c.blk 0 8 + i * c.blk 16 4, q.row / 2), (c.blk 8 8 + i * c.blk 20 4, q.row / 2)])
    | .attend => (List.range (c.arg 16 2)).flatMap (fun i =>
        let r := c.attendReq i
        match x.seq r.handle with
        | none => []
        | some q => [(r.qVa, r.queryBytes q), (r.outVa, r.outBytes q)])
    | o => match outRange o c.desc with
      | some (i, n) => [(c.arg i 8, n)]
      | none => []

/-- The ranges that a function's open streams hold: frame ring, result ring, output slots (R233). -/
def Stream.ranges (x : Stream) : List (Nat × Nat) :=
  (x.cfg.ringVa, x.cfg.ringCount * x.cfg.frameBytes) :: (match x.bound with
    | some b => [(b.ringVa, 32 * 2 ^ b.log2), (b.outVa, b.outStride * x.cfg.ringCount)]
    | none => [])

/-- A range of a function is in use (R233), by the collection ring too (R461). -/
def State.rangeUsed (s : State) (id : Nat) (f : FnId) (va n : Nat) : Bool :=
  let hits (r : Nat × Nat) : Bool := overlap r.1 r.2 va n
  s.fore.taken.any (fun d => d.id != id && d.live && d.fn == f && (s.cmdRanges d).any hits)
    || s.streams.toList.any (fun x => x.isOpen && x.owner == f && x.ranges.any hits)
    || (s.fore.runs.any (fun r => r.fn == f && r.binds.any (fun b =>
        hits (b.va, spanOf (r.image.tensor b.tensor)))))
    || (decide (s.fore.replay.state = .collecting) && s.fore.replay.fn == f
        && hits (s.fore.replay.base, s.fore.replay.size))

/-- MEM_UNMAP (R94, R233). -/
def execMemUnmap (cmd : Nat) (s : State) : Host.Outcome State Fault Refusal :=
  .next (s.withCmd cmd .memUnmap (fun c =>
    let va := c.arg 16 8
    let n := c.arg 24 8
    let x := s.fn c.fn
    if !x.wholeMappings va n then s.finish cmd stBadParam 0xFFFF 0
    else if s.rangeUsed cmd c.fn va n then s.finish cmd stBusy 8 0
    else ((x.touched va n).foldl (fun s m => s.dropMapping c.fn m) s).finish cmd stOk 0 0))

/-! ## MEM_COPY, MEM_FILL -/

/-- The bytes that a copy moves and the failure that ends it: a source line at graft point 4, or a host
request, whichever comes first (R236, R349). -/
def State.copySource (s : State) (f : FnId) (va dst n : Nat) (host : HostRead) : Bytes × Option (BitVec 16) :=
  let x := s.fn f
  let (b, e) := s.readVa f va n host.data
  match ioLimit (x.touchesHost va n || x.touchesHost dst n) host.io n with
  | none => (b, e)
  | some k => if k < b.length ∨ e.isNone then (b.take k, some 7) else (b, e)

/-- Ends a copy or fill: OK, or INTEGRITY with the event of the copy agent or the AER report (R236, R348);
RESULT is the bytes written. -/
def State.moved (s : State) (c : Cmd) (n : Nat) : Option (BitVec 16) → State
  | none => s.finish c.id stOk 0 (BitVec.ofNat 64 n)
  | some d =>
    let s := if d = 7 then s.send (.aer (portOf c.fn)) else s.graftIf c.fn (c.cls == 2) d
    s.finish c.id stIntegrity d (BitVec.ofNat 64 n)

/-- The bytes of a write before the line that fails graft point 2, and the channel at which it fails: only a
line of device memory can (R336, R337). -/
def State.beforeFault (s : State) (f : FnId) (va : Nat) (b : Bytes) (x : Option WriteFault) :
    Bytes × Option ClPortId :=
  match x with
  | none => (b, none)
  | some x =>
    let n := 256 * x.line - (if x.line = 0 then 0 else va % 256)
    match (s.fn f).mapAt (va + n) with
    | some m => if n < b.length ∧ m.host = false then (b.take n, some x.channel) else (b, none)
    | none => (b, none)

/-- A line of a command's write fails graft point 2: INTEGRITY, DETAIL 2, with the event of the channel's write
path (R336, R348); RESULT is the bytes written. -/
def State.graft2Fails (s : State) (c : Cmd) (ch : ClPortId) (n : Nat) : State :=
  (s.raise { source := 0x060 + ch.val, event := .graftMismatch, owner := some c.fn, class2 := c.cls == 2 }).finish
    c.id stIntegrity 2 (BitVec.ofNat 64 n)

/-- MEM_COPY (R236, R237, R336, R349): bytes written before the line that fails stay written. -/
def execMemCopy (cmd : Nat) (host : HostRead) (graft2 : Option WriteFault) (s : State) :
    Host.Outcome State Fault Refusal :=
  .next (s.withCmd cmd .memCopy (fun c =>
    let dst := c.arg 24 8
    let n := c.arg 32 8
    let s := s.access c.fn (c.arg 16 8) n
    let (b, e) := s.copySource c.fn (c.arg 16 8) dst n host
    let (b, ch) := s.beforeFault c.fn dst b graft2
    match s.writeSegs c.fn (((s.fn c.fn).segs dst n).getD []) b with
    | (t, k, some d) => t.moved c k (some d)
    | (t, k, none) => match ch with
      | some ch => t.graft2Fails c ch k
      | none => t.moved c k e))

/-- The bytes of a fill: the pattern again and again, little-endian (R237). -/
def fillBytes (pattern n : Nat) : Bytes :=
  let p := leBytes 8 pattern
  (List.range n).map (fun i => byteAt p (i % 8))

/-- MEM_FILL (R237, R336). -/
def execMemFill (cmd : Nat) (io : HostIo) (graft2 : Option WriteFault) (s : State) :
    Host.Outcome State Fault Refusal :=
  .next (s.withCmd cmd .memFill (fun c =>
    let dst := c.arg 16 8
    let (b, ch) := s.beforeFault c.fn dst (fillBytes (c.arg 32 8) (c.arg 24 8)) graft2
    match s.writeVa c.fn (c.cls == 2) dst b io with
    | (t, k, some d) => t.finish cmd stIntegrity d (BitVec.ofNat 64 k)
    | (t, k, none) => match ch with
      | some ch => t.graft2Fails c ch k
      | none => t.finish cmd stOk 0 (BitVec.ofNat 64 k)))

/-! ## MEM_TAG_CHECK -/

/-- The failures of `n` lines from line `l`, in ascending order (R338, R352). -/
def Memory.lineFaults (m : Memory) (l n : Nat) : List (BitVec 16) :=
  (List.range n).filterMap (fun i => m.lineFault (l + i))

/-- MEM_TAG_CHECK (R352): every line is checked; one event if any tag failed. -/
def execMemTagCheck (cmd : Nat) (s : State) : Host.Outcome State Fault Refusal :=
  .next (s.withCmd cmd .memTagCheck (fun c =>
    let n := c.arg 24 8 / 256
    let s := s.access c.fn (c.arg 16 8) (c.arg 24 8)
    let bad := s.mem.lineFaults (memKey c.fn (c.arg 16 8) / 256) n
    let result : BitVec 64 := BitVec.ofNat 64 (n % 2 ^ 32 + bad.length * 2 ^ 32)
    let t := if bad.contains 4 then s.graftCopy c.fn (c.cls == 2) else s
    match bad.head? with
    | none => t.finish cmd stOk 0 result
    | some d => t.finish cmd stIntegrity d result))

/-! ## The patrol scrub -/

/-- Bits of a stored unit flip, or its address lines come to select another unit (R226). -/
def State.upset (s : State) : Upset → State
  | .bits u l => { s with mem := s.mem.upset u (l.map (·.val)) }
  | .misplaced u v =>
    let m : Memory := { s.mem with cells := putBytes s.mem.cells (64 * u) (s.mem.bytes (64 * v) 64) }
    { s with mem := m.upset u (addressFlips (coffOf (s.unitPlace u)) (coffOf (s.unitPlace v))) }

/-- The units with flipped bits that stand at a place of the scrub, in the channels that do not yield to a
write there. -/
def State.scrubbed (s : State) (met : List ClPortId) : List (Nat × List Nat) :=
  s.mem.upsets.filter (fun x => coffOf (s.unitPlace x.1) / 64 == s.boot.scrub
    && !met.any (fun c => c.val == chanOf (s.unitPlace x.1)))

/-- A scrub read: the units of one channel offset on all channels at once, in ascending order, from 0 again at
the end of data space (R226 to R229). The operands: what has become of stored units since the last one, and the
channels whose unit meets a write and is passed over. -/
def execPatrolScrubRead (upsets : List Upset) (met : List ClPortId) (s : State) : Host.Outcome State Fault Refusal :=
  .next (s.when (s.rootRuns && s.boot.memTrained)
    (let s := upsets.foldl State.upset s
     let next := (s.boot.scrub + 1) % max 1 (channelBytes s.boot.memMib / 64)
     let s := (s.scrubbed met).foldl State.readUnit s
     s.setBoot (fun b => { b with scrub := next })))

end Sys2Proof.Machine
end

