-- ==== Sys2Proof/Machine/Selftest.lean ====
section
/-!
DEFINITION. Self-test of the engines (R363 to R374).
-/

namespace Sys2Proof.Machine

/-- Ms of diagnostic age: ICLK runs at 400 MHz (R53, R373, R374). -/
def State.ageMs (s : State) (e : EngineId) : Nat :=
  min ((s.clk.runCycles - (s.engines[e.val]).testAt) / 400000) 0xFFFFFFFF

/-- The engine whose slice runs (R365). -/
def State.slicing (s : State) : Option EngineId :=
  (List.finRange 64).find? (fun (e : EngineId) => (s.engines[e.val]).slice)

/-- Admitted class-2 runs of a crew with a tile still to start. -/
def State.class2Runs (s : State) (p : Option HostPort) : List Run :=
  s.fore.runs.filter (fun r => r.cls == 2 && r.admitted && decide (some (portOf r.fn) = p) && !r.waitingTiles.isEmpty)

/-- A class-2 run waits for an engine of a crew (R366): nothing else holds its next tile. -/
def State.class2Waits (s : State) (p : Option HostPort) : Bool :=
  (s.class2Runs p).any s.runReleased

/-- µs until the predicted start of the next tile of a run that waits for other commands (R315, R366). -/
def State.startUs (s : State) (r : Run) : Nat := (s.plan r (s.waitsOf r) none).ready / unitsUs

/-- µs until the earliest valid arrival of a bound class-2 stream (R366): the previous time stamp plus
PERIOD_US − TOL_US. Without a previous stamp every arrival is valid, so it may come at once. -/
def Stream.needUs (x : Stream) (now : BitVec 64) : Nat :=
  match x.lastStamp with
  | none => 0
  | some t => (t.toNat + (x.cfg.periodUs - x.cfg.guard.tolUs) * 1000 - now.toNat) / 1000

/-- The gap before the next predicted class-2 need of a crew is at least 220 µs (R366): no admitted class-2
tile is predicted to start earlier, and no class-2 frame of a bound stream of the crew's port can arrive
earlier. -/
def State.gapOk (s : State) (crew : Option HostPort) : Bool :=
  (s.class2Runs crew).all (fun r => decide (220 ≤ s.startUs r)) &&
  s.streams.toList.all (fun x =>
    !(x.isOpen && x.bound.isSome && x.cfg.cls == 2 && decide (some (portOf x.owner) = crew))
      || decide (220 ≤ x.needUs s.now))

/-- A slice may start on an engine (R366, R371). -/
def State.maySlice (s : State) (e : EngineId) : Bool :=
  let x := s.engines[e.val]
  let n := s.scions[(scionOf e).val]
  decide (n.state = .joined) && !n.withdrawing && x.tile.isNone && !x.slice &&
    (if x.state = .withdrawn then
       !(s.fore.runs.any (fun r => x.abortFor == some r.id && !r.waitingTiles.isEmpty))
     else x.state == .inPool && !s.class2Waits x.crew && s.gapOk x.crew)

/-- The order of R365 among engines: withdrawn first, then the oldest test, then the lower number. -/
def State.sliceBefore (s : State) (a b : EngineId) : Bool :=
  let x := s.engines[a.val]
  let y := s.engines[b.val]
  let w (z : Engine) : Bool := z.state == .withdrawn
  (w x && !w y) || (w x == w y && (decide (x.testAt < y.testAt) || (x.testAt == y.testAt && decide (a.val < b.val))))

/-- The engine on which a slice starts: the first in order among those that can. -/
def State.sliceChoice (s : State) : Option EngineId :=
  ((List.finRange 64).filter s.maySlice).foldl
    (fun best (e : EngineId) => match best with
      | none => some e
      | some b => if s.sliceBefore e b then some e else some b) none

/-- A self-test slice starts (R364 to R367); at most one runs on the device. -/
def execSliceStart (s : State) : Host.Outcome State Fault Refusal :=
  .next (s.when (s.working && decide (s.power.state = .run) && s.slicing.isNone)
    (match s.sliceChoice with
     | none => s
     | some e => s.setEngine e (fun x => { x with
         slice := true, sliceAt := s.now, bench := {}
         state := if x.state = .withdrawn then .withdrawn else .underTest })))

/-- A slice has passed (R364, R370, R371): the eighth completes the engine's test. -/
def Engine.slicePassed (x : Engine) (cycles diagMs : Nat) : Engine :=
  if x.slicesDone = 7 then
    { x with slice := false, slicesDone := 0, aborts := 0, abortFor := none, testAt := cycles,
             diagMs := diagMs, state := .inPool }
  else
    { x with slice := false, slicesDone := x.slicesDone + 1, aborts := 0
             state := if x.state = .withdrawn then .withdrawn else .inPool }

/-- A slice has failed: the engine is retired, with SELFTEST_FAIL (R372). -/
def State.retireEngine (s : State) (e : EngineId) : State :=
  (s.setEngine e (fun x => { x with slice := false, state := .retired, crew := none, abortFor := none })).raise
    { source := engineSource e 0x70, event := .selftestFail }

/-- A slice finishes (R364, R372). -/
def execSliceEnd (passed : Bool) (s : State) : Host.Outcome State Fault Refusal :=
  .next (s.when s.working
    (match s.slicing with
     | none => s
     | some e =>
       if passed then
         (s.setFore (fun f => { f with slicesPassed := satAdd 32 f.slicesPassed 1 })).setEngine e
           (fun x => x.slicePassed s.clk.runCycles s.fore.safety.diagMs)
       else s.retireEngine e))

/-- The guard timer of a slice expires (R368). -/
def execSliceGuardExpired (s : State) : Host.Outcome State Fault Refusal :=
  .next (s.when s.working
    (match s.slicing with
     | none => s
     | some e => s.abortSlice e none))

/-- The age of an engine's last completed test, plus 220 µs for each slice not yet passed, reaches its
DIAG_INTERVAL_MS − 10 ms (R371), in ICLK cycles of 2.5 ns. -/
def Engine.testDue (x : Engine) (cycles : Nat) : Bool :=
  decide ((x.diagMs - 10) * 400000 ≤ cycles - x.testAt + (8 - x.slicesDone) * 220 * 400)

/-- An engine's test age reaches its withdrawal point (R371). -/
def execDiagAgeLimit (e : EngineId) (s : State) : Host.Outcome State Fault Refusal :=
  let x := s.engines[e.val]
  .next (s.when (s.working && decide (s.power.state = .run)
      && decide ((s.scions[(scionOf e).val]).state = .joined) && (x.state == .inPool || x.state == .underTest)
      && x.testDue s.clk.runCycles)
    ((s.setEngine e (fun x => { x with state := .withdrawn })).starve e))

/-! ## SELFTEST_STATUS -/

/-- STATE of an engine (R374). -/
def State.engineCode (s : State) (e : EngineId) : Nat :=
  if (s.scions[(scionOf e).val]).state ≠ .joined then 4
  else match (s.engines[e.val]).state with
    | .inPool => 0
    | .underTest => 1
    | .withdrawn => 2
    | .retired => 3

/-- The entry of an engine (R374). -/
def State.engineEntry (s : State) (e : EngineId) : Bytes :=
  let x := s.engines[e.val]
  let code := s.engineCode e
  leBytes 1 code ++ leBytes 1 x.slicesDone ++ leBytes 1 x.aborts ++ zeros 1
    ++ leBytes 4 (if 3 ≤ code then 0xFFFFFFFF else s.ageMs e) ++ leBytes 4 x.unchecked ++ zeros 4

/-- The selftest record, 1,056 bytes (R374). -/
def State.selftestRecord (s : State) : Bytes :=
  leBytes 4 s.fore.safety.frameUs ++ leBytes 4 s.fore.safety.reactionUs ++ leBytes 4 s.fore.safety.diagMs
    ++ leBytes 1 s.fore.safety.maintenance.toNat ++ leBytes 1 64 ++ zeros 2 ++ leBytes 4 s.fore.slicesPassed
    ++ leBytes 4 s.fore.slicesAborted ++ leBytes 4 s.boot.injected.length ++ leBytes 4 s.boot.injectFailed.length
    ++ (List.finRange 64).flatMap s.engineEntry

/-- SELFTEST_STATUS (R374). -/
def execSelftestStatus (cmd : Nat) (io : HostIo) (s : State) : Host.Outcome State Fault Refusal :=
  .next (s.withCmd cmd .selftestStatus (fun c =>
    s.answer c (c.arg 16 8) s.selftestRecord io 1056))

end Sys2Proof.Machine
end

