-- ==== Sys2Proof/Machine/Take.lean ====
section
/-!
DEFINITION. Taking a command (R80 to R84, R111, R116, R118, R123 to R131, R134, R137, R434) and
beginning one that waited (R136, R297).
-/

namespace Sys2Proof.Machine

/-! ## Turn order -/

/-- The Foreman takes commands (R80 to R82): from BOOT_COMPLETE on, and after a boot failure from
config-ready on, while a processor of it runs. -/
def State.taking (s : State) : Bool :=
  s.rootRuns && (s.boot.complete || (s.boot.failCause.isSome && s.boot.configReady))
    && (s.boot.firmware.isSome || s.boot.recovery) && !(s.fore.f0Halted && s.fore.f1Halted)

/-- Slots of a completion ring that no entry and no taken command claims (R111). -/
def State.freeSlots (s : State) (f : FnId) (n : RingId) : Nat :=
  let q := s.cq f n
  let d := 2 ^ q.log2.toNat
  d - 1 - (q.tail.toNat + d - q.head.toNat) % d
    - (s.fore.taken.filter (fun c => c.fn == f && c.cq == n)).length

/-- A function from which a command may be taken (R82, R83, R119). -/
def State.fnMayTake (s : State) (f : FnId) : Bool :=
  s.enabled f && !(s.fn f).resetting && decide (s.outstanding f < (s.fn f).tally)
    && !s.fore.taken.any (fun c => c.fn == f && c.opcode == 0x0002)

/-- A ring of it from which a command may be taken (R111, R118, R137). -/
def State.ringMayTake (s : State) (f : FnId) (n : RingId) : Bool :=
  let q := s.sq f n
  let c := s.cq f q.cq.toFin
  q.enable && !q.dead && q.head != q.tail && c.enable && !c.dead && decide (0 < s.freeSlots f q.cq.toFin)
    && !s.fore.taken.any (fun c => c.fn == f && c.sq == n && c.badBlock)

/-- The ring of a function that its turn reaches (R116). -/
def State.nextRing (s : State) (f : FnId) : Option RingId :=
  ((List.range 16).map (fun i => Fin.ofNat 16 ((s.fn f).ringTurn + i))).find? (s.ringMayTake f)

/-- The function of a port, and its ring, that the port's turn reaches (R84). -/
def State.nextFn (s : State) (p : HostPort) : Option (FnId × RingId) :=
  ((List.range 64).map (fun i =>
    (Fin.ofNat 128 ((pfOf p).val + ((s.port p).fnTurn + i) % 64) : FnId))).findSome? (fun f =>
      if s.fnMayTake f then (s.nextRing f).map (fun n => (f, n)) else none)

/-- The ring from which the next command is taken (R84). -/
def State.nextTake (s : State) : Option (FnId × RingId) :=
  match s.nextFn s.fore.portTurn with
  | some x => some x
  | none => s.nextFn (otherPort s.fore.portTurn)

/-- The turns move on (R84, R116). -/
def State.advanceTurn (s : State) (f : FnId) (n : RingId) : State :=
  let p := portOf f
  let s := s.setFore (fun x => { x with portTurn := otherPort p })
  let s := s.setPort p (fun x => { x with fnTurn := (f.val + 1) % 64 })
  s.setFn f (fun x => { x with ringTurn := (n.val + 1) % 16 })

/-- HEAD moves past an entry (R110). -/
def SubRing.advance (q : SubRing) : SubRing :=
  { q with head := BitVec.ofNat 12 ((q.head.toNat + 1) % 2 ^ q.log2.toNat) }

/-! ## The checks of R134 -/

/-- A command that a check stops: status, DETAIL, whether a GRAFT_MISMATCH is raised (R128, R131), and
whether step 7 stopped it (R137). -/
structure Stopped where
  status : BitVec 16
  detail : BitVec 16
  graft  : Bool := false
  block  : Bool := false
  deriving DecidableEq, Repr

/-- Step 3: the safe state, and the recovery service within it (R72). -/
def State.barred (s : State) (o : Option Opcode) (cls : Nat) : Bool :=
  s.safe && match o with
    | none => true
    | some o => !((if s.boot.recovery then o.inRecovery else o.safeMark) && cls == 0)

/-- Steps 1 to 6. -/
def State.checkDescriptor (s : State) (f : FnId) (d : Bytes) : Option Stopped :=
  let code := BitVec.ofNat 16 (leNat d 0 2)
  let o := opcodeOf code
  if !(s.fn f).helloDone && code != 0x0002 then some { status := stBooting, detail := 0 }
  else if leNat d 60 4 ≠ (crc32c (d.take 60)).toNat then some { status := stBadGraft, detail := 0, graft := true }
  else if s.barred o (leNat d 3 1) then
    some { status := stSafe, detail := if code = 0x0002 then s.bootReport else 0 }
  else match o with
    | none => some { status := stBadOpcode, detail := 0 }
    | some o =>
      match s.permission o d f with
      | some k => some { status := stNotPermitted, detail := BitVec.ofNat 16 k }
      | none => (fieldBad o d f).map (fun i => { status := stBadParam, detail := BitVec.ofNat 16 i })

/-- Step 7 (R130, R131): the block, or what stops the command. -/
def State.checkBlock (s : State) (f : FnId) (d : Bytes) : Bytes × Option Stopped :=
  let va := leNat d 44 8
  let n := leNat d 52 4
  if !(s.fn f).spans va n .any true then ([], some { status := stBadParam, detail := 44, block := true })
  else match s.readVa f va n [] with
    | (_, some e) => ([], some { status := stIntegrity, detail := e, graft := e == 4, block := true })
    | (b, none) =>
      if leNat d 56 4 ≠ (crc32c b).toNat then
        ([], some { status := stBadGraft, detail := 1, graft := true, block := true })
      else (b, none)

/-- Step 8 (R127): DEADLINE of every opcode but JOB_SUBMIT and ATTEND. -/
def State.pastDeadline (s : State) (o : Opcode) (d : Bytes) : Bool :=
  !(decide (o = .jobSubmit) || decide (o = .attend)) && leNat d 8 8 != 0
    && decide (leNat d 8 8 ≤ s.now.toNat)

/-- The checks made at take: the block as read, and what stops the command (R134, R140, R234). -/
def State.check (s : State) (f : FnId) (d : Bytes) : Bytes × Option Stopped :=
  match s.checkDescriptor f d with
  | some x => ([], some x)
  | none =>
    match opcodeOf (BitVec.ofNat 16 (leNat d 0 2)) with
    | none => ([], none)
    | some o =>
      match (if o.chained then s.checkBlock f d else ([], none)) with
      | (b, some x) => (b, some x)
      | (b, none) =>
        if s.pastDeadline o d then (b, some { status := stShed, detail := 4 })
        else (b, (s.rangeBad o d f).map (fun i => { status := stBadParam, detail := BitVec.ofNat 16 i }))

/-! ## Taking -/

/-- The command that an entry holds (R123). -/
def State.newCmd (s : State) (f : FnId) (n : RingId) (d : Bytes) : Cmd :=
  { id := s.fore.nextCmd, fn := f, sq := n, cq := (s.sq f n).cq.toFin
    opcode := BitVec.ofNat 16 (leNat d 0 2), flags := byteAt d 2, cls := byteAt d 3
    seq := BitVec.ofNat 32 (leNat d 4 4), deadline := BitVec.ofNat 64 (leNat d 8 8)
    desc := d, block := [], phase := .waiting, badBlock := false }

/-- A taken command enters the Foreman's list. -/
def State.addCmd (s : State) (c : Cmd) : State :=
  s.setFore (fun x => { x with taken := x.taken ++ [c], nextCmd := x.nextCmd + 1 })

/-- A command that passed every check begins, or waits (R136, R297). A TIME_SET that is taken ends a slew
in progress at once (R58); one that a check stops does nothing further (R134). -/
def State.admitCmd (s : State) (c : Cmd) : State :=
  let s := if c.op = some .timeSet then s.setClk Clocks.endSlew else s
  let c := { c with naming := c.op == some .kvClose
    && s.fore.taken.any (fun d => d.live && d.fn == c.fn && d.handles.contains (c.arg 16 4)) }
  let s := s.addCmd c
  if (s.blockers c).isEmpty then s.setCmd c.id (fun c => { c with phase := .begun }) else s

/-- Some opcodes end Doze when they are taken, before the checks (R434). -/
def State.wakeFor (s : State) (d : Bytes) : State :=
  match opcodeOf (BitVec.ofNat 16 (leNat d 0 2)) with
  | some o => if o.wakesDoze && decide (s.power.state = .doze) then s.wakeRun else s
  | none => s

/-- The read of a chained command's block once steps 1 to 6 have passed (R130, R226). -/
def State.readBlock (s : State) (f : FnId) (d : Bytes) : State :=
  match s.checkDescriptor f d, opcodeOf (BitVec.ofNat 16 (leNat d 0 2)) with
  | none, some o =>
    if o.chained && (s.fn f).spans (leNat d 44 8) (leNat d 52 4) .any true then s.access f (leNat d 44 8) (leNat d 52 4)
    else s
  | _, _ => s

/-- A command is taken from a ring and checked: it begins, waits, or has its completion formed. The parameters of
JOB_SUBMIT and ATTEND are checked now (R234). -/
def State.takeEntry (s : State) (f : FnId) (n : RingId) (d : Bytes) : State :=
  let c := s.newCmd f n d
  let s := (s.wakeFor d).readBlock f d
  let (b, stop) := s.check f d
  let s := s.setSq f n SubRing.advance
  let c := { c with block := b }
  let stop := match stop with
    | some x => some x
    | none => (s.paramsBad c).map (fun d => { status := stBadParam, detail := d })
  match stop with
  | none => s.admitCmd c
  | some x =>
    let t := (s.addCmd { c with phase := .formed x.status x.detail 0 s.now, badBlock := x.block }).scatterStopped c
      x.status x.detail
    if x.graft then
      t.raise { source := 0x080 + HostPort.num (portOf f), event := .graftMismatch, owner := some f }
    else t

/-- A MEM_UNMAP has begun and not ended: nothing is taken meanwhile (log 27). -/
def State.unmapping (s : State) : Bool :=
  s.fore.taken.any (fun c => decide (c.phase = .begun) && c.op == some .memUnmap)

/-- COMMAND_TAKE: the next command in turn order, with what the read of its entry returned (R84, R111,
R116, R118, R134). -/
def execCommandTake (read : EntryRead) (s : State) : Host.Outcome State Fault Refusal :=
  match read with
  | .entry b => if b.length = 64 then
      .next (s.when (s.taking && !s.unmapping) (match s.nextTake with
        | none => s
        | some (f, n) => (s.advanceTurn f n).takeEntry f n b))
    else .fault .illFormed
  | .failed => .next (s.when (s.taking && !s.unmapping) (match s.nextTake with
      | none => s
      | some (f, n) =>
        let s := (s.advanceTurn f n).setSq f n (fun q => { q with enable := false, dead := true })
        (s.setError f errDma n.val).send (.aer (portOf f))))

/-- A command that waited begins once nothing holds it (R136, R297); an ATTEND whose requests reach beyond
their sequences completes with KV_NO_PAGE (R299), with the ENTRY of its ADMIT record (R327). -/
def execCommandDeferredBegin (cmd : Nat) (s : State) : Host.Outcome State Fault Refusal :=
  .next (match s.cmd cmd with
    | none => s
    | some c =>
      if s.rootRuns = true ∧ c.phase = .waiting ∧ s.blockers c = [] then
        match s.fore.runs.find? (fun r => r.cmd == some cmd) with
        | none => s.setCmd cmd (fun c => { c with phase := .begun })
        | some r =>
          if s.attendShort c.fn r.reqs then
            ((s.correctCharge r).setFore (fun x =>
              { x with runs := x.runs.filter (fun y => y.id != r.id) })).finish cmd stKvNoPage 0
                (if r.admitted then r.result else 0)
          else s.setCmd cmd (fun c => { c with phase := .running })
      else s)

end Sys2Proof.Machine
end

