-- ==== Sys2Proof/Machine/Dispatch.lean ====
section
/-!
DEFINITION. The dispatch of a command to its meaning: one arm per row of the operation table.
-/

namespace Sys2Proof.Machine

def exec (i : Instr) (s : State) : Host.Outcome State Fault Refusal :=
  match i with
  | .porstNAssert => Sys2Proof.Machine.execPorstNAssert s
  | .porstNDeassert trstHigh => Sys2Proof.Machine.execPorstNDeassert trstHigh s
  | .sysresetNAssert => Sys2Proof.Machine.execSysresetNAssert s
  | .sysresetNDeassert => Sys2Proof.Machine.execSysresetNDeassert s
  | .lampWatchdogReset => Sys2Proof.Machine.execLampWatchdogReset s
  | .perstNAssert p => Sys2Proof.Machine.execPerstNAssert p s
  | .perstNDeassert p => Sys2Proof.Machine.execPerstNDeassert p s
  | .rootPllLock => Sys2Proof.Machine.execRootPllLock s
  | .rootPllLockLoss => Sys2Proof.Machine.execRootPllLockLoss s
  | .loscQualifyCount count ran4096 => Sys2Proof.Machine.execLoscQualifyCount count ran4096 s
  | .lampBootDone configValid => Sys2Proof.Machine.execLampBootDone configValid s
  | .pcieTrainingStart => Sys2Proof.Machine.execPcieTrainingStart s
  | .pcieLinkUp p => Sys2Proof.Machine.execPcieLinkUp p s
  | .pcieConfigRequest p req => Sys2Proof.Machine.execPcieConfigRequest p req s
  | .startupInjection checker raised silentOnClean => Sys2Proof.Machine.execStartupInjection checker raised silentOnClean s
  | .firmwareAuthentication => Sys2Proof.Machine.execFirmwareAuthentication s
  | .memoryTrainingDone gibPerChannel => Sys2Proof.Machine.execMemoryTrainingDone gibPerChannel s
  | .scionStartupTestDone n bistFailed => Sys2Proof.Machine.execScionStartupTestDone n bistFailed s
  | .scionJoinDeadline => Sys2Proof.Machine.execScionJoinDeadline s
  | .configReady => Sys2Proof.Machine.execConfigReady s
  | .ethernetMacsUp => Sys2Proof.Machine.execEthernetMacsUp s
  | .canNormalMode => Sys2Proof.Machine.execCanNormalMode s
  | .chroylinkGroupStart g => Sys2Proof.Machine.execChroylinkGroupStart g s
  | .chroylinkGroupWindowClose g => Sys2Proof.Machine.execChroylinkGroupWindowClose g s
  | .bootComplete => Sys2Proof.Machine.execBootComplete s
  | .bootTimeout => Sys2Proof.Machine.execBootTimeout s
  | .sqTailDb f ring value => Sys2Proof.Machine.execSqTailDb f ring value s
  | .cqHeadDb f ring value => Sys2Proof.Machine.execCqHeadDb f ring value s
  | .sqRingControlWrite f ring value => Sys2Proof.Machine.execSqRingControlWrite f ring value s
  | .cqRingControlWrite f ring value => Sys2Proof.Machine.execCqRingControlWrite f ring value s
  | .hwdogServiceKey1 f => Sys2Proof.Machine.execHwdogServiceKey1 f s
  | .hwdogServiceKey2 f => Sys2Proof.Machine.execHwdogServiceKey2 f s
  | .hwdogServiceOther f => Sys2Proof.Machine.execHwdogServiceOther f s
  | .hwdogKeyTimeout p => Sys2Proof.Machine.execHwdogKeyTimeout p s
  | .msixVectorUnmask f vector => Sys2Proof.Machine.execMsixVectorUnmask f vector s
  | .registerWrite f offset size value => Sys2Proof.Machine.execRegisterWrite f offset size value s
  | .functionLevelReset f => Sys2Proof.Machine.execFunctionLevelReset f s
  | .flrDone f => Sys2Proof.Machine.execFlrDone f s
  | .commandTake read => Sys2Proof.Machine.execCommandTake read s
  | .commandDeferredBegin cmd => Sys2Proof.Machine.execCommandDeferredBegin cmd s
  | .completionWrite cmd ok => Sys2Proof.Machine.execCompletionWrite cmd ok s
  | .cqModerationTimer f ring => Sys2Proof.Machine.execCqModerationTimer f ring s
  | .nop cmd => Sys2Proof.Machine.execNop cmd s
  | .deviceQuery cmd io => Sys2Proof.Machine.execDeviceQuery cmd io s
  | .hello cmd => Sys2Proof.Machine.execHello cmd s
  | .functionQuery cmd io => Sys2Proof.Machine.execFunctionQuery cmd io s
  | .timeGet cmd io => Sys2Proof.Machine.execTimeGet cmd io s
  | .timeSet cmd => Sys2Proof.Machine.execTimeSet cmd s
  | .shareSet cmd => Sys2Proof.Machine.execShareSet cmd s
  | .provision cmd => Sys2Proof.Machine.execProvision cmd s
  | .memMap cmd => Sys2Proof.Machine.execMemMap cmd s
  | .memUnmap cmd => Sys2Proof.Machine.execMemUnmap cmd s
  | .memCopy cmd host graft2 => Sys2Proof.Machine.execMemCopy cmd host graft2 s
  | .memFill cmd io graft2 => Sys2Proof.Machine.execMemFill cmd io graft2 s
  | .memTagCheck cmd => Sys2Proof.Machine.execMemTagCheck cmd s
  | .streamOpen cmd => Sys2Proof.Machine.execStreamOpen cmd s
  | .streamClose cmd => Sys2Proof.Machine.execStreamClose cmd s
  | .streamCloseDone c => Sys2Proof.Machine.execStreamCloseDone c s
  | .streamConfig cmd => Sys2Proof.Machine.execStreamConfig cmd s
  | .streamStats cmd io => Sys2Proof.Machine.execStreamStats cmd io s
  | .linkStatus cmd io => Sys2Proof.Machine.execLinkStatus cmd io s
  | .guardConfig cmd => Sys2Proof.Machine.execGuardConfig cmd s
  | .graphLoad cmd img => Sys2Proof.Machine.execGraphLoad cmd img s
  | .graphUnload cmd => Sys2Proof.Machine.execGraphUnload cmd s
  | .jobSubmit cmd => Sys2Proof.Machine.execJobSubmit cmd s
  | .jobCancel cmd => Sys2Proof.Machine.execJobCancel cmd s
  | .bindStream cmd => Sys2Proof.Machine.execBindStream cmd s
  | .reserve cmd => Sys2Proof.Machine.execReserve cmd s
  | .kvOpen cmd => Sys2Proof.Machine.execKvOpen cmd s
  | .kvScatter cmd graft2 => Sys2Proof.Machine.execKvScatter cmd graft2 s
  | .kvTrim cmd => Sys2Proof.Machine.execKvTrim cmd s
  | .kvClose cmd => Sys2Proof.Machine.execKvClose cmd s
  | .kvQuery cmd => Sys2Proof.Machine.execKvQuery cmd s
  | .attend cmd => Sys2Proof.Machine.execAttend cmd s
  | .safetyConfig cmd => Sys2Proof.Machine.execSafetyConfig cmd s
  | .faultAck cmd => Sys2Proof.Machine.execFaultAck cmd s
  | .faultHistory cmd io => Sys2Proof.Machine.execFaultHistory cmd io s
  | .selftestStatus cmd io => Sys2Proof.Machine.execSelftestStatus cmd io s
  | .inject cmd => Sys2Proof.Machine.execInject cmd s
  | .thresholdSet cmd => Sys2Proof.Machine.execThresholdSet cmd s
  | .powerState cmd => Sys2Proof.Machine.execPowerState cmd s
  | .budgetSet cmd => Sys2Proof.Machine.execBudgetSet cmd s
  | .thermalQuery cmd io => Sys2Proof.Machine.execThermalQuery cmd io s
  | .dieRestore cmd => Sys2Proof.Machine.execDieRestore cmd s
  | .dieRestoreDone result => Sys2Proof.Machine.execDieRestoreDone result s
  | .canConfig cmd => Sys2Proof.Machine.execCanConfig cmd s
  | .canSend cmd => Sys2Proof.Machine.execCanSend cmd s
  | .safeMessageSet cmd => Sys2Proof.Machine.execSafeMessageSet cmd s
  | .uartConfig cmd => Sys2Proof.Machine.execUartConfig cmd s
  | .driftConfig cmd => Sys2Proof.Machine.execDriftConfig cmd s
  | .replayArm cmd => Sys2Proof.Machine.execReplayArm cmd s
  | .replayFeed cmd => Sys2Proof.Machine.execReplayFeed cmd s
  | .crosscheckConfig cmd => Sys2Proof.Machine.execCrosscheckConfig cmd s
  | .wdogConfig cmd => Sys2Proof.Machine.execWdogConfig cmd s
  | .firmwareStage cmd img => Sys2Proof.Machine.execFirmwareStage cmd img s
  | .firmwareCommit cmd => Sys2Proof.Machine.execFirmwareCommit cmd s
  | .debugUnlock cmd => Sys2Proof.Machine.execDebugUnlock cmd s
  | .timeSlewEnd => Sys2Proof.Machine.execTimeSlewEnd s
  | .gptpSync p m => Sys2Proof.Machine.execGptpSync p m s
  | .gptpPeerDelay p m => Sys2Proof.Machine.execGptpPeerDelay p m s
  | .gptpHoldover => Sys2Proof.Machine.execGptpHoldover s
  | .clockMonitorWindow m count => Sys2Proof.Machine.execClockMonitorWindow m count s
  | .wdogClockStopped w => Sys2Proof.Machine.execWdogClockStopped w s
  | .seamTransfer n toRootstock crcOk => Sys2Proof.Machine.execSeamTransfer n toRootstock crcOk s
  | .seamHeartbeatInterval n heard => Sys2Proof.Machine.execSeamHeartbeatInterval n heard s
  | .scionClockLockLoss n => Sys2Proof.Machine.execScionClockLockLoss n s
  | .scionResetAssert n => Sys2Proof.Machine.execScionResetAssert n s
  | .lampSeamFrame dest crcOk => Sys2Proof.Machine.execLampSeamFrame dest crcOk s
  | .lampSeamHeartbeatInterval side => Sys2Proof.Machine.execLampSeamHeartbeatInterval side s
  | .lockstepMismatch p => Sys2Proof.Machine.execLockstepMismatch p s
  | .faultEdgeCapture source event owner class2 stays => Sys2Proof.Machine.execFaultEdgeCapture source event owner class2 stays s
  | .faultHoldoffEnd source event => Sys2Proof.Machine.execFaultHoldoffEnd source event s
  | .reactionExpired source => Sys2Proof.Machine.execReactionExpired source s
  | .shadowTimerExpired source => Sys2Proof.Machine.execShadowTimerExpired source s
  | .faultInNLow => Sys2Proof.Machine.execFaultInNLow s
  | .voltageMonitor rail => Sys2Proof.Machine.execVoltageMonitor rail s
  | .wdogService w tick => Sys2Proof.Machine.execWdogService w tick s
  | .wdogPeriodEnd w => Sys2Proof.Machine.execWdogPeriodEnd w s
  | .foremanWdogService loopPassed f0Answered f1Answered timersReadable => Sys2Proof.Machine.execForemanWdogService loopPassed f0Answered f1Answered timersReadable s
  | .shiftBoundary => Sys2Proof.Machine.execShiftBoundary s
  | .tileStart => Sys2Proof.Machine.execTileStart s
  | .tileEnd e events measuredUs => Sys2Proof.Machine.execTileEnd e events measuredUs s
  | .sliceStart => Sys2Proof.Machine.execSliceStart s
  | .sliceEnd passed => Sys2Proof.Machine.execSliceEnd passed s
  | .sliceGuardExpired => Sys2Proof.Machine.execSliceGuardExpired s
  | .diagAgeLimit e => Sys2Proof.Machine.execDiagAgeLimit e s
  | .patrolScrubRead upsets met => Sys2Proof.Machine.execPatrolScrubRead upsets met s
  | .footprintSample footprint die => Sys2Proof.Machine.execFootprintSample footprint die s
  | .footprintCoolStep n => Sys2Proof.Machine.execFootprintCoolStep n s
  | .eclkDividerChange n => Sys2Proof.Machine.execEclkDividerChange n s
  | .budgetInterval packageMw baseMw requests acked => Sys2Proof.Machine.execBudgetInterval packageMw baseMw requests acked s
  | .stewardNoGrant n => Sys2Proof.Machine.execStewardNoGrant n s
  | .dozeEntry => Sys2Proof.Machine.execDozeEntry s
  | .nightEntry => Sys2Proof.Machine.execNightEntry s
  | .nightWake cause => Sys2Proof.Machine.execNightWake cause s
  | .noscMissingEdge => Sys2Proof.Machine.execNoscMissingEdge s
  | .nightRailCrossing rail => Sys2Proof.Machine.execNightRailCrossing rail s
  | .clTrainingAttemptStart p => Sys2Proof.Machine.execClTrainingAttemptStart p s
  | .clPreambleFound p agc => Sys2Proof.Machine.execClPreambleFound p agc s
  | .clCtlePresetDone p error agc x => Sys2Proof.Machine.execClCtlePresetDone p error agc x s
  | .clDfePreambleDone p x => Sys2Proof.Machine.execClDfePreambleDone p x s
  | .clTrainingBoundExpired p => Sys2Proof.Machine.execClTrainingBoundExpired p s
  | .linkBlock p b => Sys2Proof.Machine.execLinkBlock p b s
  | .clResyncTimeout p => Sys2Proof.Machine.execClResyncTimeout p s
  | .backchannelAckTimeout p msgNo => Sys2Proof.Machine.execBackchannelAckTimeout p msgNo s
  | .trigger c => Sys2Proof.Machine.execTrigger c s
  | .frameLateTimeout c => Sys2Proof.Machine.execFrameLateTimeout c s
  | .ethFrame p fcsOk frame graft2 => Sys2Proof.Machine.execEthFrame p fcsOk frame graft2 s
  | .ethLinkChange p up speed => Sys2Proof.Machine.execEthLinkChange p up speed s
  | .uartCharacter p samples graft2 => Sys2Proof.Machine.execUartCharacter p samples graft2 s
  | .uartIdleGap p => Sys2Proof.Machine.execUartIdleGap p s
  | .canFrameEnd b o => Sys2Proof.Machine.execCanFrameEnd b o s
  | .canBusOffRecoveryDone b => Sys2Proof.Machine.execCanBusOffRecoveryDone b s
  | .canSendTimeout b cmd => Sys2Proof.Machine.execCanSendTimeout b cmd s
  | .canFrameReceived b good => Sys2Proof.Machine.execCanFrameReceived b good s
  | .safeMessageRepeat b => Sys2Proof.Machine.execSafeMessageRepeat b s
  | .driftPacket p packet => Sys2Proof.Machine.execDriftPacket p packet s
  | .driftTrainingRetry p => Sys2Proof.Machine.execDriftTrainingRetry p s
  | .xcUnmatchedTimeout c counter => Sys2Proof.Machine.execXcUnmatchedTimeout c counter s
  | .replayRecordApply => Sys2Proof.Machine.execReplayRecordApply s
  | .replayBreak => Sys2Proof.Machine.execReplayBreak s
  | .lampDieReset => Sys2Proof.Machine.execLampDieReset s
  | .driftLinkChange p up => Sys2Proof.Machine.execDriftLinkChange p up s
  | .linkSettingsRetrainTimeout p => Sys2Proof.Machine.execLinkSettingsRetrainTimeout p s

end Sys2Proof.Machine
end

