-- ==== Sys2Proof/Safety.lean ====
section
/-!
DEFINITION. What counts as a sound state and as a latched safe state, in the terms that statements use.
-/

namespace Sys2Proof.Machine

/-- The bounds that every state of the device keeps: memory and the yard in their canonical form, at most
32 reaction timers (R389), at most 32 records in a view (R384), a correction of device time within ±500 ppm (R55), the
decision-log ring (R327) and the 1,024 digest records held (R470). -/
structure State.Inv (s : State) : Prop where
  mem    : s.mem.wf = true
  yard   : s.yard.mem.wf = true
  timers : s.fcu.timers.length ≤ Config.timerSlots
  views  : ∀ f : FnId, (s.fn f).view.length ≤ 32
  corr   : s.clk.corr.natAbs ≤ Config.maxCorrection
  slew   : ∀ w, s.clk.slew = some w → w.prev.natAbs ≤ Config.maxCorrection
  log    : s.fore.log.length ≤ Config.logRecords
  held   : s.xc.held.length ≤ 1024

/-- The rows that are part of a whole-device reset (R64, R66, R399, R403). -/
def resets : Instr → Bool
  | .porstNAssert | .porstNDeassert _ | .sysresetNAssert | .sysresetNDeassert | .lampWatchdogReset => true
  | _ => false

/-- The device is awake: not in Night (R432). -/
def State.awake (s : State) : Bool := decide (s.power.state ≠ .night)

/-- Everything that the safe state latches in `s` is latched in `t` (R397, R399): each die's safe state,
and each die's drive of the SAFE pins. -/
structure Latched (s t : State) : Prop where
  root     : s.safe = true → t.safe = true
  lamp     : s.lamp.safe = true → t.lamp.safe = true
  rootPins : s.rootDrivesLow = true → t.rootDrivesLow = true
  lampPins : s.lampDrivesLow = true → t.lampDrivesLow = true

/-- The command `id` has been taken as `c`, is of the opcode `o`, and has begun on a running rootstock
(R134, R136): its opcode's row may act. -/
structure State.Begins (s : State) (id : Nat) (o : Opcode) (c : Cmd) : Prop where
  cmd   : s.cmd id = some c
  runs  : s.rootRuns = true
  phase : c.phase = .begun
  op    : opcodeOf c.opcode = some o

/-- The command `id` has been taken as `c`, of an opcode `o` that meets admission; it has begun or waits,
and has no run yet (R297, R314, R315). -/
structure State.Offered (s : State) (id : Nat) (o : Opcode) (c : Cmd) : Prop where
  cmd   : s.cmd id = some c
  runs  : s.rootRuns = true
  phase : c.phase = .begun ∨ c.phase = .waiting
  op    : c.op = some o
  fresh : s.fore.runs.all (fun r => r.cmd != some id) = true

/-- The level of the SAFE pins: high only while neither die drives them low (R29). -/
def State.pinsHigh (s : State) : Bool := !s.rootDrivesLow && !s.lampDrivesLow

/-- `t` is what a whole-device reset leaves of `s` on the rootstock and the scions (R54, R64, R67): the fuses
and the flash stay (what FIRMWARE_STAGE verified does not count any more, R147), each port keeps the level of its
PERST_N, and everything else is as at reset; the safe state is over. -/
structure Restarted (s t : State) : Prop where
  fixed    : t.fixed = s.fixed
  selected : t.flash.selected = s.flash.selected
  slots    : ∀ n : Fin 2, t.flash.slots[n.val] = { s.flash.slots[n.val] with staged := false }
  clk      : t.clk = {}
  fns      : t.fns = Vector.replicate 128 {}
  portA    : t.portA = { perstLow := s.portA.perstLow }
  portB    : t.portB = { perstLow := s.portB.perstLow }
  fore     : t.fore = {}
  fcu      : t.fcu = {}
  mem      : t.mem = {}
  yard     : t.yard = {}
  streams  : t.streams = Vector.replicate 48 {}
  cl       : t.cl = Vector.replicate 24 {}
  eth      : ∀ p : Port4, t.eth[p.val] = { mac := s.fixed.macs[p.val] }
  uart     : t.uart = Vector.replicate 4 {}
  drift    : t.drift = Vector.replicate 4 {}
  xc       : t.xc = {}
  power    : t.power = {}
  scions   : t.scions = Vector.replicate 4 {}
  engines  : t.engines = Vector.replicate 64 {}
  safe     : t.safe = false
  postBoot : t.postBoot = false
  pins     : t.rootDrivesLow = false

/-- A start of the device (R64, R68, R407, R485): `t` has left reset with this RESET_CAUSE and this test mode; the
watchdogs run if their fuse says so, the lamp die is as at reset and, in test mode, in the safe state. -/
structure Started (s t : State) (cause : ResetCause) (test : Bool) : Prop extends Restarted s t where
  boot  : t.boot = { cause := cause, testMode := test }
  wdog  : ∀ w : WdogId, (t.wdog[w.val]).state = if s.fixed.wdogHwStart then .running else .stopped
  lamp  : test = false → t.lamp = {} ∧ t.pinsHigh = true
  test  : test = true → t.lamp.safe = true ∧ t.pinsHigh = false

/-- In `t` the command `id`, taken as `c`, has this completion formed, and no other command has changed
since `s`. -/
structure Completed (s t : State) (id : Nat) (c : Cmd) (status detail : BitVec 16) (result : BitVec 64) : Prop where
  own   : t.cmd id = some { c with phase := .formed status detail result t.now }
  other : ∀ j, j ≠ id → t.cmd j = s.cmd j

/-- A command that the lamp die carries out has set out over the lamp seam (R27): it is at work, its message waits
last for the lamp die unless the seam is lost, and nothing else has changed. -/
structure SetsOut (s t : State) (id : Nat) (c : Cmd) (m : SeamMsg) : Prop where
  own   : t.cmd id = some { c with phase := .running }
  other : ∀ j, j ≠ id → t.cmd j = s.cmd j
  queue : s.lamp.seamLost = false → t.lamp = { s.lamp with toLamp := s.lamp.toLamp ++ [m] }
  lost  : s.lamp.seamLost = true → t.lamp = s.lamp
  rest  : t = { s with fore := t.fore, lamp := t.lamp }

/-- The message of the command `id`, taken as `c` and at work, is the next that reaches the lamp die, over a seam that
is up (R27). -/
structure State.Crosses (s : State) (m : SeamMsg) (id : Nat) (o : Opcode) (c : Cmd) : Prop where
  runs  : s.lampRuns = true
  up    : s.lamp.seamUp = true
  found : s.lamp.lampSide.lost = false
  next  : nextMsg s.lamp.toLamp = some m
  cmd   : s.cmd id = some c
  phase : c.phase = .running
  op    : opcodeOf c.opcode = some o

/-- A list of stores, done in order, ends without a line that cannot be merged (R335). -/
def StoresOk : Memory → List (Nat × Bytes) → Prop
  | _, [] => True
  | m, x :: l => (m.store x.1 x.2).2.2 = none ∧ StoresOk (m.store x.1 x.2).1 l

/-- Every line that the values of tile `j` of a run go to, in memory or in the yard, can be merged (R225, R335). -/
structure State.Lands (s : State) (r : Run) (j : Nat) (vals : List Int) : Prop where
  mem  : StoresOk s.mem (s.landing r j vals)
  yard : ∀ t d yo, r.reqs = [] → r.outOf j = some (t, d) → (s.holdYard r d).placeOf r d.id = .yard yo →
           StoresOk (s.holdYard r d).yard.mem
             (((s.holdYard r d).tileBytes r t d vals).map (fun x => (yo + x.1, x.2)))

/-- A watchdog has failed (R402 to R404): the failure is counted; the first warns; one while WARNED is final. -/
structure WdogFailed (s t : State) (w : WdogId) : Prop where
  count : (t.wdog[w.val]).failures = min ((s.wdog[w.val]).failures + 1) 65535
  warns : (s.wdog[w.val]).state = .running → (t.wdog[w.val]).state = .warned
  lamp  : (s.wdog[w.val]).state = .warned → w.val = 0 → t.lamp.resetDue = true ∧ t.lamp.safe = true
  host  : (s.wdog[w.val]).state = .warned → w.val ≠ 0 → (t.wdog[w.val]).state = .waiting
            ∧ (s.lamp.seamLost = false → .channelReset (wdogPort w) ∈ t.lamp.toRoot)
  other : ∀ v : WdogId, v ≠ w → t.wdog[v.val] = s.wdog[v.val]

/-- The row answers the query `id` with a record (R140, R236): it forms the command's completion in every case.
While no unit of memory holds flipped bits, so that no read on the way raises an event: where the record can be
written, it is in memory and the completion is OK; where a line or a host request fails, the completion says INTEGRITY
with its DETAIL. (An event on the way may take the device to the safe state, which then completes the command.) -/
def State.Answers (s : State) (row : Instr) (id : Nat) (c : Cmd) (va : Nat) (record : Bytes) (io : HostIo)
    (result : BitVec 64) : Prop :=
  ∃ t, exec row s = .next t
    ∧ (∃ st k r, t.cmd id = some { c with phase := .formed st k r t.now })
    ∧ (s.mem.upsets = [] → ∀ u n, s.writeVa c.fn (c.cls == 2) va record io = (u, n, none) →
        Completed s t id c stOk 0 result ∧ t.mem = u.mem ∧ t.sent = u.sent)
    ∧ (s.mem.upsets = [] → ∀ u n d, s.writeVa c.fn (c.cls == 2) va record io = (u, n, some d) → d ≠ 4 →
        Completed s t id c stIntegrity d 0)

end Sys2Proof.Machine
end

