-- ==== Sys2Proof/Certificates/Slice0/Obligations.lean ====
section
/-!
DEFINITION. The statements about the model, for the provers.
-/

open Sys2Proof Sys2Proof.Machine

/-! ## The queue and the bounds -/

/-- A step runs the command at the front of the queue, on the state with the queue's rest. -/
def Obligations.StepRunsTheFrontCommand : Prop :=
  ∀ (s : State) (c : Instr) (rest : List Instr),
    s.pending = c :: rest → step s = exec c { s with pending := rest }

/-- No command changes the queue of waiting commands, and the record of what the device sent only grows. The model's
readings: log 2. -/
def Obligations.CommandsLeaveTheQueue : Prop :=
  ∀ (c : Instr) (s t : State), exec c s = .next t → t.pending = s.pending ∧ s.sent <:+ t.sent

/-- Every step keeps the bounds: the canonical form of memory and of the yard, at most 32 reaction timers, at most 32
records in a view, a correction within 500 ppm, also the one that a slew will give back, the decision-log ring, 1,024
held digest records. The model's readings: log 26. -/
def Obligations.EveryStepKeepsTheBounds : Prop :=
  ∀ s t : State, s.Inv → step s = .next t → t.Inv

/-- The state after reset meets the bounds. The model's readings: log 26. -/
def Obligations.ResetMeetsTheBounds : Prop := State.reset.Inv

/-- What reset leaves where the manual gives the value: device time 0 from the source FREE, tally 8, event, error and
mask registers 0, HELLO_DONE 0, no EVENT_SEQ and no ENTRY used, NOISE_AGE 0xFFFF_FFFF, the SAFE pins high,
BOOT_COMPLETE not reached. -/
def Obligations.ResetValues : Prop :=
  State.reset.clk.time = 0 ∧ State.reset.clk.source = .free ∧ State.reset.pinsHigh = true
    ∧ State.reset.boot.complete = false ∧ State.reset.fcu.nextSeq = 0 ∧ State.reset.fore.nextEntry = 0
    ∧ (∀ f : FnId, (State.reset.fn f).tally = 8 ∧ (State.reset.fn f).event = 0 ∧ (State.reset.fn f).mask = 0
        ∧ (State.reset.fn f).error = 0 ∧ (State.reset.fn f).helloDone = false)
    ∧ (∀ p : ClPortId, (State.reset.cl[p.val]).noiseAge = 0xFFFFFFFF ∧ (State.reset.cl[p.val]).blocks = 0)

/-- An idle step (the model's own choice, log 16) is one ICLK cycle while the rootstock's clocks run, and nothing
else. -/
def Obligations.IdleStepIsOneCycle : Prop :=
  ∀ s : State, s.pending = [] →
    (s.rootRuns = true → ∃ t, step s = .next t ∧ t.clk.iclk = s.clk.iclk + 1 ∧ t = { s with clk := t.clk })
    ∧ (s.rootRuns = false → step s = .next s)

/-- The rate correction is held within ±500 ppm of the nominal INCREMENT of 2.5 ns, in whole units of 2^-32 ns per
ICLK cycle, so that INCREMENT stays above 2.49 ns; and the count of device time, with its fraction, rises by INCREMENT
on every ICLK cycle, so it is strictly increasing until it wraps. -/
def Obligations.DeviceTimeIsStrictlyIncreasing : Prop :=
  ∀ c : Clocks,
    (∃ k : Int, (c.increment : Int) = 0x000280000000 + k ∧ 1000000 * k.natAbs ≤ 500 * 0x000280000000)
    ∧ 249 * 2 ^ 32 < 100 * c.increment
    ∧ (c.total + c.increment < 2 ^ 96 → c.total < c.cycle.total ∧ c.cycle.total = c.total + c.increment)

/-! ## Whole-device resets and the safe state -/

/-- The four pins' edges and the lamp watchdog's reset. PORST_N or SYSRESET_N falling holds the device with
everything as at reset and the SAFE pins high; SYSRESET_N is ignored while PORST_N is low. PORST_N or SYSRESET_N rising
and the end of the lamp watchdog's pulse start it: RESET_CAUSE names the reset, the watchdogs run if their fuse says so,
and in test mode the lamp die is in the safe state; an edge of a pin that is not low, and a pulse that is not due, do
nothing. The model's readings: log 1, 3, 81. -/
def Obligations.WholeDeviceResets : Prop :=
  (∀ s : State, ∃ t, exec .porstNAssert s = .next t ∧ Restarted s t ∧ t.held = true ∧ t.boot.porstLow = true
      ∧ t.boot.cause = s.boot.cause ∧ t.pinsHigh = true)
  ∧ (∀ (s : State) (test : Bool), s.boot.porstLow = true →
      ∃ t, exec (.porstNDeassert test) s = .next t ∧ t.held = false ∧ Started s t .porst test)
  ∧ (∀ (s : State) (test : Bool), s.boot.porstLow = false → exec (.porstNDeassert test) s = .next s)
  ∧ (∀ s : State, s.boot.porstLow = false →
      ∃ t, exec .sysresetNAssert s = .next t ∧ Restarted s t ∧ t.held = true ∧ t.boot.sysresetLow = true
        ∧ t.boot.cause = s.boot.cause ∧ t.boot.testMode = s.boot.testMode ∧ t.pinsHigh = true)
  ∧ (∀ s : State, s.boot.porstLow = true →
      exec .sysresetNAssert s = .next s ∧ exec .sysresetNDeassert s = .next s)
  ∧ (∀ s : State, s.boot.sysresetLow = true → s.boot.porstLow = false →
      ∃ t, exec .sysresetNDeassert s = .next t ∧ t.held = false ∧ Started s t .sysreset s.boot.testMode)
  ∧ (∀ s : State, s.boot.sysresetLow = false → exec .sysresetNDeassert s = .next s)
  ∧ (∀ s : State, s.lampRuns = true → s.lamp.resetDue = true →
      ∃ t, exec .lampWatchdogReset s = .next t ∧ t.held = false ∧ Started s t .lampWatchdog s.boot.testMode)
  ∧ (∀ s : State, s.lamp.resetDue = false → exec .lampWatchdogReset s = .next s)

/-- The safe state is left only by a whole-device reset: on a device that is awake, every command that is not part of
such a reset leaves each die's safe state as it is once entered, save that the lamp die's own reset (R453) ends the
lamp die's; and the device stays awake except by entering Night, which is barred in the safe state. The model's
readings: log 97, 99. -/
def Obligations.SafeStateIsLatched : Prop :=
  ∀ (c : Instr) (s t : State), s.awake = true → resets c = false → exec c s = .next t →
    (s.safe = true → t.safe = true)
    ∧ (s.lamp.safe = true → c ≠ .lampDieReset → t.lamp.safe = true)
    ∧ (s.safe = true ∨ s.lamp.safe = true → t.awake = true)

/-- Once a die drives the SAFE pins low it goes on until a whole-device reset: on a device that is awake, no command
but those of such a reset, and entry to Night, which comes from no safe state, releases them. The model's readings:
log 81, 99. -/
def Obligations.SafePinsStayLow : Prop :=
  ∀ (c : Instr) (s t : State), s.awake = true → resets c = false → c ≠ .nightEntry → exec c s = .next t →
    (s.rootDrivesLow = true → t.rootDrivesLow = true) ∧ (s.lampDrivesLow = true → t.lampDrivesLow = true)
    ∧ (s.pinsHigh = false → t.pinsHigh = false)

/-- Entering the safe state stops every engine and every reaction timer, ends every run, completes with SAFE_STATE
every outstanding command that is not marked S at CLASS 0, leaves those that are as they were, and drives the SAFE
pins low. The model's readings: log 22, 97. -/
def Obligations.EnteringTheSafeState : Prop :=
  ∀ (s : State) (cause boot : Nat), s.safe = false →
    let t := s.rootSafe cause boot
    t.safe = true ∧ t.rootDrivesLow = true ∧ t.fore.runs = [] ∧ t.fcu.timers = []
    ∧ (∀ e : EngineId, (t.engines[e.val]).tile = none ∧ (t.engines[e.val]).slice = false)
    ∧ (∀ d ∈ t.fore.taken, d.live = true → d ∈ s.fore.taken ∧ d.cls = 0 ∧ ∃ o, opcodeOf d.opcode = some o ∧ o.safeMark = true)
    ∧ (∀ c ∈ s.fore.taken, c.live = true → (∀ o, opcodeOf c.opcode = some o → (o.safeMark = false ∨ c.cls ≠ 0)) →
        ∃ r, { c with phase := .formed stSafe 0 r s.now } ∈ t.fore.taken)

/-- Night is not entered from the safe state of either die, and a wake event does nothing to a device that is awake.
The model's readings: log 1, 99. -/
def Obligations.NightAndTheSafeState : Prop :=
  (∀ s : State, s.safe = true ∨ s.lamp.safe = true → exec .nightEntry s = .next s)
  ∧ (∀ (s : State) (w : WakeCause), s.awake = true → exec (.nightWake w) s = .next s)

/-! ## Start-up and the ports -/

/-- The root PLL: at lock the rootstock's clocks run and nothing else changes; when lock is lost the SAFE pins go low,
the PCIe links fail, device time stops, and the PLL does not lock again before a whole-device reset. The model's
readings: log 1. -/
def Obligations.RootPll : Prop :=
  (∀ s : State, s.held = false → s.clk.lost = false → s.clk.rootLocked = false → s.awake = true →
    ∃ t, exec .rootPllLock s = .next t ∧ t.rootRuns = true ∧ t = { s with clk := { s.clk with rootLocked := true } })
  ∧ (∀ s : State, s.rootRuns = true →
    ∃ t, exec .rootPllLockLoss s = .next t ∧ t.rootRuns = false ∧ t.rootDrivesLow = true ∧ t.pinsHigh = false
      ∧ t.portA.linkUp = false ∧ t.portB.linkUp = false ∧ t.now = s.now ∧ step { t with pending := [] } = .next { t with pending := [] }
      ∧ exec .rootPllLock t = .next t
      ∧ t = { s with rootDrivesLow := true, clk := t.clk, portA := t.portA, portB := t.portB })

/-- Start-up on the rootstock: firmware is taken from the selected slot if it passes, else from the other, else the
recovery service runs in the safe state; memory training sets MEM_MIB from the smallest trained channel and starts the
patrol scrub at offset 0, or fails boot; a scion whose engines pass logic BIST and whose checkers have all passed joins,
a failure of either kind is counted and the second excludes it; 260 ms exclude a scion that has not passed, and no scion
left is a boot failure; config-ready and the MACs. The model's readings: log 1, 15, 81. -/
def Obligations.StartUpOnTheRootstock : Prop :=
  (∀ s : State, s.rootRuns = true → s.boot.testMode = false → s.boot.firmware = none → s.boot.recovery = false →
    ∃ t, exec .firmwareAuthentication s = .next t
      ∧ (s.slotOk s.flash.selected = true → t.boot.firmware = some s.flash.selected ∧ t.boot.fallbackSlot = s.boot.fallbackSlot
          ∧ t = { s with boot := t.boot })
      ∧ (s.slotOk s.flash.selected = false → s.slotOk (otherSlot s.flash.selected) = true →
          t.boot.firmware = some (otherSlot s.flash.selected) ∧ t.boot.fallbackSlot = true ∧ t = { s with boot := t.boot })
      ∧ (s.slotOk 0 = false → s.slotOk 1 = false → t.boot.firmware = none ∧ t.boot.recovery = true ∧ t.safe = true))
  ∧ (∀ (s : State) (g : List Nat), s.rootRuns = true → s.boot.memTrained = false → s.boot.recovery = false →
    ∃ t, exec (.memoryTrainingDone g) s = .next t
      ∧ (∀ m, g.min? = some (m + 1) → t.boot.memTrained = true ∧ t.boot.memMib = 24 * min (m + 1) s.fixed.fittedGib * 1024
          ∧ t.boot.memReduced = decide (m + 1 < s.fixed.fittedGib) ∧ t.boot.scrub = 0 ∧ t = { s with boot := t.boot })
      ∧ (g.min? = some 0 ∨ g = [] → t.safe = true ∧ t.boot.memTrained = false))
  ∧ (∀ (s : State) (n : ScionId), s.rootRuns = true → s.boot.complete = false → (s.scions[n.val]).state = .untested →
    let stuck := s.boot.failing.any (fun k => decide (checkerDie k = .scion n))
    (stuck = false → (∀ k ∈ scionCheckers n, k ∈ s.boot.passed) →
      ∃ t, exec (.scionStartupTestDone n none) s = .next t ∧ (t.scions[n.val]).state = .joined
        ∧ (t.scions[n.val]).excluded = false ∧ (∀ m : ScionId, m ≠ n → t.scions[m.val] = s.scions[m.val])
        ∧ t = { s with scions := t.scions, engines := t.engines })
    ∧ (∀ bist : Option (Fin 16), bist.isSome = true ∨ stuck = true →
      ∃ t, exec (.scionStartupTestDone n bist) s = .next t ∧ (t.scions[n.val]).failures = (s.scions[n.val]).failures + 1
        ∧ ((s.scions[n.val]).failures = 0 → (t.scions[n.val]).state = .untested)
        ∧ (1 ≤ (s.scions[n.val]).failures → (t.scions[n.val]).state = .excluded ∧ (t.scions[n.val]).excluded = true)
        ∧ (∀ k ∈ t.boot.passed ++ t.boot.failing, checkerDie k ≠ .scion n)))
  ∧ (∀ s : State, s.rootRuns = true → s.boot.complete = false →
    ∃ t, exec .scionJoinDeadline s = .next t
      ∧ (∀ n : ScionId, (s.scions[n.val]).state = .untested → (t.scions[n.val]).state = .excluded ∧ (t.scions[n.val]).excluded = true)
      ∧ (∀ n : ScionId, (s.scions[n.val]).state = .joined → t.scions[n.val] = s.scions[n.val])
      ∧ ((∀ n : ScionId, (s.scions[n.val]).state = .untested ∨ (s.scions[n.val]).state = .excluded) → t.safe = true))
  ∧ (∀ s : State, s.rootRuns = true →
    exec .configReady s = .next { s with boot := { s.boot with configReady := true } }
    ∧ exec .ethernetMacsUp s = .next { s with boot := { s.boot with macsUp := true } })

/-! ## The hosts' ports and functions -/

/-- The PCIe ports: training opens for the ports that PERST_N does not hold, a link comes up, PERST_N takes it down
and resets the port's functions, and lets the port train again when it rises; a configuration request gets Retry Status
until config-ready and while the port's PF resets, and otherwise its answer: VF Enable, MSI-X Enable and Function Mask
take their values, and vectors that pend and are masked no more are signalled. The model's readings: log 1, 48. -/
def Obligations.PciePorts : Prop :=
  (∀ s : State, s.rootRuns = true → ∃ t, exec .pcieTrainingStart s = .next t ∧ t.boot.trainingOpen = true
      ∧ (∀ p, (t.port p).training = ((s.port p).training || !(s.port p).perstLow) ∧ (t.port p).linkUp = (s.port p).linkUp)
      ∧ t = { s with boot := t.boot, portA := t.portA, portB := t.portB })
  ∧ (∀ (s : State) (p : HostPort), s.rootRuns = true → (s.port p).training = true →
      exec (.pcieLinkUp p) s = .next (s.setPort p (fun x => { x with linkUp := true })))
  ∧ (∀ (s : State) (p : HostPort), s.held = false → ∃ t, exec (.perstNAssert p) s = .next t
      ∧ (t.port p).perstLow = true ∧ (t.port p).linkUp = false ∧ (t.port p).training = false ∧ (t.port p).vfs = 0
      ∧ (∀ f, portOf f = p → (t.fn f).resetting = true ∧ (t.fn f).provision = none)
      ∧ (∀ f, portOf f ≠ p → t.fn f = s.fn f) ∧ (∀ c ∈ t.fore.taken, portOf c.fn ≠ p) ∧ t.sent = s.sent)
  ∧ (∀ (s : State) (p : HostPort), s.held = false → ∃ t, exec (.perstNDeassert p) s = .next t
      ∧ (t.port p).perstLow = false ∧ (s.boot.trainingOpen = true → (t.port p).training = true)
      ∧ t = s.setPort p (fun _ => t.port p))
  ∧ (∀ (s : State) (p : HostPort) (r : ConfigReq), s.rootRuns = true → (s.port p).linkUp = true →
      (s.boot.configReady = false ∨ (s.fn (pfOf p)).resetting = true →
        exec (.pcieConfigRequest p r) s = .next (s.send (.config p true)))
      ∧ (s.boot.configReady = true → (s.fn (pfOf p)).resetting = false →
          ∃ t, exec (.pcieConfigRequest p r) s = .next t ∧ t.sent.head? = some (.config p false)
            ∧ (r = .read → t = s.send (.config p false))
            ∧ (∀ n, r = .setVfs n → (t.port p).vfs = n.val ∧ t.fns = s.fns ∧ t.sent = .config p false :: s.sent)
            ∧ (∀ f e m, r = .setMsix f e m → portOf f = p →
                (t.fn f).msixEnable = e ∧ (t.fn f).msixMask = m ∧ t.port p = s.port p
                ∧ (∀ g, g ≠ f → t.fn g = s.fn g)
                ∧ (e = false ∨ m = true ∨ (s.fn f).resetting = true → t.sent = .config p false :: s.sent)
                ∧ (e = true → m = false → (s.fn f).resetting = false → ∀ v : Fin 32,
                    ((s.fn f).msix[v.val]).pba = true → ((s.fn f).msix[v.val]).masked = false →
                    .msix f v.val ∈ t.sent ∧ ((t.fn f).msix[v.val]).pba = false))))

/-- Function Level Reset: while it runs the function has no command and no run, none of them gets a completion; of a
VF it touches no other function; of a PF it takes the port's VFs with it, and their provisions. At its end the
function's rings are as at reset, its memory reads 0, its view, TOTAL and provision stay, and every other function and
every byte of theirs is as before. The model's readings: log 1, 48. -/
def Obligations.FunctionLevelReset : Prop :=
  (∀ (s : State) (f : FnId), s.reaches f = true → (s.fn f).resetting = false →
    ∃ t, exec (.functionLevelReset f) s = .next t ∧ (t.fn f).resetting = true
      ∧ (∀ c ∈ t.fore.taken, c.fn ≠ f ∧ c ∈ s.fore.taken) ∧ (∀ r ∈ t.fore.runs, r.fn ≠ f ∧ r ∈ s.fore.runs) ∧ t.sent = s.sent
      ∧ (isVf f = true → ∀ g, g ≠ f → t.fn g = s.fn g)
      ∧ (isVf f = false → ∀ g, portOf g = portOf f → (t.fn g).resetting = true ∧ (t.fn g).provision = none)
      ∧ (∀ g, portOf g ≠ portOf f → t.fn g = s.fn g))
  ∧ (∀ (s : State) (f : FnId), s.rootRuns = true → (s.fn f).resetting = true → s.mem.wf = true →
    ∃ t, exec (.flrDone f) s = .next t ∧ (t.fn f).resetting = false ∧ (t.fn f).helloDone = false ∧ (t.fn f).tally = 8
      ∧ (t.fn f).sqs = Vector.replicate 16 {} ∧ (t.fn f).cqs = Vector.replicate 16 {} ∧ (t.fn f).maps = []
      ∧ (t.fn f).graphs = [] ∧ (t.fn f).seqs = [] ∧ (t.fn f).view = (s.fn f).view ∧ (t.fn f).total = (s.fn f).total
      ∧ (t.fn f).provision = (s.fn f).provision ∧ (∀ r ∈ t.fore.reservations, r.fn ≠ f)
      ∧ (∀ c : CtxId, (t.streams[c.val]).isOpen = true → (t.streams[c.val]).owner ≠ f)
      ∧ (∀ va, va < 2 ^ 48 → t.mem.byte (memKey f va) = 0)
      ∧ (∀ g va, g ≠ f → va < 2 ^ 48 → t.fn g = s.fn g ∧ t.mem.byte (memKey g va) = s.mem.byte (memKey g va)))

/-- Doorbells and ring control: a tail or head below the ring's depth is recorded, any other sets BAD_TAIL or BAD_HEAD
with the ring's number and leaves the ring; a control write that the rules refuse sets RING_CONFIG and changes nothing
of the ring; one that sets ENABLE starts HEAD and TAIL at 0; with a submission ring's ENABLE cleared nothing is taken
from it, and what was taken stays. -/
def Obligations.DoorbellsAndRings : Prop :=
  ∀ (s : State) (f : FnId) (n : RingId) (v : BitVec 32), s.reaches f = true →
    ((s.fn f).resetting = false → (s.sq f n).enable = true → ∃ t, exec (.sqTailDb f n v) s = .next t
      ∧ (v.toNat % 4096 < 2 ^ (s.sq f n).log2.toNat → t = s.setSq f n (fun q => { q with tail := BitVec.ofNat 12 v.toNat }))
      ∧ (2 ^ (s.sq f n).log2.toNat ≤ v.toNat % 4096 → t.sq f n = s.sq f n ∧ (t.fn f).error = (s.fn f).error ||| 1
          ∧ (t.fn f).errorRing = BitVec.ofNat 5 n.val))
    ∧ ((s.fn f).resetting = false → (s.cq f n).enable = true → ∃ t, exec (.cqHeadDb f n v) s = .next t
      ∧ (v.toNat % 4096 < 2 ^ (s.cq f n).log2.toNat → t = s.setCq f n (fun q => { q with head := BitVec.ofNat 12 v.toNat }))
      ∧ (2 ^ (s.cq f n).log2.toNat ≤ v.toNat % 4096 → t.cq f n = s.cq f n ∧ (t.fn f).error = (s.fn f).error ||| 2
          ∧ (t.fn f).errorRing = BitVec.ofNat 5 (16 + n.val)))
    ∧ (∃ t, exec (.sqRingControlWrite f n v) s = .next t
      ∧ (s.sqRefused f n v = true → t.sq f n = s.sq f n ∧ (t.fn f).error = (s.fn f).error ||| 4)
      ∧ (s.sqRefused f n v = false → (t.sq f n).enable = v.getLsbD 31 ∧ (t.sq f n).cq = v.extractLsb' 16 4
          ∧ (t.sq f n).log2 = v.extractLsb' 0 4 ∧ (t.sq f n).base = (s.sq f n).base
          ∧ (v.getLsbD 31 = true → (s.sq f n).enable = false → (t.sq f n).head = 0 ∧ (t.sq f n).tail = 0)
          ∧ (v.getLsbD 31 = false → t.nextTake ≠ some (f, n)) ∧ t.fore.taken = s.fore.taken))
    ∧ (∃ t, exec (.cqRingControlWrite f n v) s = .next t
      ∧ (s.cqRefused f n v = true → t.cq f n = s.cq f n ∧ (t.fn f).error = (s.fn f).error ||| 4)
      ∧ (s.cqRefused f n v = false → (t.cq f n).enable = v.getLsbD 31 ∧ (t.cq f n).vector = v.extractLsb' 16 5
          ∧ (t.cq f n).log2 = v.extractLsb' 0 4 ∧ (t.cq f n).base = (s.cq f n).base
          ∧ (v.getLsbD 31 = true → (s.cq f n).enable = false →
              (t.cq f n).head = 0 ∧ (t.cq f n).tail = 0 ∧ (t.cq f n).phase = true)))

/-- Writes to BAR0: FN_ERROR and FN_EVENT clear the bits written as 1, FN_EVENT_MASK takes its value, a 64-bit write
acts as its two halves, lower address first, a misaligned write and one of another size are ignored; the mask is 0 at
reset; a bit of FN_EVENT that rises while its mask bit is 0 signals vector 0, unless the function is
resetting; unmasking an MSI-X vector whose PBA bit is set signals it and clears the bit, unless Function Mask is set or
the function is resetting, and then the bit stays. The model's readings: log 1. -/
def Obligations.RegisterWrites : Prop :=
  (∀ (s : State) (f : FnId) (v : BitVec 64), s.reaches f = true →
    exec (.registerWrite f 0x000C 4 v) s = .next (s.setFn f (fun x => { x with error := x.error &&& ~~~(v.setWidth 4) }))
    ∧ exec (.registerWrite f 0x0010 4 v) s = .next (s.setFn f (fun x => { x with event := x.event &&& ~~~(v.setWidth 7) }))
    ∧ exec (.registerWrite f 0x0014 4 v) s = .next (s.setFn f (fun x => { x with mask := v.setWidth 7 })))
  ∧ (∀ (s : State) (f : FnId) (o : Nat) (v : BitVec 64), s.reaches f = true → o % 4 ≠ 0 →
      exec (.registerWrite f o 4 v) s = .next s)
  ∧ (∀ (s : State) (f : FnId) (o n : Nat) (v : BitVec 64), (n = 8 ∧ o % 8 ≠ 0) ∨ (n ≠ 4 ∧ n ≠ 8) →
      exec (.registerWrite f o n v) s = .next s)
  ∧ (∀ (s : State) (f : FnId) (o : Nat) (v : BitVec 64), s.reaches f = true → o % 8 = 0 →
      ∃ t, exec (.registerWrite f o 4 v) s = .next t ∧ t.reaches f = true
        ∧ exec (.registerWrite f o 8 v) s = exec (.registerWrite f (o + 4) 4 (v >>> 32)) t)
  ∧ (∀ (s : State) (f : FnId) (v : Fin 32), s.reaches f = true → ∃ t, exec (.msixVectorUnmask f v) s = .next t
      ∧ ((t.fn f).msix[v.val]).masked = false
      ∧ (((s.fn f).msix[v.val]).pba = true → (s.fn f).msixMask = false → (s.fn f).resetting = false →
          ((t.fn f).msix[v.val]).pba = false ∧ ((s.fn f).msixEnable = true → t.sent = .msix f v.val :: s.sent))
      ∧ ((s.fn f).msixMask = true ∨ (s.fn f).resetting = true →
          ((t.fn f).msix[v.val]).pba = ((s.fn f).msix[v.val]).pba ∧ t.sent = s.sent)
      ∧ (((s.fn f).msix[v.val]).pba = false → ((t.fn f).msix[v.val]).pba = false ∧ t.sent = s.sent))
  ∧ (∀ f : FnId, (State.reset.fn f).mask = 0)
  ∧ (∀ (s : State) (f : FnId) (bits : BitVec 7),
      let rises := bits &&& ~~~(s.fn f).event &&& ~~~(s.fn f).mask
      ((s.setEvent f bits).fn f).event = (s.fn f).event ||| bits
      ∧ (rises = 0 → (s.setEvent f bits).sent = s.sent)
      ∧ ((s.fn f).resetting = true → (s.setEvent f bits).sent = s.sent)
      ∧ (rises ≠ 0 → (s.fn f).msixEnable = true → (s.fn f).resetting = false →
          ((s.fn f).msixMask = false → ((s.fn f).msix[0]).masked = false →
            (s.setEvent f bits).sent = .msix f 0 :: s.sent)
          ∧ ((s.fn f).msixMask = true ∨ ((s.fn f).msix[0]).masked = true →
            (((s.setEvent f bits).fn f).msix[0]).pba = true ∧ (s.setEvent f bits).sent = s.sent)))

/-- The service sequence of a port's host watchdog: KEY1 arms it, KEY2 after KEY1 sends one service over the lamp
seam, any other value and a KEY2 without KEY1 send a key error, and it is disarmed by all of them and by 1 ms; nothing
is sent over a seam that is lost. The model's readings: log 1, 8. -/
def Obligations.HostWatchdogKeys : Prop :=
  (∀ (s : State) (f : FnId), s.takesKeys f = true →
    let p := portOf f
    let w := wdogOf p
    (∃ t, exec (.hwdogServiceKey1 f) s = .next t ∧ (t.port p).keyArmed = true ∧ t.lamp = s.lamp ∧ t.wdog = s.wdog)
    ∧ (∃ t, exec (.hwdogServiceKey2 f) s = .next t ∧ (t.port p).keyArmed = false ∧ t.wdog = s.wdog
        ∧ (s.lamp.seamLost = false → t.lamp = { s.lamp with
            toLamp := s.lamp.toLamp ++ [.service w (if (s.port p).keyArmed then .service else .keyError)] })
        ∧ (s.lamp.seamLost = true → t.lamp = s.lamp))
    ∧ (∃ t, exec (.hwdogServiceOther f) s = .next t ∧ (t.port p).keyArmed = false ∧ t.wdog = s.wdog
        ∧ (s.lamp.seamLost = false → t.lamp = { s.lamp with toLamp := s.lamp.toLamp ++ [.service w .keyError] })
        ∧ (s.lamp.seamLost = true → t.lamp = s.lamp)))
  ∧ (∀ (s : State) (p : HostPort), s.rootRuns = true →
      exec (.hwdogKeyTimeout p) s = .next (s.setPort p (fun x => { x with keyArmed := false })))

/-! ## Commands: taking, checking, completing -/

/-- The first three checks, in their order, and what a command has that passes every check: HELLO done or being HELLO,
a right GRAFT, an opcode of the table, the S mark and CLASS 0 in the safe state, safety authority for CLASS 2 and
RESERVE, no PF-only opcode from a VF, fields in range, a block whose CRC is right, a DEADLINE not past, ranges that its mappings
grant. The model's readings: log 85. -/
def Obligations.ChecksInOrder : Prop :=
  ∀ (s : State) (f : FnId) (d : Bytes),
    let code := BitVec.ofNat 16 (leNat d 0 2)
    let cls := leNat d 3 1
    ((s.fn f).helloDone = false → code ≠ 0x0002 → s.check f d = ([], some { status := 0x0106, detail := 0 }))
    ∧ ((s.fn f).helloDone = true → leNat d 60 4 ≠ (crc32c (d.take 60)).toNat →
        s.check f d = ([], some { status := 0x0102, detail := 0, graft := true }))
    ∧ ((s.fn f).helloDone = true → leNat d 60 4 = (crc32c (d.take 60)).toNat → s.safe = true → s.boot.recovery = false →
        (cls ≠ 0 ∨ ∀ o, opcodeOf code = some o → o.safeMark = false) →
        ∃ k, s.check f d = ([], some { status := 0x0500, detail := k }))
    ∧ (∀ b, s.check f d = (b, none) →
        ((s.fn f).helloDone = true ∨ code = 0x0002) ∧ leNat d 60 4 = (crc32c (d.take 60)).toNat
        ∧ ∃ o, opcodeOf code = some o ∧ (s.safe = true → s.boot.recovery = false → o.safeMark = true ∧ cls = 0)
          ∧ (cls = 2 → s.hasAuth f = true) ∧ (o = .reserve → s.hasAuth f = true) ∧ (o.pfOnly = true → isVf f = false)
          ∧ fieldBad o d f = none ∧ (o.chained = false → b = []) ∧ (o.chained = true → leNat d 56 4 = (crc32c b).toNat)
          ∧ s.pastDeadline o d = false ∧ s.rangeBad o d f = none)

/-- Taking a command: HEAD moves past the entry and the turn passes to the other port; the block of a chained command
is read; a command that a check stops, or a JOB_SUBMIT or ATTEND whose parameters are bad, has its completion formed,
with the check's status or BAD_PARAM; one that passes has begun, or waits where FENCE, sequence order or an earlier
command for the same device-wide value holds it. An entry that is not 64 bytes faults. A failed read disables the ring
for good and is reported. A command that waited begins once nothing holds it; an ATTEND begins its run, or completes
with KV_NO_PAGE. The model's readings: log 1, 31, 54, 94. -/
def Obligations.TakingACommand : Prop :=
  (∀ (s : State) (f : FnId) (n : RingId) (b : Bytes), s.taking = true → s.unmapping = false → s.nextTake = some (f, n) →
    b.length = 64 →
    let a := s.advanceTurn f n
    let u := (a.wakeFor b).readBlock f b
    let bad (blk : Bytes) := (u.setSq f n SubRing.advance).paramsBad { a.newCmd f n b with block := blk }
    ∃ t, exec (.commandTake (.entry b)) s = .next t ∧ t.fore.nextCmd = s.fore.nextCmd + 1
      ∧ (t.sq f n).head = BitVec.ofNat 12 (((s.sq f n).head.toNat + 1) % 2 ^ (s.sq f n).log2.toNat)
      ∧ t.fore.portTurn = otherPort (portOf f)
      ∧ (∀ blk x, u.check f b = (blk, some x) → ∃ c ∈ t.fore.taken, c.id = s.fore.nextCmd ∧ c.fn = f
          ∧ c.sq = n ∧ c.desc = b ∧ c.phase = .formed x.status x.detail 0 s.now)
      ∧ (∀ blk d, u.check f b = (blk, none) → bad blk = some d → ∃ c ∈ t.fore.taken, c.id = s.fore.nextCmd ∧ c.fn = f
          ∧ c.sq = n ∧ c.desc = b ∧ c.phase = .formed stBadParam d 0 s.now)
      ∧ (∀ blk, u.check f b = (blk, none) → bad blk = none → ∃ c ∈ t.fore.taken, c.id = s.fore.nextCmd ∧ c.fn = f
          ∧ c.sq = n ∧ c.desc = b ∧ c.block = blk ∧ c.phase = (if t.blockers c = [] then .begun else .waiting)))
  ∧ (∀ (s : State) (b : Bytes), b.length ≠ 64 → exec (.commandTake (.entry b)) s = .fault .illFormed)
  ∧ (∀ (s : State) (f : FnId) (n : RingId), s.taking = true → s.unmapping = false → s.nextTake = some (f, n) →
    ∃ t, exec (.commandTake .failed) s = .next t ∧ (t.sq f n).enable = false ∧ (t.sq f n).dead = true
      ∧ (t.fn f).error = (s.fn f).error ||| 8 ∧ t.fore.taken = s.fore.taken ∧ .aer (portOf f) ∈ t.sent)
  ∧ (∀ (s : State) (id : Nat) (c : Cmd), s.cmd id = some c → s.rootRuns = true → c.phase = .waiting →
    s.blockers c = [] → s.fore.runs.find? (fun r => r.cmd == some id) = none →
    ∃ t, exec (.commandDeferredBegin id) s = .next t ∧ t.cmd id = some { c with phase := .begun })
  ∧ (∀ (s : State) (id : Nat) (c : Cmd) (r : Run), s.cmd id = some c → s.rootRuns = true → c.phase = .waiting →
    s.blockers c = [] → s.fore.runs.find? (fun r => r.cmd == some id) = some r →
    ∃ t, exec (.commandDeferredBegin id) s = .next t
      ∧ (s.attendShort c.fn r.reqs = false → t.cmd id = some { c with phase := .running })
      ∧ (s.attendShort c.fn r.reqs = true → (∀ x ∈ t.fore.runs, x.id ≠ r.id)
          ∧ t.cmd id = some { c with phase := .formed stKvNoPage 0 (if r.admitted then r.result else 0) s.now }))

/-- A command completes once: forming its completion again changes nothing, and no other command changes. The model's
readings: log 51. -/
def Obligations.CompletionsFormOnce : Prop :=
  ∀ (s : State) (id : Nat) (c : Cmd) (st d st' d' : BitVec 16) (r r' : BitVec 64), s.cmd id = some c →
    let t := s.finish id st d r
    (c.live = true → t.cmd id = some { c with phase := .formed st d r s.now })
    ∧ (c.live = false → t.cmd id = some c)
    ∧ ((∀ x ∈ s.fore.taken, x.id = id → x = c) → (t.finish id st' d' r').fore.taken = t.fore.taken)
    ∧ (∀ j, j ≠ id → t.cmd j = s.cmd j)

/-- A completion is 32 bytes: SEQ, OPCODE, STATUS, DETAIL, SQ, PHASE, TIME, RESULT in their places, and a GRAFT that
is the CRC-32C of the first 28. -/
def Obligations.CompletionLayout : Prop :=
  ∀ (seq : BitVec 32) (op st d : BitVec 16) (n : RingId) (ph : Bool) (time res : BitVec 64),
    let b := completionEntry seq op st d n.val ph time res
    b.length = 32 ∧ leNat b 0 4 = seq.toNat ∧ leNat b 4 2 = op.toNat ∧ leNat b 6 2 = st.toNat ∧ leNat b 8 2 = d.toNat
      ∧ leNat b 10 1 = n.val ∧ leNat b 11 1 = ph.toNat ∧ leNat b 12 8 = time.toNat ∧ leNat b 20 8 = res.toNat
      ∧ leNat b 28 4 = (crc32c (b.take 28)).toNat

/-- Writing a completion: the entry goes to the completion ring's slot, TAIL moves on, the command is outstanding no
more; a completion of a disabled ring is dropped; a failed write disables the ring, sets DMA_ERROR and is reported.
HELLO's completion with OK sets HELLO_DONE and the tally. MOD_TIME's end signals what waits. The model's readings: log
10, 51. -/
def Obligations.WritingACompletion : Prop :=
  (∀ (s : State) (id : Nat) (ok : Bool) (c : Cmd) (st d : BitVec 16) (r time : BitVec 64), s.cmd id = some c →
    c.phase = .formed st d r time → s.rootRuns = true → (∀ x ∈ s.fore.taken, x.id = id → x = c) →
    ∃ t, exec (.completionWrite id ok) s = .next t ∧ t.cmd id = none
      ∧ (t.outstanding c.fn < s.outstanding c.fn)
      ∧ ((s.cq c.fn c.cq).dead = true → t = s.retire id)
      ∧ ((s.cq c.fn c.cq).dead = false → ok = true →
          .hostWrite c.fn ((s.cq c.fn c.cq).base.toNat + 32 * (s.cq c.fn c.cq).tail.toNat)
            (completionEntry c.seq c.opcode st d c.sq.val (s.cq c.fn c.cq).phase time r) ∈ t.sent
          ∧ (t.cq c.fn c.cq).tail = (s.cq c.fn c.cq).advance.tail ∧ (t.cq c.fn c.cq).phase = (s.cq c.fn c.cq).advance.phase
          ∧ (c.opcode = 0x0002 → st = stOk → (t.fn c.fn).helloDone = true ∧ (t.fn c.fn).tally = (r.setWidth 16).toNat))
      ∧ ((s.cq c.fn c.cq).dead = false → ok = false → (t.cq c.fn c.cq).enable = false ∧ (t.cq c.fn c.cq).dead = true
          ∧ (t.fn c.fn).error = (s.fn c.fn).error ||| 8 ∧ .aer (portOf c.fn) ∈ t.sent))
  ∧ (∀ (s : State) (f : FnId) (n : RingId), s.rootRuns = true → (s.cq f n).modTime ≠ 0 → 0 < (s.cq f n).unsignalled →
    ∃ t, exec (.cqModerationTimer f n) s = .next t ∧ (t.cq f n).unsignalled = 0
      ∧ ((s.fn f).msixEnable = true → ((s.fn f).msix[(s.cq f n).vector.toNat]).masked = false →
          (s.fn f).msixMask = false → (s.fn f).resetting = false →
          t.sent = .msix f (s.cq f n).vector.toNat :: s.sent))

/-! ## Queries and administration -/

/-- The eight queries: each completes, and while no unit of memory holds flipped bits it writes its record at OUT_VA
and completes with the record's length, except that FAULT_HISTORY gives TOTAL and the count, TIME_GET gives device time,
and needs no OUT_VA; STREAM_STATS of a context open to another function is refused. The lengths of the records. The
model's readings: log 71, 91. -/
def Obligations.QueriesAnswer : Prop :=
  (∀ (s : State) (id : Nat) (c : Cmd) (io : HostIo),
    (s.Begins id .deviceQuery c → s.Answers (.deviceQuery id io) id c (c.arg 16 8) s.deviceRecord io 64)
    ∧ (s.Begins id .functionQuery c → s.Answers (.functionQuery id io) id c (c.arg 16 8) (s.functionRecord c.fn) io 32)
    ∧ (s.Begins id .timeGet c → c.arg 16 8 ≠ 0 → s.Answers (.timeGet id io) id c (c.arg 16 8) (timeRecord s.clk) io s.now)
    ∧ (s.Begins id .timeGet c → c.arg 16 8 = 0 → ∃ t, exec (.timeGet id io) s = .next t ∧ Completed s t id c stOk 0 s.now
        ∧ t = { s with fore := t.fore })
    ∧ (s.Begins id .linkStatus c → s.Answers (.linkStatus id io) id c (c.arg 24 8)
        (s.linkRecord (c.arg 16 1) (c.arg 17 1)) io (BitVec.ofNat 64 (linkRecordSize (c.arg 16 1))))
    ∧ (s.Begins id .faultHistory c →
        let rs := (s.fn c.fn).view.take (c.arg 24 1)
        s.Answers (.faultHistory id io) id c (c.arg 16 8)
          (rs.flatMap (fun r => r.bytes (s.fcu.stands r.source r.event))) io
          (BitVec.ofNat 64 ((s.fn c.fn).total.toNat + rs.length * 2 ^ 32)))
    ∧ (s.Begins id .selftestStatus c → s.Answers (.selftestStatus id io) id c (c.arg 16 8) s.selftestRecord io 1056)
    ∧ (s.Begins id .thermalQuery c → s.Answers (.thermalQuery id io) id c (c.arg 16 8) s.thermalRecord io 256)
    ∧ (∀ x : CtxId, s.Begins id .streamStats c → c.arg 16 1 = x.val →
        ((s.streams[x.val]).isOpen = true → (s.streams[x.val]).owner ≠ c.fn →
          ∃ t, exec (.streamStats id io) s = .next t ∧ Completed s t id c stBadParam 16 0)
        ∧ ((s.streams[x.val]).owner = c.fn →
          s.Answers (.streamStats id io) id c (c.arg 24 8) (s.streamRecord x (s.streams[x.val])) io 80)
        ∧ ((s.streams[x.val]).isOpen = false → (s.streams[x.val]).owner ≠ c.fn →
          s.Answers (.streamStats id io) id c (c.arg 24 8) (s.streamRecord x {}) io 80)))
  ∧ (∀ s : State, s.deviceRecord.length = 64 ∧ (∀ f, (s.functionRecord f).length = 32) ∧ (∀ c, (timeRecord c).length = 24)
    ∧ (∀ x y, (s.streamRecord x y).length = 80) ∧ (∀ k p, (s.linkRecord k p).length = linkRecordSize k)
    ∧ (∀ (r : Rec) b, (r.bytes b).length = 16) ∧ s.selftestRecord.length = 1056 ∧ s.thermalRecord.length = 256
    ∧ (∀ r : LogRec, r.bytes.length = 32))

/-- NOP completes with OK and does nothing; HELLO gives the tally, the firmware interface and version, with OK,
DEGRADED or SAFE_STATE; SHARE_SET stores a proposal and answers 0, two equal proposals that fit are agreed, and two that do not
fit are discarded with BUSY; DEBUG_UNLOCK draws a challenge, accepts its response, and refuses a wrong one and one
without a challenge. The model's readings: log 9, 13, 28, 90. -/
def Obligations.AdministrativeCommands : Prop :=
  ∀ (s : State) (id : Nat) (c : Cmd),
    (s.Begins id .nop c → ∃ t, exec (.nop id) s = .next t ∧ Completed s t id c stOk 0 0 ∧ t = { s with fore := t.fore })
    ∧ (s.Begins id .hello c → ∃ t, exec (.hello id) s = .next t ∧ t = { s with fore := t.fore }
        ∧ ∃ st, Completed s t id c st s.bootReport
            (BitVec.ofNat 64 (s.helloGrant c + Config.firmwareAbi.toNat * 2 ^ 16 + s.fwVersion.toNat * 2 ^ 32))
          ∧ (s.safe = true → st = stSafe ∧ s.helloGrant c = (s.fn c.fn).tally)
          ∧ (s.safe = false → (s.degradation = 0 → st = stOk) ∧ (s.degradation ≠ 0 → st = stDegraded)
              ∧ 8 ≤ s.helloGrant c ∧ s.helloGrant c ≤ 256))
    ∧ (s.Begins id .shareSet c →
        let split := (c.arg 16 1, c.arg 17 1, c.arg 18 1)
        let p := portOf c.fn
        ∃ t, exec (.shareSet id) s = .next t
          ∧ ((s.port (otherPort p)).proposal ≠ some split → Completed s t id c stOk 0 0 ∧ (t.port p).proposal = some split
              ∧ t.fore.agreed = s.fore.agreed)
          ∧ ((s.port (otherPort p)).proposal = some split → s.portFits split .a = true → s.portFits split .b = true →
              Completed s t id c stOk 0 1 ∧ t.fore.agreed = some split)
          ∧ ((s.port (otherPort p)).proposal = some split → (s.portFits split .a && s.portFits split .b) = false →
              Completed s t id c stBusy 9 0 ∧ t.portA.proposal = none ∧ t.portB.proposal = none ∧ t.fore.agreed = s.fore.agreed))
    ∧ (s.Begins id .debugUnlock c → c.arg 16 1 = 0 → ∃ t, exec (.debugUnlock id) s = .next t
        ∧ Completed s t id c stOk 0 (Config.debugChallenge s.draws)
        ∧ t.fore.debugChallenge = some (Config.debugChallenge s.draws) ∧ t.draws = s.draws + 1)
    ∧ (∀ v, s.Begins id .debugUnlock c → c.arg 16 1 = 1 → s.fore.debugChallenge = some v →
        ∃ t, exec (.debugUnlock id) s = .next t ∧ t = { s with fore := t.fore }
          ∧ (Config.debugAccepts v ((c.desc.drop 24).take 32) = true → Completed s t id c stOk 0 v)
          ∧ (Config.debugAccepts v ((c.desc.drop 24).take 32) = false → Completed s t id c stNotPermitted 5 0))
    ∧ (s.Begins id .debugUnlock c → c.arg 16 1 = 1 → s.fore.debugChallenge = none →
        ∃ t, exec (.debugUnlock id) s = .next t ∧ t = { s with fore := t.fore } ∧ Completed s t id c stNotPermitted 5 0)

/-- TIME_SET ends a slew in progress; FREE runs at the nominal rate; HOST with MODE 0 leaves the count, with MODE 1
steps to the target, unless it is earlier and a stream is open, with MODE 2 slews by target less device time at the
greatest correction, and both are refused while the source is gPTP; a gPTP source starts to acquire and announces a
clock that is never grandmaster. TIME_SLEW_END restores the correction once the whole offset has been added, and not
before. The model's readings: log 43. -/
def Obligations.TimeSetting : Prop :=
  (∀ (s : State) (id : Nat) (c : Cmd), s.Begins id .timeSet c →
    let k := s.clk.endSlew
    ∃ t, exec (.timeSet id) s = .next t
    ∧ (c.arg 16 1 = 0 → Completed s t id c stOk 0 s.now ∧ t.clk.source = .free ∧ t.clk.corr = 0 ∧ t.clk.slew = none ∧ t.now = s.now)
    ∧ (∀ p : Port4, c.arg 16 1 = 2 + p.val → Completed s t id c stOk 0 s.now ∧ t.clk.source = .gptp p
        ∧ t.clk.servo = .acquiring ∧ t.clk.acquired = false ∧ t.clk.slew = none ∧ t.now = s.now
        ∧ t.sent = .gptp p (.announce 255 false) :: s.sent)
    ∧ (c.arg 16 1 = 1 → c.arg 17 1 = 0 → Completed s t id c stOk 0 s.now ∧ t.clk.source = .host ∧ t.clk.slew = none ∧ t.now = s.now)
    ∧ (c.arg 16 1 = 1 → c.arg 17 1 ≠ 0 → s.clk.onGptp = true →
        Completed s t id c stNotPermitted 4 0 ∧ t.clk = k ∧ t.now = s.now)
    ∧ (c.arg 16 1 = 1 → c.arg 17 1 = 1 → s.clk.onGptp = false → (s.now.toNat ≤ c.arg 24 8 ∨ s.anyOpen = false) →
        Completed s t id c stOk 0 t.now ∧ t.now = BitVec.ofNat 64 (c.arg 24 8) ∧ t.clk.source = .host ∧ t.clk.frac = 0
        ∧ t.clk.slew = none ∧ (s.now.toNat < c.arg 24 8 → ∀ x : CtxId, (t.streams[x.val]).skipInterval = true))
    ∧ (c.arg 16 1 = 1 → c.arg 17 1 = 1 → s.clk.onGptp = false → c.arg 24 8 < s.now.toNat → s.anyOpen = true →
        Completed s t id c stNotPermitted 4 0 ∧ t.clk = k ∧ t.now = s.now)
    ∧ (c.arg 16 1 = 1 → c.arg 17 1 = 2 → s.clk.onGptp = false → Completed s t id c stOk 0 s.now ∧ t.now = s.now
        ∧ t.clk.source = .host
        ∧ (c.arg 24 8 = s.now.toNat → t.clk.corr = k.corr ∧ t.clk.slew = none)
        ∧ (s.now.toNat < c.arg 24 8 → t.clk.slew = some { prev := k.corr, left := (c.arg 24 8 - s.now.toNat) * 2 ^ 32 }
            ∧ (k.corr.natAbs ≤ Config.maxCorrection → t.clk.corr = Config.maxCorrection))
        ∧ (c.arg 24 8 < s.now.toNat → t.clk.slew = some { prev := k.corr, left := (s.now.toNat - c.arg 24 8) * 2 ^ 32 }
            ∧ (k.corr.natAbs ≤ Config.maxCorrection → t.clk.corr = -Config.maxCorrection))))
  ∧ (∀ (s : State) (w : Slew), s.rootRuns = true → s.clk.slew = some w →
      (w.left = 0 → exec .timeSlewEnd s = .next { s with clk := { s.clk with corr := w.prev, slew := none } })
      ∧ (w.left ≠ 0 → exec .timeSlewEnd s = .next s))
  ∧ (∀ c : Clocks, c.slew = none → c.endSlew = c)
  ∧ (∀ (c : Clocks) (w : Slew), c.slew = some w → c.endSlew = { c with corr := w.prev, slew := none })
  ∧ (∀ (c : Clocks) (w : Slew), c.slew = some w → ∃ u, c.cycle.slew = some u ∧ u.prev = w.prev
      ∧ u.left + c.gain.natAbs = w.left ∧ (c.corr ≠ w.prev → 0 < w.left → u.left < w.left))

/-- The gPTP servo, on a Sync of domain 0 at a log interval from −5 to 0; any other does nothing. On first acquisition
and above 1 ms a measured offset is stepped, forward always, backward only with no stream open; every other offset is
slewed away; the rate correction is held within ±500 ppm; eight Syncs within 1 µs in a row lock it; 3 s without one is
HOLDOVER; a peer-delay request is answered, and the device measures by sending its own. The model's readings: log 43.
-/
def Obligations.GptpServo : Prop :=
  (∀ (s : State) (p : Port4) (m : SyncMeasure), s.rootRuns = true → s.clk.source = .gptp p →
    (syncValid m = false → exec (.gptpSync p m) s = .next s)
    ∧ (m.domain = 0 → -5 ≤ m.logInterval → m.logInterval ≤ 0 → ∃ t, exec (.gptpSync p m) s = .next t
      ∧ ((s.clk.acquired = false ∨ 1000000 < m.offset.natAbs) → m.offset < 0 →
          t.now = BitVec.ofNat 64 (s.now.toNat + m.offset.natAbs) ∧ t.clk.slew = none)
      ∧ ((s.clk.acquired = false ∨ 1000000 < m.offset.natAbs) → 0 < m.offset → s.anyOpen = false →
          t.now = BitVec.ofNat 64 ((s.now.toNat : Int) - m.offset).toNat ∧ t.clk.slew = none)
      ∧ ((s.clk.acquired = true ∧ m.offset.natAbs ≤ 1000000) ∨ (0 < m.offset ∧ s.anyOpen = true) → t.now = s.now
          ∧ (m.offset ≠ 0 → t.clk.slew = some { prev := clampCorr m.rate, left := m.offset.natAbs * 2 ^ 32 }))
      ∧ t.clk.corr.natAbs ≤ Config.maxCorrection
      ∧ (m.offset = 0 → t.clk.slew = none ∧ (m.rate.natAbs ≤ Config.maxCorrection → t.clk.corr = m.rate))
      ∧ t.clk.acquired = true ∧ t.clk.offset = m.offset
      ∧ (1000 < m.offset.natAbs → t.clk.goodSyncs = 0)
      ∧ (m.offset.natAbs ≤ 1000 → t.clk.goodSyncs = if s.clk.servo = .holdover then 1 else s.clk.goodSyncs + 1)
      ∧ (t.clk.servo = .locked ↔ s.clk.servo = .locked ∨ 8 ≤ t.clk.goodSyncs)))
  ∧ (∀ (s : State) (p : Port4), s.rootRuns = true → s.clk.source = .gptp p →
      exec (.gptpPeerDelay p .request) s = .next (s.send (.gptp p .delayResponse))
      ∧ exec (.gptpPeerDelay p .initiate) s = .next (s.send (.gptp p .delayRequest))
      ∧ ∀ d, exec (.gptpPeerDelay p (.response d)) s = .next { s with clk := { s.clk with peerDelay := d } })
  ∧ (∀ s : State, s.rootRuns = true → s.clk.servo ≠ .free →
      exec .gptpHoldover s = .next { s with clk := { s.clk with servo := .holdover, goodSyncs := 0 } })

/-- PROVISION gives the VF what the descriptor says, where the port's share holds it and the VF uses no more, and
takes the reservations of a VF that loses safety authority; SAFETY_CONFIG sets the reaction time, the diagnostic
interval and maintenance mode at once and the Safety Frame at the shift boundary, where the frame keeps 1 ms more than
the reaction; 0 keeps a value and stands for the value in force; a frame too short for what is reserved, and maintenance
mode while safety work is held, are BUSY. The model's readings: log 13, 29, 56, 83. -/
def Obligations.ProvisionAndSafetyConfig : Prop :=
  (∀ (s : State) (id : Nat) (c : Cmd), s.Begins id .provision c → ∃ t, exec (.provision id) s = .next t
    ∧ (∀ d, s.provisionOver (portOf c.fn) c.vf c.provision = some d →
        Completed s t id c stNoResource d 0 ∧ t.fns = s.fns)
    ∧ (∀ d, s.provisionOver (portOf c.fn) c.vf c.provision = none → s.provisionUnder c.vf c.provision = some d →
        Completed s t id c stBusy d 0 ∧ t.fns = s.fns)
    ∧ (s.provisionOver (portOf c.fn) c.vf c.provision = none → s.provisionUnder c.vf c.provision = none →
        Completed s t id c stOk 0 0 ∧ (t.fn c.vf).provision = some c.provision
        ∧ (s.hasAuth c.vf = true → c.provision.safetyAuth = false → ∀ r ∈ t.fore.reservations, r.fn ≠ c.vf)
        ∧ (∀ g, g ≠ c.vf → t.fn g = s.fn g)))
  ∧ (∀ (s : State) (id : Nat) (c : Cmd), s.Begins id .safetyConfig c →
    let frame := if c.arg 16 4 = 0 then s.fore.safety.frameUs else c.arg 16 4
    let short := c.arg 16 4 ≠ 0 ∧ s.frameShort frame = true
    let reaction := if c.arg 20 4 = 0 then s.fore.safety.reactionUs else c.arg 20 4
    let maintenance := c.arg 28 1 % 2 == 1
    ∃ t, exec (.safetyConfig id) s = .next t
      ∧ (frame < reaction + 1000 → Completed s t id c stBadParam 0xFFFF 0 ∧ t.fore.safety = s.fore.safety)
      ∧ (reaction + 1000 ≤ frame → short → Completed s t id c stBusy 6 0 ∧ t.fore.safety = s.fore.safety)
      ∧ (reaction + 1000 ≤ frame → ¬ short → (maintenance && s.maintenanceHeld) = false →
          Completed s t id c stOk 0 0 ∧ t.fore.safety.reactionUs = reaction ∧ t.fore.safety.maintenance = maintenance
          ∧ t.fore.safety.frameUs = s.fore.safety.frameUs
          ∧ t.nextFrameUs = (if c.arg 16 4 = 0 then s.nextFrameUs else c.arg 16 4)
          ∧ t.fore.safety.diagMs = (if c.arg 24 4 = 0 then s.fore.safety.diagMs else c.arg 24 4))
      ∧ (reaction + 1000 ≤ frame → ¬ short → (maintenance && s.maintenanceHeld) = true →
          Completed s t id c stBusy 8 0 ∧ t.fore.safety = s.fore.safety))

/-- FIRMWARE_STAGE, from memory in which no unit holds flipped bits, writes a verified image to a slot that does not run, marks it staged and answers the slot; an image
that fails verification leaves the slot unsigned; FIRMWARE_COMMIT selects a staged slot and refuses any other. The
model's readings: log 84. -/
def Obligations.FirmwareSlots : Prop :=
  (∀ (s : State) (id : Nat) (c : Cmd) (n : Fin 2) (img : ImageRead FwImage), s.Begins id .firmwareStage c →
    (s.fn c.fn).spans (c.arg 24 8) (c.arg 32 4) .rd false = true → s.stageSlot (c.arg 16 1) = some n → s.staging id = false →
    s.imageRead c.fn (c.arg 24 8) (c.arg 32 4) (ImageRead.hostFailed img) = none → s.mem.upsets = [] →
    ∃ t, exec (.firmwareStage id img) s = .next t
      ∧ (∀ g, img = .image g → s.fixed.rollback ≤ g.rollback → Completed s t id c stOk 0 (BitVec.ofNat 64 n.val)
          ∧ t.flash.slots[n.val] = { signed := true, rollback := g.rollback, version := g.version, staged := true }
          ∧ t.flash.slots[(otherSlot n).val] = s.flash.slots[(otherSlot n).val] ∧ t.flash.selected = s.flash.selected)
      ∧ (∀ g, img = .image g → g.rollback < s.fixed.rollback → Completed s t id c stIntegrity 0x0100 0
          ∧ (t.flash.slots[n.val]).signed = false ∧ (t.flash.slots[n.val]).staged = false)
      ∧ (img = .badSignature → Completed s t id c stIntegrity 0x0100 0
          ∧ (t.flash.slots[n.val]).signed = false ∧ (t.flash.slots[n.val]).staged = false))
  ∧ (∀ (s : State) (id : Nat) (c : Cmd) (n : Fin 2), s.Begins id .firmwareCommit c → c.arg 16 1 = n.val →
    ∃ t, exec (.firmwareCommit id) s = .next t
      ∧ ((s.flash.slots[n.val]).staged = true → Completed s t id c stOk 0 0 ∧ t.flash.selected = n ∧ t.flash.slots = s.flash.slots)
      ∧ ((s.flash.slots[n.val]).staged = false → Completed s t id c stBadParam 16 0 ∧ t.flash = s.flash))

/-! ## Memory -/

/-- A store: the bytes that it reports written read as the data, every other byte as before, and where nothing failed
it wrote them all; every line that it wrote carries the tag of its bytes and no poison of its own (a poisoned unit of the tag shadow
stays, log 121), and every other line its tag and poison; and it fails only at a line of
which it writes a part, on poison with 0x0200 or on a wrong tag with 4. The model's readings: log 91. -/
def Obligations.StoresWriteTheirBytes : Prop :=
  ∀ (m : Memory) (k : Nat) (b : Bytes), m.wf = true → k + b.length ≤ 2 ^ 86 →
    ∃ (m' : Memory) (n : Nat) (e : Option (BitVec 16)), m.store k b = (m', n, e) ∧ n ≤ b.length
      ∧ (∀ a, m'.byte a = if k ≤ a ∧ a < k + n then byteAt b (a - k) else m.byte a)
      ∧ (e = none → n = b.length)
      ∧ (∀ d, e = some d → let l := (k + n) / 256
          (d = 0x0200 ∧ m.linePoisoned l = true ∨ d = 4 ∧ m.linePoisoned l = false ∧ m.tag l ≠ crc32c (m.line l))
          ∧ ((k + n) % 256 ≠ 0 ∨ k + b.length < 256 * l + 256))
      ∧ (∀ i, i < n → m'.tag ((k + i) / 256) = crc32c (m'.line ((k + i) / 256)) 
          ∧ m'.linePoisoned ((k + i) / 256) = m.tagPoisoned ((k + i) / 256))
      ∧ (∀ l, (∀ i, i < n → (k + i) / 256 ≠ l) → m'.tag l = m.tag l ∧ m'.linePoisoned l = m.linePoisoned l)

/-- A write through a function's mappings that succeeds: in device memory no byte outside its own range of its own
function changes, in whatever mappings the range lies, and nothing else of the state does; while no unit of memory holds
flipped bits, since a read on the way may raise an event. The model's readings: log
26. -/
def Obligations.WritesStayInTheirRange : Prop :=
  ∀ (s u : State) (f : FnId) (k : Bool) (va n : Nat) (b : Bytes) (io : HostIo), s.mem.wf = true → s.mem.upsets = [] →
    va + b.length ≤ 2 ^ 48 → (s.writeVa f k va b io = (u, n, none)) →
      (∀ va', va' < 2 ^ 48 → (va' < va ∨ va + b.length ≤ va') → u.mem.byte (memKey f va') = s.mem.byte (memKey f va'))
      ∧ (∀ g va', g ≠ f → va' < 2 ^ 48 → u.mem.byte (memKey g va') = s.mem.byte (memKey g va'))
      ∧ u = { s with mem := u.mem, sent := u.sent } ∧ s.sent <:+ u.sent

/-- The interleave and the yard: controller c lies in quadrant c div 6; an address goes to the channel that the hash
gives, at an offset that the hash gives; that is a bijection onto the channels' data space, of each group of 24 lines
one goes to each channel; and a yard offset goes to a slice and a slice offset, each pair from one yard offset. -/
def Obligations.InterleaveIsABijection : Prop :=
  (∀ c n : Nat, quadrantOf c = n ↔ 6 * n ≤ c ∧ c ≤ 6 * n + 5)
  ∧ (∀ a : Nat, let line := a / 256
      let g := line / 24
      let h := g % 32 ^^^ (g / 32 % 32 ^^^ (g / 32 ^ 2 % 32 ^^^ (g / 32 ^ 3 % 32 ^^^ (g / 32 ^ 4 % 32 ^^^ g / 32 ^ 5 % 32))))
      chanOf a = (line % 24 + h % 24) % 24 ∧ coffOf a = g * 256 + a % 256 ∧ chanOf a < 24)
  ∧ (∀ a b : Nat, chanOf a = chanOf b → coffOf a = coffOf b → a = b)
  ∧ (∀ c o, c < 24 → ∃ a, chanOf a = c ∧ coffOf a = o)
  ∧ (∀ n a, a < 24 * (256 * n) ↔ coffOf a < 256 * n)
  ∧ (∀ g c, c < 24 → ∃ i, i < 24 ∧ chanOf (256 * (24 * g + i)) = c ∧ coffOf (256 * (24 * g + i)) = 256 * g)
  ∧ (∀ yo : Nat, let yl := yo / 256
      yardSlice yo = yl % 4 ^^^ (yl / 256 % 4 ^^^ yl / 65536 % 4) ∧ yardOffset yo = yl / 4 * 256 + yo % 256)
  ∧ (∀ a b : Nat, yardSlice a = yardSlice b → yardOffset a = yardOffset b → a = b)
  ∧ (∀ a, yardSlice a < 4)

/-- MEM_MAP and MEM_UNMAP: a range that overlaps is refused; a host window is mapped without memory, and the recovery
service maps 16 of them for a function and nothing else; device memory newly backed reads as zero and nothing else changes; an unmapped range has no mapping left, its device memory reads as
zero, and every other byte is as before; a range in use stays. The model's readings: log 11, 27, 86. -/
def Obligations.Mapping : Prop :=
  (∀ (s : State) (id : Nat) (c : Cmd), s.Begins id .memMap c → s.mem.wf = true → s.boot.recovery = false →
    let m := c.mapping
    ∃ t, exec (.memMap id) s = .next t
      ∧ ((s.fn c.fn).taken m.va m.size = true → Completed s t id c stBadParam 0xFFFF 0 ∧ t.fns = s.fns ∧ t.mem = s.mem)
      ∧ ((s.fn c.fn).taken m.va m.size = false → m.host = true →
          Completed s t id c stOk 0 0 ∧ (t.fn c.fn).maps = m :: (s.fn c.fn).maps ∧ t.mem = s.mem)
      ∧ ((s.fn c.fn).taken m.va m.size = false → m.host = false →
          s.quotaMib c.fn * 1024 < (s.fn c.fn).chargedKib + m.size / 1024 →
          Completed s t id c stNoResource 2 0 ∧ t.fns = s.fns ∧ t.mem = s.mem)
      ∧ ((s.fn c.fn).taken m.va m.size = false → m.host = false →
          (s.fn c.fn).chargedKib + m.size / 1024 ≤ s.quotaMib c.fn * 1024 → (s.allocMapping c.fn m).isSome = true →
          Completed s t id c stOk 0 0 ∧ (t.fn c.fn).maps = m :: (s.fn c.fn).maps
          ∧ (∀ g, g ≠ c.fn → t.fn g = s.fn g)
          ∧ ∀ a, t.mem.byte a = if memKey c.fn m.va ≤ a ∧ a < memKey c.fn m.va + m.size then 0 else s.mem.byte a))
  ∧ (∀ (s : State) (id : Nat) (c : Cmd), s.Begins id .memMap c → s.boot.recovery = true →
    let m := c.mapping
    let windows := ((s.fn c.fn).maps.filter (·.host)).length
    ∃ t, exec (.memMap id) s = .next t
      ∧ ((s.fn c.fn).taken m.va m.size = true → Completed s t id c stBadParam 0xFFFF 0 ∧ t.fns = s.fns)
      ∧ ((s.fn c.fn).taken m.va m.size = false → m.host = false ∨ 16 ≤ windows →
          Completed s t id c stNoResource 2 0 ∧ t.fns = s.fns)
      ∧ ((s.fn c.fn).taken m.va m.size = false → m.host = true → windows < 16 →
          Completed s t id c stOk 0 0 ∧ (t.fn c.fn).maps = m :: (s.fn c.fn).maps ∧ t.mem = s.mem))
  ∧ (∀ (s : State) (id : Nat) (c : Cmd), s.Begins id .memUnmap c → s.mem.wf = true →
    let va := c.arg 16 8
    let n := c.arg 24 8
    ∃ t, exec (.memUnmap id) s = .next t
      ∧ ((s.fn c.fn).wholeMappings va n = false → Completed s t id c stBadParam 0xFFFF 0 ∧ t.fns = s.fns ∧ t.mem = s.mem)
      ∧ ((s.fn c.fn).wholeMappings va n = true → s.rangeUsed id c.fn va n = true →
          Completed s t id c stBusy 8 0 ∧ t.fns = s.fns ∧ t.mem = s.mem)
      ∧ ((s.fn c.fn).wholeMappings va n = true → s.rangeUsed id c.fn va n = false →
          Completed s t id c stOk 0 0
          ∧ (∀ m, m ∈ (t.fn c.fn).maps ↔ m ∈ (s.fn c.fn).maps ∧ overlap m.va m.size va n = false)
          ∧ (∀ g, g ≠ c.fn → t.fn g = s.fn g)
          ∧ (∀ m ∈ (s.fn c.fn).touched va n, m.host = false → ∀ i, i < m.size → t.mem.byte (memKey c.fn (m.va + i)) = 0)
          ∧ (∀ a, (a < memKey c.fn va ∨ memKey c.fn va + n ≤ a) → t.mem.byte a = s.mem.byte a)))

/-- MEM_COPY, MEM_FILL and MEM_TAG_CHECK complete in every case; while no unit of memory holds flipped bits, MEM_COPY
and MEM_FILL complete with the bytes that they moved and MEM_TAG_CHECK with the lines that it checked, and a failure is
INTEGRITY with its DETAIL: the first failing line or request, and a line that fails at the channel's write path with 2.
A patrol read passes to the next channel offset; a unit without flipped bits stays as it is, one flipped bit is corrected, a
new uncorrectable unit is poisoned, so that its line fails with 0x0200 and no byte changes, and one poisoned already
raises nothing more. The model's readings: log 27, 91, 120. -/
def Obligations.CopyFillCheckAndScrub : Prop :=
  (∀ (s : State) (id : Nat) (c : Cmd) (host : HostRead) (x : Option WriteFault), s.Begins id .memCopy c →
    let a := s.access c.fn (c.arg 16 8) (c.arg 32 8)
    ∃ t, exec (.memCopy id host x) s = .next t ∧ (∃ st k r, t.cmd id = some { c with phase := .formed st k r t.now })
    ∧ (s.mem.upsets = [] → ∀ b e u k, s.copySource c.fn (c.arg 16 8) (c.arg 24 8) (c.arg 32 8) host = (b, e) →
        a.writeSegs c.fn (((s.fn c.fn).segs (c.arg 24 8) (c.arg 32 8)).getD []) (s.beforeFault c.fn (c.arg 24 8) b x).1 = (u, k, none) →
        t.mem = u.mem
        ∧ ((s.beforeFault c.fn (c.arg 24 8) b x).2 = none → e = none →
            Completed s t id c stOk 0 (BitVec.ofNat 64 k) ∧ t.sent = u.sent)
        ∧ (∀ d, (s.beforeFault c.fn (c.arg 24 8) b x).2 = none → e = some d → d ≠ 4 →
            Completed s t id c stIntegrity d (BitVec.ofNat 64 k))
        ∧ ((s.beforeFault c.fn (c.arg 24 8) b x).2.isSome = true → t.safe = s.safe →
            t.cmd id = some { c with phase := .formed stIntegrity 2 (BitVec.ofNat 64 k) t.now })))
  ∧ (∀ (s : State) (id : Nat) (c : Cmd) (io : HostIo) (x : Option WriteFault), s.Begins id .memFill c →
    let b := fillBytes (c.arg 32 8) (c.arg 24 8)
    let cut := s.beforeFault c.fn (c.arg 16 8) b x
    ∃ t, exec (.memFill id io x) s = .next t ∧ (∃ st k r, t.cmd id = some { c with phase := .formed st k r t.now })
    ∧ (s.mem.upsets = [] → ∀ u k, s.writeVa c.fn (c.cls == 2) (c.arg 16 8) cut.1 io = (u, k, none) →
        t.mem = u.mem
        ∧ (cut.2 = none → Completed s t id c stOk 0 (BitVec.ofNat 64 k) ∧ t.sent = u.sent)
        ∧ (cut.2.isSome = true → t.safe = s.safe →
            t.cmd id = some { c with phase := .formed stIntegrity 2 (BitVec.ofNat 64 k) t.now }))
    ∧ (s.mem.upsets = [] → ∀ u k d, s.writeVa c.fn (c.cls == 2) (c.arg 16 8) cut.1 io = (u, k, some d) →
        d ≠ 4 → Completed s t id c stIntegrity d (BitVec.ofNat 64 k)))
  ∧ (∀ (s : State) (f : FnId) (va : Nat) (b : Bytes), s.beforeFault f va b none = (b, none))
  ∧ (∀ pattern n i, i < n → (fillBytes pattern n).length = n ∧ byteAt (fillBytes pattern n) i = byteAt (leBytes 8 pattern) (i % 8))
  ∧ (∀ (s : State) (id : Nat) (c : Cmd), s.Begins id .memTagCheck c → ∃ t, exec (.memTagCheck id) s = .next t
    ∧ (∃ st k r, t.cmd id = some { c with phase := .formed st k r t.now })
    ∧ let n := c.arg 24 8 / 256
      let l := memKey c.fn (c.arg 16 8) / 256
      (s.mem.upsets = [] → (∀ i, i < n → s.mem.lineFault (l + i) = none) →
        Completed s t id c stOk 0 (BitVec.ofNat 64 (n % 2 ^ 32)) ∧ t.mem = s.mem)
      ∧ (s.mem.upsets = [] → ∀ i, i < n → s.mem.lineFault (l + i) = some 0x0200 → (∀ j, j < n → s.mem.lineFault (l + j) ≠ some 4) →
        ∃ r, Completed s t id c stIntegrity 0x0200 r ∧ t.mem = s.mem))
  ∧ (∀ (s : State) (met : List ClPortId), s.rootRuns = true → s.boot.memTrained = true →
    let next := (s.boot.scrub + 1) % max 1 (channelBytes s.boot.memMib / 64)
    (∀ l, ∃ t, exec (.patrolScrubRead l met) s = .next t ∧ t.boot.scrub = next)
    ∧ (s.mem.upsets = [] → exec (.patrolScrubRead [] met) s = .next { s with boot := { s.boot with scrub := next } })
    ∧ (∀ u flips, s.mem.upsets = [(u, flips)] → coffOf (s.unitPlace u) / 64 = s.boot.scrub →
        (∀ ch ∈ met, ch.val ≠ chanOf (s.unitPlace u)) →
        ∃ t, exec (.patrolScrubRead [] met) s = .next t ∧ t.mem = (s.mem.readUnit u flips).1))
  ∧ (∀ (m : Memory) (u : Nat),
      (∀ b : Fin 523, u ∉ m.poison → (m.readUnit u [b.val]).2 = some .eccCe
        ∧ (m.readUnit u [b.val]).1 = { m with upsets := m.upsets.filter (fun x => x.1 != u) })
      ∧ (∀ flips, u ∈ m.poison → (m.readUnit u flips).2 = none ∧ (m.readUnit u flips).1.poison = m.poison)
      ∧ (∀ a b : Nat, u ∉ m.poison → (m.readUnit u [a, b]).2 = some .eccUe
        ∧ (m.readUnit u [a, b]).1.lineFault (u / 4) = some 0x0200
        ∧ ∀ k, (m.readUnit u [a, b]).1.byte k = m.byte k))

/-! ## The lamp die -/

/-- The lamp die's start and the lamp seam: LOSC qualifies by its count; booting arms the monitors, and a
configuration that does not verify silences both controllers and is Fatal; a side takes its next message out of the
queue and acts on it: a safe-state request takes it to the safe state, timer messages run the shadow timers,
BOOT_COMPLETE counts until 1,000 ms have passed, a heartbeat is heard, a service waits for its watchdog, a record reaches
the FCU, a channel reset resets the port's functions; the oldest message of the first level that has one goes first; the
third bad frame in a row, and the third interval without a heartbeat, lose the seam, and the lamp die is then safe; each
interval sends a heartbeat. Which level a record, a channel reset and a host watchdog's service take is the model's
choice, log 113. The model's readings: log 17. -/
def Obligations.LampSeam : Prop :=
  (∀ (s : State) (n : Nat) (ran : Bool), s.lampRuns = true → s.lamp.onLosc = false →
    (ran = true → 3564 ≤ n → n ≤ 4533 →
      exec (.loscQualifyCount n ran) s = .next { s with lamp := { s.lamp with onLosc := true } })
    ∧ (ran = false ∨ n < 3564 ∨ 4533 < n → exec (.loscQualifyCount n ran) s = .next s))
  ∧ (∀ (s : State), s.lampRuns = true → s.lamp.onLosc = true → s.lamp.booted = false →
    (∃ t, exec (.lampBootDone true) s = .next t ∧ t.lamp.booted = true ∧ t.lamp.seamUp = true ∧ t.lamp.armed = true
      ∧ t.lamp.configOk = true ∧ t = { s with lamp := t.lamp })
    ∧ (∃ t, exec (.lampBootDone false) s = .next t ∧ t.lamp.booted = true ∧ t.lamp.seamUp = true ∧ t.lamp.armed = true
      ∧ t.lamp.configOk = false ∧ t.lamp.safe = true
      ∧ ∀ b : BusId, (t.can[b.val]).silenced = true ∧ (t.can[b.val]).safePending = false))
  ∧ (∀ (s : State) (m : SeamMsg), s.lampRuns = true → s.lamp.seamUp = true → s.lamp.lampSide.lost = false →
    nextMsg s.lamp.toLamp = some m → ∃ t, exec (.lampSeamFrame .lamp true) s = .next t
      ∧ t.lamp.toLamp = s.lamp.toLamp.erase m ∧ t.lamp.lampSide.badCrc = 0
      ∧ (∀ k, m = .safeRequest k → t.lamp.safe = true ∧ (s.lamp.safe = false → t.lampDrivesLow = true))
      ∧ (∀ r, m = .timerStart r → r ∈ t.lamp.shadows)
      ∧ (∀ r, m = .timerStop r → t.lamp.shadows = s.lamp.shadows.filter (· != r))
      ∧ (m = .bootComplete → t.lamp.gotBoot = (s.lamp.gotBoot || !s.lamp.timedOut))
      ∧ (m = .heartbeat → t.lamp.lampSide.heard = true)
      ∧ (∀ w x, m = .service w x → (t.wdog[w.val]).inbound = (s.wdog[w.val]).inbound ++ [x]))
  ∧ (∀ (s : State) (m : SeamMsg), s.rootRuns = true → s.lamp.seamUp = true → s.lamp.rootSide.lost = false →
    nextMsg s.lamp.toRoot = some m → ∃ t, exec (.lampSeamFrame .rootstock true) s = .next t
      ∧ t.lamp.toRoot = s.lamp.toRoot.erase m ∧ t.lamp.rootSide.badCrc = 0
      ∧ (∀ k, m = .safeRequest k → t.safe = true ∧ (s.safe = false → t.rootDrivesLow = true))
      ∧ (∀ src e o k i st, m = .record src e o k i st → s.fcu.isEdge src e = true → t.fcu.nextSeq = s.fcu.nextSeq + 1)
      ∧ (m = .heartbeat → t.lamp.rootSide.heard = true)
      ∧ (∀ p f, m = .channelReset p → portOf f = p → (t.fn f).resetting = true))
  ∧ (∀ (q : List SeamMsg) (m : SeamMsg), m ∈ q → ∃ n ∈ q, nextMsg q = some n ∧ n.level ≤ m.level
      ∧ q.find? (fun x => x.level == n.level) = some n)
  ∧ (∀ (k : Nat) (x : Service), SeamMsg.level (.safeRequest k) = 1 ∧ SeamMsg.level (.timerStart k) = 1
      ∧ SeamMsg.level (.timerStop k) = 1 ∧ SeamMsg.level .heartbeat = 2 ∧ SeamMsg.level (.service 0 x) = 3
      ∧ SeamMsg.level (.canSend k) = 4 ∧ SeamMsg.level (.safeMessage k) = 4 ∧ SeamMsg.level (.canConfig k) = 5
      ∧ SeamMsg.level (.wdogConfig k) = 5 ∧ SeamMsg.level .bootComplete = 5)
  ∧ (∀ (s : State) (d : Side), s.sideRuns d = true → s.lamp.seamUp = true → (s.lamp.side d).lost = false →
    ∃ t, exec (.lampSeamFrame d false) s = .next t
      ∧ ((s.lamp.side d).badCrc < 2 → (t.lamp.side d).badCrc = (s.lamp.side d).badCrc + 1 ∧ (t.lamp.side d).lost = false)
      ∧ (2 ≤ (s.lamp.side d).badCrc → (t.lamp.side d).lost = true ∧ (d = .lamp → t.lamp.safe = true)))
  ∧ (∀ (s : State) (d : Side), s.sideRuns d = true → (s.lamp.side d).lost = false → (d = .lamp → s.lamp.booted = true) →
    ∃ t, exec (.lampSeamHeartbeatInterval d) s = .next t
      ∧ (d = .rootstock → .heartbeat ∈ t.lamp.toLamp) ∧ (d = .lamp → .heartbeat ∈ t.lamp.toRoot)
      ∧ ((s.lamp.side d).heard = true →
          (t.lamp.side d).missed = 0 ∧ (t.lamp.side d).heard = false ∧ (t.lamp.side d).lost = false)
      ∧ ((s.lamp.side d).heard = false → (s.lamp.side d).missed < 2 →
          (t.lamp.side d).missed = (s.lamp.side d).missed + 1 ∧ (t.lamp.side d).lost = false)
      ∧ ((s.lamp.side d).heard = false → 2 ≤ (s.lamp.side d).missed →
          (t.lamp.side d).lost = true ∧ (d = .lamp → t.lamp.safe = true)))

/-- The clock monitors: a count within its limits trips nothing; LOSC lost, seen by NOSC, drives the pins low and
silences both controllers; NOSC lost puts the watchdogs that run on it on the fallback; a partner's clock lost loses
the lamp seam on both sides; a watchdog's own clock stopped puts that watchdog on the fallback, with a record. The model's readings:
log 1, 8, 47. -/
def Obligations.ClockMonitors : Prop :=
  (∀ (s : State) (m : Monitor) (n : Nat), s.monitors m = true → ∃ t, exec (.clockMonitorWindow m n) s = .next t
    ∧ ((Monitor.limits m).1 ≤ n → n ≤ (Monitor.limits m).2 →
        t.pinsHigh = s.pinsHigh ∧ t.safe = s.safe ∧ t.lamp.safe = s.lamp.safe ∧ t.wdog = s.wdog ∧ t.can = s.can
        ∧ t.lamp.rootSide = s.lamp.rootSide ∧ t.lamp.lampSide = s.lamp.lampSide
        ∧ (m = .noscByLosc → t.lamp.noscTripped = false))
    ∧ ((n < (Monitor.limits m).1 ∨ (Monitor.limits m).2 < n) →
        (m = .loscByNosc → t.lamp.safe = true ∧ t.pinsHigh = false ∧ ∀ b : BusId, (t.can[b.val]).silenced = true)
        ∧ (m = .noscByLosc → t.lamp.noscTripped = true ∧ ∀ w : WdogId, (s.wdog[w.val]).cfg.clock = 0 →
            (s.wdog[w.val]).state ≠ .stopped → (t.wdog[w.val]).fallback = true)
        ∧ (m = .pclkByLosc → t.lamp.rootSide.lost = true ∧ t.lamp.lampSide.lost = true)
        ∧ (m = .loscByPclk → t.lamp.rootSide.lost = true ∧ t.lamp.lampSide.lost = true ∧ t.lamp.safe = true)))
  ∧ Monitor.limits .pclkByLosc = (196, 204) ∧ Monitor.limits .loscByPclk = (196, 204)
  ∧ Monitor.limits .noscByLosc = (80, 120) ∧ Monitor.limits .loscByNosc = (3200, 4800)
  ∧ (∀ (s : State) (w : WdogId), s.lampRuns = true → (s.wdog[w.val]).state ≠ .stopped →
    ∃ t, exec (.wdogClockStopped w) s = .next t ∧ (t.wdog[w.val]).fallback = true
      ∧ (t.wdog[w.val]).state = (s.wdog[w.val]).state
      ∧ (s.lamp.seamLost = false → .record (0x518 + w.val) .clockMonitor none s.now false true ∈ t.lamp.toRoot)
      ∧ ∀ v : WdogId, v ≠ w → t.wdog[v.val] = s.wdog[v.val])

/-- The windowed watchdogs: a service in the open window starts a new period; an early one, a key error and the end of
a period are failures, counted; a first failure warns; a failure while WARNED is final: the lamp watchdog takes the lamp
die to the safe state and its reset is due, a host watchdog waits and resets its channel; WDOG_CONFIG crosses the lamp
seam and acts there by the watchdog's state; and the Foreman services the lamp watchdog only when its liveness
conditions hold. The model's readings: log 1, 8, 49. -/
def Obligations.Watchdogs : Prop :=
  (∀ (s : State) (w : WdogId) (tick : Nat) (r : List Service), s.lampRuns = true → (s.wdog[w.val]).runs = true →
    ((s.wdog[w.val]).inbound = .service :: r → ∃ t, exec (.wdogService w tick) s = .next t ∧ (t.wdog[w.val]).inbound = r
      ∧ ((s.wdog[w.val]).cfg.opens ≤ tick → (t.wdog[w.val]).state = .running
          ∧ (t.wdog[w.val]).cfg = (s.wdog[w.val]).next.getD (s.wdog[w.val]).cfg ∧ t = { s with wdog := t.wdog })
      ∧ (tick < (s.wdog[w.val]).cfg.opens → (t.wdog[w.val]).early = min ((s.wdog[w.val]).early + 1) 255 ∧ WdogFailed s t w))
    ∧ ((s.wdog[w.val]).inbound = .keyError :: r → ∃ t, exec (.wdogService w tick) s = .next t ∧ (t.wdog[w.val]).inbound = r
      ∧ (t.wdog[w.val]).keyErrors = min ((s.wdog[w.val]).keyErrors + 1) 255 ∧ WdogFailed s t w))
  ∧ (∀ (s : State) (w : WdogId), s.lampRuns = true → (s.wdog[w.val]).runs = true →
    ∃ t, exec (.wdogPeriodEnd w) s = .next t ∧ WdogFailed s t w)
  ∧ (∀ (s : State) (id : Nat) (c : Cmd), s.Begins id .wdogConfig c →
    ∃ t, exec (.wdogConfig id) s = .next t ∧ SetsOut s t id c (.wdogConfig id))
  ∧ (∀ (s : State) (id : Nat) (c : Cmd) (w : WdogId), s.Crosses (.wdogConfig id) id .wdogConfig c → c.arg 16 1 = w.val →
    let cfg : WdogCfg := { clock := c.arg 17 1, window := c.arg 18 1, periodUs := c.arg 20 4 }
    let x := s.wdog[w.val]
    ∃ t, exec (.lampSeamFrame .lamp true) s = .next t
      ∧ (x.state = .warned → Completed s t id c stBusy 8 0 ∧ t.wdog = s.wdog)
      ∧ (x.state = .stopped → c.arg 19 1 = 1 → Completed s t id c stOk 0 0
          ∧ (t.wdog[w.val]).state = .running ∧ (t.wdog[w.val]).cfg = cfg)
      ∧ (x.state = .running ∨ x.state = .waiting → c.arg 19 1 = 1 → Completed s t id c stOk 0 0
          ∧ t.wdog[w.val] = { x with next := some cfg })
      ∧ (x.state ≠ .warned → c.arg 19 1 = 0 → s.fixed.wdogHwStart = true →
          Completed s t id c stBusy 8 0 ∧ t.wdog = s.wdog)
      ∧ (x.state ≠ .warned → c.arg 19 1 = 0 → s.fixed.wdogHwStart = false → w.val = 0 → s.fore.reservations ≠ [] →
          Completed s t id c stBusy 6 0 ∧ t.wdog = s.wdog)
      ∧ (x.state ≠ .warned → c.arg 19 1 = 0 → s.fixed.wdogHwStart = false → (w.val = 0 → s.fore.reservations = []) →
          Completed s t id c stOk 0 0 ∧ (t.wdog[w.val]).state = .stopped)
      ∧ ∀ v : WdogId, v ≠ w → t.wdog[v.val] = s.wdog[v.val])
  ∧ (∀ (s : State) (loop f0 f1 timers : Bool), s.rootRuns = true → s.boot.firmware.isSome = true → s.lamp.seamLost = false →
    let live := loop && timers && !(s.fore.f0Halted && s.fore.f1Halted) && (s.fore.f0Halted || f0) && (s.fore.f1Halted || f1)
    (live = true → exec (.foremanWdogService loop f0 f1 timers) s
      = .next { s with lamp := { s.lamp with toLamp := s.lamp.toLamp ++ [.service 0 .service] } })
    ∧ (live = false → exec (.foremanWdogService loop f0 f1 timers) s = .next s))

/-- The CAN commands: a bad block is refused with its first bad field; every other sets out over the lamp seam, and
acts there: CAN_CONFIG and SAFE_MESSAGE_SET take effect on the buses named; CAN_SEND queues its frame, or starts it on an
idle bus, unless 16 wait, the bus is off for good or has FD off; a frame that is not sent in 1 s is withdrawn. A lamp die
in the safe state takes no frame. The model's readings: log 92, 113. -/
def Obligations.CanCommands : Prop :=
  (∀ (s : State) (id : Nat) (c : Cmd),
    (s.Begins id .canConfig c → ∃ t, exec (.canConfig id) s = .next t
      ∧ (∀ d, canCfgBad c.block = some d → Completed s t id c stBadParam (BitVec.ofNat 16 d) 0 ∧ t = { s with fore := t.fore })
      ∧ (canCfgBad c.block = none → SetsOut s t id c (.canConfig id)))
    ∧ (s.Begins id .canSend c →
      let bad := canFrameBad c.block true (!(s.can[c.bus.val]).cfg.fd)
      ∃ t, exec (.canSend id) s = .next t
      ∧ (∀ d, bad = some d → Completed s t id c stBadParam (BitVec.ofNat 16 d) 0 ∧ t = { s with fore := t.fore })
      ∧ (bad = none → SetsOut s t id c (.canSend id)))
    ∧ (s.Begins id .safeMessageSet c →
      let bad := canFrameBad c.block false
        ((List.finRange 2).any (fun b => (c.arg 16 1).testBit b.val && !(s.can[b.val]).cfg.fd))
      ∃ t, exec (.safeMessageSet id) s = .next t
      ∧ (∀ d, bad = some d → Completed s t id c stBadParam (BitVec.ofNat 16 d) 0 ∧ t = { s with fore := t.fore })
      ∧ (bad = none → SetsOut s t id c (.safeMessage id))))
  ∧ (∀ (s : State) (id : Nat) (c : Cmd) (b : BusId), s.Crosses (.canConfig id) id .canConfig c → c.arg 16 1 = b.val →
    let x := s.can[b.val]
    let cfg := parseCanCfg c.block
    ∃ t, exec (.lampSeamFrame .lamp true) s = .next t ∧ (∀ o : BusId, o ≠ b → t.can[o.val] = s.can[o.val])
      ∧ (x.recovering = true → Completed s t id c stBusy 8 0 ∧ t.can = s.can)
      ∧ (x.recovering = false → (t.can[b.val]).cfg = cfg ∧ (t.can[b.val]).recovering = x.busOff)
      ∧ (x.recovering = false → cfg.fd = true → Completed s t id c stOk 0 0 ∧ (t.can[b.val]).queue = x.queue)
      ∧ (x.recovering = false → cfg.fd = false → (t.can[b.val]).queue = x.queue.filter (fun y => !y.2.flags.getLsbD 0)
          ∧ ((∀ y ∈ x.queue, y.1 ≠ id) → t.cmd id = some { c with phase := .formed stOk 0 0 t.now })))
  ∧ (∀ (s : State) (id : Nat) (c : Cmd) (b : BusId), s.Crosses (.canSend id) id .canSend c → c.arg 16 1 = b.val →
    let x := s.can[b.val]
    let f := parseCanFrame c.block
    let fits := f.flags.getLsbD 0 = false ∨ x.cfg.fd = true
    let off := x.busOff = true ∧ x.cfg.autoRecover = false ∧ x.recovering = false
    ∃ t, exec (.lampSeamFrame .lamp true) s = .next t
      ∧ (s.lamp.safe = true → t.can = s.can ∧ t.fore = s.fore)
      ∧ (s.lamp.safe = false → ¬ fits → Completed s t id c stBadParam 0xFFFF 0 ∧ t.can = s.can)
      ∧ (s.lamp.safe = false → fits → 16 ≤ x.queue.length → Completed s t id c stNoResource 8 0 ∧ t.can = s.can)
      ∧ (s.lamp.safe = false → fits → x.queue.length < 16 → off → Completed s t id c stBusy 8 0 ∧ t.can = s.can)
      ∧ (s.lamp.safe = false → fits → x.queue.length < 16 → ¬ off → t.fore = s.fore
          ∧ (x.wire ≠ .idle → (t.can[b.val]).queue = x.queue ++ [(id, f)] ∧ t.sent = s.sent)
          ∧ (x.wire = .idle → x.queue = [] → x.busOff = false → x.normal = true → x.silenced = false → x.safePending = false →
              (t.can[b.val]).wire = .frame id f false ∧ t.sent = .can b false f.data :: s.sent)))
  ∧ (∀ (s : State) (id : Nat) (c : Cmd), s.Crosses (.safeMessage id) id .safeMessageSet c →
    ∃ t, exec (.lampSeamFrame .lamp true) s = .next t
      ∧ (s.lamp.safe = false → Completed s t id c stOk 0 0 ∧ ∀ b : BusId,
          t.can[b.val] = { s.can[b.val] with
            message := if (c.arg 16 1).testBit b.val then parseCanFrame c.block else (s.can[b.val]).message })
      ∧ (s.lamp.safe = true → t.can = s.can))
  ∧ (∀ (s : State) (id : Nat) (c : Cmd) (b : BusId), s.rootRuns = true → s.cmd id = some c → c.phase = .running →
    ((∃ f, (id, f) ∈ (s.can[b.val]).queue) ∨ (s.can[b.val]).wire.cmd = some id) →
    ∃ t, exec (.canSendTimeout b id) s = .next t ∧ Completed s t id c stBusy 8 0
      ∧ (∀ x ∈ (t.can[b.val]).queue, x.1 ≠ id)
      ∧ (∀ f w, (s.can[b.val]).wire = .frame id f w → (t.can[b.val]).wire = .frame id f true))

/-- The CAN controllers: they enter normal mode at 300 ms unless silenced; an acknowledged frame lowers TEC and
completes its CAN_SEND; an error raises TEC by 8, except an acknowledgement error of an error-passive controller; at
more than 255 the controller is bus-off and recovers by itself in the safe state; recovery clears both counters; a
received frame moves REC; the safe message repeats. The model's readings: log 18, 50, 92. -/
def Obligations.CanController : Prop :=
  (∀ s : State, s.lampRuns = true → s.lamp.booted = true → ∃ t, exec .canNormalMode s = .next t ∧ t.boot.canNormal = true
      ∧ ∀ b : BusId, (t.can[b.val]).normal = ((s.can[b.val]).normal || !(s.can[b.val]).silenced))
  ∧ (∀ (s : State) (b : BusId) (id : Nat) (f : CanFrame) (w : Bool) (c : Cmd), s.lampRuns = true →
    (s.can[b.val]).wire = .frame id f w → s.cmd id = some c → c.live = true →
    ∃ t, exec (.canFrameEnd b .acked) s = .next t ∧ (t.can[b.val]).tec = (s.can[b.val]).tec - 1
      ∧ t.cmd id = some { c with phase := .formed stOk 0 0 s.now })
  ∧ (∀ (s : State) (b : BusId), s.lampRuns = true → (s.can[b.val]).wire = .safe →
    ∃ t, exec (.canFrameEnd b .acked) s = .next t ∧ (t.can[b.val]).alive = (s.can[b.val]).alive + 1
      ∧ (t.can[b.val]).safePending = false)
  ∧ (∀ (s : State) (b : BusId) (o : CanOutcome), s.lampRuns = true → (s.can[b.val]).wire ≠ .idle → o ≠ .acked →
    ∃ t, exec (.canFrameEnd b o) s = .next t
      ∧ (t.can[b.val]).tec = (if o = .ackError ∧ (s.can[b.val]).passive = true then (s.can[b.val]).tec else (s.can[b.val]).tec + 8)
      ∧ ((s.can[b.val]).busOff = false → 255 < (t.can[b.val]).tec → (t.can[b.val]).busOff = true
          ∧ (s.lamp.safe = true → (t.can[b.val]).recovering = true)))
  ∧ (∀ (s : State) (b : BusId), s.lampRuns = true → (s.can[b.val]).busOff = true → (s.can[b.val]).recovering = true →
    ∃ t, exec (.canBusOffRecoveryDone b) s = .next t ∧ (t.can[b.val]).busOff = false ∧ (t.can[b.val]).tec = 0
      ∧ (t.can[b.val]).rec' = 0 ∧ (t.can[b.val]).passive = false)
  ∧ (∀ (s : State) (b : BusId), s.lampRuns = true → (s.can[b.val]).busOff = false →
    (∃ t, exec (.canFrameReceived b false) s = .next t ∧ (t.can[b.val]).rec' = (s.can[b.val]).rec' + 1)
    ∧ ((s.can[b.val]).rec' ≤ 127 → ∃ t, exec (.canFrameReceived b true) s = .next t
        ∧ (t.can[b.val]).rec' = (s.can[b.val]).rec' - 1))
  ∧ (∀ (s : State) (b : BusId), s.lampRuns = true → s.lamp.safe = true → (s.can[b.val]).message.repeatMs ≠ 0 →
    (s.can[b.val]).silenced = false → (s.can[b.val]).wire ≠ .idle →
    exec (.safeMessageRepeat b) s = .next (s.setCan b (fun x => { x with safePending := true })))

/-- The lamp die resets alone: it starts as at reset, it has not booted, its watchdogs run if the fuse says so, its
controllers hold the signed configuration; the rootstock loses the lamp seam; and a rootstock in the safe state tells
it so. The model's readings: log 47, 81. -/
def Obligations.LampDieReset : Prop :=
  ∀ s : State, s.lampRuns = true → ∃ t, exec .lampDieReset s = .next t
    ∧ t.lamp.safe = false ∧ t.lamp.booted = false ∧ t.lamp.onLosc = false
    ∧ (∀ w : WdogId, (t.wdog[w.val]).state = if s.fixed.wdogHwStart then .running else .stopped)
    ∧ (∀ b : BusId, t.can[b.val] = { cfg := { s.fixed.canDefault[b.val] with autoRecover := decide (b = s.fixed.safetyBus) }
                                     message := s.fixed.msgDefault[b.val] })
    ∧ (s.rootRuns = true → t.lamp.rootSide.lost = true)
    ∧ (t.safe = true → t.lamp.toLamp = [.safeRequest 0x03])
    ∧ (s.rootRuns = false → t.safe = s.safe)

/-! ## Faults -/

/-- An edge that the FCU captures: one record with the next EVENT_SEQ, the device time, the source, the event and its
owner, which is the checked data's for a source that checks data and R382's for any other; it enters the view of every
function that R382 names, newest first, 32 kept, and TOTAL counts it, and no other view; its tier and TIMER follow the
count and the reaction timers; a Fatal one takes the rootstock to the safe state. An edge within the holdoff, or of a
condition that INJECT holds, changes nothing; a holdoff ends. Source 0x001 comes through INJECT alone. A lamp-die
source's record sets out for the FCU, and a Fatal one takes the lamp die to the safe state. The model's readings: log
40, 46. -/
def Obligations.FaultCapture : Prop :=
  (∀ (s : State) (src : Nat) (e : Ev) (o : Option FnId) (k stays : Bool), s.rootRuns = true →
    (sourceEvents src).contains e = true → lampSource src = false → src ≠ 1 →
    let owner := if dataSource src then o else (s.ownerOf src).1
    let class2 := if dataSource src then k else (s.ownerOf src).2.1
    let r : Raise := { source := src, event := e, owner := owner, class2 := class2, stays := stays
                       context := (s.ownerOf src).2.2, tier := s.tierOf e }
    let j := s.fcu.judge r s.now
    ∃ t, exec (.faultEdgeCapture src e o k stays) s = .next t
      ∧ (((src, e) ∈ s.fcu.holdoff ∨ (src, e) ∈ s.fcu.holds) → t = s.clearLive src e)
      ∧ ((src, e) ∉ s.fcu.holdoff → (src, e) ∉ s.fcu.holds →
          t.fcu.nextSeq = s.fcu.nextSeq + 1 ∧ (src, e) ∈ t.fcu.holdoff
          ∧ ∃ x : Rec, x.seq = s.fcu.nextSeq ∧ x.time = s.now ∧ x.source = src ∧ x.event = e ∧ x.owner = owner
              ∧ x.class2 = class2 ∧ x.context = (s.ownerOf src).2.2.getD (contextOf owner)
              ∧ x.count = j.1 ∧ x.latched = decide (j.2 ≠ 0) ∧ x.injected = false
              ∧ (∀ f : FnId, s.viewers x f = true →
                  (t.fn f).view = (x :: (s.fn f).view).take 32 ∧ (t.fn f).total = (s.fn f).total + 1)
              ∧ (∀ f : FnId, s.viewers x f = false →
                  (t.fn f).view = (s.fn f).view ∧ (t.fn f).total = (s.fn f).total)
              ∧ (t.safe = true ↔ s.safe = true ∨ x.tier = 3)
              ∧ ((j.2 ≠ 2 ∨ s.safe = true) → x.tier = j.2 ∧ x.timer = false)
              ∧ (∀ tm, j.2 = 2 → s.safe = false → s.fcu.timerOf src = some tm →
                  x.tier = 2 ∧ x.timer = false ∧ x.episode = some tm.startSeq)
              ∧ (j.2 = 2 → s.safe = false → s.fcu.timerOf src = none → s.fcu.timers.length < 32 →
                  x.tier = 2 ∧ x.timer = true ∧ .timerStart src ∈ t.lamp.toLamp
                  ∧ ∃ tm, t.fcu.timerOf src = some tm ∧ tm.startSeq = x.seq ∧ tm.lengthUs = s.fore.safety.reactionUs)
              ∧ (j.2 = 2 → s.safe = false → s.fcu.timerOf src = none → 32 ≤ s.fcu.timers.length →
                  x.tier = 3 ∧ x.timer = false)))
  ∧ (∀ (s : State) (e : Ev) (o : Option FnId) (k stays : Bool), exec (.faultEdgeCapture 1 e o k stays) s = .next s)
  ∧ (∀ (s : State) (src : Nat) (e : Ev) (o : Option FnId) (k stays : Bool), s.lampRuns = true →
    (sourceEvents src).contains e = true → lampSource src = true →
    ∃ t, exec (.faultEdgeCapture src e o k stays) s = .next t
      ∧ (s.lamp.seamLost = false → .record src e (s.ownerOf src).1 s.now false stays ∈ t.lamp.toRoot)
      ∧ (baseTier src e = 3 → t.lamp.safe = true))
  ∧ (∀ (s : State) (src : Nat) (e : Ev), s.rootRuns = true →
    exec (.faultHoldoffEnd src e) s
      = .next { s with fcu := { s.fcu with holdoff := s.fcu.holdoff.filter (fun x => x != (src, e)) } })

/-- FAULT_ACK: a number that no record of the function has is refused, as is a function without authority over the
record and a remedy that does not fit; otherwise LATCHED clears and, outside the safe state, the episode's timer stops,
the lamp die is told and the acknowledgement is logged. THRESHOLD_SET sets N and W of a source and leaves the edges in
the window. INJECT raises one edge of a condition that does not stand, holds it under HOLD, and RELEASE ends that. The model's readings: log 44, 45. -/
def Obligations.FaultCommands : Prop :=
  (∀ (s : State) (id : Nat) (c : Cmd), s.Begins id .faultAck c →
    let q := BitVec.ofNat 21 (c.arg 16 4)
    ∃ t, exec (.faultAck id) s = .next t ∧ t.fcu.window = s.fcu.window ∧ t.fcu.live = s.fcu.live
      ∧ ((2 ^ 21 ≤ c.arg 16 4 ∨ s.named c.fn q = none) → Completed s t id c stBadParam 16 0)
      ∧ (∀ n, c.arg 16 4 < 2 ^ 21 → s.named c.fn q = some n →
          ((n.class2 = true ∨ (n.owner = none ∧ n.tier = 2)) → s.hasAuth c.fn = false →
            Completed s t id c stNotPermitted 2 0)
          ∧ ((n.class2 = false ∧ (n.owner ≠ none ∨ n.tier ≠ 2)) ∨ s.hasAuth c.fn = true →
              (n.accepts (c.arg 20 2) = false → Completed s t id c stBadParam 20 0)
              ∧ (n.accepts (c.arg 20 2) = true → Completed s t id c stOk 0 0
                  ∧ (∀ f : FnId, ∀ x ∈ (t.fn f).view, x.seq = q → x.latched = false)
                  ∧ (s.safe = true → t.fcu = s.fcu)
                  ∧ (∀ tm, s.safe = false → n.running = some tm →
                      t.fcu.timers = s.fcu.timers.filter (fun x => x.source != tm.source)
                      ∧ .timerStop tm.source ∈ t.lamp.toLamp
                      ∧ (q, BitVec.ofNat 16 (c.arg 20 2), s.now) ∈ t.fcu.ackLog)))))
  ∧ (∀ (s : State) (id : Nat) (c : Cmd), s.Begins id .thresholdSet c →
    ∃ t, exec (.thresholdSet id) s = .next t ∧ Completed s t id c stOk 0 0 ∧ t.fcu.window = s.fcu.window
      ∧ ∀ e, promotion e ≠ none → t.fcu.threshold (c.arg 16 2) e = some (c.arg 18 1, c.arg 20 4)
          ∧ ∀ src, src ≠ c.arg 16 2 → t.fcu.threshold src e = s.fcu.threshold src e)
  ∧ (∀ (s : State) (id : Nat) (c : Cmd), s.Begins id .inject c →
    ∃ t, exec (.inject id) s = .next t
      ∧ (evOfCode (c.arg 18 1 % 64) = none → Completed s t id c stBadParam 18 0)
      ∧ (∀ e, evOfCode (c.arg 18 1 % 64) = some e →
          t.cmd id = some { c with phase := .formed stOk 0 0 s.now }
          ∧ (c.arg 18 1 / 64 = 2 → (c.arg 16 2, e) ∉ t.fcu.holds ∧ t.fcu.nextSeq = s.fcu.nextSeq)
          ∧ (c.arg 18 1 / 64 ≠ 2 → s.fcu.stands (c.arg 16 2) e = false → (c.arg 16 2, e) ∉ s.fcu.holdoff →
              lampSource (c.arg 16 2) = false → t.fcu.nextSeq = s.fcu.nextSeq + 1)
          ∧ (c.arg 18 1 / 64 ≠ 2 → s.fcu.stands (c.arg 16 2) e = true → t.fcu.nextSeq = s.fcu.nextSeq)
          ∧ (c.arg 18 1 / 64 = 1 → lampSource (c.arg 16 2) = false → (c.arg 16 2, e) ∈ t.fcu.holds)))

/-- A reaction timer that reaches its length, a shadow timer that expires, FAULT_IN_N, a rail outside its limits and a
lockstep disagreement each take a die to the safe state; FAULT_IN_N while Night is being entered is a wake event. The model's readings: log 40. -/
def Obligations.FatalEvents : Prop :=
  (∀ (s : State) (src : Nat) (tm : ReactionTimer), s.rootRuns = true → s.fcu.timerOf src = some tm →
    s.fcu.isEdge src .reactionExpired = true → ∃ t, exec (.reactionExpired src) s = .next t ∧ t.safe = true
      ∧ ∀ x ∈ t.fcu.timers, x.source ≠ src)
  ∧ (∀ (s : State) (src : Nat), s.rootRuns = true → s.fcu.timerOf src = none → exec (.reactionExpired src) s = .next s)
  ∧ (∀ (s : State) (src : Nat), s.lampRuns = true → src ∈ s.lamp.shadows →
    ∃ t, exec (.shadowTimerExpired src) s = .next t ∧ t.lamp.safe = true ∧ src ∉ t.lamp.shadows
      ∧ (s.lamp.safe = false → t.lampDrivesLow = true))
  ∧ (∀ s : State, s.lampRuns = true →
    (s.lamp.gotBoot = true → s.entersNight = true →
      exec .faultInNLow s
        = .next { s with power := { s.power with wakeDue := some (s.power.wakeDue.getD .faultIn) } })
    ∧ (s.lamp.gotBoot = true → s.entersNight = false → ∃ t, exec .faultInNLow s = .next t ∧ t.lamp.safe = true
      ∧ (s.lamp.seamLost = false → .record 0x506 .externalFault none s.now false false ∈ t.lamp.toRoot))
    ∧ (s.lamp.gotBoot = false → exec .faultInNLow s = .next s)
    ∧ (s.lamp.armed = true → ∀ rail : Fin 10, ∃ t, exec (.voltageMonitor rail) s = .next t ∧ t.lamp.safe = true
      ∧ (s.lamp.seamLost = false → .record (0x520 + rail.val) .voltageMonitor none s.now false false ∈ t.lamp.toRoot))
    ∧ (s.lamp.halted = false → ∃ t, exec (.lockstepMismatch .lamp) s = .next t ∧ t.lamp.safe = true
      ∧ t.lamp.halted = true))
  ∧ (∀ s : State, s.rootRuns = true →
    (s.fore.f0Halted = false → s.fcu.isEdge 0x010 .lockstepMismatch = true →
      ∃ t, exec (.lockstepMismatch .f0) s = .next t ∧ t.safe = true ∧ t.fore.f0Halted = true)
    ∧ (s.fore.f1Halted = false → s.fcu.isEdge 0x011 .lockstepMismatch = true →
      ∃ t, exec (.lockstepMismatch .f1) s = .next t ∧ t.safe = true ∧ t.fore.f1Halted = true))

/-! ## Boot, power and heat -/

/-- The end of start-up: a checker's injection passes, with nothing raised, where it raised its own source and stayed
silent on the clean stimulus; any other result fails it and raises BOOT_INJECT_FAIL, Fatal on the rootstock and the lamp
die and an Alert on a scion; each checker counts once; a group's training begins and its window closes once;
BOOT_COMPLETE sets BOOT_DONE in every function, tells the lamp die, and never lowers the fuse counter; without it at
1,000 ms the lamp die is safe. The model's readings: log 15, 81. -/
def Obligations.BootCompletes : Prop :=
  (∀ (s : State) (k : Checker) (raised : Option Nat) (ok : Bool), s.mayInject k = true →
    (raised = some (checkerSource k) → ok = true → exec (.startupInjection k raised ok) s
      = .next { s with boot := { s.boot with injected := addOnce k s.boot.injected, passed := k :: s.boot.passed } })
    ∧ ((raised ≠ some (checkerSource k) ∨ ok = false) → ∃ t, exec (.startupInjection k raised ok) s = .next t
        ∧ t.boot.injected = addOnce k s.boot.injected ∧ t.boot.injectFailed = addOnce k s.boot.injectFailed
        ∧ t.boot.failing = k :: s.boot.failing ∧ t.boot.passed = s.boot.passed
        ∧ (checkerDie k = .lamp → t.lamp.safe = true
            ∧ (s.lamp.seamLost = false → .record (checkerSource k) .bootInjectFail none s.now false false ∈ t.lamp.toRoot))
        ∧ (checkerDie k = .rootstock → s.fcu.isEdge (checkerSource k) .bootInjectFail = true → t.safe = true)
        ∧ (∀ n, checkerDie k = .scion n → t.safe = s.safe ∧ t.lamp = s.lamp
            ∧ (s.fcu.isEdge (checkerSource k) .bootInjectFail = true → t.fcu.nextSeq = s.fcu.nextSeq + 1))))
  ∧ (∀ (s : State) (k : Checker) (raised : Option Nat) (ok : Bool), s.mayInject k = false →
    exec (.startupInjection k raised ok) s = .next s)
  ∧ (∀ (s : State) (g : Fin 6), s.rootRuns = true → ∃ t, exec (.chroylinkGroupStart g) s = .next t
      ∧ (∀ p : ClPortId, (p.val / 4 = g.val → t.cl[p.val] = { s.cl[p.val] with started := true, inWindow := true })
          ∧ (p.val / 4 ≠ g.val → t.cl[p.val] = s.cl[p.val])) ∧ t = { s with cl := t.cl })
  ∧ (∀ (s : State) (g : Fin 6), s.rootRuns = true → ∃ t, exec (.chroylinkGroupWindowClose g) s = .next t
      ∧ (∀ p : ClPortId, (p.val / 4 = g.val → t.cl[p.val] = { s.cl[p.val] with inWindow := false })
          ∧ (p.val / 4 ≠ g.val → t.cl[p.val] = s.cl[p.val]))
      ∧ t.boot.closedMask.getLsbD g.val = true ∧ t = { s with cl := t.cl, boot := t.boot }
      ∧ t.boot.groupsClosed = (if s.boot.closedMask.getLsbD g.val then s.boot.groupsClosed else s.boot.groupsClosed + 1))
  ∧ (∀ s : State, s.bootReady = true → s.fore.replay.state ≠ .collecting → ∃ t, exec .bootComplete s = .next t ∧ t.boot.complete = true ∧ t.safe = false
      ∧ s.fixed.rollback ≤ t.fixed.rollback
      ∧ (∀ n, s.boot.firmware = some n → (s.flash.slots[n.val]).rollback ≤ t.fixed.rollback)
      ∧ (∀ f : FnId, (t.fn f).event.getLsbD 0 = true)
      ∧ (s.lamp.seamLost = false → .bootComplete ∈ t.lamp.toLamp))
  ∧ (∀ s : State, s.bootReady = true → s.lamp.safe = false ∧ (∀ k ∈ dieCheckers, k ∈ s.boot.passed)
      ∧ s.boot.memTrained = true ∧ s.boot.firmware ≠ none
      ∧ ∀ n : ScionId, (s.scions[n.val]).state = .joined ∨ (s.scions[n.val]).state = .excluded)
  ∧ (∀ s : State, s.lampRuns = true → s.lamp.onLosc = true →
    (s.lamp.gotBoot = false → s.lamp.timedOut = false → ∃ t, exec .bootTimeout s = .next t ∧ t.lamp.safe = true
      ∧ t.lamp.timedOut = true)
    ∧ (s.lamp.gotBoot = true ∨ s.lamp.timedOut = true → exec .bootTimeout s = .next s))

/-- POWER_STATE: Run at once, Doze and Night once nothing of class 2 is held, Night also needs a quiet device; BUDGET_SET:
the smaller of the two ports' budgets, between 30 and 95 W, is in force and answered; DIE_RESTORE is refused while
another runs, for a scion with nothing to restore and for a hot one, and otherwise is at work while a joined scion is
withdrawn first; at its end the scion has joined or is fenced. The model's readings: log 78, 82, 99. -/
def Obligations.PowerCommands : Prop :=
  (∀ (s : State) (id : Nat) (c : Cmd), s.Begins id .powerState c →
    let n := c.arg 16 1
    let free := s.fore.reservations = [] ∧ ∀ x : CtxId, (s.streams[x.val]).isOpen = true → (s.streams[x.val]).bound = none
    let quiet := s.anyOpen = false ∧ s.fcu.timers = [] ∧ ∀ d ∈ s.fore.taken, d.id = id
    ∃ t, exec (.powerState id) s = .next t
      ∧ (n = 0 → Completed s t id c stOk 0 0 ∧ t.power.state = .run ∧ t.power.dozeDue = false)
      ∧ (n = 2 → s.nightBarred = true → Completed s t id c stNotPermitted 7 0 ∧ t.power = s.power)
      ∧ ((n = 1 ∨ (n = 2 ∧ s.nightBarred = false)) → s.fore.reservations ≠ [] →
          Completed s t id c stBusy 6 0 ∧ t.power = s.power)
      ∧ ((n = 1 ∨ (n = 2 ∧ s.nightBarred = false)) → s.fore.reservations = [] → ¬ free →
          Completed s t id c stBusy 8 0 ∧ t.power = s.power)
      ∧ (n = 2 → s.nightBarred = false → free → ¬ quiet → Completed s t id c stBusy 8 0 ∧ t.power = s.power)
      ∧ (n = 1 → free → Completed s t id c stOk 0 0 ∧ t.power.dozeDue = (s.power.dozeDue || decide (s.power.state ≠ .doze)))
      ∧ (n = 2 → s.nightBarred = false → free → quiet → Completed s t id c stOk 0 0 ∧ t.power.nightDue = true))
  ∧ (∀ (s : State) (id : Nat) (c : Cmd), s.Begins id .budgetSet c → ∃ t, exec (.budgetSet id) s = .next t
      ∧ Completed s t id c stOk 0 (BitVec.ofNat 64 t.budget)
      ∧ t.budget = min (if c.arg 16 4 = 0 then 95000 else max 30000 (min 95000 (c.arg 16 4)))
          ((match portOf c.fn with
            | .a => s.portB.budgetMw
            | .b => s.portA.budgetMw).getD 95000))
  ∧ (∀ (s : State) (id : Nat) (c : Cmd) (n : ScionId), s.Begins id .dieRestore c → c.arg 16 1 = n.val →
    let x := s.scions[n.val]
    ∃ t, exec (.dieRestore id) s = .next t
      ∧ (s.fore.restoring ≠ none → Completed s t id c stBusy 8 0 ∧ t.scions = s.scions)
      ∧ (s.fore.restoring = none → x.state = .joined → s.hasRetired n = false → Completed s t id c stBusy 1 0)
      ∧ (s.fore.restoring = none → (x.state ≠ .joined ∨ s.hasRetired n = true) → 848 ≤ s.footprintMax n.val →
          Completed s t id c stThermal (BitVec.ofNat 16 n.val) 0)
      ∧ (s.fore.restoring = none → x.state ≠ .joined → s.footprintMax n.val < 848 →
          t.cmd id = some { c with phase := .running } ∧ t.fore.restoring = some (n, id)
          ∧ (t.scions[n.val]).state = .restoring)
      ∧ (s.fore.restoring = none → x.state = .joined → s.hasRetired n = true → s.footprintMax n.val < 848 →
          s.fore.replay.state ≠ .collecting → t.cmd id = some { c with phase := .running } ∧ t.fore.restoring = some (n, id)
          ∧ (((∃ e : EngineId, scionOf e = n ∧ (s.engines[e.val]).tile ≠ none) → (t.scions[n.val]).withdrawing = true)
            ∧ ((∀ e : EngineId, scionOf e = n → (s.engines[e.val]).tile = none) → (t.scions[n.val]).state = .restoring))))
  ∧ (∀ (s : State) (id : Nat) (c : Cmd) (n : ScionId), s.rootRuns = true → s.fore.restoring = some (n, id) →
    (s.scions[n.val]).state = .restoring → (s.scions[n.val]).withdrawing = false → s.cmd id = some c → c.live = true →
    (s.fore.replay.state ≠ .collecting → ∃ t, exec (.dieRestoreDone .pass) s = .next t ∧ t.cmd id = some { c with phase := .formed stOk 0 0 t.now }
      ∧ (t.scions[n.val]).state = .joined ∧ t.fore.restoring = none)
    ∧ ∀ e, ∃ t, exec (.dieRestoreDone (.bistFail e)) s = .next t
      ∧ t.cmd id = some { c with phase := .formed stDieLost (1 <<< n.val) 0 t.now }
      ∧ (t.scions[n.val]).state = .fenced ∧ t.fore.restoring = none)

/-- Power events: an interval's grants follow R439 and their sum is at most the scion pool; a rail's setpoint moves by
at most 25 mV in an interval, and not at all where the regulator did not acknowledge; the divider is one that the
setpoint supports, no faster than the grant allows; three intervals without a
grant give /8; the divider in force is the larger of the two; the footprint dividers; Doze stops every engine's clock;
Night loses every state of the rootstock but not the watchdogs; a wake event starts the device again with cause 3, and
not after a crossing on rail 5 or 9; one that comes while Night is being entered acts at the entry. A footprint divider
moves one step faster after 100 samples in a row, 1 ms, at least 3 °C below its threshold (log 128). The rails' voltages for each divider are free, log 126. The model's readings: log 1,
78, 79, 80, 99. -/
def Obligations.PowerEvents : Prop :=
  (∀ (s : State) (p b : Nat) (rq : List (Option PowerRequest)) (acked : List Bool), s.rootRuns = true →
    let req (n : ScionId) : Option PowerRequest := if (s.scions[n.val]).state = .joined then (rq[n.val]?).join else none
    let total := ((List.finRange 4).map (fun n => ((req n).map (·.d4)).getD 0)).sum
    ∃ t, exec (.budgetInterval p b rq acked) s = .next t ∧ t.power.packageMw = p
      ∧ t = { s with power := t.power, scions := t.scions, sent := t.sent }
      ∧ (∀ n : ScionId, req n = none → t.scions[n.val] = s.scions[n.val])
      ∧ (let pool := scionPool t.power.excursionUs s.budget b
         (∀ (n : ScionId) (q : PowerRequest), req n = some q →
            let x := s.scions[n.val]
            let y := t.scions[n.val]
            let want := budgetDivOf q y.grantMw
            y.noGrant = 0 ∧ (total ≤ pool → y.grantMw = q.d4) ∧ (pool < total → y.grantMw = pool * q.d4 / total)
            ∧ y.setpointMv = (if acked.getD n.val false then nextSetpoint x.setpointMv want x.eclkDiv else x.setpointMv)
            ∧ y.budgetDiv = heldDiv y.setpointMv want ∧ y.eclkDiv = x.eclkDiv
            ∧ (nextSetpoint x.setpointMv want x.eclkDiv ≠ x.setpointMv →
                .avsWrite n.val (nextSetpoint x.setpointMv want x.eclkDiv) ∈ t.sent))
         ∧ ((List.finRange 4).map (fun n => if (req n).isSome then (t.scions[n.val]).grantMw else 0)).sum ≤ pool))
  ∧ (∀ mv want now : Nat, nextSetpoint mv want now ≤ mv + 25 ∧ mv ≤ nextSetpoint mv want now + 25
      ∧ (Config.railMv want ≤ mv → Config.railMv want ≤ nextSetpoint mv want now)
      ∧ (Config.railMv now ≤ mv → Config.railMv now ≤ nextSetpoint mv want now))
  ∧ (∀ mv want : Nat, want ≤ 8 → want ≤ heldDiv mv want ∧ heldDiv mv want ≤ 8
      ∧ (heldDiv mv want < 8 → Config.railMv (heldDiv mv want) ≤ mv))
  ∧ (∀ (q : PowerRequest) (g : Nat), q.d8 ≤ q.d6 → q.d6 ≤ q.d5 → q.d5 ≤ q.d4 →
      (budgetDivOf q g = 4 ↔ q.d4 ≤ g) ∧ (budgetDivOf q g = 8 ↔ g < q.d6))
  ∧ (∀ (s : State) (n : ScionId), s.seamLive n = true → ∃ t, exec (.stewardNoGrant n) s = .next t
      ∧ (2 ≤ (s.scions[n.val]).noGrant → (t.scions[n.val]).budgetDiv = 8)
      ∧ ((s.scions[n.val]).noGrant < 2 → (t.scions[n.val]).budgetDiv = (s.scions[n.val]).budgetDiv
          ∧ (t.scions[n.val]).noGrant = (s.scions[n.val]).noGrant + 1))
  ∧ (∀ (s : State) (n : ScionId), s.rootRuns = true → ∃ t, exec (.eclkDividerChange n) s = .next t
      ∧ (t.scions[n.val]).eclkDiv = max (s.scions[n.val]).footprintDiv (s.scions[n.val]).budgetDiv
      ∧ ((t.scions[n.val]).eclkDiv ≤ (s.scions[n.val]).eclkDiv →
          (t.scions[n.val]).throttleSteps = (s.scions[n.val]).throttleSteps)
      ∧ ∀ m : ScionId, m ≠ n → t.scions[m.val] = s.scions[m.val])
  ∧ (∀ (s : State) (fp die : List Int), s.rootRuns = true → (∀ x ∈ fp, x < 896) → (∀ x ∈ die, x < 896) →
    ∃ t, exec (.footprintSample fp die) s = .next t ∧ t.footprint = fp ∧ t.dieTemp = die ∧ t.safe = s.safe
      ∧ ∀ n : ScionId, (t.scions[n.val]).footprintDiv
          = max (s.scions[n.val]).footprintDiv (footprintStep (t.footprintMax n.val))
        ∧ (t.scions[n.val]).cool =
            (if 4 < (t.scions[n.val]).footprintDiv
                ∧ t.footprintMax n.val + 24 ≤ stepThreshold (t.scions[n.val]).footprintDiv
             then min 100 ((s.scions[n.val]).cool + 1) else 0))
  ∧ (∀ (s : State) (n : ScionId), s.rootRuns = true → 4 < (s.scions[n.val]).footprintDiv →
    (100 ≤ (s.scions[n.val]).cool → exec (.footprintCoolStep n) s
      = .next (s.setScion n (fun x => { x with footprintDiv := fasterStep x.footprintDiv, cool := 0 })))
    ∧ ((s.scions[n.val]).cool < 100 → exec (.footprintCoolStep n) s = .next s))
  ∧ (∀ s : State, s.rootRuns = true → s.power.dozeDue = true → ∃ t, exec .dozeEntry s = .next t
      ∧ t.power.state = .doze ∧ t.power.eclkStopped = true ∧ (∀ e : EngineId, (t.engines[e.val]).slice = false)
      ∧ t.mem = s.mem ∧ t.fns = s.fns ∧ t.fore = s.fore)
  ∧ (∀ s : State, s.rootRuns = true → s.power.nightDue = true → (∀ c ∈ s.fore.taken, c.opcode ≠ 0x0600) →
    (s.safe = false → s.lamp.safe = false → s.power.wakeDue = none →
      ∃ t, exec .nightEntry s = .next t ∧ t.power.state = .night
      ∧ t.rootRuns = false ∧ t.mem = {} ∧ t.fns = State.reset.fns ∧ t.fore = {} ∧ t.wdog = s.wdog
      ∧ ∀ b : BusId, (t.can[b.val]).silenced = true ∧ (t.can[b.val]).wire = .idle)
    ∧ (s.safe = false → s.lamp.safe = false → ∀ w, s.power.wakeDue = some w →
        ∃ t, exec .nightEntry s = .next t ∧ Started s t .night s.boot.testMode
          ∧ ∀ v, w = .watchdog v → (t.wdog[v.val]).woke = true)
    ∧ (s.safe = true → exec .nightEntry s = .next s))
  ∧ (∀ s : State, s.sleeps = true →
    (∃ t, exec (.nightWake .faultIn) s = .next t ∧ Started s t .night s.boot.testMode)
    ∧ (∀ w : WdogId, (s.wdog[w.val]).runs = true → ∃ t, exec (.nightWake (.watchdog w)) s = .next t
        ∧ Started s t .night s.boot.testMode ∧ (t.wdog[w.val]).woke = true)
    ∧ (∃ t, exec .noscMissingEdge s = .next t ∧ Restarted s t ∧ t.boot.cause = .night ∧ t.lamp.noscStopped = true))
  ∧ (∀ (s : State) (rail : Fin 10), s.held = false → s.power.state = .night → (rail.val = 5 ∨ rail.val = 9) →
    ∃ t, exec (.nightRailCrossing rail) s = .next t ∧ t.pinsHigh = false
      ∧ (∀ w, exec (.nightWake w) t = .next t) ∧ exec .noscMissingEdge t = .next t)

/-! ## Streams -/

/-- STREAM_OPEN, STREAM_CLOSE, STREAM_CONFIG and GUARD_CONFIG. An open: a bad block and a breach of R191 are refused; a
stream of another source than Chroylink is open at once; one of a Chroylink port is refused with BUSY 8 where its
settings differ and the port is held, is at work until its seed is acknowledged where no retrain is needed, and
otherwise takes the port down and is at work until it is up again. A close: a context that is not the function's open
one is refused; without a run of the context it completes and the context is closed; with begun runs it is at work, and
STREAM_CLOSE_DONE completes it, the context closing with its last run. A config: refused likewise; accepted settings
wait for the next start of frame, link settings act at once, and a retrain holds the command. A guard config: the lowest
bad offset is named, a guard too weak for its class is refused, an accepted guard waits. The model's readings: log 23,
67, 68, 69, 70. -/
def Obligations.StreamCommands : Prop :=
  (∀ (s : State) (id : Nat) (c : Cmd) (x : CtxId), s.Begins id .streamOpen c → c.arg 16 1 = x.val →
    let cfg := parseStream c.block
    let w := cfg.linkSettings
    ∃ t, exec (.streamOpen id) s = .next t
      ∧ (∀ d, s.streamBlockBad c.block = some d → Completed s t id c stBadParam d 0 ∧ t.streams = s.streams)
      ∧ (∀ st d, s.streamBlockBad c.block = none → s.openBad c.fn x cfg = some (st, d) →
          Completed s t id c st d 0 ∧ t.streams = s.streams)
      ∧ (s.streamBlockBad c.block = none → s.openBad c.fn x cfg = none → cfg.source ≠ 0 →
          Completed s t id c stOk 0 0
          ∧ t.streams[x.val] = { openStream c.fn cfg none with awaitGap := s.uartBusy cfg }
          ∧ ∀ y : CtxId, y ≠ x → t.streams[y.val] = s.streams[y.val])
      ∧ (∀ p : ClPortId, s.streamBlockBad c.block = none → s.openBad c.fn x cfg = none → cfg.source = 0 → cfg.port = p.val →
          (((s.cl[p.val]).settingsDiffer w).1 = true → s.settingsHeld p x = true →
            Completed s t id c stBusy 8 0 ∧ t.streams = s.streams)
          ∧ (((s.cl[p.val]).settingsDiffer w).2 = false →
              (((s.cl[p.val]).settingsDiffer w).1 = true → s.settingsHeld p x = false) →
            t.cmd id = some { c with phase := .running } ∧ (t.streams[x.val]).isOpen = true
            ∧ (t.streams[x.val]).opening = some id ∧ (t.streams[x.val]).newSeed = some (Config.freeWord s.draws)
            ∧ (∀ y : CtxId, y ≠ x → t.streams[y.val] = s.streams[y.val])
            ∧ (t.cl[p.val]).dfeFreeze =
                (if ((s.cl[p.val]).settingsDiffer w).1 then w.getLsbD 8 else (s.cl[p.val]).dfeFreeze))
          ∧ (((s.cl[p.val]).settingsDiffer w).2 = true → s.settingsHeld p x = false →
            t.cmd id = some { c with phase := .running } ∧ (t.streams[x.val]).isOpen = true
            ∧ (t.streams[x.val]).opening = some id ∧ (t.cl[p.val]).state = .down
            ∧ (t.cl[p.val]).retrainCmd = some id ∧ (t.cl[p.val]).ctleFixed = w.getLsbD 3
            ∧ (t.cl[p.val]).ctlePreset = w.extractLsb' 0 3)))
  ∧ (∀ (s : State) (id : Nat) (c : Cmd) (x : CtxId), s.Begins id .streamClose c → c.arg 16 1 = x.val →
    ∃ t, exec (.streamClose id) s = .next t
      ∧ (s.ownsOpen c.fn x = false → Completed s t id c stBadParam 16 0 ∧ t.streams = s.streams)
      ∧ (s.ownsOpen c.fn x = true → (∀ r ∈ s.fore.runs, r.ofCtx x = false) →
          (∀ e ∈ (s.streams[x.val]).entries, e.run.isSome = true) →
          Completed s t id c stOk 0 0 ∧ (t.streams[x.val]).isOpen = false ∧ (t.streams[x.val]).bound = none)
      ∧ (s.ownsOpen c.fn x = true → (∀ r ∈ s.fore.runs, r.ofCtx x = true → r.begun = true) →
          (∃ r ∈ s.fore.runs, r.ofCtx x = true) → (∀ e ∈ (s.streams[x.val]).entries, e.run.isSome = true) →
          t.cmd id = some { c with phase := .running } ∧ (t.streams[x.val]).closing = some id
          ∧ (t.streams[x.val]).asm = none ∧ t.fore.runs = s.fore.runs))
  ∧ (∀ (s : State) (x : CtxId) (id : Nat) (c : Cmd), s.rootRuns = true → (s.streams[x.val]).closing = some id →
    (s.streams[x.val]).closeDone = false → s.cmd id = some c → c.live = true →
    ∃ t, exec (.streamCloseDone x) s = .next t ∧ Completed s t id c stOk 0 0
      ∧ ((∀ r ∈ s.fore.runs, r.ofCtx x = false) → (t.streams[x.val]).isOpen = false)
      ∧ ((∃ r ∈ s.fore.runs, r.ofCtx x = true) → t.streams[x.val] = { s.streams[x.val] with closeDone := true })
      ∧ (∀ y : CtxId, y ≠ x → t.streams[y.val] = s.streams[y.val]) ∧ t.fore.runs = s.fore.runs)
  ∧ (∀ (s : State) (id : Nat) (c : Cmd) (x : CtxId), s.Begins id .streamConfig c → c.arg 16 1 = x.val →
    let cfg := parseStream c.block
    let w := cfg.linkSettings
    ∃ t, exec (.streamConfig id) s = .next t
      ∧ (s.ownsOpen c.fn x = false → Completed s t id c stBadParam 16 0 ∧ t.streams = s.streams)
      ∧ (∀ d, s.ownsOpen c.fn x = true → s.streamBlockBad c.block = some d →
          Completed s t id c stBadParam d 0 ∧ t.streams = s.streams)
      ∧ (∀ st d, s.ownsOpen c.fn x = true → s.streamBlockBad c.block = none → s.configBad c.fn s.streams[x.val] cfg = some (st, d) →
          Completed s t id c st d 0 ∧ t.streams = s.streams)
      ∧ (s.ownsOpen c.fn x = true → s.streamBlockBad c.block = none → s.configBad c.fn s.streams[x.val] cfg = none →
          cfg.source ≠ 0 → Completed s t id c stOk 0 0
          ∧ t.streams[x.val] = { s.streams[x.val] with nextCfg := some cfg })
      ∧ (∀ p : ClPortId, s.ownsOpen c.fn x = true → s.streamBlockBad c.block = none →
          s.configBad c.fn s.streams[x.val] cfg = none → cfg.source = 0 → cfg.port = p.val →
          (((s.cl[p.val]).settingsDiffer w).1 = true → s.settingsHeld p x = true →
            Completed s t id c stBusy 8 0 ∧ t.streams = s.streams)
          ∧ (((s.cl[p.val]).settingsDiffer w).2 = false →
              (((s.cl[p.val]).settingsDiffer w).1 = true → s.settingsHeld p x = false) →
            Completed s t id c stOk 0 0 ∧ t.streams[x.val] = { s.streams[x.val] with nextCfg := some cfg }
            ∧ t.cl[p.val] = (if ((s.cl[p.val]).settingsDiffer w).1 then (s.cl[p.val]).applySettings w else s.cl[p.val]))
          ∧ (((s.cl[p.val]).settingsDiffer w).2 = true → s.settingsHeld p x = false → (t.cl[p.val]).state = .down
            ∧ ((s.streams[x.val]).bound = none → t.cmd id = some { c with phase := .running }
              ∧ (t.cl[p.val]).retrainCmd = some id))))
  ∧ (∀ (s : State) (id : Nat) (c : Cmd) (x : CtxId), s.Begins id .guardConfig c → c.arg 16 1 = x.val →
    let cur := (s.streams[x.val]).accepted
    let g := parseGuard c.block 0
    let bad := lowestBad (guardFields c.block 0 cur.source cur.periodUs cur.frameBytes)
    ∃ t, exec (.guardConfig id) s = .next t
      ∧ (s.ownsOpen c.fn x = false → Completed s t id c stBadParam 16 0 ∧ t.streams = s.streams)
      ∧ (∀ o, s.ownsOpen c.fn x = true → bad = some o →
          Completed s t id c stBadParam (BitVec.ofNat 16 (0x8000 + o)) 0 ∧ t.streams = s.streams)
      ∧ (s.ownsOpen c.fn x = true → bad = none → s.guardWeak cur.source cur.cls g = true →
          Completed s t id c stBadParam 0xFFFF 0 ∧ t.streams = s.streams)
      ∧ (s.ownsOpen c.fn x = true → bad = none → s.guardWeak cur.source cur.cls g = false →
          Completed s t id c stOk 0 0 ∧ t.streams[x.val] = { s.streams[x.val] with nextCfg := some { cur with guard := g } }))

/-- Thinning: of 256 frames in a row, from any phase, a stream with keep count k serves exactly k; with 256 every one.
-/
def Obligations.ThinningKeepsItsCount : Prop :=
  (∀ (x : Stream) (n : Nat), x.keep ≤ 256 →
    (((List.range 256).map (fun i => n + i)).filter (fun p => ({ x with thinPhase := p } : Stream).keeps)).length = x.keep)
  ∧ (∀ x : Stream, x.keep = 256 → x.keeps = true) ∧ (∀ x : Stream, x.keep = 0 → x.keeps = false)
  ∧ (∀ (lambda : Option (Nat × Nat)) (w : Nat), keepCount lambda w ≤ 256)

/-! ## Graphs, jobs, sequences -/

/-- GRAPH_LOAD, GRAPH_UNLOAD, BIND_STREAM and RESERVE. A load, while no unit of memory holds flipped bits: the outcomes
of R248 in order, a key whose hash is not fused among them, and an accepted image with its constants in the device's
copy; a host read that fails ends it. An unload refuses a graph in use and zeroes the copy. A bind: no virtual engine,
no stream of the function, a stream already bound, an unbind, a bind that meets every check. RESERVE: a release, a new
reservation, an amount changed, and maintenance mode. The model's readings: log 11, 12, 20, 38. -/
def Obligations.GraphsAndReservations : Prop :=
  (∀ (s : State) (id : Nat) (c : Cmd) (g : GraphImage), s.Begins id .graphLoad c → s.mem.upsets = [] →
    let va := c.arg 16 8
    let n := c.arg 24 4
    let h := s.newGraph c.fn
    ∃ t, exec (.graphLoad id (.image g)) s = .next t
      ∧ ((s.fn c.fn).spans va n .rd false = false → Completed s t id c stBadParam 16 0 ∧ t.mem = s.mem)
      ∧ ((s.fn c.fn).spans va n .rd false = true → s.imageRead c.fn va n false = none →
          (s.fixed.graphKeys.contains g.key = false → Completed s t id c stIntegrity 0x0100 0 ∧ t.mem = s.mem)
          ∧ (s.fixed.graphKeys.contains g.key = true →
            (g.ok = false → Completed s t id c stBadParam 0xFFFF 0 ∧ t.mem = s.mem)
            ∧ (g.ok = true → (32 ≤ (s.fn c.fn).graphs.length ∨ 512 ≤ s.graphCount) →
                Completed s t id c stNoResource 5 0 ∧ t.mem = s.mem)
            ∧ (g.ok = true → (s.fn c.fn).graphs.length < 32 → s.graphCount < 512 →
                s.quotaMib c.fn * 1024 < (s.fn c.fn).chargedKib + g.constKib →
                Completed s t id c stNoResource 2 0 ∧ t.mem = s.mem)
            ∧ (∀ u, g.ok = true → (s.fn c.fn).graphs.length < 32 → s.graphCount < 512 →
                (s.fn c.fn).chargedKib + g.constKib ≤ s.quotaMib c.fn * 1024 →
                s.alloc c.fn 64 (graphUser c.fn h) (graphPieces g) = some u → State.backed (portOf c.fn) u = true →
                Completed s t id c stOk 0 (BitVec.ofNat 64 h)
                ∧ (s.fn c.fn).graph h = none
                ∧ (t.fn c.fn).graph h = some { handle := h, image := g, ratios := [] }
                ∧ t.mem = (s.copyGraph c.fn h g).mem
                ∧ (s.mem.wf = true → ∀ a, (∀ x ∈ g.tensors, a < graphKey c.fn h (g.constOff x.id)
                      ∨ graphKey c.fn h (g.constOff x.id) + constSpan x ≤ a) → t.mem.byte a = s.mem.byte a)))))
  ∧ (∀ (s : State) (id : Nat) (c : Cmd), s.Begins id .graphLoad c → s.mem.upsets = [] →
    (s.fn c.fn).spans (c.arg 16 8) (c.arg 24 4) .rd false = true →
    (s.imageRead c.fn (c.arg 16 8) (c.arg 24 4) false = none → ∃ t, exec (.graphLoad id .badSignature) s = .next t
        ∧ Completed s t id c stIntegrity 0x0100 0 ∧ t.fns = s.fns ∧ t.mem = s.mem)
    ∧ (∀ k, (s.fn c.fn).touchesHost (c.arg 16 8) (c.arg 24 4) = true → ∃ t, exec (.graphLoad id (.hostFail k)) s = .next t
        ∧ Completed s t id c stIntegrity 7 0 ∧ .aer (portOf c.fn) ∈ t.sent ∧ t.fns = s.fns ∧ t.mem = s.mem))
  ∧ (∀ (s : State) (id : Nat) (c : Cmd), s.Begins id .graphUnload c →
    let h := c.arg 16 4
    ∃ t, exec (.graphUnload id) s = .next t
      ∧ ((s.fn c.fn).graph h = none → Completed s t id c stBadParam 16 0 ∧ t.mem = s.mem)
      ∧ ((s.fn c.fn).graph h ≠ none → s.graphInUse c.fn h = true → Completed s t id c stBusy 8 0 ∧ t.mem = s.mem)
      ∧ ((s.fn c.fn).graph h ≠ none → s.graphInUse c.fn h = false → Completed s t id c stOk 0 0
          ∧ (t.fn c.fn).graph h = none
          ∧ (s.mem.wf = true → ∀ a, t.mem.byte a =
              if graphKey c.fn h 0 ≤ a ∧ a < graphKey c.fn h 0 + 2 ^ 32 then 0 else s.mem.byte a)))
  ∧ (∀ (s : State) (id : Nat) (c : Cmd) (x : CtxId), s.Begins id .bindStream c → c.arg 16 1 = x.val →
    ∃ t, exec (.bindStream id) s = .next t
      ∧ (c.arg 17 1 = 1 → s.vengines c.fn = 0 → Completed s t id c stNoResource 1 0 ∧ t.streams = s.streams)
      ∧ ((c.arg 17 1 = 1 → s.vengines c.fn ≠ 0) → s.ownsOpen c.fn x = false →
          Completed s t id c stBadParam 16 0 ∧ t.streams = s.streams)
      ∧ (s.ownsOpen c.fn x = true → c.arg 17 1 = 1 → s.vengines c.fn ≠ 0 → (s.streams[x.val]).bound ≠ none →
          Completed s t id c stBusy 8 0 ∧ t.streams = s.streams)
      ∧ (s.ownsOpen c.fn x = true → c.arg 17 1 = 0 → (∀ r ∈ s.fore.runs, r.ofCtx x = true → r.begun = true) →
          (∀ e ∈ (s.streams[x.val]).entries, e.run.isSome = true) → Completed s t id c stOk 0 0
          ∧ (t.streams[x.val]).keep = 256 ∧ (∀ b, (t.streams[x.val]).bound = some b → b.ending = true)
          ∧ ((s.streams[x.val]).entries = [] → (t.streams[x.val]).bound = none) ∧ t.fore.runs = s.fore.runs)
      ∧ (∀ g, s.ownsOpen c.fn x = true → c.arg 17 1 = 1 → (s.streams[x.val]).bound = none →
          (s.fn c.fn).graph (c.arg 20 4) = some g → bindableGraph g.image (s.streams[x.val]).cfg.frameBytes = true →
          (s.fn c.fn).spans (c.arg 24 8) (32 * 2 ^ c.arg 19 1) .wr true = true →
          s.reservationBad c.fn (s.streams[x.val]).accepted.cls (c.arg 32 4) = false →
          (s.fn c.fn).oneMapping (c.arg 40 8) (c.arg 48 4 * (s.streams[x.val]).cfg.ringCount) false true = true →
          outputSize g.image ≤ c.arg 48 4 → s.vengines c.fn ≠ 0 → s.bindPending x (c.arg 32 4) = none →
          Completed s t id c stOk 0 0 ∧ ∃ b, (t.streams[x.val]).bound = some b ∧ b.handle = g.handle
            ∧ b.vector = c.arg 18 1 ∧ b.log2 = c.arg 19 1 ∧ b.ringVa = c.arg 24 8
            ∧ b.reservation = c.arg 32 4 ∧ b.outVa = c.arg 40 8 ∧ b.outStride = c.arg 48 4
            ∧ b.written = 0 ∧ b.ending = false))
  ∧ (∀ (s : State) (id : Nat) (c : Cmd), s.Begins id .reserve c → c.arg 24 1 = 1 →
    let n := c.arg 16 4
    ∃ t, exec (.reserve id) s = .next t
      ∧ (s.reservation n = none → Completed s t id c stBadParam 16 0 ∧ t.fore.reservations = s.fore.reservations)
      ∧ (∀ r, s.reservation n = some r → r.fn ≠ c.fn →
          Completed s t id c stBadParam 16 0 ∧ t.fore.reservations = s.fore.reservations)
      ∧ (∀ r, s.reservation n = some r → r.fn = c.fn → s.reservationUsed n = true →
          Completed s t id c stBadParam 0xFFFF 0 ∧ t.fore.reservations = s.fore.reservations)
      ∧ (∀ r, s.reservation n = some r → r.fn = c.fn → s.reservationUsed n = false →
          Completed s t id c stOk 0 (BitVec.ofNat 64 n)
          ∧ t.fore.reservations = s.fore.reservations.filter (fun r => r.num != n)))
  ∧ (∀ (s : State) (id : Nat) (c : Cmd), s.Begins id .reserve c → c.arg 24 1 = 0 →
    let n := c.arg 16 4
    let amount := c.arg 20 4
    let cap := s.nextCapacity (portOf c.fn)
    let sum := s.reserved (portOf c.fn)
    ∃ t, exec (.reserve id) s = .next t
      ∧ (s.fore.safety.maintenance = true → Completed s t id c stBusy 6 0 ∧ t.fore.reservations = s.fore.reservations)
      ∧ (s.fore.safety.maintenance = false → n = 0 →
          (16 ≤ (s.fore.reservations.filter (fun r => r.fn == c.fn)).length ∨ 256 ≤ s.fore.reservations.length) →
          Completed s t id c stNoResource 6 0 ∧ t.fore.reservations = s.fore.reservations)
      ∧ (s.fore.safety.maintenance = false → n = 0 → s.reservation 0 = none → 0 < amount → cap < sum + amount →
          Completed s t id c stNoResource 6 0 ∧ t.fore.reservations = s.fore.reservations)
      ∧ (s.fore.safety.maintenance = false → n = 0 →
          (s.fore.reservations.filter (fun r => r.fn == c.fn)).length < 16 → s.fore.reservations.length < 256 →
          sum + amount ≤ cap →
          Completed s t id c stOk 0 (BitVec.ofNat 64 s.freeReservation)
          ∧ s.reservation s.freeReservation = none ∧ 1 ≤ s.freeReservation ∧ s.freeReservation ≤ 256
          ∧ t.fore.reservations = s.fore.reservations
              ++ [{ num := s.freeReservation, fn := c.fn, amount := amount, inForce := 0, spent := 0, raised := false }])
      ∧ (s.fore.safety.maintenance = false → n ≠ 0 →
          (s.reservation n = none ∨ ∃ r, s.reservation n = some r ∧ r.fn ≠ c.fn) →
          Completed s t id c stBadParam 16 0 ∧ t.fore.reservations = s.fore.reservations)
      ∧ (∀ r, s.fore.safety.maintenance = false → n ≠ 0 → s.reservation n = some r → r.fn = c.fn →
          r.amount < amount → cap < sum - r.amount + amount →
          Completed s t id c stNoResource 6 0 ∧ t.fore.reservations = s.fore.reservations)
      ∧ (∀ r, s.fore.safety.maintenance = false → n ≠ 0 → s.reservation n = some r → r.fn = c.fn →
          (amount ≤ r.amount ∨ sum - r.amount + amount ≤ cap) →
          Completed s t id c stOk 0 (BitVec.ofNat 64 n)
          ∧ t.fore.reservations = s.fore.reservations.map (fun r => if r.num = n then { r with amount := amount } else r)))

/-- JOB_SUBMIT, ATTEND and JOB_CANCEL. A submission: the refusals in their order; outside replay mode a run without a
deadline is admitted, is listed and its command is at work; one predicted late is shed with the number of its SHED
record; a class-2 run on a reservation whose Severe event is pending is refused. ATTEND beyond a sequence's LENGTH when
it begins is KV_NO_PAGE. JOB_CANCEL: a class-2 target needs authority; a single target without a run completes with
CANCELLED, and RESULT counts. The model's readings: log 30, 54, 76, 94, 124. -/
def Obligations.Jobs : Prop :=
  (∀ (s : State) (id : Nat) (c : Cmd), s.Offered id .jobSubmit c → ∃ t, exec (.jobSubmit id) s = .next t
      ∧ ((s.fn c.fn).graph (c.arg 16 4) = none → Completed s t id c stBadParam 16 0)
      ∧ (∀ g, (s.fn c.fn).graph (c.arg 16 4) = some g →
          (s.cmdReservationBad c = true → Completed s t id c stBadParam 24 0)
          ∧ (∀ d, s.cmdReservationBad c = false →
              s.bindingsBad c.fn g.image c.block (c.arg 20 2) = some d → Completed s t id c stBadParam d 0)
          ∧ (s.cmdReservationBad c = false →
              s.bindingsBad c.fn g.image c.block (c.arg 20 2) = none → s.vengines c.fn = 0 →
              Completed s t id c stNoResource 1 0)
          ∧ (s.cmdReservationBad c = false →
              s.bindingsBad c.fn g.image c.block (c.arg 20 2) = none → s.vengines c.fn ≠ 0 →
              s.fore.replay.state = .off →
              let r := { c.run (.job id) (c.arg 24 4) g.handle g.image [] (parseBinds c.block (c.arg 20 2))
                (g.image.tiles.map (·.cycles)) with id := s.fore.nextRun }
              let p := s.plan r (s.waits c) none
              (c.cls ≠ 2 → c.deadline = 0 →
                (∃ x ∈ t.fore.runs, x.kind = .job id ∧ x.admitted = true ∧ x.fn = c.fn ∧ x.cls = c.cls.toNat)
                ∧ t.cmd id = some { c with phase := if c.phase = .begun then .running else c.phase })
              ∧ (c.cls ≠ 2 → s.late r p = true →
                  Completed s t id c stShed 1 (s.fore.nextEntry.setWidth 64) ∧ t.fore.runs = s.fore.runs)
              ∧ (∀ d, c.cls = 2 → s.pendingFault (c.arg 24 4) (usOf p.used) = some d →
                  Completed s t id c stFaultPending d 0 ∧ t.fore.runs = s.fore.runs))))
  ∧ (∀ (s : State) (id : Nat) (c : Cmd), s.Offered id .attend c → ∃ t, exec (.attend id) s = .next t
      ∧ (s.cmdReservationBad c = true → Completed s t id c stBadParam 24 0)
      ∧ (∀ d, s.cmdReservationBad c = false → s.attendBad c = some d → Completed s t id c stBadParam d 0)
      ∧ (s.cmdReservationBad c = false → s.attendBad c = none → s.vengines c.fn = 0 → Completed s t id c stNoResource 1 0)
      ∧ (let reqs := attendOrder ((List.range (c.arg 16 2)).map c.attendReq)
         s.cmdReservationBad c = false → s.attendBad c = none → s.vengines c.fn ≠ 0 →
          (c.phase = .begun → s.attendShort c.fn reqs = true → Completed s t id c stKvNoPage 0 0)
          ∧ (c.phase = .begun → s.attendShort c.fn reqs = false → c.cls ≠ 2 → s.fore.replay.state = .off → c.deadline = 0 →
              t.cmd id = some { c with phase := .running }
              ∧ ∃ x ∈ t.fore.runs, x.kind = .attend id ∧ x.reqs = reqs ∧ x.admitted = true
                ∧ x.tiles.length = reqs.length ∧ ∀ n ∈ x.tiles, n ≤ maxTileCycles)))
  ∧ (∀ (s : State) (id : Nat) (c : Cmd), s.Begins id .jobCancel c → ∃ t, exec (.jobCancel id) s = .next t
      ∧ ((∃ d ∈ s.cancelTargets c, d.cls = 2) → s.hasAuth c.fn = false →
          Completed s t id c stNotPermitted 2 0 ∧ t.fore.runs = s.fore.runs)
      ∧ (∀ d, s.cmd d.id = some d → d.id ≠ id → s.cancelTargets c = [d] → d.cls ≠ 2 → (∀ r ∈ s.fore.runs, r.cmd ≠ some d.id) →
          t.cmd d.id = some { d with phase := .formed stCancelled 1 0 s.now }
          ∧ t.cmd id = some { c with phase := .formed stOk 0 1 s.now })
      ∧ (s.cancelTargets c = [] → Completed s t id c stOk 0 0 ∧ t.fore.runs = s.fore.runs))

/-- The key-value commands. KV_OPEN gives a handle that is not 0 and not in use; KV_QUERY answers LENGTH and START;
KV_TRIM sets LENGTH and releases the pages without a position; KV_CLOSE is refused where an earlier command named the
sequence when it was taken, and otherwise frees the handle. A KV_SCATTER outside replay mode writes one KV record; one
whose block is bad, that is full, or that has no page leaves its sequence and memory; while no unit of memory holds
flipped bits, one whose rows can be read and whose pages can be committed appends them, and one with a row that fails
graft point 2 completes. The model's readings: log 12, 76, 111. -/
def Obligations.KeyValueCommands : Prop :=
  (∀ (s : State) (id : Nat) (c : Cmd) (f : Fmt), s.Begins id .kvOpen c → kvFormat (c.arg 32 1) = some f →
    ∃ t, exec (.kvOpen id) s = .next t
      ∧ ((kvOpenRow c.desc = 0 ∨ (s.fn c.fn).taken (c.arg 16 8) (c.arg 24 4 * kvOpenRow c.desc) = true) →
          Completed s t id c stBadParam 0xFFFF 0)
      ∧ (kvOpenRow c.desc ≠ 0 → (s.fn c.fn).taken (c.arg 16 8) (c.arg 24 4 * kvOpenRow c.desc) = false →
          ((256 ≤ (s.fn c.fn).seqs.length ∨ 4096 ≤ (s.fns.toList.map (fun y => y.seqs.length)).sum) →
            Completed s t id c stNoResource 3 0)
          ∧ ((s.fn c.fn).seqs.length < 256 → (s.fns.toList.map (fun y => y.seqs.length)).sum < 4096 →
              Completed s t id c stOk 0 (BitVec.ofNat 64 (s.newSequence c.fn))
              ∧ s.newSequence c.fn ≠ 0 ∧ (s.fn c.fn).seq (s.newSequence c.fn) = none
              ∧ ∃ q, (t.fn c.fn).seq (s.newSequence c.fn) = some q ∧ q.va = c.arg 16 8 ∧ q.maxLen = c.arg 24 4
                  ∧ q.heads = c.arg 28 2 ∧ q.headDim = c.arg 30 2
                  ∧ q.fmt = f ∧ q.length = 0 ∧ q.start = 0 ∧ q.pages = [])))
  ∧ (∀ (s : State) (id : Nat) (c : Cmd), s.Begins id .kvQuery c → ∃ t, exec (.kvQuery id) s = .next t
      ∧ ((s.fn c.fn).seq (c.arg 16 4) = none → Completed s t id c stBadParam 16 0)
      ∧ (∀ q, (s.fn c.fn).seq (c.arg 16 4) = some q →
          Completed s t id c stOk 0 (BitVec.ofNat 64 (q.length + q.start * 2 ^ 32)) ∧ t.fns = s.fns ∧ t.mem = s.mem))
  ∧ (∀ (s : State) (id : Nat) (c : Cmd), s.Begins id .kvTrim c → ∃ t, exec (.kvTrim id) s = .next t
      ∧ ((s.fn c.fn).seq (c.arg 16 4) = none → Completed s t id c stBadParam 16 0)
      ∧ (∀ q, (s.fn c.fn).seq (c.arg 16 4) = some q →
          ((c.arg 20 4 < q.start ∨ q.length < c.arg 20 4) → Completed s t id c stBadParam 20 0 ∧ t.fns = s.fns)
          ∧ (q.start ≤ c.arg 20 4 → c.arg 20 4 ≤ q.length →
              Completed s t id c stOk 0 (BitVec.ofNat 64 (c.arg 20 4))
              ∧ ∃ u, (t.fn c.fn).seq (c.arg 16 4) = some u ∧ u.length = c.arg 20 4 ∧ u.start = q.start
                  ∧ ∀ x, x ∈ u.pages ↔ x ∈ q.pages ∧ x.2 < c.arg 20 4 ∧ q.start < x.2 + q.spp)))
  ∧ (∀ (s : State) (id : Nat) (c : Cmd), s.Begins id .kvClose c → ∃ t, exec (.kvClose id) s = .next t
      ∧ ((s.fn c.fn).seq (c.arg 16 4) = none → Completed s t id c stBadParam 16 0)
      ∧ ((s.fn c.fn).seq (c.arg 16 4) ≠ none →
          (c.naming = true → Completed s t id c stBusy 8 0 ∧ t.fns = s.fns)
          ∧ (c.naming = false → Completed s t id c stOk 0 0 ∧ (t.fn c.fn).seq (c.arg 16 4) = none)))
  ∧ (∀ (s : State) (id : Nat) (c : Cmd) (graft2 : Option WriteFault), s.Begins id .kvScatter c →
    s.fore.replay.state = .off →
    let record (t : State) (b : LogBody) : Prop := ∃ r, t.fore.log.head? = some r ∧ r.fn = some c.fn ∧ r.body = b
    ∃ t, exec (.kvScatter id graft2) s = .next t
      ∧ ((s.fn c.fn).seq (c.arg 16 4) = none →
          Completed s t id c stBadParam 16 0 ∧ record t (.kv 0 0 stBadParam.toNat 0))
      ∧ (∀ q, (s.fn c.fn).seq (c.arg 16 4) = some q →
          let keep (st d : BitVec 16) : Prop := Completed s t id c st d (BitVec.ofNat 64 (q.length % 2 ^ 32))
            ∧ t.fns = s.fns ∧ t.mem = s.mem ∧ record t (.kv q.length q.start st.toNat 0)
          (∀ d, s.scatterBad c q = some d → keep stBadParam (BitVec.ofNat 16 d))
          ∧ (s.scatterBad c q = none → q.full (c.arg 20 4) = true → keep stKvFull 0)
          ∧ (s.scatterBad c q = none → q.full (c.arg 20 4) = false →
              q.noPage (q.targets (c.arg 20 4)) (s.kvFree c.fn) = true → keep stKvNoPage 0)
          ∧ (∀ rows, s.mem.upsets = [] → s.scatterBad c q = none → q.full (c.arg 20 4) = false →
              q.noPage (q.targets (c.arg 20 4)) (s.kvFree c.fn) = false →
              (s.scatterAccess c (q.row / 2)).scatterRows c (q.row / 2) (c.arg 20 4) 0 = (rows, none) →
              (∀ x, graft2 = some x → ∃ st d r, t.cmd id = some { c with phase := .formed st d r t.now })
              ∧ (∀ m, graft2 = none → commitPages c.fn q (q.targets (c.arg 20 4)) (q.targets (c.arg 20 4))
                  { state := s.scatterAccess c (q.row / 2), pages := q.pages, recycled := [], free := s.kvFree c.fn } = some m →
                Completed s t id c stOk 0 (BitVec.ofNat 64 ((q.length + c.arg 20 4) % 2 ^ 32))
                ∧ (∃ u, (t.fn c.fn).seq (c.arg 16 4) = some u ∧ u.length = q.length + c.arg 20 4 ∧ u.pages = m.pages)
                ∧ record t (.kv (q.length + c.arg 20 4) (newStart q.spp m.recycled (m.recycled.length + 1) q.start)
                    stOk.toNat m.recycled.length)))))

/-! ## Shifts, tiles and self-test -/

/-- Shifts, tiles and slices. A shift boundary counts the shift and what waited takes effect. The next tile of the first
run in order starts on an engine that takes it, its operands in the bench, while no line that it loads fails. The end
of a tile: on an idle engine nothing; of a run that is gone the engine is free; of a tile without an event, whose
stores all merge and whose output exports no tags, the outputs are in memory, the tile is done, and the command of the
last one completes. A slice starts on the engine that R365 picks among those that may run one; passed, failed and
aborted slices; an engine whose test is due is withdrawn, and none before. The model's readings: log 32, 33, 41. -/
def Obligations.TilesAndSlices : Prop :=
  (∀ s : State, s.rootRuns = true → s.boot.complete = true → s.safe = false → s.fore.replay.state = .off →
    ∃ t, exec .shiftBoundary s = .next t ∧ t.fore.shift = s.fore.shift + 1 ∧ t.fore.agreed = none
      ∧ (t.fore.enginesA, t.fore.memA, t.fore.streamsA)
          = s.fore.agreed.getD (s.fore.enginesA, s.fore.memA, s.fore.streamsA)
      ∧ t.fore.safety.frameUs = s.fore.safety.nextFrame.getD s.fore.safety.frameUs
      ∧ t.fore.usable = usableOf s.joinedCount t.fore.safety.frameUs
      ∧ t.fore.reservations.map (·.inForce) = s.fore.reservations.map (·.amount)
      ∧ t.fore.runs = s.fore.runs ∧ t.mem = s.mem)
  ∧ (∀ s : State, s.working = true → s.fore.replay.state = .off → s.mem.upsets = [] →
    (s.nextPlacement = none → exec .tileStart s = .next s)
    ∧ (∀ r j e, s.nextPlacement = some (r, j, e) → ∃ t, exec .tileStart s = .next t ∧ s.takes r e = true
        ∧ ((s.loads r j).findSome? s.loadFault = none →
          (t.engines[e.val]).tile = some { run := r.id, tile := j, start := s.now, bad := false }
          ∧ (t.engines[e.val]).bench = { fn := some r.fn, parts := (s.loads r j).map (fun l =>
              { id := l.id, off := l.off, bytes := s.loaded r l }) }
          ∧ (∀ d : EngineId, d ≠ e → t.engines[d.val] = s.engines[d.val])
          ∧ (∃ x ∈ t.fore.runs, x.id = r.id ∧ j ∈ x.working ∧ x.begun = true) ∧ t.mem = s.mem)))
  ∧ (∀ (s : State) (e : EngineId) (evs : List TileEvent) (us : Nat), s.working = true →
    ((s.engines[e.val]).tile = none → exec (.tileEnd e evs us) s = .next s)
    ∧ (∀ at_, (s.engines[e.val]).tile = some at_ → (∀ r ∈ s.fore.runs, r.id ≠ at_.run) →
        exec (.tileEnd e evs us) s = .next (s.setEngine e (fun x => { x with tile := none }))))
  ∧ (∀ (s : State) (e : EngineId) (us : Nat) (at_ : TileAt) (r : Run), s.working = true → s.mem.upsets = [] →
    (s.engines[e.val]).tile = some at_ → at_.bad = false → s.fore.runs.find? (fun x => x.id == at_.run) = some r →
    (s.scions[(scionOf e).val]).withdrawing = false → (∀ i, (r.image.tensor i).exportTo = none) →
    let vals := (s.computeTile (s.engines[e.val]).bench r at_.tile []).values
    let ended : Run := { r with
      usedUs := r.usedUs + us, working := r.working.erase at_.tile, done := r.done ++ [at_.tile] }
    s.Lands r at_.tile vals →
    ∃ t, exec (.tileEnd e [] us) s = .next t
      ∧ (ended.over = false →
          (t.engines[e.val]).tile = none ∧ (∀ d : EngineId, d ≠ e → t.engines[d.val] = s.engines[d.val])
          ∧ (∃ x ∈ t.fore.runs, x.id = r.id ∧ x.done = ended.done ∧ x.working = ended.working ∧ x.usedUs = ended.usedUs)
          ∧ t.mem = (s.landing r at_.tile vals).foldl (fun m x => (m.store x.1 x.2).1) s.mem)
      ∧ (∀ id c, ended.over = true → r.kind = .job id → s.cmd id = some c → c.live = true →
          Completed s t id c (s.runStatus r).1 (s.runStatus r).2 ended.result
          ∧ (t.engines[e.val]).tile = none ∧ ∀ x ∈ t.fore.runs, x.id ≠ r.id))
  ∧ (∀ s : State, s.working = true → s.power.state = .run → s.slicing = none →
    (s.sliceChoice = none → exec .sliceStart s = .next s)
    ∧ (∀ e, s.sliceChoice = some e → s.maySlice e = true
        ∧ (∀ d : EngineId, s.maySlice d = true → s.sliceBefore d e = false)
        ∧ ∃ t, exec .sliceStart s = .next t ∧ (t.engines[e.val]).slice = true ∧ (t.engines[e.val]).sliceAt = s.now
          ∧ (t.engines[e.val]).bench = {}
          ∧ (∀ d : EngineId, d ≠ e → t.engines[d.val] = s.engines[d.val])
          ∧ t = { s with engines := t.engines }))
  ∧ (∀ (s : State) (e : EngineId), s.working = true → s.slicing = some e →
    (∃ t, exec (.sliceEnd true) s = .next t ∧ (t.engines[e.val]).slice = false ∧ (t.engines[e.val]).aborts = 0
      ∧ t.fore.slicesPassed = min (s.fore.slicesPassed + 1) (2 ^ 32 - 1)
      ∧ ((s.engines[e.val]).slicesDone = 7 → (t.engines[e.val]).testAt = s.clk.runCycles ∧ (t.engines[e.val]).slicesDone = 0)
      ∧ ((s.engines[e.val]).slicesDone ≠ 7 → (t.engines[e.val]).slicesDone = (s.engines[e.val]).slicesDone + 1))
    ∧ (∃ t, exec (.sliceEnd false) s = .next t ∧ ((t.safe = false) → (t.engines[e.val]).state = .retired
        ∧ (t.engines[e.val]).crew = none ∧ (t.engines[e.val]).slice = false))
    ∧ (∃ t, exec .sliceGuardExpired s = .next t ∧ (t.engines[e.val]).slice = false
      ∧ (t.engines[e.val]).aborts = min 8 ((s.engines[e.val]).aborts + 1)
      ∧ ((s.engines[e.val]).aborts < 7 → (s.engines[e.val]).state ≠ .withdrawn → (t.engines[e.val]).state = .inPool)
      ∧ (7 ≤ (s.engines[e.val]).aborts → (t.engines[e.val]).state = .withdrawn)))
  ∧ (∀ (s : State) (e : EngineId), s.working = true → s.power.state = .run → (s.scions[(scionOf e).val]).state = .joined →
    ((s.engines[e.val]).state = .inPool ∨ (s.engines[e.val]).state = .underTest) →
    ((s.engines[e.val]).testDue s.clk.runCycles = false → exec (.diagAgeLimit e) s = .next s)
    ∧ ((s.engines[e.val]).testDue s.clk.runCycles = true →
      ∃ t, exec (.diagAgeLimit e) s = .next t ∧ (t.engines[e.val]).state = .withdrawn
        ∧ ∀ d : EngineId, d ≠ e → t.engines[d.val] = s.engines[d.val]))

/-! ## Scions and their seams -/

/-- A good transfer or a heard heartbeat ends a run of failures; fewer than five failed transfers or eight missed
heartbeats in a row only count; the fifth and the eighth, a lost clock lock and an asserted reset lose the scion: it
is fenced and, while no ring collects the decision log, each of its engines is left without a tile and a crew. The
model's readings: log 35, 37. -/
def Obligations.ScionsAndSeams : Prop :=
  (∀ (s : State) (n : ScionId) (b : Bool), s.seamLive n = true →
    exec (.seamTransfer n b true) s = .next (s.setScion n (fun x => x.setFails b 0))
    ∧ exec (.seamHeartbeatInterval n true) s = .next (s.setScion n (fun x => { x with missed := 0 }))
    ∧ ((s.scions[n.val]).failsOf b < 4 → ((s.scions[n.val]).retries + 1) % 256 ≠ 0 →
        exec (.seamTransfer n b false) s
          = .next (s.setScion n (fun x => { x.setFails b (x.failsOf b + 1) with retries := x.retries + 1 })))
    ∧ ((s.scions[n.val]).failsOf b < 4 → ((s.scions[n.val]).retries + 1) % 256 = 0 →
        exec (.seamTransfer n b false) s
          = .next ((s.setScion n (fun x => { x.setFails b (x.failsOf b + 1) with retries := x.retries + 1 })).raise
              { source := 0x008 + n.val, event := .seamRetry }))
    ∧ ((s.scions[n.val]).missed < 7 → exec (.seamHeartbeatInterval n false) s
        = .next (s.setScion n (fun x => { x with missed := x.missed + 1 }))))
  ∧ (∀ (s : State) (n : ScionId) (c : Instr), s.seamLive n = true → s.fore.replay.state ≠ .collecting →
    ((∃ b, c = .seamTransfer n b false ∧ 4 ≤ (s.scions[n.val]).failsOf b)
      ∨ (c = .seamHeartbeatInterval n false ∧ 7 ≤ (s.scions[n.val]).missed)
      ∨ c = .scionClockLockLoss n ∨ c = .scionResetAssert n) →
    ∃ t, exec c s = .next t ∧ (t.scions[n.val]).state = .fenced
      ∧ (∀ e : EngineId, scionOf e = n → (t.engines[e.val]).tile = none ∧ (t.engines[e.val]).crew = none))
  ∧ (∀ (s : State) (n : ScionId) (b ok : Bool), s.seamLive n = false →
    exec (.seamTransfer n b ok) s = .next s ∧ exec (.seamHeartbeatInterval n ok) s = .next s
    ∧ exec (.scionClockLockLoss n) s = .next s ∧ exec (.scionResetAssert n) s = .next s)

/-! ## Chroylink -/

/-- Training of a Chroylink port, step by step: the attempt, the AGC, the sweep with ties to the lower preset, GO, a
bound that fails; a resync and an acknowledgement that time out; settings whose port does not come up; and the taps of
the DFE stay in their ranges under the updates on the preamble and on a block's symbols. The model's readings: log 1,
64, 65, 66, 67, 116. -/
def Obligations.ChroylinkTraining : Prop :=
  (∀ (s : State) (p : ClPortId), s.rootRuns = true →
    let x := s.cl[p.val]
    (x.started = true → x.state = .down → ∃ t, exec (.clTrainingAttemptStart p) s = .next t
      ∧ (t.cl[p.val]).state = .training ∧ (t.cl[p.val]).phase = .preamble
      ∧ (t.cl[p.val]).taps = Vector.replicate 6 0 ∧ (t.cl[p.val]).trainAttempts = min (x.trainAttempts + 1) 65535
      ∧ t.sent = .backChannel p (bcLine (bcBytes x.nextMsg.toNat 1 [0])) :: s.sent
      ∧ ∀ q : ClPortId, q ≠ p → t.cl[q.val] = s.cl[q.val])
    ∧ (∀ agc, x.phase = .preamble → ∃ t, exec (.clPreambleFound p agc) s = .next t ∧ (t.cl[p.val]).agc = agc
      ∧ (x.ctleFixed = true → (t.cl[p.val]).phase = .dfe ∧ (t.cl[p.val]).preset = x.ctlePreset)
      ∧ (x.ctleFixed = false → (t.cl[p.val]).phase = .sweep 0 none ∧ (t.cl[p.val]).preset = 0))
    ∧ (∀ error agc l i, x.phase = .sweep i none → i < 7 → ∃ t, exec (.clCtlePresetDone p error agc l) s = .next t
      ∧ (t.cl[p.val]).phase = .sweep (i + 1) (some (i, error)) ∧ (t.cl[p.val]).agc = agc
      ∧ (t.cl[p.val]).taps = (x.adaptPreamble l).taps)
    ∧ (∀ error agc l i b e, x.phase = .sweep i (some (b, e)) → ∃ t, exec (.clCtlePresetDone p error agc l) s = .next t
      ∧ (i < 7 → error < e → (t.cl[p.val]).phase = .sweep (i + 1) (some (i, error)))
      ∧ (i < 7 → e ≤ error → (t.cl[p.val]).phase = .sweep (i + 1) (some (b, e)))
      ∧ (i = 7 → error < e → (t.cl[p.val]).phase = .dfe ∧ (t.cl[p.val]).preset = 7)
      ∧ (i = 7 → e ≤ error → (t.cl[p.val]).phase = .dfe ∧ (t.cl[p.val]).preset = BitVec.ofNat 3 b))
    ∧ (∀ l, x.phase = .dfe → ∃ t, exec (.clDfePreambleDone p l) s = .next t
      ∧ (t.cl[p.val]).phase = .lock 0 ∧ (t.cl[p.val]).taps = (x.adaptPreamble l).taps
      ∧ t.sent = .backChannel p (bcLine (bcBytes x.nextMsg.toNat 1 [1])) :: s.sent)
    ∧ (x.state = .training → ∃ t, exec (.clTrainingBoundExpired p) s = .next t ∧ (t.cl[p.val]).state = .down
      ∧ (t.cl[p.val]).phase = .idle ∧ (t.cl[p.val]).unacked = []
      ∧ ∀ q : ClPortId, q ≠ p → (t.cl[q.val]).state = (s.cl[q.val]).state)
    ∧ (x.state = .resync → ∃ t, exec (.clResyncTimeout p) s = .next t ∧ (t.cl[p.val]).state = .down
      ∧ (x.beenUp = true → (t.cl[p.val]).retrains = min (x.retrains + 1) (2 ^ 32 - 1))
      ∧ ∀ q : ClPortId, q ≠ p → (t.cl[q.val]).state = (s.cl[q.val]).state)
    ∧ (∀ (k : Fin 16) m, x.unacked.find? (fun m => m.msgNo == k.val) = some m →
      (m.tries < 3 → ∃ t, exec (.backchannelAckTimeout p k) s = .next t
        ∧ (t.cl[p.val]).bcRetries = min (x.bcRetries + 1) (2 ^ 32 - 1) ∧ (t.cl[p.val]).state = x.state
        ∧ t.sent = .backChannel p (bcLine (bcBytes m.msgNo m.type m.body)) :: s.sent)
      ∧ (3 ≤ m.tries → ∃ t, exec (.backchannelAckTimeout p k) s = .next t ∧ (t.cl[p.val]).state = .down))
    ∧ (∀ id c, x.retrainCmd = some id → s.cmd id = some c → c.live = true →
      ∃ t, exec (.linkSettingsRetrainTimeout p) s = .next t ∧ (t.cl[p.val]) = { x with retrainCmd := none }
        ∧ ((∀ y : CtxId, (s.streams[y.val]).opening ≠ some id) → Completed s t id c stBusy 8 0)
        ∧ (∀ y : CtxId, (s.streams[y.val]).opening = some id →
            (∀ z : CtxId, (s.streams[z.val]).opening = some id → z = y) →
            Completed s t id c stStreamDown (BitVec.ofNat 16 y.val) 0 ∧ (t.streams[y.val]).isOpen = false)))
  ∧ (∀ (l : Preamble) (n : Nat) (syms : List Pam4) (errs : List Int) (taps : Vector Int 6),
    (∀ i : Fin 6, (tapRange i).1 ≤ taps[i.val] ∧ taps[i.val] ≤ (tapRange i).2) →
    ∀ i : Fin 6, ((tapRange i).1 ≤ (lmsPreamble taps l)[i.val] ∧ (lmsPreamble taps l)[i.val] ≤ (tapRange i).2)
      ∧ (tapRange i).1 ≤ (lmsSymbols n taps syms errs)[i.val] ∧ (lmsSymbols n taps syms errs)[i.val] ≤ (tapRange i).2)

/-- Link blocks: what an up, a hunting and a down port make of one, by its sync word and by what it decodes to: a
malformed block, an IDLE block with its noise, a DATA block in the safe state, without a context, and one that continues
the frame in progress, whose line may fail graft point 2. A trigger and its delay, which ends at the next time of the
schedule that it can reach; a late frame; and descrambling undoes itself. The model's readings: log 24, 40, 63, 64, 68,
115, 117, 118. -/
def Obligations.ChroylinkBlocks : Prop :=
  (∀ (s : State) (p : ClPortId) (b : LinkBlock), s.rootRuns = true →
    let x := s.cl[p.val]
    let d := decodeBlock (blockCoded b)
    let h := d.header
    (x.state = .down → exec (.linkBlock p b) s = .next s)
    ∧ (x.state = .up → 3 < syncErrors (blockSync b) → x.badSyncs < 3 →
        exec (.linkBlock p b) s = .next (s.setCl p (fun x => { x.adaptBlock b with badSyncs := x.badSyncs + 1 })))
    ∧ (x.state = .up → 3 < syncErrors (blockSync b) → 3 ≤ x.badSyncs → ∃ t, exec (.linkBlock p b) s = .next t
        ∧ (t.cl[p.val]).state = .resync ∧ (t.cl[p.val]).syncLosses = min (x.syncLosses + 1) (2 ^ 32 - 1)
        ∧ (t.cl[p.val]).agcFrozen = false)
    ∧ (x.state = .resync → blockSync b ≠ syncWord → ∃ t, exec (.linkBlock p b) s = .next t
        ∧ (t.cl[p.val]).state = .resync ∧ (t.cl[p.val]).resyncHits = 0 ∧ t.streams = s.streams)
    ∧ (x.state = .resync → blockSync b = syncWord → (∀ n, x.phase ≠ .lock n) → x.resyncHits = 0 →
        ∃ t, exec (.linkBlock p b) s = .next t ∧ (t.cl[p.val]).state = .resync ∧ (t.cl[p.val]).resyncHits = 1
          ∧ (t.cl[p.val]).agcFrozen = true)
    ∧ (x.state = .resync → blockSync b = syncWord → (∀ n, x.phase ≠ .lock n) → x.resyncHits ≠ 0 → d.bad = 0 →
        d.malformed = false → h.type = 0 → ∃ t, exec (.linkBlock p b) s = .next t ∧ (t.cl[p.val]).state = .up
          ∧ (t.cl[p.val]).lastUp = s.now ∧ (t.cl[p.val]).idleBlocks = satAdd 64 x.idleBlocks 1)
    ∧ (x.state = .up → syncErrors (blockSync b) ≤ 3 → ∃ t, exec (.linkBlock p b) s = .next t
      ∧ (d.bad = 0 → d.malformed = true → (t.cl[p.val]).blocks = satAdd 64 x.blocks 1
          ∧ (t.cl[p.val]).malformed = satAdd 32 x.malformed 1 ∧ t.streams = s.streams ∧ t.mem = s.mem)
      ∧ (d.bad = 0 → d.malformed = false → h.type = 0 → (t.cl[p.val]).idleBlocks = satAdd 64 x.idleBlocks 1
          ∧ (d.symbols = 0 → (t.cl[p.val]).noiseAge = 0 ∧ (t.cl[p.val]).noiseValid = true
            ∧ (t.cl[p.val]).noiseAvg = (if x.noiseValid then noiseAverage x.noiseAvg (blockNoise b) (Config.noiseUp s.draws)
                else blockNoise b)
            ∧ (t.cl[p.val]).noiseFloor = noiseFloorOf (t.cl[p.val]).noiseAvg (Config.noiseCode s.draws))
          ∧ (d.symbols ≠ 0 → (t.cl[p.val]).noiseAvg = x.noiseAvg ∧ (t.cl[p.val]).noiseFloor = x.noiseFloor)
          ∧ (t.cl[p.val]).taps = (x.adaptBlock b).taps ∧ t.streams = s.streams)
      ∧ (d.bad = 0 → d.malformed = false → h.type = 1 → s.safe = true → t.streams = s.streams ∧ t.mem = s.mem)
      ∧ (d.bad = 0 → d.malformed = false → h.type = 1 → s.safe = false → s.contextOf 0 p.val h.sub = none →
          (t.cl[p.val]).discarded = (if h.sof then satAdd 32 x.discarded 1 else x.discarded)
          ∧ t.streams = s.streams ∧ t.mem = s.mem)
      ∧ (∀ c a, d.bad = 0 → d.malformed = false → h.type = 1 → s.safe = false → s.contextOf 0 p.val h.sub = some c →
          h.sof = false → (s.streams[c.val]).asm = some a → a.failed = none → h.count = a.counter →
          h.offset = a.length → h.eof = false →
          let joined : FrameAsm := { a with
            bytes := a.bytes ++ h.payload.take h.len, parts := a.parts + 1, length := h.offset + h.len }
          ((b.graft2 = none ∨ a.broken = true ∨ a.buffer = none) → (t.streams[c.val]).asm = some joined
            ∧ (∀ y : CtxId, y ≠ c → t.streams[y.val] = s.streams[y.val]) ∧ t.mem = s.mem)
          ∧ (b.graft2 ≠ none → a.broken = false → a.buffer ≠ none → t.safe = false →
            (t.streams[c.val]).asm = some { joined with failed := some 2, badLines := a.length / 256 :: a.badLines }
            ∧ (∀ y : CtxId, y ≠ c → t.streams[y.val] = s.streams[y.val]) ∧ t.mem = s.mem))))
  ∧ (∀ (s : State) (c : CtxId) (q : ClPortId), s.rootRuns = true → s.safe = false →
    let x := s.streams[c.val]
    x.isOpen = true → x.opening = none → x.closing = none → x.cfg.source = 0 → x.cfg.trigger.getLsbD 0 = true →
    x.cfg.port = q.val → (s.cl[q.val]).state = .up → ∃ t, exec (.trigger c) s = .next t
      ∧ t.sent = .backChannel q (bcLine (bcBytes (s.cl[q.val]).nextMsg.toNat 4
          (leBytes 1 (x.cfg.trigger.toNat / 2 % 4) ++ leBytes 4 (x.cfg.triggerDelay s.now.toNat)))) :: s.sent
      ∧ (t.cl[q.val]).nextMsg = (s.cl[q.val]).nextMsg + 1)
  ∧ (∀ (x : StreamCfg) (t : Nat), 0 < x.periodUs → x.triggerDelay t < x.periodUs * 1000
      ∧ (t + bcNs triggerBytes + x.triggerDelay t) % (x.periodUs * 1000) = x.phaseUs * 1000 % (x.periodUs * 1000))
  ∧ (∀ (s : State) (c : CtxId), s.rootRuns = true → s.safe = false →
    let x := s.streams[c.val]
    x.isOpen = true → x.opening = none → x.closing = none → x.cfg.source ≠ 3 → x.cfg.guard.checks.getLsbD 3 = true →
    x.hasBegun = true → x.lateRaised = false →
    exec (.frameLateTimeout c) s = .next ((s.setStream c (fun x => { x with lateRaised := true })).raise
      { source := 0x600 + c.val, event := .frameLate, owner := some x.owner, class2 := x.cfg.cls == 2 }))
  ∧ (∀ b : Bytes, (descramble ((descramble b).map (BitVec.ofNat 8))).map (BitVec.ofNat 8) = b)

/-! ## Ethernet and UART -/

/-- Ethernet frames are counted by what they are; a datagram of an open stream joins its frame in progress, and one
whose checksum fails damages it; a link change is counted and stamped. UART settings are refused while a stream is open;
a character without a stream is counted, one of a stream joins its frame, breaks it by an error, or is passed over until
a gap; false starts are counted; a gap ends a frame that gaps delimit. The model's readings: log 1, 55, 72, 73, 74, 115,
119. -/
def Obligations.EthernetAndUart : Prop :=
  (∀ (s : State) (p : Port4) (b : Bytes) (graft2 : Option ClPortId), s.rootRuns = true → s.boot.macsUp = true → (s.eth[p.val]).up = true →
    let udp := if s.ethAddressed p b ∧ (etherBody b).1 = 0x0800 then parseIp (etherBody b).2 else none
    let fits := 14 ≤ b.length ∧ b.length + 4 ≤ 9216
    let good (g : EthPort → EthPort) := s.setEth p (fun x => g { x with frames := satAdd 64 x.frames 1 })
    ((udp = none ∨ s.safe = true ∨ ∃ g, udp = some g ∧ s.udpContext p g.port = none) → exec (.ethFrame p false b graft2) s
        = .next (s.setEth p (fun x => { x with fcsErrors := satAdd 32 x.fcsErrors 1 })))
    ∧ (¬ fits → ∃ t, exec (.ethFrame p true b graft2) s = .next t ∧ t = good (fun x => { x with other := satAdd 32 x.other 1 }))
    ∧ (fits → (etherBody b).1 = 0x88F7 →
        ∃ t, exec (.ethFrame p true b graft2) s = .next t ∧ t = good (fun x => { x with gptp := satAdd 32 x.gptp 1 }))
    ∧ (fits → (etherBody b).1 ≠ 0x88F7 → udp = none →
        ∃ t, exec (.ethFrame p true b graft2) s = .next t ∧ t = good (fun x => { x with other := satAdd 32 x.other 1 }))
    ∧ (∀ g, fits → udp = some g → s.safe = true → ∃ t, exec (.ethFrame p true b graft2) s = .next t ∧ t = good id)
    ∧ (∀ g, fits → (etherBody b).1 ≠ 0x88F7 → udp = some g → s.safe = false →
        (s.udpContext p g.port = none ∨ (∃ c, s.udpContext p g.port = some c ∧ (s.streams[c.val]).cfg.srcIp ≠ 0
          ∧ (s.streams[c.val]).cfg.srcIp ≠ g.src)) →
        ∃ t, exec (.ethFrame p true b graft2) s = .next t ∧ t = good (fun x => { x with
          sumErrors := if g.bad then satAdd 32 x.sumErrors 1 else x.sumErrors
          discarded := satAdd 32 x.discarded 1 }))
    ∧ (∀ g c n a, fits → udp = some g → s.safe = false → s.udpContext p g.port = some c →
        ((s.streams[c.val]).cfg.srcIp = 0 ∨ (s.streams[c.val]).cfg.srcIp = g.src) →
        (s.streams[c.val]).cfg.readCounter g.payload = some n → (s.streams[c.val]).asm = some a → a.counter = n →
        a.broken = false → a.parts + 1 < (s.streams[c.val]).cfg.datagrams → (graft2 = none ∨ a.buffer = none) →
        let joined : FrameAsm := { a with
          parts := a.parts + 1, length := a.length + g.payload.length, bytes := a.bytes ++ g.payload }
        ∃ t, exec (.ethFrame p true b graft2) s = .next t
          ∧ (g.bad = false → (t.streams[c.val]).asm = some joined)
          ∧ (g.bad = true → a.failed = none → (t.streams[c.val]).asm = some { joined with failed := some 1 }
            ∧ (t.eth[p.val]).sumErrors = satAdd 32 (s.eth[p.val]).sumErrors 1
            ∧ (t.eth[p.val]).broken = satAdd 32 (s.eth[p.val]).broken 1)
          ∧ (∀ y : CtxId, y ≠ c → t.streams[y.val] = s.streams[y.val]) ∧ t.mem = s.mem))
  ∧ (∀ (s : State) (p : Port4) (ok : Bool) (b : Bytes) (graft2 : Option ClPortId), (s.boot.macsUp = false ∨ (s.eth[p.val]).up = false) →
    exec (.ethFrame p ok b graft2) s = .next s)
  ∧ (∀ (s : State) (p : Port4) (up : Bool) (speed : Fin 4), s.rootRuns = true → s.boot.macsUp = true →
    ∃ t, exec (.ethLinkChange p up speed) s = .next t ∧ (t.eth[p.val]).up = up
      ∧ (up = true → (t.eth[p.val]).speed = speed.val)
      ∧ (up = true → (s.eth[p.val]).up = false → (t.eth[p.val]).lastUp = s.now)
      ∧ (up = false → (s.eth[p.val]).up = true → (t.eth[p.val]).linkDowns = satAdd 16 (s.eth[p.val]).linkDowns 1)
      ∧ (∀ q : Port4, q ≠ p → t.eth[q.val] = s.eth[q.val]))
  ∧ (∀ (s : State) (id : Nat) (c : Cmd) (p : Port4), s.Begins id .uartConfig c → c.arg 16 1 = p.val →
    let x := s.uart[p.val]
    let y := { x with enabled := c.arg 17 1 == 1, dataBits := c.arg 18 1, parity := c.arg 19 1, stop := c.arg 20 1,
                      baud := c.arg 24 4 }
    let isOpen := s.streams.toList.any (fun t => t.isOpen && t.cfg.source == 2 && t.cfg.port == p.val)
    ∃ t, exec (.uartConfig id) s = .next t
      ∧ (isOpen = true → y ≠ x → Completed s t id c stBusy 8 0 ∧ t.uart = s.uart)
      ∧ ((isOpen = false ∨ y = x) → Completed s t id c stOk 0 0 ∧ t.uart[p.val] = y
          ∧ ∀ q : Port4, q ≠ p → t.uart[q.val] = s.uart[q.val]))
  ∧ (∀ (s : State) (p : Port4) (samples : List Bool) (graft2 : Option ClPortId), s.rootRuns = true → s.safe = false → (s.uart[p.val]).enabled = true →
    let x := s.uart[p.val]
    let ch := x.character samples
    (uartBit samples 0 = true → exec (.uartCharacter p samples graft2) s
        = .next (s.setUart p (fun x => { x with falseStarts := satAdd 32 x.falseStarts 1 })))
    ∧ (uartBit samples 0 = false → s.uartContext p = none → ∃ t, exec (.uartCharacter p samples graft2) s = .next t
        ∧ (t.uart[p.val]).chars = satAdd 64 x.chars 1
        ∧ (t.uart[p.val]).framing = (if ch.framing then satAdd 32 x.framing 1 else x.framing)
        ∧ (t.uart[p.val]).parityErrs = (if ch.parity then satAdd 32 x.parityErrs 1 else x.parityErrs)
        ∧ (t.uart[p.val]).discarded = (if x.loose then x.discarded else satAdd 32 x.discarded 1)
        ∧ (t.uart[p.val]).loose = true ∧ t.streams = s.streams ∧ t.mem = s.mem)
    ∧ (∀ c, uartBit samples 0 = false → s.uartContext p = some c → (s.streams[c.val]).asm = none →
        (s.streams[c.val]).awaitGap = true → ∃ t, exec (.uartCharacter p samples graft2) s = .next t
        ∧ (t.uart[p.val]).chars = satAdd 64 x.chars 1 ∧ t.streams = s.streams ∧ t.mem = s.mem)
    ∧ (∀ c a, uartBit samples 0 = false → s.uartContext p = some c → (s.streams[c.val]).asm = some a →
        a.broken = false → ∃ t, exec (.uartCharacter p samples graft2) s = .next t
        ∧ (t.uart[p.val]).chars = satAdd 64 x.chars 1
        ∧ ((ch.framing = true ∨ ch.parity = true) → (t.streams[c.val]).asm = none
          ∧ (t.uart[p.val]).broken = satAdd 32 x.broken 1)
        ∧ (ch.framing = false → ch.parity = false → (graft2 = none ∨ a.buffer = none) →
            ((s.streams[c.val]).cfg.framing = 0 ∧ a.length + 1 < (s.streams[c.val]).cfg.uartLen
              ∨ (s.streams[c.val]).cfg.framing = 1 ∧ a.length + 1 ≤ (s.streams[c.val]).cfg.frameBytes) →
          (t.streams[c.val]).asm = some { a with
            bytes := a.bytes ++ [ch.data], parts := a.parts + 1, length := a.length + 1 } ∧ t.mem = s.mem))
    ∧ (s.uartContext p = none → exec (.uartIdleGap p) s = .next (s.setUart p (fun x => { x with loose := false })))
    ∧ (∀ c, s.uartContext p = some c →
        let u := (s.setUart p (fun x => { x with loose := false })).setStream c (fun x => { x with awaitGap := false })
        (((s.streams[c.val]).asm = none ∨ (s.streams[c.val]).cfg.framing = 0) → exec (.uartIdleGap p) s = .next u)
        ∧ (∀ a, (s.streams[c.val]).asm = some a → (s.streams[c.val]).cfg.framing ≠ 0 → a.broken = true →
            exec (.uartIdleGap p) s = .next (u.setStream c (fun x => { x with asm := none })))
        ∧ (∀ a n, (s.streams[c.val]).asm = some a → (s.streams[c.val]).cfg.framing ≠ 0 → a.broken = false →
            (s.streams[c.val]).cfg.readCounter a.bytes = some n →
            exec (.uartIdleGap p) s = .next (u.endFrame c { a with counter := n }))))
  ∧ (∀ (s : State) (p : Port4) (samples : List Bool) (graft2 : Option ClPortId), (s.safe = true ∨ (s.uart[p.val]).enabled = false) →
    exec (.uartCharacter p samples graft2) s = .next s ∧ exec (.uartIdleGap p) s = .next s)

/-! ## Drift and cross-checking -/

/-- Drift ports are configured in the order of the manual's checks; packets with a bad CRC are counted and NAKed,
those out of sequence acknowledge the last one in sequence again, those in sequence are acknowledged, acted on and
forwarded; LACKs free the retry buffer; a port that is not UP trains again; an unmatched digest record is counted and
raises CROSSCHECK_MISMATCH. The model's readings: log 1, 21, 40, 42. -/
def Obligations.DriftLinks : Prop :=
  (∀ (s : State) (id : Nat) (c : Cmd) (p : Port4), s.Begins id .driftConfig c → c.arg 16 1 = p.val →
    let x := s.drift[p.val]
    let node := c.arg 18 2
    let topology := c.arg 20 1
    let xd := c.arg 21 1
    let yd := c.arg 22 1
    let dims := dimsOk topology xd yd
    let alone := ∀ q : Port4, q ≠ p → (s.drift[q.val]).enabled = true → (s.drift[q.val]).nodeId = node
      ∧ (s.drift[q.val]).topology = topology ∧ (s.drift[q.val]).xDim = xd ∧ (s.drift[q.val]).yDim = yd
    let good := usesPort topology p.val = true ∧ dims = true ∧ node < xd * yd
      ∧ (neighbourOf topology xd yd node p.val).isSome = true ∧ alone
    ∃ t, exec (.driftConfig id) s = .next t
      ∧ (c.arg 17 1 % 2 = 0 → Completed s t id c stOk 0 0 ∧ (t.drift[p.val]).enabled = false
          ∧ (t.drift[p.val]).state = .down ∧ ∀ q : Port4, q ≠ p → t.drift[q.val] = s.drift[q.val])
      ∧ (c.arg 17 1 % 2 = 1 → usesPort topology p.val = false → Completed s t id c stBadParam 16 0 ∧ t.drift = s.drift)
      ∧ (c.arg 17 1 % 2 = 1 → usesPort topology p.val = true → dims = true → node < xd * yd →
          neighbourOf topology xd yd node p.val = none → Completed s t id c stBadParam 16 0 ∧ t.drift = s.drift)
      ∧ (c.arg 17 1 % 2 = 1 → usesPort topology p.val = true → dims = true → xd * yd ≤ node →
          Completed s t id c stBadParam 18 0 ∧ t.drift = s.drift)
      ∧ (c.arg 17 1 % 2 = 1 → usesPort topology p.val = true → dims = false →
          Completed s t id c stBadParam 0xFFFF 0 ∧ t.drift = s.drift)
      ∧ (c.arg 17 1 % 2 = 1 → usesPort topology p.val = true → dims = true → node < xd * yd →
          (neighbourOf topology xd yd node p.val).isSome = true → ¬ alone →
          Completed s t id c stBadParam 0xFFFF 0 ∧ t.drift = s.drift)
      ∧ (c.arg 17 1 % 2 = 1 → good → x.enabled = true →
          ¬ (x.nodeId = node ∧ x.topology = topology ∧ x.xDim = xd ∧ x.yDim = yd) →
          Completed s t id c stBusy 8 0 ∧ t.drift = s.drift)
      ∧ (c.arg 17 1 % 2 = 1 → good → x.enabled = false → Completed s t id c stOk 0 0
          ∧ (t.drift[p.val]).enabled = true ∧ (t.drift[p.val]).state = .training ∧ (t.drift[p.val]).nodeId = node
          ∧ (t.drift[p.val]).topology = topology ∧ (t.drift[p.val]).xDim = xd ∧ (t.drift[p.val]).yDim = yd
          ∧ ∀ q : Port4, q ≠ p → t.drift[q.val] = s.drift[q.val]))
  ∧ (∀ (s : State) (id : Nat) (c : Cmd) (p : Port4), s.Begins id .crosscheckConfig c → c.arg 16 1 = p.val →
    let x := s.drift[p.val]
    let peer := c.arg 18 2
    ∃ t, exec (.crosscheckConfig id) s = .next t
      ∧ (c.arg 17 1 = 0 → Completed s t id c stOk 0 0 ∧ (s.xc.port = some p → t.xc.port = none ∧ t.xc.held = []))
      ∧ (c.arg 17 1 ≠ 0 → x.enabled = false → Completed s t id c stBadParam 16 0 ∧ t.xc = s.xc)
      ∧ (c.arg 17 1 ≠ 0 → x.enabled = true → (peer = x.nodeId ∨ x.xDim * x.yDim ≤ peer) →
          Completed s t id c stBadParam 18 0 ∧ t.xc = s.xc)
      ∧ (∀ q, c.arg 17 1 ≠ 0 → x.enabled = true → peer ≠ x.nodeId → peer < x.xDim * x.yDim → s.xc.port = some q →
          q ≠ p → Completed s t id c stNoResource 8 0 ∧ t.xc = s.xc)
      ∧ (c.arg 17 1 ≠ 0 → x.enabled = true → peer ≠ x.nodeId → peer < x.xDim * x.yDim →
          (s.xc.port = none ∨ s.xc.port = some p) →
          Completed s t id c stOk 0 0 ∧ t.xc = { s.xc with port := some p, peer := peer }))
  ∧ (∀ (s : State) (p : Port4) (b : Bytes), s.rootRuns = true →
    let x := s.drift[p.val]
    let lack (n : BitVec 16) (nak : Nat) : Sent :=
      .drift p (driftBytes x.neighbour typeLack x.nodeId 0 (leBytes 4 (n.toNat + nak * 2 ^ 31)))
    x.enabled = true → x.lanes = true → ∃ t, exec (.driftPacket p b) s = .next t
      ∧ (parseDrift b = none → (t.drift[p.val]).crcErrors = satAdd 32 x.crcErrors 1
          ∧ (t.drift[p.val]).rxSeq = x.rxSeq ∧ t.sent = lack x.rxSeq 1 :: s.sent)
      ∧ (∀ d, parseDrift b = some d →
          (d.type ≠ typeLack → d.lseq ≠ x.rxSeq → (t.drift[p.val]).rxSeq = x.rxSeq
            ∧ (t.drift[p.val]).received = satAdd 64 x.received 1 ∧ t.sent = lack (x.rxSeq - 1) 0 :: s.sent)
          ∧ (d.type = typeLink → d.lseq = x.rxSeq → (t.drift[p.val]).rxSeq = x.rxSeq + 1
            ∧ (t.drift[p.val]).neighbour = leNat d.payload 0 2 ∧ t.sent = lack d.lseq 0 :: s.sent
            ∧ ((t.drift[p.val]).state = .up ↔
                neighbourOf x.topology x.xDim x.yDim x.nodeId p.val = some (leNat d.payload 0 2)
                ∧ leNat d.payload 2 1 = x.topology ∧ leNat d.payload 3 1 = x.xDim ∧ leNat d.payload 4 1 = x.yDim
                ∧ leNat d.payload 5 1 = oppositePort p.val)
            ∧ ((t.drift[p.val]).state ≠ .up → (t.drift[p.val]).state = .miswired))
          ∧ (d.type = typeDigest → d.lseq = x.rxSeq → x.state ≠ .up → t.sent = lack d.lseq 0 :: s.sent ∧ t.xc = s.xc)
          ∧ (d.type = typeDigest → d.lseq = x.rxSeq → x.state = .up → d.dest ≠ x.nodeId → x.xDim * x.yDim ≤ d.dest →
              (t.drift[p.val]).dropped = satAdd 32 x.dropped 1 ∧ t.sent = lack d.lseq 0 :: s.sent ∧ t.xc = s.xc)
          ∧ (∀ q : Port4, d.type = typeDigest → d.lseq = x.rxSeq → x.state = .up → d.dest ≠ x.nodeId →
              d.dest < x.xDim * x.yDim → routePort x.topology x.xDim x.yDim x.nodeId d.dest = q → q ≠ p →
              (s.drift[q.val]).state = .up → (s.drift[q.val]).txBuf.length < 64 →
              t.sent = .drift q (driftBytes d.dest typeDigest d.src (s.drift[q.val]).txSeq d.payload)
                :: lack d.lseq 0 :: s.sent
              ∧ (t.drift[q.val]).txSeq = (s.drift[q.val]).txSeq + 1)
          ∧ (∀ m, d.type = typeDigest → d.lseq = x.rxSeq → x.state = .up → d.dest = x.nodeId → s.xc.port.isSome = true →
              d.src = s.xc.peer →
              s.xc.held.find? (fun h => h.mine && h.ctx == leNat d.payload 0 1
                && h.counter == BitVec.ofNat 32 (leNat d.payload 4 4)) = some m →
              (m.valid = false ∨ leNat d.payload 1 1 % 2 = 0 →
                t.xc = { s.xc with held := s.xc.held.erase m, skipped := satAdd 32 s.xc.skipped 1 })
              ∧ (m.valid = true → leNat d.payload 1 1 % 2 = 1 → m.digest = BitVec.ofNat 32 (leNat d.payload 16 4) →
                t.xc = { s.xc with held := s.xc.held.erase m, matched := satAdd 32 s.xc.matched 1 }))
          ∧ (d.type = typeLack → (byteAt d.payload 3).msb = false →
              (t.drift[p.val]).txBuf = x.acked (BitVec.ofNat 16 (leNat d.payload 0 2)))
          ∧ (∀ e r, d.type = typeLack → (byteAt d.payload 3).msb = true →
              x.txBuf = (BitVec.ofNat 16 (leNat d.payload 0 2), e) :: r → r.length < 65535 →
              (8 ≤ x.retryRun → (t.drift[p.val]).state = .training ∧ (t.drift[p.val]).txBuf = []
                ∧ (t.drift[p.val]).linkDowns = satAdd 16 x.linkDowns 1)
              ∧ (x.retryRun < 8 → (t.drift[p.val]).txBuf = x.txBuf ∧ (t.drift[p.val]).retryRun = x.retryRun + 1
                ∧ (t.drift[p.val]).retries = satAdd 32 x.retries 1 ∧ (t.drift[p.val]).state = x.state))))
  ∧ (∀ (s : State) (p : Port4), s.rootRuns = true →
    let x := s.drift[p.val]
    (x.enabled = true → x.lanes = false → ∃ t, exec (.driftLinkChange p true) s = .next t
        ∧ (t.drift[p.val]).lanes = true ∧ (t.drift[p.val]).state = .training
        ∧ t.sent = .drift p (driftBytes 0xFFF typeLink x.nodeId 0 (linkPayload x p.val)) :: s.sent)
    ∧ (x.enabled = true → x.lanes = true → ∃ t, exec (.driftLinkChange p false) s = .next t
        ∧ (t.drift[p.val]).state = .training ∧ (t.drift[p.val]).lanes = false
        ∧ (t.drift[p.val]).linkDowns = (if x.state = .up then satAdd 16 x.linkDowns 1 else x.linkDowns)
        ∧ ∀ q : Port4, q ≠ p → t.drift[q.val] = s.drift[q.val])
    ∧ (x.enabled = true → x.state ≠ .up → ∃ t, exec (.driftTrainingRetry p) s = .next t
        ∧ (t.drift[p.val]).state = .training ∧ (t.drift[p.val]).linkDowns = x.linkDowns
        ∧ ∀ q : Port4, q ≠ p → t.drift[q.val] = s.drift[q.val])
    ∧ (x.enabled = false → ∀ b up, exec (.driftPacket p b) s = .next s ∧ exec (.driftLinkChange p up) s = .next s
        ∧ exec (.driftTrainingRetry p) s = .next s))
  ∧ (∀ (s : State) (c : CtxId) (n : BitVec 32) (p : Port4) (d : Digest), s.rootRuns = true → s.xc.port = some p →
    s.xc.held.find? (fun d => d.ctx == c.val && d.counter == n) = some d →
    exec (.xcUnmatchedTimeout c n) s = .next (({ s with xc := { s.xc with
        held := s.xc.held.erase d, missing := satAdd 32 s.xc.missing 1 } } : State).raise
      { source := 0x660 + p.val, event := .crosscheckMismatch,
        owner := if (s.streams[c.val]).isOpen then some (s.streams[c.val]).owner else none, class2 := true }))

/-! ## Replay -/

/-- REPLAY_ARM stops, arms, appends and collects (records are read while no unit of memory holds flipped bits); a fed
frame is refused while no replay is armed, on a wrong context, range or time, and otherwise, on an unbound stream
without checks, is stored and decided with its arrival time as its stamp. Records are applied in order, each by its
kind; one whose run or command is not there waits. A replay breaks only where R464 says so: it is disarmed at the
record that could not be applied, and SOURCE 3 streams see their link go down. The model's readings: log 1, 39, 75, 76,
77, 127. -/
def Obligations.ReplayMode : Prop :=
  (∀ (s : State) (id : Nat) (c : Cmd), s.Begins id .replayArm c →
    let p := s.fore.replay
    let va := c.arg 16 8
    let len := c.arg 24 8
    ∃ t, exec (.replayArm id) s = .next t
      ∧ (c.arg 32 1 = 0 → p.state ≠ .armed → Completed s t id c stOk 0 0 ∧ t.fore.replay = { p with state := .off })
      ∧ (c.arg 32 1 = 0 → p.state = .armed → (∀ r ∈ s.fore.runs, r.admitted = true) →
          (∀ y : CtxId, (s.streams[y.val]).isOpen = true → (s.streams[y.val]).cfg.source = 3 → (s.streams[y.val]).bound = none) →
          Completed s t id c stOk 0 0 ∧ t.fore.replay.state = .off ∧ t.fore.replay.entry = p.entry
          ∧ (∀ y : CtxId, (s.streams[y.val]).isOpen = true → (s.streams[y.val]).cfg.source = 3 →
              (s.streams[y.val]).cfg.port = 0 → (t.streams[y.val]).linkDown = true))
      ∧ (c.arg 32 1 = 1 → (s.fn c.fn).spans va len .rd true = false →
          Completed s t id c stBadParam 16 0 ∧ t.fore.replay = p)
      ∧ (∀ b m, s.mem.upsets = [] → c.arg 32 1 = 1 → (s.fn c.fn).spans va len .rd true = true → s.readVa c.fn va len [] = (b, none) →
          splitRecords b = m →
          (recordsOk (recordEntry (m.headD [])) m = false → Completed s t id c stBadParam 0xFFFF 0 ∧ t.fore.replay = p)
          ∧ (recordsOk (recordEntry (m.headD [])) m = true → p.state ≠ .armed → leNat (m.headD []) 4 1 ≠ 1 →
              Completed s t id c stBadParam 0xFFFF 0 ∧ t.fore.replay = p)
          ∧ (recordsOk (recordEntry (m.headD [])) m = true → p.state ≠ .armed → leNat (m.headD []) 4 1 = 1 →
              (p.state = .collecting
                ∨ (∃ y : CtxId, (s.streams[y.val]).isOpen = true ∧ (s.streams[y.val]).cfg.source ≠ 3
                    ∧ (s.streams[y.val]).bound.isSome = true)
                ∨ (∃ d ∈ s.fore.taken, d.id ≠ id ∧ d.live = true ∧ (d.op = some .jobSubmit ∨ d.op = some .attend))) →
              Completed s t id c stBusy 8 0 ∧ t.fore.replay = p)
          ∧ (recordsOk (recordEntry (m.headD [])) m = true → p.state ≠ .armed → leNat (m.headD []) 4 1 = 1 →
              p.state ≠ .collecting →
              (∀ y : CtxId, (s.streams[y.val]).isOpen = true → (s.streams[y.val]).cfg.source ≠ 3 →
                (s.streams[y.val]).bound = none) →
              (∀ d ∈ s.fore.taken, d.id ≠ id → d.live = true → d.op ≠ some .jobSubmit ∧ d.op ≠ some .attend) →
              Completed s t id c stOk 0 0 ∧ t.fore.replay.state = .armed ∧ t.fore.replay.log = m
              ∧ t.fore.replay.entry = recordEntry (m.headD []))
          ∧ (recordsOk (recordEntry (m.headD [])) m = true → p.state = .armed → recordEntry (m.headD []) ≠ p.follow →
              Completed s t id c stBadParam 0xFFFF 0 ∧ t.fore.replay = p)
          ∧ (recordsOk (recordEntry (m.headD [])) m = true → p.state = .armed → recordEntry (m.headD []) = p.follow →
              replaySpace < p.loaded + 32 * m.length → Completed s t id c stNoResource 2 0 ∧ t.fore.replay = p)
          ∧ (recordsOk (recordEntry (m.headD [])) m = true → p.state = .armed → recordEntry (m.headD []) = p.follow →
              p.loaded + 32 * m.length ≤ replaySpace → Completed s t id c stOk 0 0 ∧ t.fore.replay.state = .armed
              ∧ t.fore.replay.log = p.log ++ m ∧ t.fore.replay.entry = p.entry))
      ∧ (2 ≤ c.arg 32 1 → (s.fn c.fn).oneMapping va len false true = false →
          Completed s t id c stBadParam 16 0 ∧ t.fore.replay = p)
      ∧ (2 ≤ c.arg 32 1 → (s.fn c.fn).oneMapping va len false true = true → p.state = .armed →
          Completed s t id c stBusy 8 0 ∧ t.fore.replay = p)
      ∧ (2 ≤ c.arg 32 1 → (s.fn c.fn).oneMapping va len false true = true → p.state ≠ .armed →
          Completed s t id c stOk 0 0 ∧ t.fore.replay.state = .collecting ∧ t.fore.replay.base = va
          ∧ t.fore.replay.size = len ∧ t.fore.replay.count = 0 ∧ t.fore.replay.entry = s.fore.nextEntry))
  ∧ (∀ (s : State) (id : Nat) (c : Cmd) (y : CtxId), s.Begins id .replayFeed c → c.arg 16 1 = y.val →
    let x := s.streams[y.val]
    let len := c.arg 32 4
    let stamp := c.arg 36 8
    let fits := x.isOpen = true ∧ x.closing = none ∧ x.cfg.source = 3 ∧ portOf x.owner = portOf c.fn
    let later := ∀ l, x.lastFed = some l → l.toNat < stamp
    let readable := (s.fn c.fn).spans (c.arg 24 8) len .rd true = true
    ∃ t, exec (.replayFeed id) s = .next t
      ∧ (s.fore.replay.state ≠ .armed → Completed s t id c stStreamDown (BitVec.ofNat 16 y.val) 0 ∧ t.streams = s.streams)
      ∧ (s.fore.replay.state = .armed → ¬ fits → Completed s t id c stBadParam 16 0 ∧ t.streams = s.streams)
      ∧ (s.fore.replay.state = .armed → fits → ¬ readable → Completed s t id c stBadParam 24 0 ∧ t.streams = s.streams)
      ∧ (s.fore.replay.state = .armed → fits → readable → ¬ later → Completed s t id c stBadParam 36 0 ∧ t.streams = s.streams)
      ∧ (∀ b, s.mem.upsets = [] → s.fore.replay.state = .armed → fits → readable → later → s.readVa c.fn (c.arg 24 8) len [] = (b, none) →
          s.safe = false → x.bound = none → x.nextCfg = none → x.cfg.readCounter b ≠ none →
          (∀ i, s.freeBuffer y = some i → x.cfg.lengthBad b.length = false → x.cfg.guard.checks = 0 →
            Completed s t id c stOk 0 0 ∧ (t.streams[y.val]).lastFed = some (BitVec.ofNat 64 stamp)
            ∧ (t.streams[y.val]).lastTime = BitVec.ofNat 64 stamp ∧ (t.streams[y.val]).lastBuffer = i
            ∧ (t.streams[y.val]).offered = satAdd 64 x.offered 1 ∧ (t.streams[y.val]).served = satAdd 64 x.served 1
            ∧ (t.streams[y.val]).asm = none
            ∧ t.mem = (s.mem.store (memKey x.owner (x.cfg.bufferVa i)) (padLines (b.take x.cfg.frameBytes))).1
            ∧ ∀ z : CtxId, z ≠ y → t.streams[z.val] = s.streams[z.val])
          ∧ (s.freeBuffer y = none → Completed s t id c stOk 0 0
            ∧ (t.streams[y.val]).ringFull = satAdd 32 x.ringFull 1 ∧ (t.streams[y.val]).served = x.served ∧ t.mem = s.mem)))
  ∧ (∀ s : State, s.rootRuns = true → s.safe = false → s.fore.replay.state = .armed →
    (s.fore.replay.log = [] → exec .replayRecordApply s = .next s)
    ∧ (∀ b rest, s.fore.replay.log = b :: rest →
      (leNat b 4 1 = 1 → ∃ t, exec .replayRecordApply s = .next t ∧ t.fore.shift = s.fore.shift + 1
          ∧ t.fore.replay.log = rest ∧ t.fore.replay.entry = s.fore.replay.entry + 1)
      ∧ (leNat b 4 1 = 2 → ∃ t, exec .replayRecordApply s = .next t ∧ t.fore.shift = s.fore.shift
          ∧ t.fore.replay.log = rest ∧ t.fore.replay.entry = s.fore.replay.entry + 1)
      ∧ (∀ y : CtxId, leNat b 4 1 = 6 → leNat b 20 1 = y.val → ∃ t, exec .replayRecordApply s = .next t
          ∧ (t.streams[y.val]).keep = leNat b 22 2 ∧ (t.streams[y.val]).thinPhase = leNat b 24 4
          ∧ t.fore.replay.log = rest ∧ t.fore.replay.entry = s.fore.replay.entry + 1
          ∧ ∀ z : CtxId, z ≠ y → t.streams[z.val] = s.streams[z.val])
      ∧ ((leNat b 4 1 = 3 ∨ leNat b 4 1 = 4 ∨ leNat b 4 1 = 5) →
          (∀ r ∈ s.fore.runs, ¬ (r.fn.val = leNat b 6 2 ∧ r.subject.toNat = leNat b 16 4)) →
          exec .replayRecordApply s = .next s)
      ∧ (∀ r, leNat b 4 1 = 5 → s.namedRun b true = some r → ∃ t, exec .replayRecordApply s = .next t
          ∧ t.fore.replay.log = rest ∧ t.fore.replay.entry = s.fore.replay.entry + 1
          ∧ ∀ q ∈ t.fore.runs, q.id = r.id → q.cleared = true ∧ q.place = some (leNat b 22 2, leNat b 24 4))
      ∧ (∀ r, leNat b 4 1 = 3 → s.namedRun b false = some r → r.cls ≠ 2 → ∃ t, exec .replayRecordApply s = .next t
          ∧ t.fore.replay.log = rest ∧ t.fore.replay.entry = s.fore.replay.entry + 1
          ∧ ∀ q ∈ t.fore.runs, q.id = r.id → q.admitted = true ∧ q.cleared = false ∧ q.entry = s.fore.nextEntry)
      ∧ (leNat b 4 1 = 7 → s.fore.replay.stoppedBy b = none → exec .replayRecordApply s = .next s)
      ∧ (leNat b 4 1 = 7 → (s.fore.replay.stoppedBy b).isSome = true → ∃ t, exec .replayRecordApply s = .next t
          ∧ t.fore.replay.log = rest ∧ t.fore.replay.entry = s.fore.replay.entry + 1 ∧ t.fore.runs = s.fore.runs)))
  ∧ (∀ s : State, s.rootRuns = true →
    ((s.fore.replay.state ≠ .armed ∨ s.replayBreaks = false) → exec .replayBreak s = .next s)
    ∧ (s.fore.replay.state = .armed → s.replayBreaks = true → (∀ r ∈ s.fore.runs, r.admitted = true) →
        (∀ y : CtxId, (s.streams[y.val]).isOpen = true → (s.streams[y.val]).cfg.source = 3 → (s.streams[y.val]).bound = none) →
        ∃ t, exec .replayBreak s = .next t ∧ t.fore.replay.state = .broken ∧ t.fore.replay.entry = s.fore.replay.entry
          ∧ t.fore.replay.log = [] ∧ (∀ r ∈ t.fore.runs, r.cleared = true)
          ∧ (∀ y : CtxId, (s.streams[y.val]).isOpen = true → (s.streams[y.val]).cfg.source = 3 →
              (s.streams[y.val]).cfg.port = 0 → (t.streams[y.val]).linkDown = true)))

/-! ## Arithmetic -/

/-- Requantising: p ÷ 2^s is rounded to the nearest integer, halves away from zero or to the even one, or toward zero
with every fraction; and an output lies between LO + ZP and HI + ZP. -/
def Obligations.Rounding : Prop :=
  (∀ (p : Int) (s : Nat),
    let d : Int := 2 ^ s
    let away := roundShift .halfAway p s
    let even := roundShift .halfEven p s
    (2 * |p - away * d| ≤ d ∧ (2 * |p - away * d| = d → |p| < |away * d|))
    ∧ (2 * |p - even * d| ≤ d ∧ (2 * |p - even * d| = d → even % 2 = 0))
    ∧ roundShift .towardZero p s = p.tdiv d)
  ∧ (∀ (q : Requant) (ch : Nat) (acc : List Int),
    let lo := perChannel 0 q.lo ch
    let hi := perChannel 0 q.hi ch
    lo ≤ hi → 
      lo + q.zp ≤ Machine.Requant.out q ch acc ∧ Machine.Requant.out q ch acc ≤ hi + q.zp)
end

