-- ==== Sys2Proof/Laws/Memory.lean ====
section
/-!
SUPPORT. Device memory: a read after a write, and that every operation on memory keeps the canonical
form of its lists.
-/

namespace Sys2Proof.Machine

variable {α : Type} [DecidableEq α]

/-! ## Sparse tables -/

/-- A canonical table is canonical from every lower bound. -/
theorem sparseWf_mono {d : α} {l : List (Nat × α)} {lo lo' : Nat} (h : lo ≤ lo')
    (w : sparseWf d lo' l = true) : sparseWf d lo l = true := by
  cases l with
  | nil => rfl
  | cons x r =>
    simp only [sparseWf, Bool.and_eq_true, decide_eq_true_eq] at w ⊢
    exact ⟨⟨by omega, w.1.2⟩, w.2⟩

/-- Below its lower bound a canonical table lists nothing. -/
theorem sparseGet_low {d : α} {l : List (Nat × α)} {lo a : Nat} (h : a < lo)
    (w : sparseWf d lo l = true) : sparseGet d l a = d := by
  cases l with
  | nil => rfl
  | cons x r =>
    simp only [sparseWf, Bool.and_eq_true, decide_eq_true_eq] at w
    simp only [sparseGet]
    rw [if_neg (by omega), if_pos (by omega)]

/-- Setting an entry keeps the canonical form. -/
theorem sparsePut_wf {d : α} (l : List (Nat × α)) (lo a : Nat) (b : α) (h : lo ≤ a)
    (w : sparseWf d lo l = true) : sparseWf d lo (sparsePut d l a b) = true := by
  induction l generalizing lo with
  | nil =>
    simp only [sparsePut]
    split
    · rfl
    · simp [sparseWf, *]
  | cons x r ih =>
    obtain ⟨k, v⟩ := x
    simp only [sparseWf, Bool.and_eq_true, decide_eq_true_eq] at w
    obtain ⟨⟨w1, w2⟩, w3⟩ := w
    simp only [sparsePut]
    split
    · split
      · simp [sparseWf, *]
      · simp only [sparseWf, Bool.and_eq_true, decide_eq_true_eq]
        exact ⟨⟨h, by assumption⟩, ⟨by omega, w2⟩, w3⟩
    · split
      · split
        · exact sparseWf_mono (by omega) w3
        · subst a
          simp [sparseWf, *]
      · simp only [sparseWf, Bool.and_eq_true, decide_eq_true_eq]
        exact ⟨⟨w1, w2⟩, ih (k + 1) (by omega) w3⟩

/-- A read of the entry just set. -/
theorem sparseGet_put_same {d : α} (l : List (Nat × α)) (lo a : Nat) (b : α)
    (w : sparseWf d lo l = true) : sparseGet d (sparsePut d l a b) a = b := by
  induction l generalizing lo with
  | nil =>
    simp only [sparsePut]
    split
    · simp [sparseGet, *]
    · simp [sparseGet]
  | cons x r ih =>
    obtain ⟨k, v⟩ := x
    simp only [sparseWf, Bool.and_eq_true, decide_eq_true_eq] at w
    obtain ⟨⟨_, _⟩, w3⟩ := w
    simp only [sparsePut]
    split
    · split
      · rename_i h1 h2
        simp only [sparseGet]
        rw [if_neg (by omega), if_pos h1]
        exact h2.symm
      · simp [sparseGet]
    · split
      · split
        · rename_i h1 h2 h3
          rw [sparseGet_low (lo := k + 1) (by omega) w3]
          exact h3.symm
        · simp [sparseGet]
      · rename_i h1 h2
        simp only [sparseGet]
        rw [if_neg h2, if_neg h1]
        exact ih (k + 1) w3

/-- A read of any other entry. -/
theorem sparseGet_put_other {d : α} (l : List (Nat × α)) (lo a c : Nat) (b : α) (h : c ≠ a)
    (w : sparseWf d lo l = true) : sparseGet d (sparsePut d l a b) c = sparseGet d l c := by
  induction l generalizing lo with
  | nil =>
    simp only [sparsePut]
    split
    · rfl
    · simp only [sparseGet]
      rw [if_neg h]
      split <;> rfl
  | cons x r ih =>
    obtain ⟨k, v⟩ := x
    simp only [sparseWf, Bool.and_eq_true, decide_eq_true_eq] at w
    obtain ⟨⟨_, _⟩, w3⟩ := w
    simp only [sparsePut]
    split
    · split
      · rfl
      · rename_i h1 h2
        show (if c = a then b else if c < a then d else sparseGet d ((k, v) :: r) c) = _
        rw [if_neg h]
        split
        · simp only [sparseGet]
          rw [if_neg (by omega), if_pos (by omega)]
        · rfl
    · split
      · rename_i h1 h2
        split
        · simp only [sparseGet]
          rw [if_neg (by omega)]
          split
          · exact sparseGet_low (lo := k + 1) (by omega) w3
          · rfl
        · subst h2
          simp only [sparseGet]
          rw [if_neg h, if_neg h]
      · simp only [sparseGet]
        split
        · rfl
        · split
          · rfl
          · exact ih (k + 1) w3

/-- Entries taken out leave the canonical form. -/
theorem sparseWf_filter {d : α} (p : Nat × α → Bool) (l : List (Nat × α)) (lo : Nat)
    (w : sparseWf d lo l = true) : sparseWf d lo (l.filter p) = true := by
  induction l generalizing lo with
  | nil => rfl
  | cons x r ih =>
    simp only [sparseWf, Bool.and_eq_true, decide_eq_true_eq] at w
    rw [List.filter_cons]
    split
    · simp only [sparseWf, Bool.and_eq_true, decide_eq_true_eq]
      exact ⟨w.1, ih _ w.2⟩
    · exact sparseWf_mono (by omega) (ih (x.1 + 1) w.2)

/-! ## Bytes -/

/-- Writing bytes keeps the canonical form. -/
theorem putBytes_wf (b : Bytes) (c : List Host.Cell) (k : Nat) (w : sparseWf unlisted 0 c = true) :
    sparseWf unlisted 0 (putBytes c k b) = true := by
  induction b generalizing c k with
  | nil => exact w
  | cons x r ih => exact ih _ _ (sparsePut_wf c 0 k x (Nat.zero_le _) w)

/-- A byte outside the bytes written reads as before. -/
theorem putBytes_outside (b : Bytes) (c : List Host.Cell) (k a : Nat) (w : sparseWf unlisted 0 c = true)
    (h : a < k ∨ k + b.length ≤ a) :
    sparseGet unlisted (putBytes c k b) a = sparseGet unlisted c a := by
  induction b generalizing c k with
  | nil => rfl
  | cons x r ih =>
    simp only [List.length_cons] at h
    rw [putBytes, ih _ _ (sparsePut_wf c 0 k x (Nat.zero_le _) w) (by omega)]
    exact sparseGet_put_other c 0 k a x (by omega) w

/-- A byte written reads back. -/
theorem putBytes_inside (b : Bytes) (c : List Host.Cell) (k i : Nat) (w : sparseWf unlisted 0 c = true)
    (h : i < b.length) : sparseGet unlisted (putBytes c k b) (k + i) = byteAt b i := by
  induction b generalizing c k i with
  | nil => simp at h
  | cons x r ih =>
    have w' := sparsePut_wf c 0 k x (Nat.zero_le _) w
    cases i with
    | zero =>
      rw [putBytes, putBytes_outside r _ _ _ w' (by omega)]
      exact sparseGet_put_same c 0 k x w
    | succ j =>
      have := ih (sparsePut unlisted c k x) (k + 1) j w' (by simpa using h)
      rw [putBytes, show k + (j + 1) = k + 1 + j by omega, this]
      rfl

/-! ## Lines -/

/-- Writing a line keeps the canonical form. -/
theorem Memory.putLine_wf (m : Memory) (l : Nat) (b : Bytes) (w : m.wf = true) : (m.putLine l b).wf = true := by
  simp only [Memory.wf, Bool.and_eq_true] at w ⊢
  exact ⟨putBytes_wf _ _ _ w.1, sparsePut_wf _ _ _ _ (Nat.zero_le _) w.2⟩

/-- A write within a line keeps the canonical form. -/
theorem Memory.storeSpan_wf (m : Memory) (k : Nat) (b : Bytes) (w : m.wf = true) :
    (m.storeSpan k b).1.wf = true := by
  simp only [Memory.storeSpan]
  repeat' split
  all_goals first | exact w | exact m.putLine_wf _ _ w

/-- A write of any length keeps the canonical form. -/
theorem Memory.storeLines_wf (n : Nat) (m : Memory) (k : Nat) (b : Bytes) (w : m.wf = true) :
    (Memory.storeLines n m k b).1.wf = true := by
  induction n generalizing m k b with
  | zero => exact w
  | succ n ih =>
    simp only [Memory.storeLines]
    split
    · exact w
    · have h := m.storeSpan_wf k (b.take (256 - k % 256)) w
      split
      · rename_i m' d e
        rw [e] at h
        exact h
      · rename_i m' e
        rw [e] at h
        exact ih m' _ _ h

theorem Memory.store_wf (m : Memory) (k : Nat) (b : Bytes) (w : m.wf = true) : (m.store k b).1.wf = true :=
  Memory.storeLines_wf _ m k b w

/-- Zeroing a range keeps the canonical form. -/
theorem Memory.zero_wf (m : Memory) (k n : Nat) (w : m.wf = true) : (m.zero k n).wf = true := by
  simp only [Memory.wf, Bool.and_eq_true] at w ⊢
  exact ⟨sparseWf_filter _ _ _ w.1, sparseWf_filter _ _ _ w.2⟩

/-- Poisoning a unit keeps the canonical form. -/
theorem Memory.poisonUnit_wf (m : Memory) (u : Nat) (w : m.wf = true) : (m.poisonUnit u).wf = true := by
  simp only [Memory.poisonUnit]
  split
  · exact w
  · exact w

/-- What a failed tile may have written keeps the canonical form. -/
theorem Memory.scatterLines_wf (n : Nat) (p : Nat → Bool) (m : Memory) (k : Nat) (b : Bytes) (w : m.wf = true) :
    (m.scatterLines n p k b).wf = true := by
  induction n generalizing m k b with
  | zero => exact w
  | succ n ih =>
    simp only [Memory.scatterLines]
    repeat' split
    all_goals first
      | exact w
      | exact ih _ _ _ w
      | exact ih _ _ _ (m.storeSpan_wf _ _ w)

/-- Many operations, each of which keeps the canonical form, keep it. -/
theorem Memory.foldl_wf {β : Type} (f : Memory → β → Memory) (k : ∀ m x, m.wf = true → (f m x).wf = true) (l : List β)
    (m : Memory) (w : m.wf = true) : (l.foldl f m).wf = true := by
  induction l generalizing m with
  | nil => exact w
  | cons x r ih => exact ih _ (k m x w)

/-- An inverted bit of data or of a tag keeps the canonical form. -/
theorem Memory.invert_wf (m : Memory) (u b : Nat) (w : m.wf = true) : (m.invert u b).wf = true := by
  unfold Memory.invert
  simp only [Memory.wf, Bool.and_eq_true] at w ⊢
  split
  · exact ⟨w.1, sparsePut_wf _ _ _ _ (Nat.zero_le _) w.2⟩
  · exact ⟨sparsePut_wf _ _ _ _ (Nat.zero_le _) w.1, w.2⟩

/-- Reading a unit, corrected or poisoned, keeps the canonical form. -/
theorem Memory.readUnit_wf (m : Memory) (u : Nat) (flips : List Nat) (w : m.wf = true) :
    (m.readUnit u flips).1.wf = true := by
  unfold Memory.readUnit
  dsimp only
  split
  · exact w
  · split
    · exact Memory.poisonUnit_wf _ _ w
    · exact Memory.foldl_wf _ (fun m x h => m.invert_wf u x h) _ _ w

/-- Flipped bits do not touch what memory holds. -/
theorem Memory.upset_wf (m : Memory) (u : Nat) (bits : List Nat) (w : m.wf = true) : (m.upset u bits).wf = true := w

/-- The memory after reset is canonical. -/
theorem Memory.reset_wf : ({} : Memory).wf = true := rfl

end Sys2Proof.Machine
end

