-- ==== Sys2Proof/Laws/Keeps.lean ====
section
/-!
SUPPORT. What every event of the device keeps, said once for each shared operation.
`Keeps s t` reads: from `s` to `t` the queue is untouched, the record of what was sent only grows, the
bounds of `State.Inv` stay, the device stays awake, and what the safe state latches stays latched.
-/

namespace Sys2Proof.Machine

/-- From `s` to `t` nothing was lost that an event must keep. -/
structure Keeps (s t : State) : Prop where
  pending : t.pending = s.pending
  sent    : s.sent <:+ t.sent
  inv     : s.Inv → t.Inv
  awake   : s.awake = true → t.awake = true
  latched : Latched s t

/-- What every event without exception leaves: the queue, what was sent, the bounds. -/
structure Tracks (s t : State) : Prop where
  pending : t.pending = s.pending
  sent    : s.sent <:+ t.sent
  inv     : s.Inv → t.Inv

theorem Keeps.tracks {s t : State} (h : Keeps s t) : Tracks s t := ⟨h.pending, h.sent, h.inv⟩

theorem Latched.refl (s : State) : Latched s s := ⟨id, id, id, id⟩

theorem Latched.trans {s t u : State} (a : Latched s t) (b : Latched t u) : Latched s u :=
  ⟨b.root ∘ a.root, b.lamp ∘ a.lamp, b.rootPins ∘ a.rootPins, b.lampPins ∘ a.lampPins⟩

theorem Keeps.refl (s : State) : Keeps s s := ⟨rfl, List.suffix_refl _, id, id, Latched.refl s⟩

theorem Keeps.trans {s t u : State} (a : Keeps s t) (b : Keeps t u) : Keeps s u :=
  ⟨b.pending.trans a.pending, a.sent.trans b.sent, b.inv ∘ a.inv, b.awake ∘ a.awake, a.latched.trans b.latched⟩

/-- A change that reaches none of the fields that `Keeps` speaks of. -/
theorem Keeps.update {s t u : State} (h : Keeps s t) (p : u.pending = t.pending) (k : u.sent = t.sent)
    (m : u.mem = t.mem) (y : u.yard = t.yard) (r : u.fcu.timers = t.fcu.timers) (v : u.fns = t.fns) (c : u.clk.corr = t.clk.corr)
    (w : u.clk.slew = t.clk.slew) (l : u.fore.log = t.fore.log) (x : u.xc.held = t.xc.held)
    (n : u.power.state = t.power.state) (a : u.safe = t.safe) (b : u.lamp.safe = t.lamp.safe)
    (d : u.rootDrivesLow = t.rootDrivesLow) (e : u.lampDrivesLow = t.lampDrivesLow) :
    Keeps s u := by
  refine h.trans ⟨p, k ▸ List.suffix_refl _, fun i => ⟨m ▸ i.mem, y ▸ i.yard, r ▸ i.timers, ?_, c ▸ i.corr, w ▸ i.slew,
    l ▸ i.log, x ▸ i.held⟩, ?_, ⟨fun y => a ▸ y, fun y => b ▸ y, fun y => d ▸ y, fun y => e ▸ y⟩⟩
  · intro f
    have := i.views f
    simpa only [State.fn, v] using this
  · simp only [State.awake, n]
    exact id

/-- The state out of a pair. -/
theorem Keeps.ofFst {α : Type} {s t : State} {p : State × α} {a : α} (e : p = (t, a)) (h : Keeps s p.1) :
    Keeps s t := by
  subst e
  exact h

/-- An event over a list keeps what each of its parts keeps. -/
theorem Keeps.foldl {α : Type} {s : State} {f : State → α → State} (l : List α)
    (k : ∀ t a, Keeps s t → Keeps s (f t a)) {t : State} (h : Keeps s t) : Keeps s (l.foldl f t) := by
  induction l generalizing t with
  | nil => exact h
  | cons a r ih => exact ih (k t a h)

/-- A change of fields that `Keeps` does not speak of. -/
theorem Keeps.plain {s t : State} {fixed : Fixed} {flash : Flash} {boot : Boot} {postBoot : Bool}
    {portA portB : PciePort} {streams : Vector Stream 48} {cl : Vector ClPort 24} {eth : Vector EthPort 4}
    {uart : Vector UartPort 4} {drift : Vector DriftPort 4} {can : Vector CanBus 2} {wdog : Vector Wdog 3}
    {scions : Vector Scion 4} {engines : Vector Engine 64} {footprint dieTemp : List Int} {draws : Nat}
    (h : Keeps s t) : Keeps s { t with
      fixed := fixed, flash := flash, boot := boot, postBoot := postBoot, portA := portA, portB := portB
      streams := streams, cl := cl, eth := eth, uart := uart, drift := drift, can := can, wdog := wdog
      scions := scions, engines := engines, footprint := footprint, dieTemp := dieTemp, draws := draws } :=
  h.update rfl rfl rfl rfl rfl rfl rfl rfl rfl rfl rfl rfl rfl rfl rfl

/-- A change of fields that `Keeps` does not speak of, with a memory in canonical form. -/
theorem Keeps.memory {s t : State} {boot : Boot} {streams : Vector Stream 48} {draws : Nat} {mem : Memory}
    (w : t.mem.wf = true → mem.wf = true) (h : Keeps s t) :
    Keeps s { t with boot := boot, streams := streams, draws := draws, mem := mem } :=
  h.trans ⟨rfl, List.suffix_refl _, fun i => ⟨w i.mem, i.yard, i.timers, i.views, i.corr, i.slew, i.log, i.held⟩, id,
    ⟨id, id, id, id⟩⟩

/-- The yard replaced by one in canonical form. -/
theorem Keeps.yard {s t : State} {yard : Yard} (w : t.yard.mem.wf = true → yard.mem.wf = true) (h : Keeps s t) :
    Keeps s { t with yard := yard } :=
  h.trans ⟨rfl, List.suffix_refl _, fun i => ⟨i.mem, w i.yard, i.timers, i.views, i.corr, i.slew, i.log, i.held⟩, id,
    ⟨id, id, id, id⟩⟩

/-- Changed runs. -/
theorem Keeps.runs {s t : State} {engines : Vector Engine 64} {runs : List Run} (h : Keeps s t) :
    Keeps s { t with engines := engines, fore := { t.fore with runs := runs } } :=
  h.trans ⟨rfl, List.suffix_refl _, fun i => ⟨i.mem, i.yard, i.timers, i.views, i.corr, i.slew, i.log, i.held⟩, id,
    ⟨id, id, id, id⟩⟩

theorem State.drawn_keeps {s t : State} (h : Keeps s t) : Keeps s t.drawn := Keeps.plain h

/-- The power manager replaced by one that is not in Night. -/
theorem Keeps.powered {s t : State} {scions : Vector Scion 4} {engines : Vector Engine 64} {power : PowerMgr}
    (w : t.power.state ≠ .night → power.state ≠ .night) (h : Keeps s t) :
    Keeps s { t with scions := scions, engines := engines, power := power } :=
  h.trans ⟨rfl, List.suffix_refl _, fun i => ⟨i.mem, i.yard, i.timers, i.views, i.corr, i.slew, i.log, i.held⟩,
    fun a => by simpa [State.awake] using w (by simpa [State.awake] using a), ⟨id, id, id, id⟩⟩

/-- Either way of a condition. -/
theorem Keeps.ite {s t u : State} {c : Prop} [Decidable c] (a : Keeps s t) (b : Keeps s u) :
    Keeps s (if c then t else u) := by
  split <;> assumption

variable {s t : State}

/-! ## Updates -/

theorem State.setFn_keeps (f : FnId) (g : Fn → Fn) (w : ∀ x, x.view.length ≤ 32 → (g x).view.length ≤ 32)
    (h : Keeps s t) : Keeps s (t.setFn f g) := by
  refine h.trans ⟨rfl, List.suffix_refl _, fun i => ⟨i.mem, i.yard, i.timers, ?_, i.corr, i.slew, i.log, i.held⟩, id,
    ⟨id, id, id, id⟩⟩
  intro j
  have := i.views j
  simp only [State.fn, State.setFn, Vector.getElem_set] at this ⊢
  split
  · rename_i e
    apply w
    simpa only [State.fn, e] using i.views j
  · exact this

theorem State.setFore_keeps (g : Foreman → Foreman)
    (w : ∀ x, x.log.length ≤ Config.logRecords → (g x).log.length ≤ Config.logRecords)
    (h : Keeps s t) : Keeps s (t.setFore g) :=
  h.trans ⟨rfl, List.suffix_refl _, fun i => ⟨i.mem, i.yard, i.timers, i.views, i.corr, i.slew, w _ i.log, i.held⟩, id,
    ⟨id, id, id, id⟩⟩

theorem State.setLamp_keeps (g : Lamp → Lamp) (w : ∀ x, x.safe = true → (g x).safe = true)
    (h : Keeps s t) : Keeps s (t.setLamp g) :=
  h.trans ⟨rfl, List.suffix_refl _, fun i => ⟨i.mem, i.yard, i.timers, i.views, i.corr, i.slew, i.log, i.held⟩, id,
    ⟨id, w _, id, id⟩⟩

theorem State.setClk_keeps (g : Clocks → Clocks)
    (w : ∀ x, x.corr.natAbs ≤ Config.maxCorrection → (∀ c, x.slew = some c → c.prev.natAbs ≤ Config.maxCorrection) →
      (g x).corr.natAbs ≤ Config.maxCorrection ∧
        ∀ c, (g x).slew = some c → c.prev.natAbs ≤ Config.maxCorrection)
    (h : Keeps s t) : Keeps s (t.setClk g) :=
  h.trans ⟨rfl, List.suffix_refl _, fun i => ⟨i.mem, i.yard, i.timers, i.views, (w _ i.corr i.slew).1, (w _ i.corr i.slew).2,
    i.log, i.held⟩, id, ⟨id, id, id, id⟩⟩

theorem State.send_keeps (x : Sent) (h : Keeps s t) : Keeps s (t.send x) :=
  h.trans ⟨rfl, List.suffix_cons _ _, fun i => ⟨i.mem, i.yard, i.timers, i.views, i.corr, i.slew, i.log, i.held⟩, id,
    ⟨id, id, id, id⟩⟩

/-- The FCU replaced by one with no more timers than there are slots. -/
theorem Keeps.collect (c : Fcu) (w : t.fcu.timers.length ≤ Config.timerSlots → c.timers.length ≤ Config.timerSlots)
    (h : Keeps s t) : Keeps s { t with fcu := c } :=
  h.trans ⟨rfl, List.suffix_refl _, fun i => ⟨i.mem, i.yard, w i.timers, i.views, i.corr, i.slew, i.log, i.held⟩, id,
    ⟨id, id, id, id⟩⟩

/-- Cross-checking replaced by one that holds no more than 1,024 records. -/
theorem Keeps.cross (x : CrossCheck) (w : t.xc.held.length ≤ 1024 → x.held.length ≤ 1024) (h : Keeps s t) :
    Keeps s { t with xc := x } :=
  h.trans ⟨rfl, List.suffix_refl _, fun i => ⟨i.mem, i.yard, i.timers, i.views, i.corr, i.slew, i.log, w i.held⟩, id,
    ⟨id, id, id, id⟩⟩

theorem State.when_keeps (c : Bool) {u : State} (k : Keeps s u) (h : Keeps s t) : Keeps s (t.when c u) := by
  unfold State.when
  split <;> assumption

theorem State.withCmd_keeps (id : Nat) (o : Opcode) (g : Cmd → State) (k : ∀ c, Keeps s (g c)) (h : Keeps s t) :
    Keeps s (t.withCmd id o g) := by
  unfold State.withCmd
  repeat' split
  all_goals first | exact k _ | exact h

theorem State.withJob_keeps (id : Nat) (o : Opcode) (g : Cmd → State) (k : ∀ c, Keeps s (g c)) (h : Keeps s t) :
    Keeps s (t.withJob id o g) := by
  unfold State.withJob
  repeat' split
  all_goals first | exact k _ | exact h

theorem State.eachFn_keeps (g : State → FnId → State) (k : ∀ u f, Keeps s u → Keeps s (g u f)) (h : Keeps s t) :
    Keeps s (t.eachFn g) := Keeps.foldl _ k h

theorem State.holdYard_keeps (r : Run) (d : TensorDecl) (h : Keeps s t) : Keeps s (State.holdYard t r d) := by
  unfold State.holdYard
  dsimp only
  have y : ∀ live, t.yard.mem.wf = true → (t.yard.sweep live).mem.wf = true := fun live w =>
    Memory.foldl_wf _ (fun _ _ k => Memory.zero_wf _ _ _ k) _ _ w
  repeat' split
  · exact h
  · exact h.yard (y _)
  · exact h.yard (fun w => y (fun n => t.fore.runs.any fun r => r.id == n) w)

theorem State.scatter_keeps (r : Run) (j : Nat) (vals : List Int) (h : Keeps s t) : Keeps s (State.scatter t r j vals) := by
  unfold State.scatter
  split
  · exact h
  · exact h.memory (fun w => Memory.foldl_wf _ (fun _ _ k => Memory.scatterLines_wf _ _ _ _ _ k) _ _ w)

theorem State.abortTile_keeps (e' : EngineId) (h : Keeps s t) : Keeps s (State.abortTile t e') := by
  unfold State.abortTile
  try dsimp only
  split
  · exact h
  · split
    · exact h.runs
    · exact State.scatter_keeps _ _ _ h.runs

theorem State.abortTiles_keeps (p : Nat → Bool) (h : Keeps s t) : Keeps s (State.abortTiles t p) := by
  unfold State.abortTiles
  try dsimp only
  repeat' (first
    | (with_reducible assumption) | (with_reducible apply State.abortTile_keeps)
    | (with_reducible apply Keeps.foldl) | (with_reducible apply Keeps.ite) | (intro u a hu) | (split)
    | (fail_if_no_progress with_reducible apply Keeps.plain))

theorem State.setPort_keeps (p : HostPort) (g : PciePort → PciePort) (h : Keeps s t) : Keeps s (State.setPort t p g) := by
  unfold State.setPort
  try dsimp only
  repeat' (first
    | (with_reducible assumption) | (split) | (fail_if_no_progress with_reducible apply Keeps.plain))

theorem State.setStream_keeps (c : CtxId) (g : Stream → Stream) (h : Keeps s t) : Keeps s (State.setStream t c g) := by
  unfold State.setStream
  try dsimp only
  repeat' (first
    | (with_reducible assumption) | (fail_if_no_progress with_reducible apply Keeps.plain))

theorem State.setCl_keeps (p : ClPortId) (g : ClPort → ClPort) (h : Keeps s t) : Keeps s (State.setCl t p g) := by
  unfold State.setCl
  try dsimp only
  repeat' (first
    | (with_reducible assumption) | (fail_if_no_progress with_reducible apply Keeps.plain))

theorem State.setEth_keeps (p : Port4) (g : EthPort → EthPort) (h : Keeps s t) : Keeps s (State.setEth t p g) := by
  unfold State.setEth
  try dsimp only
  repeat' (first
    | (with_reducible assumption) | (fail_if_no_progress with_reducible apply Keeps.plain))

theorem State.setUart_keeps (p : Port4) (g : UartPort → UartPort) (h : Keeps s t) : Keeps s (State.setUart t p g) := by
  unfold State.setUart
  try dsimp only
  repeat' (first
    | (with_reducible assumption) | (fail_if_no_progress with_reducible apply Keeps.plain))

theorem State.setDrift_keeps (p : Port4) (g : DriftPort → DriftPort) (h : Keeps s t) : Keeps s (State.setDrift t p g) := by
  unfold State.setDrift
  try dsimp only
  repeat' (first
    | (with_reducible assumption) | (fail_if_no_progress with_reducible apply Keeps.plain))

theorem State.setCan_keeps (b : BusId) (g : CanBus → CanBus) (h : Keeps s t) : Keeps s (State.setCan t b g) := by
  unfold State.setCan
  try dsimp only
  repeat' (first
    | (with_reducible assumption) | (fail_if_no_progress with_reducible apply Keeps.plain))

theorem State.setWdog_keeps (w : WdogId) (g : Wdog → Wdog) (h : Keeps s t) : Keeps s (State.setWdog t w g) := by
  unfold State.setWdog
  try dsimp only
  repeat' (first
    | (with_reducible assumption) | (fail_if_no_progress with_reducible apply Keeps.plain))

theorem State.setScion_keeps (n : ScionId) (g : Scion → Scion) (h : Keeps s t) : Keeps s (State.setScion t n g) := by
  unfold State.setScion
  try dsimp only
  repeat' (first
    | (with_reducible assumption) | (fail_if_no_progress with_reducible apply Keeps.plain))

theorem State.setEngine_keeps (e' : EngineId) (g : Engine → Engine) (h : Keeps s t) : Keeps s (State.setEngine t e' g) := by
  unfold State.setEngine
  try dsimp only
  repeat' (first
    | (with_reducible assumption) | (fail_if_no_progress with_reducible apply Keeps.plain))

theorem State.setBoot_keeps (g : Boot → Boot) (h : Keeps s t) : Keeps s (State.setBoot t g) := by
  unfold State.setBoot
  try dsimp only
  repeat' (first
    | (with_reducible assumption) | (fail_if_no_progress with_reducible apply Keeps.plain))

theorem State.signal_keeps (f : FnId) (v : Fin 32) (h : Keeps s t) : Keeps s (State.signal t f v) := by
  unfold State.signal
  try dsimp only
  repeat' (first
    | (with_reducible assumption) | (with_reducible apply State.send_keeps)
    | (with_reducible apply State.setFn_keeps _ _ (by exact fun _ hx => hx))
    | (with_reducible apply Keeps.ite) | (intro u a hu) | (split)
    | (fail_if_no_progress with_reducible apply Keeps.plain))

theorem State.setEvent_keeps (f : FnId) (bits : BitVec 7) (h : Keeps s t) : Keeps s (State.setEvent t f bits) := by
  unfold State.setEvent
  try dsimp only
  repeat' (first
    | (with_reducible assumption) | (with_reducible apply State.signal_keeps)
    | (with_reducible apply State.setFn_keeps _ _ (by exact fun _ hx => hx))
    | (with_reducible apply Keeps.ite) | (intro u a hu) | (split)
    | (fail_if_no_progress with_reducible apply Keeps.plain))

theorem State.setError_keeps (f : FnId) (bit : BitVec 4) (ring : Nat) (h : Keeps s t) : Keeps s (State.setError t f bit ring) := by
  unfold State.setError
  try dsimp only
  repeat' (first
    | (with_reducible assumption) | (with_reducible apply State.setEvent_keeps)
    | (with_reducible apply State.setFn_keeps _ _ (by exact fun _ hx => hx))
    | (with_reducible apply Keeps.ite) | (intro u a hu) | (split)
    | (fail_if_no_progress with_reducible apply Keeps.plain))

theorem State.setCmd_keeps (id : Nat) (g : Cmd → Cmd) (h : Keeps s t) : Keeps s (State.setCmd t id g) := by
  unfold State.setCmd
  try dsimp only
  repeat' (first
    | (with_reducible assumption) | (with_reducible apply State.setFore_keeps _ (by exact fun _ hx => hx))
    | (with_reducible apply Keeps.ite) | (intro u a hu) | (split)
    | (fail_if_no_progress with_reducible apply Keeps.plain))

theorem State.finish_keeps (id : Nat) (status : BitVec 16) (detail : BitVec 16) (result : BitVec 64) (h : Keeps s t) : Keeps s (State.finish t id status detail result) := by
  unfold State.finish
  try dsimp only
  repeat' (first
    | (with_reducible assumption) | (with_reducible apply State.setCmd_keeps)
    | (with_reducible apply Keeps.ite) | (intro u a hu) | (split)
    | (fail_if_no_progress with_reducible apply Keeps.plain))

theorem State.hold_keeps (id : Nat) (h : Keeps s t) : Keeps s (State.hold t id) := by
  unfold State.hold
  try dsimp only
  repeat' (first
    | (with_reducible assumption) | (with_reducible apply State.setCmd_keeps) | (intro u a hu)
    | (fail_if_no_progress with_reducible apply Keeps.plain))

theorem State.badBlock_keeps (id : Nat) (off : Nat) (h : Keeps s t) : Keeps s (State.badBlock t id off) := by
  unfold State.badBlock
  try dsimp only
  repeat' (first
    | (with_reducible assumption) | (with_reducible apply State.finish_keeps))

theorem State.kick_keeps (b : BusId) (h : Keeps s t) : Keeps s (State.kick t b) := by
  unfold State.kick
  try dsimp only
  repeat' (first
    | (with_reducible assumption) | (with_reducible apply State.send_keeps)
    | (with_reducible apply State.setCan_keeps) | (with_reducible apply Keeps.ite) | (intro u a hu)
    | (split) | (fail_if_no_progress with_reducible apply Keeps.plain))

theorem State.lampSafe_keeps (cause : Nat) (h : Keeps s t) : Keeps s (State.lampSafe t cause) := by
  unfold State.lampSafe
  refine Keeps.ite h (State.kick_keeps _ (State.kick_keeps _ ?_))
  exact h.trans ⟨rfl, List.suffix_refl _, fun i => ⟨i.mem, i.yard, i.timers, i.views, i.corr, i.slew, i.log, i.held⟩, id,
    ⟨id, fun _ => rfl, id, fun _ => rfl⟩⟩

theorem State.rootSafe_keeps (cause : Nat) (bootCause : Nat) (h : Keeps s t) : Keeps s (State.rootSafe t cause bootCause) := by
  unfold State.rootSafe
  dsimp only
  refine Keeps.ite h (State.eachFn_keeps _ (fun u f k => State.setEvent_keeps _ _ k) ?_)
  have a := State.abortTiles_keeps (s := s) (fun _ => true) h
  generalize t.abortTiles (fun _ => true) = u at a ⊢
  refine a.trans ⟨rfl, List.suffix_refl _, fun i => ⟨i.mem, i.yard, Nat.zero_le _, i.views, i.corr, i.slew, i.log, i.held⟩, id, ⟨fun _ => rfl, id, fun _ => rfl, id⟩⟩

theorem State.distribute_keeps (r : Rec) (h : Keeps s t) : Keeps s (State.distribute t r) := by
  refine State.eachFn_keeps _ (fun u f k => ?_) h
  refine Keeps.ite ?_ k
  have v : Keeps s (u.setFn f (fun x => x.enterView r)) :=
    State.setFn_keeps _ _ (fun x _ => by simp only [Fn.enterView, List.length_take]; omega) k
  exact Keeps.ite v (State.setEvent_keeps _ _ v)

/-- A capture keeps the timers within the slots. -/
theorem Fcu.capture_timers (c : Fcu) (r : Raise) (n : BitVec 64) (us : Nat) (safe : Bool)
    (w : c.timers.length ≤ Config.timerSlots) : (c.capture r n us safe).1.timers.length ≤ Config.timerSlots := by
  unfold Fcu.capture
  dsimp only
  repeat' split
  all_goals first
    | exact w
    | (simp only [List.length_map]; exact w)
    | (simp only [List.length_append, List.length_cons, List.length_nil]; omega)

theorem State.raiseFcu_keeps (r : Raise) (h : Keeps s t) : Keeps s (State.raiseFcu t r) := by
  unfold State.raiseFcu
  refine Keeps.ite ?_ h
  split
  rename_i c rc e
  dsimp only
  have n : t.fcu.timers.length ≤ Config.timerSlots → c.timers.length ≤ Config.timerSlots := by
    have := Fcu.capture_timers t.fcu r (r.time.getD t.now) t.fore.safety.reactionUs t.safe
    rw [e] at this
    exact this
  have k : Keeps s { t with fcu := c } := h.collect c n
  have l : Keeps s (if rc.timer then State.setLamp { t with fcu := c }
      (fun l => { l with toLamp := l.toLamp ++ [.timerStart r.source] }) else { t with fcu := c }) :=
    Keeps.ite (State.setLamp_keeps _ (fun _ hx => hx) k) k
  exact Keeps.ite (State.rootSafe_keeps _ _ (State.distribute_keeps _ l)) (State.distribute_keeps _ l)

theorem State.raiseLamp_keeps (r : Raise) (h : Keeps s t) : Keeps s (State.raiseLamp t r) := by
  unfold State.raiseLamp
  try dsimp only
  repeat' (first
    | (with_reducible assumption) | (with_reducible apply State.lampSafe_keeps)
    | (with_reducible apply State.setLamp_keeps _ (by exact fun _ hx => hx))
    | (with_reducible apply Keeps.ite) | (intro u a hu) | (split)
    | (fail_if_no_progress with_reducible apply Keeps.plain))

theorem State.raise_keeps (r : Raise) (h : Keeps s t) : Keeps s (State.raise t r) := by
  unfold State.raise
  try dsimp only
  repeat' (first
    | (with_reducible assumption) | (with_reducible apply State.raiseLamp_keeps)
    | (with_reducible apply State.raiseFcu_keeps) | (with_reducible apply Keeps.ite) | (split))

theorem State.clearLive_keeps (src : Nat) (e' : Ev) (h : Keeps s t) : Keeps s (State.clearLive t src e') := by
  exact h.collect _ id

theorem State.raiseWide_keeps (src : Nat) (e' : Ev) (h : Keeps s t) : Keeps s (State.raiseWide t src e') := by
  unfold State.raiseWide
  try dsimp only
  repeat' (first
    | (with_reducible assumption) | (with_reducible apply State.raise_keeps))

theorem State.readUnit_keeps (x : Nat × List Nat) (h : Keeps s t) : Keeps s (State.readUnit t x) := by
  unfold State.readUnit
  dsimp only
  split
  · exact h.memory (fun w => Memory.readUnit_wf _ _ _ w)
  · exact State.raise_keeps _ (h.memory (fun w => Memory.readUnit_wf _ _ _ w))

theorem State.senseLines_keeps (l : Nat) (n : Nat) (h : Keeps s t) : Keeps s (State.senseLines t l n) := by
  unfold State.senseLines
  try dsimp only
  repeat' (first
    | (with_reducible assumption) | (with_reducible apply State.readUnit_keeps)
    | (with_reducible apply Keeps.foldl) | (intro u a hu))

theorem State.senseRange_keeps (k' : Nat) (n : Nat) (h : Keeps s t) : Keeps s (State.senseRange t k' n) := by
  unfold State.senseRange
  try dsimp only
  repeat' (first
    | (with_reducible assumption) | (with_reducible apply State.senseLines_keeps))

theorem State.senseEdges_keeps (k' : Nat) (n : Nat) (h : Keeps s t) : Keeps s (State.senseEdges t k' n) := by
  unfold State.senseEdges
  try dsimp only
  repeat' (first
    | (with_reducible assumption) | (with_reducible apply State.senseLines_keeps)
    | (with_reducible apply Keeps.ite) | (split))

theorem State.access_keeps (f : FnId) (va : Nat) (n : Nat) (h : Keeps s t) : Keeps s (State.access t f va n) := by
  unfold State.access
  try dsimp only
  repeat' (first
    | (with_reducible assumption) | (with_reducible apply State.senseRange_keeps)
    | (with_reducible apply State.send_keeps) | (with_reducible apply Keeps.foldl)
    | (with_reducible apply Keeps.ite) | (intro u a hu) | (split))

theorem State.graftCopy_keeps (f : FnId) (class2 : Bool) (h : Keeps s t) : Keeps s (State.graftCopy t f class2) := by
  unfold State.graftCopy
  try dsimp only
  repeat' (first
    | (with_reducible assumption) | (with_reducible apply State.raise_keeps))

theorem State.graftIf_keeps (f : FnId) (class2 : Bool) (d : BitVec 16) (h : Keeps s t) : Keeps s (State.graftIf t f class2 d) := by
  unfold State.graftIf
  try dsimp only
  repeat' (first
    | (with_reducible assumption) | (with_reducible apply State.graftCopy_keeps)
    | (with_reducible apply Keeps.ite) | (split))

theorem State.writeSeg_keeps (f : FnId) (g : Seg) (b : Bytes) (h : Keeps s t) : Keeps s ((State.writeSeg t f g b).1) := by
  unfold State.writeSeg
  split
  · exact State.send_keeps _ h
  · exact (State.senseEdges_keeps _ _ h).memory (fun w => Memory.store_wf _ _ _ w)

theorem State.writeSegs_keeps (f : FnId) (a0 : List Seg) (a1 : Bytes) (h : Keeps s t) : Keeps s ((State.writeSegs t f a0 a1).1) := by
  induction a0 generalizing a1 t with
  | nil => exact h
  | cons g r ih =>
    unfold State.writeSegs
    split
    · exact h
    · have k := State.writeSeg_keeps (s := s) f g (a1.take g.len) h
      split
      · rename_i e
        rw [e] at k
        exact k
      · rename_i e
        rw [e] at k
        exact ih _ k

theorem State.writeVa_keeps (f : FnId) (class2 : Bool) (va : Nat) (b : Bytes) (io : HostIo) (h : Keeps s t) : Keeps s ((State.writeVa t f class2 va b io).1) := by
  unfold State.writeVa
  try dsimp only
  repeat' (first
    | (with_reducible assumption) | (with_reducible apply State.writeSegs_keeps)
    | (with_reducible apply State.graftIf_keeps) | (with_reducible apply State.send_keeps)
    | (refine Keeps.ofFst (by assumption) ?_) | (split)
    | (fail_if_no_progress with_reducible apply Keeps.plain))

theorem State.answer_keeps (c : Cmd) (va : Nat) (b : Bytes) (io : HostIo) (result : BitVec 64) (h : Keeps s t) : Keeps s (State.answer t c va b io result) := by
  unfold State.answer
  try dsimp only
  repeat' (first
    | (with_reducible assumption) | (with_reducible apply State.writeVa_keeps)
    | (with_reducible apply State.finish_keeps) | (refine Keeps.ofFst (by assumption) ?_) | (split)
    | (fail_if_no_progress with_reducible apply Keeps.plain))

theorem State.alloc_keeps (f : FnId) (unit : Nat) (user : Nat) (n : Nat) {u : State} (e : State.alloc t f unit user n = some u) (h : Keeps s t) : Keeps s (u) := by
  unfold State.alloc at e
  split at e
  · simp at e
  · injection e with e
    subst e
    exact State.setPort_keeps _ _ h

theorem State.release_keeps (f : FnId) (user : Nat) (h : Keeps s t) : Keeps s (State.release t f user) := by
  unfold State.release
  try dsimp only
  repeat' (first
    | (with_reducible assumption) | (with_reducible apply State.setPort_keeps) | (intro u a hu)
    | (fail_if_no_progress with_reducible apply Keeps.plain))

theorem State.dropMapping_keeps (f : FnId) (m : Mapping) (h : Keeps s t) : Keeps s (State.dropMapping t f m) := by
  unfold State.dropMapping
  dsimp only
  have k : Keeps s ((t.release f (mapUser f m.va)).setFn f (fun x => { x with maps := x.maps.filter (fun y => y != m) })) :=
    State.setFn_keeps _ _ (fun _ hx => hx) (State.release_keeps _ _ h)
  exact Keeps.ite k (k.memory (fun w => Memory.zero_wf _ _ _ w))

/-- The end of a slew brings back a correction within the bounds. -/
theorem State.endSlew_keeps (h : Keeps s t) : Keeps s (t.setClk Clocks.endSlew) := by
  refine State.setClk_keeps _ (fun x a b => ?_) h
  unfold Clocks.endSlew
  split
  · rename_i p e
    exact ⟨b p e, fun c k => by simp at k⟩
  · exact ⟨a, b⟩

theorem State.tick_keeps (h : Keeps s t) : Keeps s (State.tick t) := by
  unfold State.tick
  refine Keeps.ite (State.setClk_keeps _ (fun x hx hy => ⟨hx, fun c q => ?_⟩) h) h
  simp only [Clocks.cycle, Option.map_eq_some_iff] at q
  obtain ⟨w, k, rfl⟩ := q
  exact hy w k

theorem State.stepTime_keeps (target : Nat) (h : Keeps s t) : Keeps s (State.stepTime t target) := by
  unfold State.stepTime
  try dsimp only
  repeat' (first
    | (with_reducible assumption)
    | (with_reducible apply State.setClk_keeps _ (by exact fun _ hx hy => ⟨hx, hy⟩))
    | (with_reducible apply Keeps.ite) | (intro u a hu) | (split)
    | (fail_if_no_progress with_reducible apply Keeps.plain))

theorem State.unlatch_keeps (q : BitVec 21) (episode : Option (BitVec 21)) (h : Keeps s t) : Keeps s (State.unlatch t q episode) := by
  unfold State.unlatch
  refine h.trans ⟨rfl, List.suffix_refl _, fun i => ⟨i.mem, i.yard, i.timers, fun f => ?_, i.corr, i.slew, i.log, i.held⟩, id,
    ⟨id, id, id, id⟩⟩
  simpa only [State.fn, Vector.getElem_map, List.length_map] using i.views f

theorem State.stopTimer_keeps (src : Nat) (h : Keeps s t) : Keeps s (State.stopTimer t src) := by
  unfold State.stopTimer
  exact State.setLamp_keeps _ (fun _ hx => hx) (h.collect _ (fun w => (List.length_filter_le _ _).trans w))

theorem State.setSq_keeps (f : FnId) (n : RingId) (g : SubRing → SubRing) (h : Keeps s t) : Keeps s (State.setSq t f n g) := by
  unfold State.setSq
  try dsimp only
  repeat' (first
    | (with_reducible assumption) | (with_reducible apply State.setFn_keeps _ _ (by exact fun _ hx => hx))
    | (intro u a hu) | (fail_if_no_progress with_reducible apply Keeps.plain))

theorem State.setCq_keeps (f : FnId) (n : RingId) (g : CompRing → CompRing) (h : Keeps s t) : Keeps s (State.setCq t f n g) := by
  unfold State.setCq
  try dsimp only
  repeat' (first
    | (with_reducible assumption) | (with_reducible apply State.setFn_keeps _ _ (by exact fun _ hx => hx))
    | (intro u a hu) | (fail_if_no_progress with_reducible apply Keeps.plain))

theorem State.tailDoorbell_keeps (f : FnId) (n : RingId) (v : Nat) (h : Keeps s t) : Keeps s (State.tailDoorbell t f n v) := by
  unfold State.tailDoorbell
  try dsimp only
  repeat' (first
    | (with_reducible assumption) | (with_reducible apply State.setSq_keeps)
    | (with_reducible apply State.setError_keeps) | (with_reducible apply Keeps.ite) | (intro u a hu)
    | (split) | (fail_if_no_progress with_reducible apply Keeps.plain))

theorem State.headDoorbell_keeps (f : FnId) (n : RingId) (v : Nat) (h : Keeps s t) : Keeps s (State.headDoorbell t f n v) := by
  unfold State.headDoorbell
  try dsimp only
  repeat' (first
    | (with_reducible assumption) | (with_reducible apply State.setCq_keeps)
    | (with_reducible apply State.setError_keeps) | (with_reducible apply Keeps.ite) | (intro u a hu)
    | (split) | (fail_if_no_progress with_reducible apply Keeps.plain))

theorem State.sqControl_keeps (f : FnId) (n : RingId) (v : BitVec 32) (h : Keeps s t) : Keeps s (State.sqControl t f n v) := by
  unfold State.sqControl
  try dsimp only
  repeat' (first
    | (with_reducible assumption) | (with_reducible apply State.setSq_keeps)
    | (with_reducible apply State.setError_keeps) | (with_reducible apply Keeps.ite) | (intro u a hu)
    | (split) | (fail_if_no_progress with_reducible apply Keeps.plain))

theorem State.cqControl_keeps (f : FnId) (n : RingId) (v : BitVec 32) (h : Keeps s t) : Keeps s (State.cqControl t f n v) := by
  unfold State.cqControl
  try dsimp only
  repeat' (first
    | (with_reducible assumption) | (with_reducible apply State.setCq_keeps)
    | (with_reducible apply State.setError_keeps) | (with_reducible apply Keeps.ite) | (intro u a hu)
    | (split) | (fail_if_no_progress with_reducible apply Keeps.plain))

theorem State.toLampDie_keeps (m : SeamMsg) (h : Keeps s t) : Keeps s (State.toLampDie t m) := by
  unfold State.toLampDie
  try dsimp only
  repeat' (first
    | (with_reducible assumption) | (with_reducible apply State.setLamp_keeps _ (by exact fun _ hx => hx))
    | (with_reducible apply Keeps.ite) | (intro u a hu) | (split)
    | (fail_if_no_progress with_reducible apply Keeps.plain))

theorem State.sendService_keeps (w : WdogId) (x : Service) (h : Keeps s t) : Keeps s (State.sendService t w x) := by
  unfold State.sendService
  try dsimp only
  repeat' (first
    | (with_reducible assumption) | (with_reducible apply State.toLampDie_keeps))

theorem State.arm_keeps (p : HostPort) (b : Bool) (h : Keeps s t) : Keeps s (State.arm t p b) := by
  unfold State.arm
  try dsimp only
  repeat' (first
    | (with_reducible assumption) | (with_reducible apply State.setPort_keeps) | (intro u a hu)
    | (fail_if_no_progress with_reducible apply Keeps.plain))

theorem State.keyError_keeps (p : HostPort) (h : Keeps s t) : Keeps s (State.keyError t p) := by
  unfold State.keyError
  try dsimp only
  repeat' (first
    | (with_reducible assumption) | (with_reducible apply State.arm_keeps)
    | (with_reducible apply State.sendService_keeps))

theorem State.key2_keeps (p : HostPort) (h : Keeps s t) : Keeps s (State.key2 t p) := by
  unfold State.key2
  try dsimp only
  repeat' (first
    | (with_reducible assumption) | (with_reducible apply State.keyError_keeps)
    | (with_reducible apply State.arm_keeps) | (with_reducible apply State.sendService_keeps)
    | (with_reducible apply Keeps.ite) | (split))

theorem State.msixMask_keeps (f : FnId) (v : Fin 32) (masked : Bool) (h : Keeps s t) : Keeps s (State.msixMask t f v masked) := by
  unfold State.msixMask
  try dsimp only
  repeat' (first
    | (with_reducible assumption) | (with_reducible apply State.signal_keeps)
    | (with_reducible apply State.setFn_keeps _ _ (by exact fun _ hx => hx))
    | (with_reducible apply Keeps.ite) | (intro u a hu) | (split)
    | (fail_if_no_progress with_reducible apply Keeps.plain))

theorem State.sqBase_keeps (f : FnId) (n : RingId) (high : Bool) (v : BitVec 32) (h : Keeps s t) : Keeps s (State.sqBase t f n high v) := by
  unfold State.sqBase
  try dsimp only
  repeat' (first
    | (with_reducible assumption) | (with_reducible apply State.setSq_keeps)
    | (with_reducible apply State.setError_keeps) | (with_reducible apply Keeps.ite) | (intro u a hu)
    | (split) | (fail_if_no_progress with_reducible apply Keeps.plain))

theorem State.cqBase_keeps (f : FnId) (n : RingId) (high : Bool) (v : BitVec 32) (h : Keeps s t) : Keeps s (State.cqBase t f n high v) := by
  unfold State.cqBase
  try dsimp only
  repeat' (first
    | (with_reducible assumption) | (with_reducible apply State.setCq_keeps)
    | (with_reducible apply State.setError_keeps) | (with_reducible apply Keeps.ite) | (intro u a hu)
    | (split) | (fail_if_no_progress with_reducible apply Keeps.plain))

theorem State.msixWrite_keeps (f : FnId) (i : Fin 32) (word : Nat) (v : BitVec 32) (h : Keeps s t) : Keeps s (State.msixWrite t f i word v) := by
  unfold State.msixWrite
  try dsimp only
  repeat' (first
    | (with_reducible assumption) | (with_reducible apply State.msixMask_keeps)
    | (with_reducible apply State.setFn_keeps _ _ (by exact fun _ hx => hx))
    | (with_reducible apply Keeps.ite) | (intro u a hu) | (split)
    | (fail_if_no_progress with_reducible apply Keeps.plain))

theorem State.barWrite_keeps (f : FnId) (offset : Nat) (v : BitVec 32) (h : Keeps s t) : Keeps s (State.barWrite t f offset v) := by
  unfold State.barWrite
  try dsimp only
  repeat' (first
    | (with_reducible assumption) | (with_reducible apply State.msixWrite_keeps)
    | (with_reducible apply State.cqBase_keeps) | (with_reducible apply State.sqBase_keeps)
    | (with_reducible apply State.key2_keeps) | (with_reducible apply State.keyError_keeps)
    | (with_reducible apply State.arm_keeps) | (with_reducible apply State.cqControl_keeps)
    | (with_reducible apply State.sqControl_keeps) | (with_reducible apply State.headDoorbell_keeps)
    | (with_reducible apply State.tailDoorbell_keeps) | (with_reducible apply State.setCq_keeps)
    | (with_reducible apply State.setFn_keeps _ _ (by exact fun _ hx => hx))
    | (with_reducible apply Keeps.ite) | (intro u a hu) | (split)
    | (fail_if_no_progress with_reducible apply Keeps.plain))

theorem State.retire_keeps (id : Nat) (h : Keeps s t) : Keeps s (State.retire t id) := by
  unfold State.retire
  try dsimp only
  repeat' (first
    | (with_reducible assumption) | (with_reducible apply State.setFore_keeps _ (by exact fun _ hx => hx))
    | (intro u a hu) | (fail_if_no_progress with_reducible apply Keeps.plain))

theorem State.signalCq_keeps (f : FnId) (n : RingId) (h : Keeps s t) : Keeps s (State.signalCq t f n) := by
  unfold State.signalCq
  try dsimp only
  repeat' (first
    | (with_reducible assumption) | (with_reducible apply State.setCq_keeps)
    | (with_reducible apply State.signal_keeps) | (intro u a hu) | (split)
    | (fail_if_no_progress with_reducible apply Keeps.plain))

theorem State.moderate_keeps (f : FnId) (n : RingId) (notify : Bool) (h : Keeps s t) : Keeps s (State.moderate t f n notify) := by
  unfold State.moderate
  try dsimp only
  repeat' (first
    | (with_reducible assumption) | (with_reducible apply State.signalCq_keeps)
    | (with_reducible apply State.setCq_keeps) | (with_reducible apply Keeps.ite) | (intro u a hu) | (split)
    | (fail_if_no_progress with_reducible apply Keeps.plain))

theorem State.helloDone_keeps (f : FnId) (status : BitVec 16) (result : BitVec 64) (h : Keeps s t) : Keeps s (State.helloDone t f status result) := by
  unfold State.helloDone
  try dsimp only
  repeat' (first
    | (with_reducible assumption) | (with_reducible apply State.setWdog_keeps)
    | (with_reducible apply State.setFn_keeps _ _ (by exact fun _ hx => hx))
    | (with_reducible apply Keeps.ite) | (intro u a hu) | (split)
    | (fail_if_no_progress with_reducible apply Keeps.plain))

theorem State.dropRuns_keeps (p : Run → Bool) (h : Keeps s t) : Keeps s (State.dropRuns t p) := by
  unfold State.dropRuns
  try dsimp only
  repeat' (first
    | (with_reducible assumption) | (with_reducible apply State.setFore_keeps _ (by exact fun _ hx => hx))
    | (with_reducible apply State.abortTiles_keeps) | (intro u a hu) | (split)
    | (fail_if_no_progress with_reducible apply Keeps.plain))

theorem State.flrBegin_keeps (f : FnId) (h : Keeps s t) : Keeps s (State.flrBegin t f) := by
  unfold State.flrBegin
  try dsimp only
  repeat' (first
    | (with_reducible assumption) | (with_reducible apply State.dropRuns_keeps)
    | (with_reducible apply State.setFore_keeps _ (by exact fun _ hx => hx))
    | (with_reducible apply State.setFn_keeps _ _ (by exact fun _ hx => hx))
    | (with_reducible apply Keeps.ite) | (intro u a hu) | (split)
    | (fail_if_no_progress with_reducible apply Keeps.plain))

theorem State.flr_keeps (f : FnId) (h : Keeps s t) : Keeps s (State.flr t f) := by
  unfold State.flr
  try dsimp only
  repeat' (first
    | (with_reducible assumption) | (with_reducible apply State.flrBegin_keeps)
    | (with_reducible apply State.eachFn_keeps)
    | (with_reducible apply State.setFn_keeps _ _ (by exact fun _ hx => hx))
    | (with_reducible apply State.setPort_keeps) | (with_reducible apply Keeps.ite) | (intro u a hu)
    | (split) | (fail_if_no_progress with_reducible apply Keeps.plain))

theorem State.flrEnd_keeps (f : FnId) (h : Keeps s t) : Keeps s (State.flrEnd t f) := by
  unfold State.flrEnd
  dsimp only
  have k : Keeps s { t with
      streams := t.streams.map (fun y => if y.isOpen ∧ y.owner = f then y.close else y)
      mem := (t.mem.zero (memKey f 0) (2 ^ 48)).zero (graphKey f 0 0) (2 ^ 64) } := h.memory (fun w => Memory.zero_wf _ _ _ (Memory.zero_wf _ _ _ w))
  refine (State.setPort_keeps (s := s) (portOf f) (fun p => { p with frames := releaseFn f p.frames })
    (State.setFore_keeps (fun y => { y with
      reservations := y.reservations.filter (fun r => r.fn != f)
      resChanged := y.resChanged || y.reservations.any (fun r => r.fn == f) }) (fun _ hx => hx) k)).trans ?_
  refine ⟨rfl, List.suffix_refl _, fun i => ⟨i.mem, i.yard, i.timers, fun j => ?_, i.corr, i.slew, i.log, i.held⟩, id,
    ⟨id, id, id, id⟩⟩
  have a := i.views j
  have b := i.views f
  have c : ∀ (u : State) (g : PciePort → PciePort), (u.setPort (portOf f) g).fns = u.fns := by
    intro u g
    cases portOf f <;> rfl
  simp only [State.fn, State.setFn, Vector.getElem_set, c] at a b ⊢
  split
  · exact b
  · exact a

theorem State.signalPending_keeps (f : FnId) (h : Keeps s t) : Keeps s (State.signalPending t f) := by
  unfold State.signalPending
  try dsimp only
  repeat' (first
    | (with_reducible assumption) | (with_reducible apply State.signal_keeps)
    | (with_reducible apply State.setFn_keeps _ _ (by exact fun _ hx => hx))
    | (with_reducible apply Keeps.foldl) | (with_reducible apply Keeps.ite) | (intro u a hu) | (split)
    | (fail_if_no_progress with_reducible apply Keeps.plain))

theorem State.msixControl_keeps (f : FnId) (enable : Bool) (mask : Bool) (h : Keeps s t) : Keeps s (State.msixControl t f enable mask) := by
  unfold State.msixControl
  try dsimp only
  repeat' (first
    | (with_reducible assumption) | (with_reducible apply State.signalPending_keeps)
    | (with_reducible apply State.msixMask_keeps)
    | (with_reducible apply State.setFn_keeps _ _ (by exact fun _ hx => hx))
    | (with_reducible apply Keeps.ite) | (intro u a hu) | (split)
    | (fail_if_no_progress with_reducible apply Keeps.plain))

theorem State.rootLosesSeam_keeps (h : Keeps s t) : Keeps s (State.rootLosesSeam t) := by
  unfold State.rootLosesSeam
  try dsimp only
  repeat' (first
    | (with_reducible assumption) | (with_reducible apply State.raiseWide_keeps)
    | (with_reducible apply State.setLamp_keeps _ (by exact fun _ hx => hx))
    | (with_reducible apply Keeps.ite) | (intro u a hu) | (split)
    | (fail_if_no_progress with_reducible apply Keeps.plain))

theorem State.lampLosesSeam_keeps (h : Keeps s t) : Keeps s (State.lampLosesSeam t) := by
  unfold State.lampLosesSeam
  try dsimp only
  repeat' (first
    | (with_reducible assumption) | (with_reducible apply State.raiseWide_keeps)
    | (with_reducible apply State.setLamp_keeps _ (by exact fun _ hx => hx))
    | (with_reducible apply Keeps.ite) | (intro u a hu) | (split)
    | (fail_if_no_progress with_reducible apply Keeps.plain))

theorem State.losesSeam_keeps (a0 : Side) (h : Keeps s t) : Keeps s (State.losesSeam t a0) := by
  unfold State.losesSeam
  try dsimp only
  repeat' (first
    | (with_reducible assumption) | (with_reducible apply State.lampLosesSeam_keeps)
    | (with_reducible apply State.rootLosesSeam_keeps) | (split))

theorem State.clockTrip_keeps (m : Monitor) (h : Keeps s t) : Keeps s (State.clockTrip t m) := by
  unfold State.clockTrip
  try dsimp only
  repeat' (first
    | (with_reducible assumption) | (with_reducible apply State.raise_keeps))

theorem State.partnerLost_keeps (h : Keeps s t) : Keeps s (State.partnerLost t) := by
  unfold State.partnerLost
  try dsimp only
  repeat' (first
    | (with_reducible assumption) | (with_reducible apply State.rootLosesSeam_keeps)
    | (with_reducible apply State.setLamp_keeps _ (by exact fun _ hx => hx)) | (intro u a hu)
    | (fail_if_no_progress with_reducible apply Keeps.plain))

theorem State.loscFails_keeps (h : Keeps s t) : Keeps s (State.loscFails t) := by
  unfold State.loscFails
  apply State.clockTrip_keeps
  exact h.trans ⟨rfl, List.suffix_refl _, fun i => ⟨i.mem, i.yard, i.timers, i.views, i.corr, i.slew, i.log, i.held⟩, id,
    ⟨id, fun _ => rfl, id, fun _ => rfl⟩⟩

theorem State.noscFallback_keeps (h : Keeps s t) : Keeps s (State.noscFallback t) := by
  unfold State.noscFallback
  try dsimp only
  repeat' (first
    | (with_reducible assumption) | (with_reducible apply Keeps.ite) | (intro u a hu) | (split)
    | (fail_if_no_progress with_reducible apply Keeps.plain))

theorem State.trip_keeps (a0 : Monitor) (h : Keeps s t) : Keeps s (State.trip t a0) := by
  unfold State.trip
  try dsimp only
  repeat' (first
    | (with_reducible assumption) | (with_reducible apply State.noscFallback_keeps)
    | (with_reducible apply State.loscFails_keeps) | (with_reducible apply State.partnerLost_keeps)
    | (with_reducible apply State.clockTrip_keeps) | (with_reducible apply State.lampSafe_keeps)
    | (with_reducible apply State.setLamp_keeps _ (by exact fun _ hx => hx)) | (intro u a hu) | (split)
    | (fail_if_no_progress with_reducible apply Keeps.plain))

/-- A wake event during the entry to Night changes nothing else. -/
theorem State.wakeLater_keeps (c : WakeCause) (h : Keeps s t) : Keeps s (State.wakeLater t c) :=
  h.trans ⟨rfl, List.suffix_refl _, fun i => ⟨i.mem, i.yard, i.timers, i.views, i.corr, i.slew, i.log, i.held⟩, id,
    ⟨id, id, id, id⟩⟩

theorem State.wdogWarns_keeps (w : WdogId) (h : Keeps s t) : Keeps s (State.wdogWarns t w) := by
  unfold State.wdogWarns
  try dsimp only
  repeat' (first
    | (with_reducible assumption) | (with_reducible apply State.wakeLater_keeps) | (with_reducible apply State.raiseWide_keeps)
    | (with_reducible apply State.raise_keeps) | (with_reducible apply State.setEvent_keeps)
    | (with_reducible apply State.setWdog_keeps) | (with_reducible apply Keeps.ite) | (intro u a hu)
    | (split) | (fail_if_no_progress with_reducible apply Keeps.plain))

theorem State.wdogFails_keeps (w : WdogId) (h : Keeps s t) : Keeps s (State.wdogFails t w) := by
  unfold State.wdogFails
  try dsimp only
  repeat' (first
    | (with_reducible assumption) | (with_reducible apply State.raiseWide_keeps)
    | (with_reducible apply State.lampSafe_keeps)
    | (with_reducible apply State.setLamp_keeps _ (by exact fun _ hx => hx))
    | (with_reducible apply State.setWdog_keeps) | (with_reducible apply Keeps.ite) | (intro u a hu)
    | (split) | (fail_if_no_progress with_reducible apply Keeps.plain))

/-- The device in Run. -/
theorem Keeps.run (h : Keeps s t) {dozeDue eclkStopped : Bool} :
    Keeps s { t with power := { t.power with state := .run, dozeDue := dozeDue, eclkStopped := eclkStopped } } :=
  h.trans ⟨rfl, List.suffix_refl _, fun i => ⟨i.mem, i.yard, i.timers, i.views, i.corr, i.slew, i.log, i.held⟩,
    by simp [State.awake], ⟨id, id, id, id⟩⟩

theorem State.wdogFailure_keeps (w : WdogId) (h : Keeps s t) : Keeps s (State.wdogFailure t w) := by
  unfold State.wdogFailure
  dsimp only
  have k : Keeps s (if t.power.state = .doze then
      { t with power := { t.power with state := .run, dozeDue := false, eclkStopped := false } } else t) :=
    Keeps.ite h.run h
  exact Keeps.ite (State.wdogFails_keeps _ k) (State.wdogWarns_keeps _ k)

theorem State.wdogJudge_keeps (w : WdogId) (x : Service) (tick : Nat) (h : Keeps s t) : Keeps s (State.wdogJudge t w x tick) := by
  unfold State.wdogJudge
  try dsimp only
  repeat' (first
    | (with_reducible assumption) | (with_reducible apply State.wdogFailure_keeps)
    | (with_reducible apply State.keyError_keeps) | (with_reducible apply State.tick_keeps)
    | (with_reducible apply State.setWdog_keeps) | (with_reducible apply Keeps.ite) | (intro u a hu)
    | (split) | (fail_if_no_progress with_reducible apply Keeps.plain))

theorem State.crosses_keeps (m : SeamMsg) (cmd : Nat) (h : Keeps s t) : Keeps s (State.crosses t m cmd) := by
  unfold State.crosses
  try dsimp only
  repeat' (first
    | (with_reducible assumption) | (with_reducible apply State.toLampDie_keeps)
    | (with_reducible apply State.hold_keeps))

theorem State.withCrossed_keeps (id : Nat) (o : Opcode) (g : Cmd → State) (k : ∀ c, Keeps s (g c)) (h : Keeps s t) :
    Keeps s (State.withCrossed t id o g) := by
  unfold State.withCrossed
  repeat' split
  all_goals first | exact k _ | exact h

theorem State.wdogConfigArrives_keeps (cmd : Nat) (h : Keeps s t) : Keeps s (State.wdogConfigArrives t cmd) := by
  unfold State.wdogConfigArrives
  try dsimp only
  repeat' (first
    | (with_reducible assumption) | (with_reducible apply State.withCrossed_keeps)
    | (with_reducible apply State.finish_keeps) | (with_reducible apply State.setWdog_keeps)
    | (with_reducible apply Keeps.ite) | (intro u a hu) | (intro c) | (split)
    | (fail_if_no_progress with_reducible apply Keeps.plain))

theorem State.withdrawFrames_keeps (b : BusId) (p : Nat × CanFrame → Bool) (status : BitVec 16) (detail : BitVec 16) (h : Keeps s t) : Keeps s (State.withdrawFrames t b p status detail) := by
  unfold State.withdrawFrames
  try dsimp only
  repeat' (first
    | (with_reducible assumption) | (with_reducible apply State.finish_keeps)
    | (with_reducible apply State.setCan_keeps) | (with_reducible apply Keeps.foldl) | (intro u a hu)
    | (split) | (fail_if_no_progress with_reducible apply Keeps.plain))

theorem State.canConfigArrives_keeps (cmd : Nat) (h : Keeps s t) : Keeps s (State.canConfigArrives t cmd) := by
  unfold State.canConfigArrives
  try dsimp only
  repeat' (first
    | (with_reducible assumption) | (with_reducible apply State.withdrawFrames_keeps)
    | (with_reducible apply State.withCrossed_keeps) | (with_reducible apply State.finish_keeps)
    | (with_reducible apply State.setCan_keeps) | (with_reducible apply Keeps.ite) | (intro u a hu)
    | (intro c) | (split) | (fail_if_no_progress with_reducible apply Keeps.plain))

theorem State.canSendArrives_keeps (cmd : Nat) (h : Keeps s t) : Keeps s (State.canSendArrives t cmd) := by
  unfold State.canSendArrives
  try dsimp only
  repeat' (first
    | (with_reducible assumption) | (with_reducible apply State.withCrossed_keeps)
    | (with_reducible apply State.kick_keeps) | (with_reducible apply State.finish_keeps)
    | (with_reducible apply State.setCan_keeps) | (with_reducible apply Keeps.ite) | (intro u a hu)
    | (intro c) | (split) | (fail_if_no_progress with_reducible apply Keeps.plain))

theorem State.safeMessageArrives_keeps (cmd : Nat) (h : Keeps s t) : Keeps s (State.safeMessageArrives t cmd) := by
  unfold State.safeMessageArrives
  try dsimp only
  repeat' (first
    | (with_reducible assumption) | (with_reducible apply State.withCrossed_keeps)
    | (with_reducible apply State.finish_keeps) | (with_reducible apply State.setCan_keeps)
    | (with_reducible apply Keeps.ite) | (intro u a hu) | (intro c) | (split)
    | (fail_if_no_progress with_reducible apply Keeps.plain))

theorem State.canPassive_keeps (b : BusId) (h : Keeps s t) : Keeps s (State.canPassive t b) := by
  unfold State.canPassive
  try dsimp only
  repeat' (first
    | (with_reducible assumption) | (with_reducible apply State.raiseWide_keeps)
    | (with_reducible apply State.setCan_keeps) | (with_reducible apply Keeps.ite) | (intro u a hu)
    | (split) | (fail_if_no_progress with_reducible apply Keeps.plain))

theorem State.canBusOff_keeps (b : BusId) (h : Keeps s t) : Keeps s (State.canBusOff t b) := by
  unfold State.canBusOff
  try dsimp only
  repeat' (first
    | (with_reducible assumption) | (with_reducible apply State.withdrawFrames_keeps)
    | (with_reducible apply State.raiseWide_keeps) | (with_reducible apply State.setCan_keeps)
    | (with_reducible apply Keeps.ite) | (intro u a hu) | (split)
    | (fail_if_no_progress with_reducible apply Keeps.plain))

theorem State.beatHeard_keeps (d : Side) (h : Keeps s t) : Keeps s (State.beatHeard t d) :=
  State.setLamp_keeps _ (fun x hx => by cases d <;> exact hx) h

theorem State.lampActs_keeps (a0 : SeamMsg) (h : Keeps s t) : Keeps s (State.lampActs t a0) := by
  unfold State.lampActs
  try dsimp only
  repeat' (first
    | (with_reducible assumption) | (with_reducible apply State.beatHeard_keeps)
    | (with_reducible apply State.safeMessageArrives_keeps)
    | (with_reducible apply State.canSendArrives_keeps)
    | (with_reducible apply State.canConfigArrives_keeps)
    | (with_reducible apply State.wdogConfigArrives_keeps) | (with_reducible apply State.lampSafe_keeps)
    | (with_reducible apply State.setLamp_keeps _ (by exact fun _ hx => hx))
    | (with_reducible apply State.setWdog_keeps) | (with_reducible apply Keeps.ite) | (intro u a hu)
    | (split) | (fail_if_no_progress with_reducible apply Keeps.plain))

theorem State.rootActs_keeps (a0 : SeamMsg) (h : Keeps s t) : Keeps s (State.rootActs t a0) := by
  unfold State.rootActs
  try dsimp only
  repeat' (first
    | (with_reducible assumption) | (with_reducible apply State.beatHeard_keeps)
    | (with_reducible apply State.flr_keeps) | (with_reducible apply State.raiseFcu_keeps)
    | (with_reducible apply State.rootSafe_keeps) | (split))

theorem State.dropMsg_keeps (d : Side) (m : SeamMsg) (h : Keeps s t) : Keeps s (State.dropMsg t d m) := by
  unfold State.dropMsg
  try dsimp only
  repeat' (first
    | (with_reducible assumption) | (with_reducible apply State.setLamp_keeps _ (by exact fun _ hx => hx))
    | (intro u a hu) | (split) | (fail_if_no_progress with_reducible apply Keeps.plain))

theorem State.deliver_keeps (d : Side) (h : Keeps s t) : Keeps s (State.deliver t d) := by
  unfold State.deliver
  try dsimp only
  repeat' (first
    | (with_reducible assumption) | (with_reducible apply State.dropMsg_keeps)
    | (with_reducible apply State.rootActs_keeps) | (with_reducible apply State.lampActs_keeps) | (split)
    | (fail_if_no_progress with_reducible apply Keeps.plain))

theorem State.beat_keeps (d : Side) (h : Keeps s t) : Keeps s (State.beat t d) := by
  unfold State.beat
  refine State.setLamp_keeps _ (fun x hx => ?_) h
  repeat' split
  all_goals exact hx

theorem State.driftWire_keeps (p : Port4) (b : Bytes) (h : Keeps s t) : Keeps s (State.driftWire t p b) := by
  unfold State.driftWire
  try dsimp only
  repeat' (first
    | (with_reducible assumption) | (with_reducible apply State.send_keeps)
    | (with_reducible apply State.setDrift_keeps) | (intro u a hu)
    | (fail_if_no_progress with_reducible apply Keeps.plain))

theorem State.driftSend_keeps (p : Port4) (dest : Nat) (type : Nat) (src : Nat) (payload : Bytes) (h : Keeps s t) : Keeps s (State.driftSend t p dest type src payload) := by
  unfold State.driftSend
  try dsimp only
  repeat' (first
    | (with_reducible assumption) | (with_reducible apply State.driftWire_keeps)
    | (with_reducible apply State.setDrift_keeps) | (with_reducible apply Keeps.ite) | (intro u a hu)
    | (split) | (fail_if_no_progress with_reducible apply Keeps.plain))

theorem State.driftLack_keeps (p : Port4) (lseq : BitVec 16) (nak : Bool) (h : Keeps s t) : Keeps s (State.driftLack t p lseq nak) := by
  unfold State.driftLack
  try dsimp only
  repeat' (first
    | (with_reducible assumption) | (with_reducible apply State.driftWire_keeps) | (split))

theorem State.driftWireAll_keeps (p : Port4) (l : List (BitVec 16 × Bytes)) (h : Keeps s t) : Keeps s (State.driftWireAll t p l) := by
  unfold State.driftWireAll
  try dsimp only
  repeat' (first
    | (with_reducible assumption) | (with_reducible apply State.driftWire_keeps)
    | (with_reducible apply Keeps.foldl) | (intro u a hu))

theorem State.driftRoute_keeps (via : Port4) (dest : Nat) (type : Nat) (src : Nat) (payload : Bytes) (h : Keeps s t) : Keeps s (State.driftRoute t via dest type src payload) := by
  unfold State.driftRoute
  try dsimp only
  repeat' (first
    | (with_reducible assumption) | (with_reducible apply State.driftSend_keeps)
    | (with_reducible apply State.setDrift_keeps) | (with_reducible apply Keeps.ite) | (intro u a hu)
    | (split) | (fail_if_no_progress with_reducible apply Keeps.plain))

theorem State.xcMismatch_keeps (ctx : Nat) (h : Keeps s t) : Keeps s (State.xcMismatch t ctx) := by
  unfold State.xcMismatch
  try dsimp only
  repeat' (first
    | (with_reducible assumption) | (with_reducible apply State.raise_keeps)
    | (with_reducible apply Keeps.ite) | (split)
    | (with_reducible apply Keeps.cross _ (by first | exact id | exact fun w => (List.length_filter_le _ _).trans w))
    | (fail_if_no_progress with_reducible apply Keeps.plain))

theorem State.xcMissing_keeps (ctx : Nat) (h : Keeps s t) : Keeps s (State.xcMissing t ctx) := by
  unfold State.xcMissing
  exact State.xcMismatch_keeps _ (h.cross _ id)

theorem State.xcRecord_keeps (d : Digest) (h : Keeps s t) : Keeps s (State.xcRecord t d) := by
  unfold State.xcRecord
  dsimp only
  split
  · have drop : ∀ m, t.xc.held.length ≤ 1024 → (t.xc.held.erase m).length ≤ 1024 :=
      fun m w => (List.length_erase_le ..).trans w
    exact Keeps.ite (h.cross _ (drop _)) (Keeps.ite (h.cross _ (drop _)) (State.xcMismatch_keeps _ (h.cross _ (drop _))))
  · split
    · rename_i old rest e
      have n : rest.length = t.xc.held.length := by
        have := congrArg List.length e
        simp only [List.length_append, List.length_cons, List.length_nil] at this
        omega
      split
      · exact State.xcMissing_keeps _ (h.cross _ (fun w => by simp only [n]; exact w))
      · rename_i c
        refine h.cross _ (fun _ => ?_)
        simpa only [Nat.not_lt] using c
    · rename_i e
      simp at e

theorem State.sendDigest_keeps (ctx : Nat) (status : BitVec 16) (counter : BitVec 32) (time : BitVec 64) (digest : BitVec 32) (h : Keeps s t) : Keeps s (State.sendDigest t ctx status counter time digest) := by
  unfold State.sendDigest
  try dsimp only
  repeat' (first
    | (with_reducible assumption) | (with_reducible apply State.xcRecord_keeps)
    | (with_reducible apply State.driftRoute_keeps) | (with_reducible apply Keeps.ite) | (split)
    | (with_reducible apply Keeps.cross _ (by first | exact id | exact fun w => (List.length_filter_le _ _).trans w))
    | (fail_if_no_progress with_reducible apply Keeps.plain))

theorem State.driftLacked_keeps (p : Port4) (lseq : BitVec 16) (nak : Bool) (h : Keeps s t) : Keeps s (State.driftLacked t p lseq nak) := by
  unfold State.driftLacked
  try dsimp only
  repeat' (first
    | (with_reducible assumption) | (with_reducible apply State.driftWireAll_keeps)
    | (with_reducible apply State.setDrift_keeps) | (with_reducible apply Keeps.ite) | (intro u a hu)
    | (split) | (fail_if_no_progress with_reducible apply Keeps.plain))

theorem State.driftLink_keeps (p : Port4) (b : Bytes) (h : Keeps s t) : Keeps s (State.driftLink t p b) := by
  unfold State.driftLink
  try dsimp only
  repeat' (first
    | (with_reducible assumption) | (with_reducible apply State.setDrift_keeps)
    | (with_reducible apply Keeps.ite) | (intro u a hu) | (split)
    | (fail_if_no_progress with_reducible apply Keeps.plain))

theorem State.driftDigest_keeps (d : DriftIn) (h : Keeps s t) : Keeps s (State.driftDigest t d) := by
  unfold State.driftDigest
  try dsimp only
  repeat' (first
    | (with_reducible assumption) | (with_reducible apply State.xcRecord_keeps)
    | (with_reducible apply Keeps.ite) | (split))

theorem State.driftAct_keeps (p : Port4) (d : DriftIn) (h : Keeps s t) : Keeps s (State.driftAct t p d) := by
  unfold State.driftAct
  try dsimp only
  repeat' (first
    | (with_reducible assumption) | (with_reducible apply State.driftDigest_keeps)
    | (with_reducible apply State.driftLink_keeps) | (with_reducible apply State.driftRoute_keeps)
    | (with_reducible apply Keeps.ite) | (split))

theorem State.mirror_keeps (r : LogRec) (h : Keeps s t) : Keeps s (State.mirror t r) := by
  unfold State.mirror
  try dsimp only
  repeat' (first
    | (with_reducible assumption) | (with_reducible apply State.writeVa_keeps)
    | (with_reducible apply State.setFore_keeps _ (by exact fun _ hx => hx))
    | (refine Keeps.ofFst (by assumption) ?_) | (with_reducible apply Keeps.ite) | (intro u a hu) | (split)
    | (fail_if_no_progress with_reducible apply Keeps.plain))

theorem State.logRecord_keeps (cls : Nat) (f : Option FnId) (b : LogBody) (h : Keeps s t) : Keeps s (State.logRecord t cls f b) := by
  unfold State.logRecord
  dsimp only
  apply State.mirror_keeps
  exact State.setFore_keeps _ (fun x _ => by simp only [List.length_take]; omega) h

theorem State.setReservation_keeps (n : Nat) (g : Reservation → Reservation) (h : Keeps s t) : Keeps s (State.setReservation t n g) := by
  unfold State.setReservation
  try dsimp only
  repeat' (first
    | (with_reducible assumption) | (with_reducible apply State.setFore_keeps _ (by exact fun _ hx => hx))
    | (with_reducible apply Keeps.ite) | (intro u a hu) | (split)
    | (fail_if_no_progress with_reducible apply Keeps.plain))

theorem State.starve_keeps (e' : EngineId) (h : Keeps s t) : Keeps s (State.starve t e') := by
  unfold State.starve
  try dsimp only
  repeat' (first
    | (with_reducible assumption) | (with_reducible apply State.raise_keeps))

theorem State.abortSlice_keeps (e' : EngineId) (run : Option Nat) (h : Keeps s t) : Keeps s (State.abortSlice t e' run) := by
  unfold State.abortSlice
  try dsimp only
  repeat' (first
    | (with_reducible assumption) | (with_reducible apply State.starve_keeps)
    | (with_reducible apply State.setFore_keeps _ (by exact fun _ hx => hx))
    | (with_reducible apply State.setEngine_keeps) | (with_reducible apply Keeps.ite) | (intro u a hu)
    | (split) | (fail_if_no_progress with_reducible apply Keeps.plain))

theorem State.overload_keeps (n : Nat) (h : Keeps s t) : Keeps s (State.overload t n) := by
  unfold State.overload
  try dsimp only
  repeat' (first
    | (with_reducible assumption) | (with_reducible apply State.setReservation_keeps)
    | (with_reducible apply State.raise_keeps) | (with_reducible apply Keeps.ite) | (intro u a hu) | (split)
    | (fail_if_no_progress with_reducible apply Keeps.plain))

theorem State.chargeRun_keeps (n : Nat) (us : Nat) (h : Keeps s t) : Keeps s (State.chargeRun t n us) := by
  unfold State.chargeRun
  try dsimp only
  repeat' (first
    | (with_reducible assumption) | (with_reducible apply State.overload_keeps)
    | (with_reducible apply State.setReservation_keeps) | (with_reducible apply Keeps.ite) | (intro u a hu)
    | (split) | (fail_if_no_progress with_reducible apply Keeps.plain))

theorem State.correctCharge_keeps (r : Run) (h : Keeps s t) : Keeps s (State.correctCharge t r) := by
  unfold State.correctCharge
  try dsimp only
  repeat' (first
    | (with_reducible assumption) | (with_reducible apply State.setReservation_keeps)
    | (with_reducible apply Keeps.ite) | (intro u a hu) | (split)
    | (fail_if_no_progress with_reducible apply Keeps.plain))

theorem State.offer_keeps (r : Run) (us : Nat) (h : Keeps s t) : Keeps s (State.offer t r us) := by
  unfold State.offer
  try dsimp only
  repeat' (first
    | (with_reducible assumption) | (with_reducible apply State.setFore_keeps _ (by exact fun _ hx => hx))
    | (with_reducible apply State.setStream_keeps) | (intro u a hu) | (split)
    | (fail_if_no_progress with_reducible apply Keeps.plain))

theorem State.addRun_keeps (r : Run) (h : Keeps s t) : Keeps s (State.addRun t r) := by
  unfold State.addRun
  try dsimp only
  repeat' (first
    | (with_reducible assumption) | (with_reducible apply State.setFore_keeps _ (by exact fun _ hx => hx))
    | (intro u a hu) | (fail_if_no_progress with_reducible apply Keeps.plain))

theorem State.enterRun_keeps (r : Run) (p : Plan) (h : Keeps s t) : Keeps s (State.enterRun t r p) := by
  unfold State.enterRun
  try dsimp only
  repeat' (first
    | (with_reducible assumption) | (with_reducible apply State.addRun_keeps)
    | (with_reducible apply State.chargeRun_keeps) | (with_reducible apply State.logRecord_keeps)
    | (with_reducible apply Keeps.ite) | (split) | (fail_if_no_progress with_reducible apply Keeps.plain))

theorem State.shedRun_keeps (r : Run) (reason : Nat) (late : Nat) (h : Keeps s t) : Keeps s (State.shedRun t r reason late) := by
  unfold State.shedRun
  try dsimp only
  repeat' (first
    | (with_reducible assumption) | (with_reducible apply State.overload_keeps)
    | (with_reducible apply State.logRecord_keeps) | (with_reducible apply Keeps.ite) | (split))

theorem State.judgeRun_keeps (r : Run) (waits : Waits) (h : Keeps s t) : Keeps s ((State.judgeRun t r waits).1) := by
  unfold State.judgeRun
  try dsimp only
  repeat' (first
    | (with_reducible assumption) | (with_reducible apply State.shedRun_keeps)
    | (with_reducible apply State.enterRun_keeps) | (with_reducible apply State.abortSlice_keeps)
    | (with_reducible apply Keeps.ite) | (split) | (fail_if_no_progress with_reducible apply Keeps.plain))

theorem State.writeEntry_keeps (c : CtxId) (b : Binding) (e' : FrameEntry) (h : Keeps s t) : Keeps s (State.writeEntry t c b e') := by
  unfold State.writeEntry
  try dsimp only
  repeat' (first
    | (with_reducible assumption) | (with_reducible apply State.sendDigest_keeps)
    | (with_reducible apply State.writeVa_keeps) | (with_reducible apply State.signal_keeps)
    | (with_reducible apply State.setStream_keeps) | (refine Keeps.ofFst (by assumption) ?_)
    | (with_reducible apply Keeps.ite) | (intro u a hu) | (split)
    | (fail_if_no_progress with_reducible apply Keeps.plain))

theorem State.flushFuel_keeps (a0 : Nat) (a1 : CtxId) (h : Keeps s t) : Keeps s (State.flushFuel a0 t a1) := by
  induction a0 generalizing t with
  | zero => exact h
  | succ n ih =>
    unfold State.flushFuel
    dsimp only
    split
    · exact Keeps.ite h (ih (State.writeEntry_keeps _ _ _ (State.setStream_keeps _ _ h)))
    · exact h

theorem State.flush_keeps (c : CtxId) (h : Keeps s t) : Keeps s (State.flush t c) := by
  unfold State.flush
  try dsimp only
  repeat' (first
    | (with_reducible assumption) | (with_reducible apply State.flushFuel_keeps)
    | (with_reducible apply State.setStream_keeps))

theorem State.pushEntry_keeps (c : CtxId) (e' : FrameEntry) (h : Keeps s t) : Keeps s (State.pushEntry t c e') := by
  unfold State.pushEntry
  try dsimp only
  repeat' (first
    | (with_reducible assumption) | (with_reducible apply State.flush_keeps)
    | (with_reducible apply State.setStream_keeps) | (with_reducible apply Keeps.ite) | (intro u a hu)
    | (split) | (fail_if_no_progress with_reducible apply Keeps.plain))

theorem State.decideEntry_keeps (c : CtxId) (run : Nat) (g : FrameEntry → FrameEntry) (h : Keeps s t) : Keeps s (State.decideEntry t c run g) := by
  unfold State.decideEntry
  try dsimp only
  repeat' (first
    | (with_reducible assumption) | (with_reducible apply State.flush_keeps)
    | (with_reducible apply State.setStream_keeps) | (with_reducible apply Keeps.ite) | (intro u a hu)
    | (split) | (fail_if_no_progress with_reducible apply Keeps.plain))

theorem State.calibrate_keeps (r : Run) (h : Keeps s t) : Keeps s (State.calibrate t r) := by
  unfold State.calibrate
  try dsimp only
  repeat' (first
    | (with_reducible assumption) | (with_reducible apply State.setFn_keeps _ _ (by exact fun _ hx => hx))
    | (with_reducible apply Keeps.ite) | (intro u a hu) | (split)
    | (fail_if_no_progress with_reducible apply Keeps.plain))

theorem State.closeIdle_keeps (c : CtxId) (h : Keeps s t) : Keeps s (State.closeIdle t c) := by
  unfold State.closeIdle
  try dsimp only
  repeat' (first
    | (with_reducible assumption) | (with_reducible apply State.setStream_keeps)
    | (with_reducible apply Keeps.ite) | (intro u a hu) | (split))

theorem State.endRun_keeps (r : Run) (h : Keeps s t) : Keeps s (State.endRun t r) := by
  unfold State.endRun
  try dsimp only
  repeat' (first
    | (with_reducible assumption) | (with_reducible apply State.closeIdle_keeps)
    | (with_reducible apply State.calibrate_keeps) | (with_reducible apply State.decideEntry_keeps)
    | (with_reducible apply State.correctCharge_keeps) | (with_reducible apply State.finish_keeps)
    | (with_reducible apply State.setFore_keeps _ (by exact fun _ hx => hx)) | (intro u a hu) | (split)
    | (fail_if_no_progress with_reducible apply Keeps.plain))

theorem State.settle_keeps (id : Nat) (h : Keeps s t) : Keeps s (State.settle t id) := by
  unfold State.settle
  try dsimp only
  repeat' (first
    | (with_reducible assumption) | (with_reducible apply State.endRun_keeps)
    | (with_reducible apply Keeps.ite) | (intro u a hu) | (split)
    | (fail_if_no_progress with_reducible apply Keeps.plain))

theorem State.setRun_keeps (id : Nat) (g : Run → Run) (h : Keeps s t) : Keeps s (State.setRun t id g) := by
  unfold State.setRun
  try dsimp only
  repeat' (first
    | (with_reducible assumption) | (with_reducible apply State.setFore_keeps _ (by exact fun _ hx => hx))
    | (with_reducible apply Keeps.ite) | (intro u a hu) | (split)
    | (fail_if_no_progress with_reducible apply Keeps.plain))

theorem State.abortRun_keeps (id : Nat) (detail : BitVec 16) (h : Keeps s t) : Keeps s (State.abortRun t id detail) := by
  unfold State.abortRun
  try dsimp only
  repeat' (first
    | (with_reducible assumption) | (with_reducible apply State.setRun_keeps)
    | (with_reducible apply State.settle_keeps) | (with_reducible apply State.abortTiles_keeps)
    | (with_reducible apply Keeps.ite) | (intro u a hu) | (split)
    | (fail_if_no_progress with_reducible apply Keeps.plain))

theorem State.setCrews_keeps (a : Nat) (h : Keeps s t) : Keeps s (State.setCrews t a) := by
  unfold State.setCrews
  try dsimp only
  repeat' (first
    | (with_reducible assumption) | (with_reducible apply Keeps.ite) | (intro u a hu) | (split)
    | (fail_if_no_progress with_reducible apply Keeps.plain))

theorem State.setKeep_keeps (c : CtxId) (k' : Nat) (fresh : Bool) (h : Keeps s t) : Keeps s (State.setKeep t c k' fresh) := by
  unfold State.setKeep
  try dsimp only
  repeat' (first
    | (with_reducible assumption) | (with_reducible apply State.logRecord_keeps)
    | (with_reducible apply State.setStream_keeps) | (with_reducible apply Keeps.ite) | (intro u a hu)
    | (split) | (fail_if_no_progress with_reducible apply Keeps.plain))

theorem State.thinClass_keeps (cls : Nat) (n : Nat) (higher : Nat) (engaged : Bool) (h : Keeps s t) : Keeps s ((State.thinClass t cls n higher engaged).1) := by
  unfold State.thinClass
  try dsimp only
  repeat' (first
    | (with_reducible assumption) | (with_reducible apply State.setKeep_keeps)
    | (with_reducible apply Keeps.foldl) | (with_reducible apply Keeps.ite) | (intro u a hu) | (split))

theorem State.thin_keeps (n : Nat) (h : Keeps s t) : Keeps s (State.thin t n) := by
  unfold State.thin
  try dsimp only
  repeat' (first
    | (with_reducible assumption) | (with_reducible apply State.thinClass_keeps)
    | (with_reducible apply State.setFore_keeps _ (by exact fun _ hx => hx))
    | (refine Keeps.ofFst (by assumption) ?_) | (intro u a hu) | (split)
    | (fail_if_no_progress with_reducible apply Keeps.plain))

theorem State.resetDemand_keeps (h : Keeps s t) : Keeps s (State.resetDemand t) := by
  unfold State.resetDemand
  try dsimp only
  repeat' (first
    | (with_reducible assumption) | (with_reducible apply State.setFore_keeps _ (by exact fun _ hx => hx))
    | (intro u a hu) | (split) | (fail_if_no_progress with_reducible apply Keeps.plain))

theorem State.repartition_keeps (cause : Nat) (midShift : Bool) (h : Keeps s t) : Keeps s (State.repartition t cause midShift) := by
  unfold State.repartition
  try dsimp only
  repeat' (first
    | (with_reducible assumption) | (with_reducible apply State.resetDemand_keeps)
    | (with_reducible apply State.thin_keeps) | (with_reducible apply State.setCrews_keeps)
    | (with_reducible apply State.logRecord_keeps) | (with_reducible apply Keeps.ite) | (split))

theorem State.newShift_keeps (h : Keeps s t) : Keeps s ((State.newShift t).1) := by
  unfold State.newShift
  try dsimp only
  repeat' (first
    | (with_reducible assumption) | (with_reducible apply State.setEvent_keeps)
    | (with_reducible apply State.setFore_keeps _ (by exact fun _ hx => hx))
    | (with_reducible apply Keeps.ite) | (intro u a hu) | (split)
    | (fail_if_no_progress with_reducible apply Keeps.plain))

theorem State.shiftRecord_keeps (h : Keeps s t) : Keeps s (State.shiftRecord t) := by
  unfold State.shiftRecord
  try dsimp only
  repeat' (first
    | (with_reducible assumption) | (with_reducible apply State.logRecord_keeps))

theorem State.repartitionNow_keeps (h : Keeps s t) : Keeps s (State.repartitionNow t) := by
  unfold State.repartitionNow
  try dsimp only
  repeat' (first
    | (with_reducible assumption) | (with_reducible apply State.repartition_keeps)
    | (with_reducible apply State.setFore_keeps _ (by exact fun _ hx => hx))
    | (with_reducible apply Keeps.ite) | (intro u a hu) | (split)
    | (fail_if_no_progress with_reducible apply Keeps.plain))

theorem State.beginShift_keeps (h : Keeps s t) : Keeps s (State.beginShift t) := by
  unfold State.beginShift
  try dsimp only
  repeat' (first
    | (with_reducible assumption) | (with_reducible apply State.shiftRecord_keeps)
    | (with_reducible apply State.newShift_keeps) | (with_reducible apply State.repartition_keeps)
    | (refine Keeps.ofFst (by assumption) ?_) | (with_reducible apply Keeps.ite) | (split)
    | (fail_if_no_progress with_reducible apply Keeps.plain))

theorem State.mapScion_keeps (n : ScionId) (g : Engine → Engine) (h : Keeps s t) : Keeps s (State.mapScion t n g) := by
  unfold State.mapScion
  try dsimp only
  repeat' (first
    | (with_reducible assumption) | (with_reducible apply Keeps.ite) | (intro u a hu) | (split)
    | (fail_if_no_progress with_reducible apply Keeps.plain))

theorem State.fence_keeps (n : ScionId) (h : Keeps s t) : Keeps s (State.fence t n) := by
  unfold State.fence
  try dsimp only
  repeat' (first
    | (with_reducible assumption) | (with_reducible apply State.mapScion_keeps)
    | (with_reducible apply State.setScion_keeps) | (intro u a hu)
    | (fail_if_no_progress with_reducible apply Keeps.plain))

theorem State.replaceRun_keeps (n : ScionId) (id : Nat) (gone : List Nat) (h : Keeps s t) : Keeps s (State.replaceRun t n id gone) := by
  unfold State.replaceRun
  try dsimp only
  repeat' (first
    | (with_reducible assumption) | (with_reducible apply State.setRun_keeps)
    | (with_reducible apply State.settle_keeps) | (with_reducible apply Keeps.ite) | (intro u a hu)
    | (split) | (fail_if_no_progress with_reducible apply Keeps.plain))

theorem State.loseScion_keeps (n : ScionId) (h : Keeps s t) : Keeps s (State.loseScion t n) := by
  unfold State.loseScion
  try dsimp only
  repeat' (first
    | (with_reducible assumption) | (with_reducible apply State.setScion_keeps) | (with_reducible apply State.replaceRun_keeps)
    | (with_reducible apply State.fence_keeps) | (with_reducible apply State.repartitionNow_keeps)
    | (with_reducible apply State.raise_keeps) | (with_reducible apply State.abortTile_keeps)
    | (with_reducible apply Keeps.foldl) | (with_reducible apply Keeps.ite) | (intro u a hu) | (split))

theorem State.settleWithdrawal_keeps (n : ScionId) (h : Keeps s t) : Keeps s (State.settleWithdrawal t n) := by
  unfold State.settleWithdrawal
  try dsimp only
  repeat' (first
    | (with_reducible assumption) | (with_reducible apply State.fence_keeps)
    | (with_reducible apply State.repartitionNow_keeps) | (with_reducible apply State.setScion_keeps)
    | (with_reducible apply Keeps.ite) | (intro u a hu) | (split)
    | (fail_if_no_progress with_reducible apply Keeps.plain))

theorem State.failRun_keeps (id : Nat) (t' : BitVec 64) (f : TileFault) (h : Keeps s t) : Keeps s (State.failRun t id t' f) := by
  unfold State.failRun
  try dsimp only
  repeat' (first
    | (with_reducible assumption) | (with_reducible apply State.setRun_keeps)
    | (with_reducible apply State.raise_keeps) | (with_reducible apply Keeps.ite) | (intro u a hu) | (split)
    | (fail_if_no_progress with_reducible apply Keeps.plain))

theorem State.failLine_keeps (id : Nat) (e' : EngineId) (d : BitVec 16) (h : Keeps s t) : Keeps s (State.failLine t id e' d) := by
  unfold State.failLine
  try dsimp only
  repeat' (first
    | (with_reducible assumption) | (with_reducible apply State.failRun_keeps)
    | (with_reducible apply Keeps.ite) | (split))

theorem State.placeRecord_keeps (r : Run) (e' : EngineId) (h : Keeps s t) : Keeps s (State.placeRecord t r e') := by
  unfold State.placeRecord
  try dsimp only
  repeat' (first
    | (with_reducible assumption) | (with_reducible apply State.logRecord_keeps) | (split))

theorem State.senseLoad_keeps (l : Load) (h : Keeps s t) : Keeps s (State.senseLoad t l) := by
  unfold State.senseLoad
  try dsimp only
  repeat' (first
    | (with_reducible assumption) | (with_reducible apply State.senseRange_keeps) | (split)
    | (fail_if_no_progress with_reducible apply Keeps.plain))

theorem State.startTile_keeps (r : Run) (j : Nat) (e' : EngineId) (h : Keeps s t) : Keeps s (State.startTile t r j e') := by
  unfold State.startTile
  try dsimp only
  repeat' (first
    | (with_reducible assumption) | (with_reducible apply State.senseLoad_keeps)
    | (with_reducible apply State.placeRecord_keeps) | (with_reducible apply State.failLine_keeps)
    | (with_reducible apply State.setRun_keeps) | (with_reducible apply State.setEngine_keeps)
    | (with_reducible apply Keeps.foldl) | (with_reducible apply Keeps.ite) | (intro u a hu) | (split)
    | (fail_if_no_progress with_reducible apply Keeps.plain))

theorem State.poisonYard_keeps (yo : Nat) (h : Keeps s t) : Keeps s (State.poisonYard t yo) := by
  unfold State.poisonYard
  exact Keeps.ite h (State.raise_keeps _ (h.yard (fun w => Memory.poisonUnit_wf _ _ w)))

theorem State.storeEvent_keeps (e' : EngineId) (f : FnId) (c : TileCheck) (h : Keeps s t) : Keeps s (State.storeEvent t e' f c) := by
  unfold State.storeEvent
  try dsimp only
  repeat' (first
    | (with_reducible assumption) | (with_reducible apply State.poisonYard_keeps)
    | (with_reducible apply State.raise_keeps) | (split)
    | (fail_if_no_progress with_reducible apply Keeps.plain))

theorem State.tileEvent_keeps (e' : EngineId) (r : Run) (t' : TileAt) (caught : List TileCheck) (v : TileEvent) (h : Keeps s t) : Keeps s (State.tileEvent t e' r t' caught v) := by
  unfold State.tileEvent
  try dsimp only
  repeat' (first
    | (with_reducible assumption) | (with_reducible apply State.storeEvent_keeps)
    | (with_reducible apply State.failRun_keeps) | (with_reducible apply Keeps.ite) | (split)
    | (fail_if_no_progress with_reducible apply Keeps.plain))

theorem State.runStore_keeps (id : Nat) (e' : EngineId) (k' : Nat) (b : Bytes) (h : Keeps s t) :
    Keeps s (State.runStore t id e' k' b) := by
  unfold State.runStore
  dsimp only
  have g := State.senseEdges_keeps k' b.length h
  generalize t.senseEdges k' b.length = t at g ⊢
  have k : Keeps s { t with mem := (t.mem.store k' b).1 } := g.memory (fun w => Memory.store_wf _ _ _ w)
  split
  · rename_i e
    simpa only [e] using k
  · rename_i e
    simp only [e] at k
    exact State.failLine_keeps _ _ _ k

theorem State.yardStore_keeps (id : Nat) (e' : EngineId) (k' : Nat) (b : Bytes) (h : Keeps s t) :
    Keeps s (State.yardStore t id e' k' b) := by
  unfold State.yardStore
  have k : Keeps s { t with yard := { t.yard with mem := (t.yard.mem.store k' b).1 } } := h.yard (fun w => Memory.store_wf _ _ _ w)
  split
  · rename_i e
    simpa only [e] using k
  · rename_i e
    simp only [e] at k
    exact State.failLine_keeps _ _ _ k

theorem State.exportTags_keeps (r : Run) (j : Nat) (e' : EngineId) (h : Keeps s t) : Keeps s (State.exportTags t r j e') := by
  unfold State.exportTags
  try dsimp only
  repeat' (first
    | (with_reducible assumption) | (with_reducible apply State.runStore_keeps)
    | (with_reducible apply State.failLine_keeps) | (with_reducible apply State.senseLines_keeps)
    | (with_reducible apply Keeps.ite) | (intro u a hu) | (split)
    | (fail_if_no_progress with_reducible apply Keeps.plain))

theorem State.keepTile_keeps (r : Run) (t' : TileDecl) (d : TensorDecl) (e' : EngineId) (vals : List Int) (h : Keeps s t) : Keeps s (State.keepTile t r t' d e' vals) := by
  unfold State.keepTile
  try dsimp only
  repeat' (first
    | (with_reducible assumption) | (with_reducible apply State.yardStore_keeps)
    | (with_reducible apply State.setRun_keeps) | (with_reducible apply State.holdYard_keeps)
    | (with_reducible apply Keeps.foldl) | (intro u a hu) | (split)
    | (fail_if_no_progress with_reducible apply Keeps.plain))

theorem State.storeTile_keeps (r : Run) (j : Nat) (e' : EngineId) (vals : List Int) (h : Keeps s t) : Keeps s (State.storeTile t r j e' vals) := by
  unfold State.storeTile
  try dsimp only
  repeat' (first
    | (with_reducible assumption) | (with_reducible apply State.keepTile_keeps)
    | (with_reducible apply State.exportTags_keeps) | (with_reducible apply State.runStore_keeps)
    | (with_reducible apply State.setRun_keeps) | (with_reducible apply Keeps.foldl)
    | (with_reducible apply Keeps.ite) | (intro u a hu) | (split)
    | (fail_if_no_progress with_reducible apply Keeps.plain))

theorem State.endTile_keeps (e' : EngineId) (t' : TileAt) (r : Run) (evs : List TileEvent) (us : Nat) (h : Keeps s t) : Keeps s (State.endTile t e' t' r evs us) := by
  unfold State.endTile
  try dsimp only
  repeat' (first
    | (with_reducible assumption) | (with_reducible apply State.storeTile_keeps)
    | (with_reducible apply State.tileEvent_keeps) | (with_reducible apply State.setRun_keeps)
    | (with_reducible apply State.settle_keeps) | (with_reducible apply State.setEngine_keeps)
    | (with_reducible apply State.scatter_keeps) | (with_reducible apply Keeps.foldl)
    | (with_reducible apply Keeps.ite) | (intro u a hu) | (split)
    | (fail_if_no_progress with_reducible apply Keeps.plain))

theorem State.submitRun_keeps (c : Cmd) (r : Run) (h : Keeps s t) : Keeps s (State.submitRun t c r) := by
  unfold State.submitRun
  try dsimp only
  repeat' (first
    | (with_reducible assumption) | (with_reducible apply State.judgeRun_keeps)
    | (with_reducible apply State.addRun_keeps) | (with_reducible apply State.offer_keeps)
    | (with_reducible apply State.finish_keeps) | (with_reducible apply State.setCmd_keeps)
    | (refine Keeps.ofFst (by assumption) ?_) | (with_reducible apply Keeps.ite) | (intro u a hu) | (split)
    | (fail_if_no_progress with_reducible apply Keeps.plain))

theorem State.imageFails_keeps (c : Cmd) (d : BitVec 16) (h : Keeps s t) : Keeps s (State.imageFails t c d) := by
  unfold State.imageFails
  try dsimp only
  repeat' (first
    | (with_reducible assumption) | (with_reducible apply State.graftIf_keeps)
    | (with_reducible apply State.finish_keeps) | (with_reducible apply State.send_keeps)
    | (with_reducible apply Keeps.ite) | (split))

theorem State.copyGraph_keeps (f : FnId) (h' : Nat) (g : GraphImage) (h : Keeps s t) : Keeps s (State.copyGraph t f h' g) :=
  h.memory (fun w => Memory.foldl_wf _ (fun m x k => by
    split
    · exact k
    · exact Memory.store_wf _ _ _ k) _ _ w)

theorem State.zeroGraph_keeps (f : FnId) (h' : Nat) (h : Keeps s t) : Keeps s (State.zeroGraph t f h') :=
  h.memory (fun w => Memory.zero_wf _ _ _ w)

theorem State.loadGraph_keeps (c : Cmd) (g : GraphImage) (h : Keeps s t) : Keeps s (State.loadGraph t c g) := by
  unfold State.loadGraph
  dsimp only
  refine Keeps.ite (State.finish_keeps _ _ _ _ h) (Keeps.ite (State.finish_keeps _ _ _ _ h)
    (Keeps.ite (State.finish_keeps _ _ _ _ h) ?_))
  split
  · exact State.finish_keeps _ _ _ _ h
  · rename_i k
    rw [Option.filter_eq_some_iff] at k
    exact State.finish_keeps _ _ _ _ (State.setFn_keeps _ _ (fun _ hx => hx)
      (State.copyGraph_keeps _ _ _ (State.drawn_keeps (State.alloc_keeps _ _ _ _ k.1 h))))

theorem State.cancelTarget_keeps (d : Cmd) (h : Keeps s t) : Keeps s (State.cancelTarget t d) := by
  unfold State.cancelTarget
  try dsimp only
  repeat' (first
    | (with_reducible assumption) | (with_reducible apply State.abortRun_keeps)
    | (with_reducible apply State.finish_keeps) | (intro u a hu) | (split)
    | (fail_if_no_progress with_reducible apply Keeps.plain))

theorem State.cancelUnbegun_keeps (c : CtxId) (h : Keeps s t) : Keeps s (State.cancelUnbegun t c) := by
  unfold State.cancelUnbegun
  try dsimp only
  repeat' (first
    | (with_reducible assumption) | (with_reducible apply State.setRun_keeps)
    | (with_reducible apply State.settle_keeps) | (with_reducible apply Keeps.foldl) | (intro u a hu)
    | (fail_if_no_progress with_reducible apply Keeps.plain))

theorem State.setSeq_keeps (f : FnId) (h' : Nat) (g : KvSeq → KvSeq) (h : Keeps s t) : Keeps s (State.setSeq t f h' g) := by
  unfold State.setSeq
  try dsimp only
  repeat' (first
    | (with_reducible assumption) | (with_reducible apply State.setFn_keeps _ _ (by exact fun _ hx => hx))
    | (with_reducible apply Keeps.ite) | (intro u a hu) | (split)
    | (fail_if_no_progress with_reducible apply Keeps.plain))

theorem State.zeroPage_keeps (f : FnId) (q : KvSeq) (page : Nat) (h : Keeps s t) : Keeps s (State.zeroPage t f q page) := by
  exact h.memory (fun w => Memory.zero_wf _ _ _ w)

theorem State.dropPage_keeps (f : FnId) (q : KvSeq) (page : Nat) (h : Keeps s t) : Keeps s (State.dropPage t f q page) := by
  unfold State.dropPage
  try dsimp only
  repeat' (first
    | (with_reducible assumption) | (with_reducible apply State.zeroPage_keeps)
    | (with_reducible apply State.release_keeps))

theorem State.scatterAccess_keeps (c : Cmd) (half : Nat) (h : Keeps s t) : Keeps s (State.scatterAccess t c half) := by
  unfold State.scatterAccess
  try dsimp only
  repeat' (first
    | (with_reducible assumption) | (with_reducible apply State.access_keeps)
    | (with_reducible apply Keeps.foldl) | (intro u a hu))

theorem State.writeRows_keeps (f : FnId) (q : KvSeq) (a0 : Nat) (a1 : List Bytes) (h : Keeps s t) : Keeps s (State.writeRows t f q a0 a1) := by
  induction a1 generalizing a0 t with
  | nil => exact h
  | cons b r ih =>
    unfold State.writeRows
    exact ih _ ((State.senseEdges_keeps _ _ h).memory (fun w => Memory.store_wf _ _ _ w))

theorem State.scatterEnd_keeps (c : Cmd) (status : BitVec 16) (detail : Nat) (length : Nat) (start : Nat) (recycled : Nat) (h : Keeps s t) : Keeps s (State.scatterEnd t c status detail length start recycled) := by
  unfold State.scatterEnd
  try dsimp only
  repeat' (first
    | (with_reducible assumption) | (with_reducible apply State.logRecord_keeps)
    | (with_reducible apply State.finish_keeps))

theorem State.scatterStopped_keeps (c : Cmd) (status : BitVec 16) (detail : BitVec 16) (h : Keeps s t) : Keeps s (State.scatterStopped t c status detail) := by
  unfold State.scatterStopped
  try dsimp only
  repeat' (first
    | (with_reducible assumption) | (with_reducible apply State.logRecord_keeps)
    | (with_reducible apply State.setFore_keeps _ (by exact fun _ hx => hx))
    | (with_reducible apply Keeps.ite) | (intro u a hu) | (split)
    | (fail_if_no_progress with_reducible apply Keeps.plain))

/-- A target page is committed. -/
theorem commitPage_keeps (f : FnId) (q : KvSeq) (targets : List Nat) (m : Commit) (first : Nat) {n : Commit}
    (e : commitPage f q targets m first = some n) (h : Keeps s m.state) : Keeps s n.state := by
  unfold commitPage at e
  dsimp only at e
  have z : ∀ {u : State} (p : Nat), Keeps s u → Keeps s (u.zeroPage f q p) := fun p k => State.zeroPage_keeps _ _ _ k
  split at e
  · split at e
    · simp only [Option.some.injEq] at e
      subst e
      exact h
    · simp only [Option.some.injEq] at e
      subst e
      exact h
  · split at e
    · rename_i u k
      split at k
      · injection e with e
        subst e
        exact z _ (State.alloc_keeps _ _ _ _ k h)
      · simp at k
    · split at e
      · simp at e
      · split at e
        · simp at e
        · split at e
          · simp at e
          · rename_i k
            injection e with e
            subst e
            exact z _ (State.alloc_keeps _ _ _ _ k (State.dropPage_keeps _ _ _ h))

/-- All target pages are committed. -/
theorem commitPages_keeps (f : FnId) (q : KvSeq) (targets l : List Nat) (m : Commit) {n : Commit}
    (e : commitPages f q targets l m = some n) (h : Keeps s m.state) : Keeps s n.state := by
  induction l generalizing m with
  | nil =>
    simp only [commitPages, Option.some.injEq] at e
    subst e
    exact h
  | cons t r ih =>
    unfold commitPages at e
    split at e
    · simp at e
    · rename_i u k
      exact ih _ e (commitPage_keeps _ _ _ _ _ k h)

theorem State.append_keeps (c : Cmd) (q : KvSeq) (free : Nat) (graft2 : Option WriteFault) (h : Keeps s t) :
    Keeps s (State.append t c q free graft2) := by
  unfold State.append
  dsimp only
  have a := State.scatterAccess_keeps c (q.row / 2) h
  refine Keeps.ite (State.scatterEnd_keeps _ _ _ _ _ _ h) (Keeps.ite (State.scatterEnd_keeps _ _ _ _ _ _ h) ?_)
  split
  · exact State.scatterEnd_keeps _ _ _ _ _ _ (State.graftIf_keeps _ _ _ a)
  · exact State.scatterEnd_keeps _ _ _ _ _ _ (State.raise_keeps _ a)
  · split
    · exact State.scatterEnd_keeps _ _ _ _ _ _ a
    · rename_i m e
      have k : Keeps s m.state := commitPages_keeps _ _ _ _ _ e a
      exact State.scatterEnd_keeps _ _ _ _ _ _ (State.setSeq_keeps _ _ _ (State.writeRows_keeps _ _ _ _ k))

theorem State.consume_keeps (h : Keeps s t) : Keeps s (State.consume t) := by
  unfold State.consume
  try dsimp only
  repeat' (first
    | (with_reducible assumption) | (with_reducible apply State.setFore_keeps _ (by exact fun _ hx => hx))
    | (intro u a hu) | (fail_if_no_progress with_reducible apply Keeps.plain))

theorem State.replayAppend_keeps (c : Cmd) (q : KvSeq) (b : Bytes) (graft2 : Option WriteFault) (h : Keeps s t) : Keeps s (State.replayAppend t c q b graft2) := by
  unfold State.replayAppend
  try dsimp only
  repeat' (first
    | (with_reducible assumption) | (with_reducible apply State.append_keeps)
    | (with_reducible apply State.scatterEnd_keeps) | (with_reducible apply State.scatterAccess_keeps)
    | (with_reducible apply Keeps.ite) | (intro u a hu) | (split))

theorem State.bcSend_keeps (p : ClPortId) (type : Nat) (body : Bytes) (h : Keeps s t) : Keeps s (State.bcSend t p type body) := by
  unfold State.bcSend
  try dsimp only
  repeat' (first
    | (with_reducible assumption) | (with_reducible apply State.send_keeps)
    | (with_reducible apply State.setCl_keeps) | (with_reducible apply Keeps.ite) | (intro u a hu) | (split)
    | (fail_if_no_progress with_reducible apply Keeps.plain))

theorem State.drawSeed_keeps (c : CtxId) (h : Keeps s t) : Keeps s (State.drawSeed t c) := by
  unfold State.drawSeed
  try dsimp only
  repeat' (first
    | (with_reducible assumption) | (with_reducible apply State.bcSend_keeps)
    | (with_reducible apply State.setStream_keeps) | (intro u a hu) | (split)
    | (fail_if_no_progress with_reducible apply Keeps.plain))

theorem State.beginFrame_keeps (c : CtxId) (counter : BitVec 32) (stamp : BitVec 64) (h : Keeps s t) : Keeps s (State.beginFrame t c counter stamp) := by
  unfold State.beginFrame
  try dsimp only
  repeat' (first
    | (with_reducible assumption) | (with_reducible apply State.setStream_keeps)
    | (with_reducible apply Keeps.ite) | (intro u a hu) | (split)
    | (fail_if_no_progress with_reducible apply Keeps.plain))

theorem State.storeFrame_keeps (c : CtxId) (a : FrameAsm) (h : Keeps s t) : Keeps s (State.storeFrame t c a) := by
  unfold State.storeFrame
  dsimp only
  split
  · exact h
  · split
    · exact h.memory (fun w => Memory.store_wf _ _ _ w)
    · exact h.memory (fun w => Memory.scatterLines_wf _ _ _ _ _ w)

theorem State.lineFails_keeps (c : CtxId) (at' : Nat) (graft2 : Option ClPortId) (h : Keeps s t) : Keeps s (State.lineFails t c at' graft2) := by
  unfold State.lineFails
  try dsimp only
  repeat' (first
    | (with_reducible assumption) | (with_reducible apply State.raise_keeps)
    | (with_reducible apply State.setStream_keeps) | (with_reducible apply Keeps.ite) | (intro u a hu)
    | (split) | (fail_if_no_progress with_reducible apply Keeps.plain))

theorem State.seeCounter_keeps (c : CtxId) (n : BitVec 32) (h : Keeps s t) : Keeps s (State.seeCounter t c n) := by
  unfold State.seeCounter
  try dsimp only
  repeat' (first
    | (with_reducible assumption) | (with_reducible apply State.setStream_keeps) | (intro u a hu)
    | (fail_if_no_progress with_reducible apply Keeps.plain))

theorem State.note_keeps (c : CtxId) (kind : Nat) (h : Keeps s t) : Keeps s (State.note t c kind) := by
  unfold State.note
  try dsimp only
  repeat' (first
    | (with_reducible assumption) | (with_reducible apply State.setStream_keeps) | (intro u a hu)
    | (fail_if_no_progress with_reducible apply Keeps.plain))

theorem State.countOffered_keeps (c : CtxId) (stamp : BitVec 64) (h : Keeps s t) : Keeps s (State.countOffered t c stamp) := by
  unfold State.countOffered
  try dsimp only
  repeat' (first
    | (with_reducible assumption) | (with_reducible apply State.note_keeps)
    | (with_reducible apply State.setStream_keeps) | (intro u a hu)
    | (fail_if_no_progress with_reducible apply Keeps.plain))

theorem State.countServed_keeps (c : CtxId) (h : Keeps s t) : Keeps s (State.countServed t c) := by
  unfold State.countServed
  try dsimp only
  repeat' (first
    | (with_reducible assumption) | (with_reducible apply State.note_keeps)
    | (with_reducible apply State.setStream_keeps) | (intro u a hu)
    | (fail_if_no_progress with_reducible apply Keeps.plain))

theorem State.countShed_keeps (c : CtxId) (h : Keeps s t) : Keeps s (State.countShed t c) := by
  unfold State.countShed
  try dsimp only
  repeat' (first
    | (with_reducible assumption) | (with_reducible apply State.note_keeps)
    | (with_reducible apply State.setStream_keeps) | (intro u a hu)
    | (fail_if_no_progress with_reducible apply Keeps.plain))

theorem State.noteStatus_keeps (c : CtxId) (status : BitVec 16) (detail : BitVec 16) (buffer : Nat) (h : Keeps s t) : Keeps s (State.noteStatus t c status detail buffer) := by
  unfold State.noteStatus
  try dsimp only
  repeat' (first
    | (with_reducible assumption) | (with_reducible apply State.setStream_keeps) | (intro u a hu)
    | (fail_if_no_progress with_reducible apply Keeps.plain))

theorem State.shedFrame_keeps (c : CtxId) (a : FrameAsm) (reason : Nat) (entry : BitVec 32) (h : Keeps s t) : Keeps s (State.shedFrame t c a reason entry) := by
  unfold State.shedFrame
  try dsimp only
  repeat' (first
    | (with_reducible assumption) | (with_reducible apply State.countShed_keeps)
    | (with_reducible apply State.pushEntry_keeps))

theorem State.awaitRun_keeps (c : CtxId) (a : FrameAsm) (h : Keeps s t) : Keeps s (State.awaitRun t c a) := by
  unfold State.awaitRun
  try dsimp only
  repeat' (first
    | (with_reducible assumption) | (with_reducible apply State.pushEntry_keeps)
    | (fail_if_no_progress with_reducible apply Keeps.plain))

theorem State.decideBound_keeps (c : CtxId) (b : Binding) (g : Graph) (a : FrameAsm) (buffer : Nat) (h : Keeps s t) : Keeps s (State.decideBound t c b g a buffer) := by
  unfold State.decideBound
  try dsimp only
  repeat' (first
    | (with_reducible assumption) | (with_reducible apply State.awaitRun_keeps)
    | (with_reducible apply State.shedFrame_keeps) | (with_reducible apply State.countServed_keeps)
    | (with_reducible apply State.pushEntry_keeps) | (with_reducible apply State.judgeRun_keeps)
    | (with_reducible apply State.shedRun_keeps) | (with_reducible apply State.addRun_keeps)
    | (with_reducible apply State.offer_keeps) | (with_reducible apply State.setStream_keeps)
    | (refine Keeps.ofFst (by assumption) ?_) | (with_reducible apply Keeps.ite) | (intro u a hu) | (split)
    | (fail_if_no_progress with_reducible apply Keeps.plain))

theorem State.validFrame_keeps (c : CtxId) (a : FrameAsm) (buffer : Nat) (h : Keeps s t) : Keeps s (State.validFrame t c a buffer) := by
  unfold State.validFrame
  try dsimp only
  repeat' (first
    | (with_reducible assumption) | (with_reducible apply State.decideBound_keeps)
    | (with_reducible apply State.noteStatus_keeps) | (with_reducible apply State.countServed_keeps)
    | (with_reducible apply Keeps.ite) | (split) | (fail_if_no_progress with_reducible apply Keeps.plain))

theorem State.guardSees_keeps (c : CtxId) (a : FrameAsm) (sig : BitVec 32) (h : Keeps s t) : Keeps s (State.guardSees t c a sig) := by
  unfold State.guardSees
  try dsimp only
  repeat' (first
    | (with_reducible assumption) | (with_reducible apply State.seeCounter_keeps)
    | (with_reducible apply State.drawSeed_keeps) | (with_reducible apply State.setStream_keeps)
    | (with_reducible apply Keeps.ite) | (intro u a hu) | (split)
    | (fail_if_no_progress with_reducible apply Keeps.plain))

theorem State.guardFails_keeps (c : CtxId) (a : FrameAsm) (buffer : Nat) (fs : List (Nat × Ev)) (h : Keeps s t) : Keeps s (State.guardFails t c a buffer fs) := by
  unfold State.guardFails
  try dsimp only
  repeat' (first
    | (with_reducible assumption) | (with_reducible apply State.noteStatus_keeps)
    | (with_reducible apply State.pushEntry_keeps) | (with_reducible apply State.raise_keeps)
    | (with_reducible apply State.setStream_keeps) | (with_reducible apply Keeps.foldl) | (intro u a hu)
    | (split) | (fail_if_no_progress with_reducible apply Keeps.plain))

theorem State.integrityFrame_keeps (c : CtxId) (a : FrameAsm) (d : BitVec 16) (h : Keeps s t) : Keeps s (State.integrityFrame t c a d) := by
  unfold State.integrityFrame
  try dsimp only
  repeat' (first
    | (with_reducible assumption) | (with_reducible apply State.noteStatus_keeps)
    | (with_reducible apply State.seeCounter_keeps) | (with_reducible apply State.pushEntry_keeps)
    | (with_reducible apply State.setStream_keeps) | (intro u a hu) | (split)
    | (fail_if_no_progress with_reducible apply Keeps.plain))

theorem State.ringFullFrame_keeps (c : CtxId) (a : FrameAsm) (h : Keeps s t) : Keeps s (State.ringFullFrame t c a) := by
  unfold State.ringFullFrame
  try dsimp only
  repeat' (first
    | (with_reducible assumption) | (with_reducible apply State.seeCounter_keeps)
    | (with_reducible apply State.setStream_keeps) | (intro u a hu)
    | (fail_if_no_progress with_reducible apply Keeps.plain))

theorem State.endFrame_keeps (c : CtxId) (a : FrameAsm) (h : Keeps s t) : Keeps s (State.endFrame t c a) := by
  unfold State.endFrame
  try dsimp only
  repeat' (first
    | (with_reducible assumption) | (with_reducible apply State.ringFullFrame_keeps)
    | (with_reducible apply State.integrityFrame_keeps) | (with_reducible apply State.guardFails_keeps)
    | (with_reducible apply State.guardSees_keeps) | (with_reducible apply State.validFrame_keeps)
    | (with_reducible apply State.countOffered_keeps) | (with_reducible apply State.seeCounter_keeps)
    | (with_reducible apply State.storeFrame_keeps) | (with_reducible apply State.setStream_keeps)
    | (with_reducible apply Keeps.ite) | (intro u a hu) | (split)
    | (fail_if_no_progress with_reducible apply Keeps.plain))

theorem State.damageFrame_keeps (c : CtxId) (h : Keeps s t) : Keeps s (State.damageFrame t c) := by
  unfold State.damageFrame
  try dsimp only
  repeat' (first
    | (with_reducible assumption) | (with_reducible apply State.setStream_keeps)
    | (with_reducible apply Keeps.ite) | (intro u a hu) | (split)
    | (fail_if_no_progress with_reducible apply Keeps.plain))

theorem State.cutFrame_keeps (c : CtxId) (a : FrameAsm) (d : BitVec 16) (h : Keeps s t) : Keeps s (State.cutFrame t c a d) := by
  unfold State.cutFrame
  try dsimp only
  repeat' (first
    | (with_reducible assumption) | (with_reducible apply State.ringFullFrame_keeps)
    | (with_reducible apply State.integrityFrame_keeps) | (with_reducible apply State.storeFrame_keeps)
    | (with_reducible apply State.setStream_keeps) | (with_reducible apply Keeps.ite) | (intro u a hu)
    | (split) | (fail_if_no_progress with_reducible apply Keeps.plain))

theorem State.breakFrame_keeps (c : CtxId) (h : Keeps s t) : Keeps s (State.breakFrame t c) := by
  unfold State.breakFrame
  try dsimp only
  repeat' (first
    | (with_reducible assumption) | (with_reducible apply State.storeFrame_keeps)
    | (with_reducible apply State.setStream_keeps) | (with_reducible apply Keeps.ite) | (intro u a hu)
    | (split) | (fail_if_no_progress with_reducible apply Keeps.plain))

theorem State.streamDown_keeps (c : CtxId) (h : Keeps s t) : Keeps s (State.streamDown t c) := by
  unfold State.streamDown
  try dsimp only
  repeat' (first
    | (with_reducible assumption) | (with_reducible apply State.breakFrame_keeps)
    | (with_reducible apply State.cutFrame_keeps) | (with_reducible apply State.pushEntry_keeps)
    | (with_reducible apply State.setStream_keeps) | (with_reducible apply State.drawn_keeps)
    | (with_reducible apply Keeps.ite) | (intro u a hu) | (split)
    | (fail_if_no_progress with_reducible apply Keeps.plain))

theorem State.portDown_keeps (source : Nat) (port : Nat) (h : Keeps s t) : Keeps s (State.portDown t source port) := by
  unfold State.portDown
  try dsimp only
  repeat' (first
    | (with_reducible assumption) | (with_reducible apply State.streamDown_keeps)
    | (with_reducible apply Keeps.foldl) | (with_reducible apply Keeps.ite) | (intro u a hu) | (split))

theorem State.portUp_keeps (source : Nat) (port : Nat) (h : Keeps s t) : Keeps s (State.portUp t source port) := by
  unfold State.portUp
  try dsimp only
  repeat' (first
    | (with_reducible assumption) | (with_reducible apply Keeps.ite) | (intro u a hu) | (split)
    | (fail_if_no_progress with_reducible apply Keeps.plain))

theorem State.failOpen_keeps (c : CtxId) (h : Keeps s t) : Keeps s (State.failOpen t c) := by
  unfold State.failOpen
  try dsimp only
  repeat' (first
    | (with_reducible assumption) | (with_reducible apply State.finish_keeps)
    | (with_reducible apply State.setStream_keeps) | (split)
    | (fail_if_no_progress with_reducible apply Keeps.plain))

theorem State.clDown_keeps (p : ClPortId) (h : Keeps s t) : Keeps s (State.clDown t p) := by
  unfold State.clDown
  try dsimp only
  repeat' (first
    | (with_reducible assumption) | (with_reducible apply State.failOpen_keeps)
    | (with_reducible apply State.portDown_keeps) | (with_reducible apply State.setCl_keeps)
    | (with_reducible apply Keeps.foldl) | (intro u a hu) | (split)
    | (fail_if_no_progress with_reducible apply Keeps.plain))

theorem State.retrain_keeps (p : ClPortId) (h : Keeps s t) : Keeps s (State.retrain t p) := by
  unfold State.retrain
  try dsimp only
  repeat' (first
    | (with_reducible assumption) | (with_reducible apply State.clDown_keeps)
    | (with_reducible apply State.setCl_keeps) | (with_reducible apply Keeps.ite) | (intro u a hu) | (split)
    | (fail_if_no_progress with_reducible apply Keeps.plain))

theorem State.opened_keeps (c : CtxId) (h : Keeps s t) : Keeps s (State.opened t c) := by
  unfold State.opened
  try dsimp only
  repeat' (first
    | (with_reducible assumption) | (with_reducible apply State.finish_keeps)
    | (with_reducible apply State.setStream_keeps) | (intro u a hu) | (split)
    | (fail_if_no_progress with_reducible apply Keeps.plain))

theorem State.configured_keeps (id : Nat) (h : Keeps s t) : Keeps s (State.configured t id) := by
  unfold State.configured
  try dsimp only
  repeat' (first
    | (with_reducible assumption) | (with_reducible apply State.finish_keeps)
    | (with_reducible apply State.setStream_keeps) | (intro u a hu) | (split)
    | (fail_if_no_progress with_reducible apply Keeps.plain))

theorem State.clUp_keeps (p : ClPortId) (bridge : BitVec 32) (h : Keeps s t) : Keeps s (State.clUp t p bridge) := by
  unfold State.clUp
  try dsimp only
  repeat' (first
    | (with_reducible assumption) | (with_reducible apply State.configured_keeps)
    | (with_reducible apply State.portUp_keeps) | (with_reducible apply State.drawSeed_keeps)
    | (with_reducible apply State.setCl_keeps) | (intro u a hu) | (split)
    | (fail_if_no_progress with_reducible apply Keeps.plain))

theorem State.seedAck_keeps (p : ClPortId) (m : BcMsg) (refused : Bool) (h : Keeps s t) : Keeps s (State.seedAck t p m refused) := by
  unfold State.seedAck
  try dsimp only
  repeat' (first
    | (with_reducible assumption) | (with_reducible apply State.opened_keeps)
    | (with_reducible apply State.failOpen_keeps) | (with_reducible apply State.setStream_keeps)
    | (with_reducible apply Keeps.ite) | (intro u a hu) | (split)
    | (fail_if_no_progress with_reducible apply Keeps.plain))

theorem State.ack_keeps (p : ClPortId) (r : Bytes) (h : Keeps s t) : Keeps s (State.ack t p r) := by
  unfold State.ack
  try dsimp only
  repeat' (first
    | (with_reducible assumption) | (with_reducible apply State.seedAck_keeps)
    | (with_reducible apply State.clUp_keeps) | (with_reducible apply State.setCl_keeps)
    | (with_reducible apply Keeps.ite) | (intro u a hu) | (split)
    | (fail_if_no_progress with_reducible apply Keeps.plain))

theorem State.countBroken_keeps (p : ClPortId) (h : Keeps s t) : Keeps s (State.countBroken t p) := by
  unfold State.countBroken
  try dsimp only
  repeat' (first
    | (with_reducible assumption) | (with_reducible apply State.setCl_keeps) | (intro u a hu)
    | (fail_if_no_progress with_reducible apply Keeps.plain))

theorem State.breakCl_keeps (p : ClPortId) (c : CtxId) (h : Keeps s t) : Keeps s (State.breakCl t p c) := by
  unfold State.breakCl
  try dsimp only
  repeat' (first
    | (with_reducible assumption) | (with_reducible apply State.countBroken_keeps)
    | (with_reducible apply State.breakFrame_keeps) | (with_reducible apply State.cutFrame_keeps) | (split)
    | (fail_if_no_progress with_reducible apply Keeps.plain))

theorem State.cutCl_keeps (p : ClPortId) (c : CtxId) (h : Keeps s t) : Keeps s (State.cutCl t p c) := by
  unfold State.cutCl
  split
  · exact h
  · exact State.setStream_keeps _ _ (State.breakCl_keeps _ _ h)

theorem State.joinBlock_keeps (c : CtxId) (h' : Header) (graft2 : Option ClPortId) (h : Keeps s t) : Keeps s (State.joinBlock t c h' graft2) := by
  unfold State.joinBlock
  try dsimp only
  repeat' (first
    | (with_reducible assumption) | (with_reducible apply State.endFrame_keeps)
    | (with_reducible apply State.lineFails_keeps) | (with_reducible apply State.setStream_keeps)
    | (with_reducible apply Keeps.ite) | (intro u a hu) | (split)
    | (fail_if_no_progress with_reducible apply Keeps.plain))

theorem State.headless_keeps (p : ClPortId) (c : CtxId) (h' : Header) (h : Keeps s t) : Keeps s (State.headless t p c h') := by
  unfold State.headless
  try dsimp only
  repeat' (first
    | (with_reducible assumption) | (with_reducible apply State.countBroken_keeps)
    | (with_reducible apply State.setStream_keeps) | (with_reducible apply Keeps.ite) | (intro u a hu)
    | (split) | (fail_if_no_progress with_reducible apply Keeps.plain))

theorem State.dataBlock_keeps (p : ClPortId) (h' : Header) (graft2 : Option ClPortId) (h : Keeps s t) : Keeps s (State.dataBlock t p h' graft2) := by
  unfold State.dataBlock
  try dsimp only
  repeat' (first
    | (with_reducible assumption) | (with_reducible apply State.headless_keeps)
    | (with_reducible apply State.joinBlock_keeps) | (with_reducible apply State.breakCl_keeps)
    | (with_reducible apply State.beginFrame_keeps) | (with_reducible apply State.setCl_keeps)
    | (with_reducible apply State.setStream_keeps) | (with_reducible apply Keeps.ite) | (intro u a hu)
    | (split) | (fail_if_no_progress with_reducible apply Keeps.plain))

theorem State.uncorrectable_keeps (p : ClPortId) (n : Nat) (h : Keeps s t) : Keeps s (State.uncorrectable t p n) := by
  unfold State.uncorrectable
  try dsimp only
  repeat' (first
    | (with_reducible assumption) | (with_reducible apply State.damageFrame_keeps)
    | (with_reducible apply State.raise_keeps) | (with_reducible apply State.setCl_keeps)
    | (with_reducible apply Keeps.foldl) | (intro u a hu) | (split)
    | (fail_if_no_progress with_reducible apply Keeps.plain))

theorem State.idleBlock_keeps (p : ClPortId) (b : LinkBlock) (symbols : Nat) (h : Keeps s t) : Keeps s (State.idleBlock t p b symbols) := by
  unfold State.idleBlock
  try dsimp only
  repeat' (first
    | (with_reducible assumption) | (with_reducible apply State.setCl_keeps)
    | (with_reducible apply Keeps.ite) | (intro u a hu) | (split)
    | (fail_if_no_progress with_reducible apply Keeps.plain))

theorem State.takeBlock_keeps (p : ClPortId) (b : LinkBlock) (h : Keeps s t) : Keeps s (State.takeBlock t p b) := by
  unfold State.takeBlock
  try dsimp only
  repeat' (first
    | (with_reducible assumption) | (with_reducible apply State.idleBlock_keeps)
    | (with_reducible apply State.uncorrectable_keeps) | (with_reducible apply State.dataBlock_keeps)
    | (with_reducible apply State.ack_keeps) | (with_reducible apply State.setCl_keeps)
    | (with_reducible apply Keeps.foldl) | (with_reducible apply Keeps.ite) | (intro u a hu) | (split)
    | (fail_if_no_progress with_reducible apply Keeps.plain))

theorem State.syncLoss_keeps (p : ClPortId) (h : Keeps s t) : Keeps s (State.syncLoss t p) := by
  unfold State.syncLoss
  try dsimp only
  repeat' (first
    | (with_reducible assumption) | (with_reducible apply State.cutCl_keeps)
    | (with_reducible apply State.clDown_keeps) | (with_reducible apply State.setCl_keeps)
    | (with_reducible apply Keeps.foldl) | (with_reducible apply Keeps.ite) | (intro u a hu) | (split)
    | (fail_if_no_progress with_reducible apply Keeps.plain))

theorem State.hunt_keeps (p : ClPortId) (b : LinkBlock) (h : Keeps s t) : Keeps s (State.hunt t p b) := by
  unfold State.hunt
  try dsimp only
  repeat' (first
    | (with_reducible assumption) | (with_reducible apply State.takeBlock_keeps)
    | (with_reducible apply State.bcSend_keeps) | (with_reducible apply State.setCl_keeps)
    | (with_reducible apply Keeps.ite) | (intro u a hu) | (split)
    | (fail_if_no_progress with_reducible apply Keeps.plain))

theorem State.withSettings_keeps (id : Nat) (c : CtxId) (p : ClPortId) (w : BitVec 32)
    (begin' soon : State → State) (a : ∀ u, Keeps s u → Keeps s (begin' u))
    (b : ∀ u, Keeps s u → Keeps s (soon u)) (h : Keeps s t) :
    Keeps s (t.withSettings id c p w begin' soon) := by
  unfold State.withSettings
  dsimp only
  refine Keeps.ite (State.finish_keeps _ _ _ _ h) ?_
  have k := a _ (Keeps.ite (c := ((t.cl[p.val]).settingsDiffer w).1 = true)
    (State.setCl_keeps p (fun x => x.applySettings w) h) h)
  exact Keeps.ite (State.retrain_keeps _ (State.hold_keeps _ (State.setCl_keeps _ _ k))) (b _ k)

theorem State.spoil_keeps (c : CtxId) (h : Keeps s t) : Keeps s (State.spoil t c) := by
  unfold State.spoil
  try dsimp only
  repeat' (first
    | (with_reducible assumption) | (with_reducible apply State.storeFrame_keeps)
    | (with_reducible apply State.setStream_keeps) | (intro u a hu) | (split)
    | (fail_if_no_progress with_reducible apply Keeps.plain))

theorem State.ethBroken_keeps (p : Port4) (h : Keeps s t) : Keeps s (State.ethBroken t p) := by
  unfold State.ethBroken
  try dsimp only
  repeat' (first
    | (with_reducible assumption) | (with_reducible apply State.setEth_keeps) | (intro u a hu)
    | (fail_if_no_progress with_reducible apply Keeps.plain))

theorem State.ethLost_keeps (p : Port4) (h : Keeps s t) : Keeps s (State.ethLost t p) := by
  unfold State.ethLost
  try dsimp only
  repeat' (first
    | (with_reducible assumption) | (with_reducible apply State.setEth_keeps) | (intro u a hu)
    | (fail_if_no_progress with_reducible apply Keeps.plain))

theorem State.ethJoin_keeps (c : CtxId) (payload : Bytes) (graft2 : Option ClPortId) (h : Keeps s t) : Keeps s (State.ethJoin t c payload graft2) := by
  unfold State.ethJoin
  try dsimp only
  repeat' (first
    | (with_reducible assumption) | (with_reducible apply State.endFrame_keeps)
    | (with_reducible apply State.lineFails_keeps) | (with_reducible apply State.setStream_keeps)
    | (with_reducible apply Keeps.ite) | (intro u a hu) | (split)
    | (fail_if_no_progress with_reducible apply Keeps.plain))

theorem State.ethBreak_keeps (p : Port4) (c : CtxId) (h : Keeps s t) : Keeps s (State.ethBreak t p c) := by
  unfold State.ethBreak
  try dsimp only
  repeat' (first
    | (with_reducible assumption) | (with_reducible apply State.ethBroken_keeps)
    | (with_reducible apply State.spoil_keeps) | (with_reducible apply Keeps.ite) | (split))

theorem State.ethFail_keeps (p : Port4) (c : CtxId) (h : Keeps s t) : Keeps s (State.ethFail t p c) := by
  unfold State.ethFail
  try dsimp only
  repeat' (first
    | (with_reducible assumption) | (with_reducible apply State.ethBroken_keeps)
    | (with_reducible apply State.damageFrame_keeps) | (with_reducible apply Keeps.ite) | (split))

theorem State.ethCut_keeps (p : Port4) (c : CtxId) (h : Keeps s t) : Keeps s (State.ethCut t p c) := by
  unfold State.ethCut
  try dsimp only
  repeat' (first
    | (with_reducible assumption) | (with_reducible apply State.ethLost_keeps)
    | (with_reducible apply State.ethBroken_keeps) | (with_reducible apply State.breakFrame_keeps)
    | (with_reducible apply Keeps.ite) | (split) | (fail_if_no_progress with_reducible apply Keeps.plain))

theorem State.ethDatagram_keeps (p : Port4) (c : CtxId) (bad : Bool) (payload : Bytes) (graft2 : Option ClPortId) (h : Keeps s t) : Keeps s (State.ethDatagram t p c bad payload graft2) := by
  unfold State.ethDatagram
  try dsimp only
  repeat' (first
    | (with_reducible assumption) | (with_reducible apply State.ethCut_keeps)
    | (with_reducible apply State.ethFail_keeps) | (with_reducible apply State.ethBreak_keeps)
    | (with_reducible apply State.ethJoin_keeps) | (with_reducible apply State.ethBroken_keeps)
    | (with_reducible apply State.beginFrame_keeps) | (with_reducible apply Keeps.ite) | (split)
    | (fail_if_no_progress with_reducible apply Keeps.plain))

theorem State.ethUdp_keeps (p : Port4) (fcsOk : Bool) (g : Datagram) (graft2 : Option ClPortId) (h : Keeps s t) : Keeps s (State.ethUdp t p fcsOk g graft2) := by
  unfold State.ethUdp
  try dsimp only
  repeat' (first
    | (with_reducible assumption) | (with_reducible apply State.ethDatagram_keeps)
    | (with_reducible apply State.ethLost_keeps) | (with_reducible apply State.setEth_keeps)
    | (with_reducible apply Keeps.ite) | (intro u a hu) | (split)
    | (fail_if_no_progress with_reducible apply Keeps.plain))

theorem State.ethFrame_keeps (p : Port4) (fcsOk : Bool) (b : Bytes) (graft2 : Option ClPortId) (h : Keeps s t) : Keeps s (State.ethFrame t p fcsOk b graft2) := by
  unfold State.ethFrame
  try dsimp only
  repeat' (first
    | (with_reducible assumption) | (with_reducible apply State.ethUdp_keeps)
    | (with_reducible apply State.setEth_keeps) | (with_reducible apply Keeps.ite) | (intro u a hu)
    | (split) | (fail_if_no_progress with_reducible apply Keeps.plain))

theorem State.uartBroken_keeps (p : Port4) (h : Keeps s t) : Keeps s (State.uartBroken t p) := by
  unfold State.uartBroken
  try dsimp only
  repeat' (first
    | (with_reducible assumption) | (with_reducible apply State.setUart_keeps) | (intro u a hu)
    | (fail_if_no_progress with_reducible apply Keeps.plain))

theorem State.uartEnd_keeps (p : Port4) (c : CtxId) (a : FrameAsm) (h : Keeps s t) : Keeps s (State.uartEnd t p c a) := by
  unfold State.uartEnd
  try dsimp only
  repeat' (first
    | (with_reducible assumption) | (with_reducible apply State.uartBroken_keeps)
    | (with_reducible apply State.breakFrame_keeps) | (with_reducible apply State.endFrame_keeps) | (split)
    | (fail_if_no_progress with_reducible apply Keeps.plain))

theorem State.uartTake_keeps (p : Port4) (c : CtxId) (ch : Character) (graft2 : Option ClPortId) (h : Keeps s t) : Keeps s (State.uartTake t p c ch graft2) := by
  unfold State.uartTake
  try dsimp only
  repeat' (first
    | (with_reducible assumption) | (with_reducible apply State.uartEnd_keeps)
    | (with_reducible apply State.uartBroken_keeps) | (with_reducible apply State.spoil_keeps)
    | (with_reducible apply State.breakFrame_keeps) | (with_reducible apply State.lineFails_keeps)
    | (with_reducible apply State.beginFrame_keeps) | (with_reducible apply State.setStream_keeps)
    | (with_reducible apply Keeps.ite) | (intro u a hu) | (split)
    | (fail_if_no_progress with_reducible apply Keeps.plain))

theorem State.uartLoose_keeps (p : Port4) (h : Keeps s t) : Keeps s (State.uartLoose t p) := by
  unfold State.uartLoose
  try dsimp only
  repeat' (first
    | (with_reducible assumption) | (with_reducible apply State.setUart_keeps)
    | (with_reducible apply Keeps.ite) | (intro u a hu) | (split)
    | (fail_if_no_progress with_reducible apply Keeps.plain))

theorem State.refuseRun_keeps (r : Run) (status : BitVec 16) (detail : BitVec 16) (entry : BitVec 32) (h : Keeps s t) : Keeps s (State.refuseRun t r status detail entry) := by
  unfold State.refuseRun
  try dsimp only
  repeat' (first
    | (with_reducible assumption) | (with_reducible apply State.countShed_keeps)
    | (with_reducible apply State.decideEntry_keeps) | (with_reducible apply State.finish_keeps)
    | (with_reducible apply State.setFore_keeps _ (by exact fun _ hx => hx))
    | (with_reducible apply Keeps.ite) | (intro u a hu) | (split)
    | (fail_if_no_progress with_reducible apply Keeps.plain))

theorem State.admitRun_keeps (r : Run) (p : Plan) (cleared : Bool) (h : Keeps s t) : Keeps s (State.admitRun t r p cleared) := by
  unfold State.admitRun
  try dsimp only
  repeat' (first
    | (with_reducible assumption) | (with_reducible apply State.countServed_keeps)
    | (with_reducible apply State.setRun_keeps) | (with_reducible apply State.chargeRun_keeps)
    | (with_reducible apply State.logRecord_keeps) | (with_reducible apply Keeps.ite) | (intro u a hu)
    | (split) | (fail_if_no_progress with_reducible apply Keeps.plain))

theorem State.shedWaiting_keeps (r : Run) (reason : Nat) (late : Nat) (h : Keeps s t) : Keeps s (State.shedWaiting t r reason late) := by
  unfold State.shedWaiting
  try dsimp only
  repeat' (first
    | (with_reducible assumption) | (with_reducible apply State.refuseRun_keeps)
    | (with_reducible apply State.shedRun_keeps) | (split))

theorem State.passPhase_keeps (r : Run) (h : Keeps s t) : Keeps s (State.passPhase t r) := by
  unfold State.passPhase
  try dsimp only
  repeat' (first
    | (with_reducible assumption) | (with_reducible apply State.setStream_keeps) | (intro u a hu) | (split)
    | (fail_if_no_progress with_reducible apply Keeps.plain))

theorem State.readmit_keeps (r : Run) (h : Keeps s t) : Keeps s (State.readmit t r) := by
  unfold State.readmit
  try dsimp only
  repeat' (first
    | (with_reducible assumption) | (with_reducible apply State.passPhase_keeps)
    | (with_reducible apply State.shedWaiting_keeps) | (with_reducible apply State.admitRun_keeps)
    | (with_reducible apply State.refuseRun_keeps) | (with_reducible apply State.abortSlice_keeps)
    | (with_reducible apply Keeps.ite) | (split) | (fail_if_no_progress with_reducible apply Keeps.plain))

theorem State.disarm_keeps (state : ReplayState) (h : Keeps s t) : Keeps s (State.disarm t state) := by
  unfold State.disarm
  try dsimp only
  repeat' (first
    | (with_reducible assumption) | (with_reducible apply State.readmit_keeps)
    | (with_reducible apply State.portDown_keeps)
    | (with_reducible apply State.setFore_keeps _ (by exact fun _ hx => hx))
    | (with_reducible apply Keeps.foldl) | (with_reducible apply Keeps.ite) | (intro u a hu) | (split)
    | (fail_if_no_progress with_reducible apply Keeps.plain))

theorem State.arm1_keeps (c : Cmd) (rs : List Bytes) (h : Keeps s t) : Keeps s (State.arm1 t c rs) := by
  unfold State.arm1
  try dsimp only
  repeat' (first
    | (with_reducible assumption) | (with_reducible apply State.portUp_keeps)
    | (with_reducible apply State.finish_keeps)
    | (with_reducible apply State.setFore_keeps _ (by exact fun _ hx => hx))
    | (with_reducible apply Keeps.ite) | (intro u a hu) | (split)
    | (fail_if_no_progress with_reducible apply Keeps.plain))

theorem State.applyThin_keeps (b : Bytes) (h : Keeps s t) : Keeps s (State.applyThin t b) := by
  unfold State.applyThin
  try dsimp only
  repeat' (first
    | (with_reducible assumption) | (with_reducible apply State.thin_keeps)
    | (with_reducible apply State.logRecord_keeps) | (with_reducible apply State.setStream_keeps)
    | (intro u a hu) | (split) | (fail_if_no_progress with_reducible apply Keeps.plain))

theorem State.applyRecord_keeps (b : Bytes) {u : State} (e : State.applyRecord t b = some u) (h : Keeps s t) : Keeps s (u) := by
  unfold State.applyRecord at e
  split at e
  all_goals simp only [Option.map_eq_some_iff, Option.some.injEq, reduceCtorEq] at e
  · subst e
    exact State.shiftRecord_keeps (State.newShift_keeps h)
  · subst e
    exact State.repartition_keeps _ _ h
  · obtain ⟨r, -, rfl⟩ := e
    exact State.admitRun_keeps _ _ _ (State.passPhase_keeps _ h)
  · obtain ⟨r, -, rfl⟩ := e
    exact State.shedWaiting_keeps _ _ _ (State.passPhase_keeps _ h)
  · obtain ⟨r, -, rfl⟩ := e
    exact State.setRun_keeps _ _ h
  · subst e
    exact State.applyThin_keeps _ h
  · obtain ⟨r, -, rfl⟩ := e
    exact State.setFore_keeps _ (fun _ hx => hx) h

theorem State.feedFailed_keeps (c : CtxId) (b : Bytes) (arrival : BitVec 64) (h : Keeps s t) : Keeps s (State.feedFailed t c b arrival) := by
  unfold State.feedFailed
  try dsimp only
  repeat' (first
    | (with_reducible assumption) | (with_reducible apply State.breakFrame_keeps)
    | (with_reducible apply State.beginFrame_keeps) | (with_reducible apply State.setStream_keeps)
    | (intro u a hu) | (split) | (fail_if_no_progress with_reducible apply Keeps.plain))

theorem State.feed_keeps (c : CtxId) (b : Bytes) (arrival : BitVec 64) (h : Keeps s t) : Keeps s (State.feed t c b arrival) := by
  unfold State.feed
  try dsimp only
  repeat' (first
    | (with_reducible assumption) | (with_reducible apply State.feedFailed_keeps) | (with_reducible apply State.endFrame_keeps)
    | (with_reducible apply State.beginFrame_keeps) | (split)
    | (fail_if_no_progress with_reducible apply Keeps.plain))

theorem State.bootFails_keeps (cause : Nat) (h : Keeps s t) : Keeps s (State.bootFails t cause) := by
  unfold State.bootFails
  try dsimp only
  repeat' (first
    | (with_reducible assumption) | (with_reducible apply State.rootSafe_keeps))

theorem State.noScion_keeps (h : Keeps s t) : Keeps s (State.noScion t) := by
  unfold State.noScion
  try dsimp only
  repeat' (first
    | (with_reducible assumption) | (with_reducible apply State.bootFails_keeps)
    | (with_reducible apply Keeps.ite) | (intro u a hu) | (split))

theorem State.joinScion_keeps (n : ScionId) (h : Keeps s t) : Keeps s (State.joinScion t n) := by
  unfold State.joinScion
  try dsimp only
  repeat' (first
    | (with_reducible assumption) | (with_reducible apply State.mapScion_keeps)
    | (with_reducible apply State.setScion_keeps) | (intro u a hu)
    | (fail_if_no_progress with_reducible apply Keeps.plain))

theorem State.scionFailed_keeps (n : ScionId) (a0 : ScionTest) (h : Keeps s t) : Keeps s (State.scionFailed t n a0) := by
  unfold State.scionFailed
  try dsimp only
  repeat' (first
    | (with_reducible assumption) | (with_reducible apply State.raise_keeps) | (split))

theorem State.scionTestFails_keeps (n : ScionId) (h : Keeps s t) : Keeps s (State.scionTestFails t n) := by
  unfold State.scionTestFails
  try dsimp only
  repeat' (first
    | (with_reducible assumption) | (with_reducible apply State.noScion_keeps)
    | (with_reducible apply State.setBoot_keeps) | (with_reducible apply State.setScion_keeps)
    | (with_reducible apply Keeps.ite) | (intro u a hu) | (split)
    | (fail_if_no_progress with_reducible apply Keeps.plain))

theorem State.completeBoot_keeps (h : Keeps s t) : Keeps s (State.completeBoot t) := by
  unfold State.completeBoot
  try dsimp only
  repeat' (first
    | (with_reducible assumption) | (with_reducible apply State.shiftRecord_keeps)
    | (with_reducible apply State.repartition_keeps) | (with_reducible apply State.eachFn_keeps)
    | (with_reducible apply State.setEvent_keeps) | (with_reducible apply State.setBoot_keeps)
    | (with_reducible apply State.setLamp_keeps _ (by exact fun _ hx => hx))
    | (with_reducible apply State.setFore_keeps _ (by exact fun _ hx => hx))
    | (with_reducible apply Keeps.ite) | (intro u a hu) | (split)
    | (fail_if_no_progress with_reducible apply Keeps.plain))

theorem State.wakeRun_keeps (h : Keeps s t) : Keeps s (State.wakeRun t) := h.run

theorem State.sense_keeps (source : Nat) (n : ScionId) (t' : Int) (h : Keeps s t) : Keeps s (State.sense t source n t') := by
  unfold State.sense
  try dsimp only
  repeat' (first
    | (with_reducible assumption) | (with_reducible apply State.loseScion_keeps)
    | (with_reducible apply State.clearLive_keeps) | (with_reducible apply State.raise_keeps)
    | (with_reducible apply Keeps.ite) | (split))

theorem State.releaseReservations_keeps (f : FnId) (h : Keeps s t) : Keeps s (State.releaseReservations t f) := by
  unfold State.releaseReservations
  try dsimp only
  repeat' (first
    | (with_reducible assumption) | (with_reducible apply State.setFore_keeps _ (by exact fun _ hx => hx))
    | (with_reducible apply Keeps.ite) | (intro u a hu) | (split)
    | (fail_if_no_progress with_reducible apply Keeps.plain))

theorem State.setSlot_keeps (n : Fin 2) (g : FlashSlot → FlashSlot) (h : Keeps s t) : Keeps s (State.setSlot t n g) := by
  unfold State.setSlot
  try dsimp only
  repeat' (first
    | (with_reducible assumption) | (fail_if_no_progress with_reducible apply Keeps.plain))

theorem State.allocMapping_keeps (f : FnId) (m : Mapping) {u : State} (e : State.allocMapping t f m = some u) (h : Keeps s t) : Keeps s (u) := by
  unfold State.allocMapping at e
  split at e
  · simp at e
  · rename_i k
    rw [Option.filter_eq_some_iff] at e
    exact State.alloc_keeps _ _ _ _ e.1 (State.alloc_keeps _ _ _ _ k h)

theorem State.addMapping_keeps (f : FnId) (m : Mapping) (h : Keeps s t) : Keeps s (State.addMapping t f m) := by
  unfold State.addMapping
  dsimp only
  have k : Keeps s (t.setFn f (fun x => { x with maps := m :: x.maps })) := State.setFn_keeps _ _ (fun _ hx => hx) h
  exact Keeps.ite k (k.memory (fun w => Memory.zero_wf _ _ _ w))

theorem State.moved_keeps (c : Cmd) (n : Nat) (a0 : Option (BitVec 16)) (h : Keeps s t) : Keeps s (State.moved t c n a0) := by
  unfold State.moved
  try dsimp only
  repeat' (first
    | (with_reducible assumption) | (with_reducible apply State.graftIf_keeps)
    | (with_reducible apply State.finish_keeps) | (with_reducible apply State.send_keeps)
    | (with_reducible apply Keeps.ite) | (split))

theorem State.graft2Fails_keeps (c : Cmd) (ch : ClPortId) (n : Nat) (h : Keeps s t) : Keeps s (State.graft2Fails t c ch n) := by
  unfold State.graft2Fails
  try dsimp only
  repeat' (first
    | (with_reducible assumption) | (with_reducible apply State.raise_keeps)
    | (with_reducible apply State.finish_keeps))

theorem State.upset_keeps (x : Upset) (h : Keeps s t) : Keeps s (State.upset t x) := by
  unfold State.upset
  split
  · exact h.memory (fun w => Memory.upset_wf _ _ _ w)
  · refine h.memory (fun w => Memory.upset_wf _ _ _ ?_)
    simp only [Memory.wf, Bool.and_eq_true] at w ⊢
    exact ⟨putBytes_wf _ _ _ w.1, w.2⟩

theorem State.advanceTurn_keeps (f : FnId) (n : RingId) (h : Keeps s t) : Keeps s (State.advanceTurn t f n) := by
  unfold State.advanceTurn
  try dsimp only
  repeat' (first
    | (with_reducible assumption) | (with_reducible apply State.setFore_keeps _ (by exact fun _ hx => hx))
    | (with_reducible apply State.setFn_keeps _ _ (by exact fun _ hx => hx))
    | (with_reducible apply State.setPort_keeps) | (intro u a hu) | (split)
    | (fail_if_no_progress with_reducible apply Keeps.plain))

theorem State.addCmd_keeps (c : Cmd) (h : Keeps s t) : Keeps s (State.addCmd t c) := by
  unfold State.addCmd
  try dsimp only
  repeat' (first
    | (with_reducible assumption) | (with_reducible apply State.setFore_keeps _ (by exact fun _ hx => hx))
    | (intro u a hu) | (fail_if_no_progress with_reducible apply Keeps.plain))

theorem State.admitCmd_keeps (c : Cmd) (h : Keeps s t) : Keeps s (State.admitCmd t c) := by
  unfold State.admitCmd
  dsimp only
  have k : Keeps s (if c.op = some .timeSet then t.setClk Clocks.endSlew else t) :=
    Keeps.ite (State.endSlew_keeps h) h
  exact Keeps.ite (State.setCmd_keeps _ _ (State.addCmd_keeps _ k)) (State.addCmd_keeps _ k)

theorem State.wakeFor_keeps (d : Bytes) (h : Keeps s t) : Keeps s (State.wakeFor t d) := by
  unfold State.wakeFor
  repeat' (first
    | (with_reducible assumption) | (with_reducible apply State.wakeRun_keeps)
    | (with_reducible apply Keeps.ite) | (split))

theorem State.readBlock_keeps (f : FnId) (d : Bytes) (h : Keeps s t) : Keeps s (State.readBlock t f d) := by
  unfold State.readBlock
  try dsimp only
  repeat' (first
    | (with_reducible assumption) | (with_reducible apply State.access_keeps)
    | (with_reducible apply Keeps.ite) | (split) | (fail_if_no_progress with_reducible apply Keeps.plain))

theorem State.takeEntry_keeps (f : FnId) (n : RingId) (d : Bytes) (h : Keeps s t) : Keeps s (State.takeEntry t f n d) := by
  unfold State.takeEntry
  try dsimp only
  repeat' (first
    | (with_reducible assumption) | (with_reducible apply State.readBlock_keeps)
    | (with_reducible apply State.wakeFor_keeps) | (with_reducible apply State.admitCmd_keeps)
    | (with_reducible apply State.addCmd_keeps) | (with_reducible apply State.scatterStopped_keeps)
    | (with_reducible apply State.setSq_keeps) | (with_reducible apply State.raise_keeps)
    | (with_reducible apply State.badBlock_keeps) | (with_reducible apply Keeps.ite) | (intro u a hu)
    | (split) | (fail_if_no_progress with_reducible apply Keeps.plain))

theorem State.retireEngine_keeps (e' : EngineId) (h : Keeps s t) : Keeps s (State.retireEngine t e') := by
  unfold State.retireEngine
  try dsimp only
  repeat' (first
    | (with_reducible assumption) | (with_reducible apply State.raise_keeps)
    | (with_reducible apply State.setEngine_keeps) | (intro u a hu)
    | (fail_if_no_progress with_reducible apply Keeps.plain))

end Sys2Proof.Machine
end

