-- ==== Sys2Proof/Laws/State.lean ====
section
/-!
SUPPORT. One lemma for each field and each update of the state: what the update leaves as it was, and
what it sets. Every one is true by `rfl`.
-/

namespace Sys2Proof.Machine

variable (s : State)

/-! ## setFn -/

@[simp] theorem State.setFn_fixed (f : FnId) (g : Fn → Fn) : (s.setFn f g).fixed = s.fixed := rfl
@[simp] theorem State.setFn_flash (f : FnId) (g : Fn → Fn) : (s.setFn f g).flash = s.flash := rfl
@[simp] theorem State.setFn_boot (f : FnId) (g : Fn → Fn) : (s.setFn f g).boot = s.boot := rfl
@[simp] theorem State.setFn_clk (f : FnId) (g : Fn → Fn) : (s.setFn f g).clk = s.clk := rfl
@[simp] theorem State.setFn_rootDrivesLow (f : FnId) (g : Fn → Fn) : (s.setFn f g).rootDrivesLow = s.rootDrivesLow := rfl
@[simp] theorem State.setFn_lampDrivesLow (f : FnId) (g : Fn → Fn) : (s.setFn f g).lampDrivesLow = s.lampDrivesLow := rfl
@[simp] theorem State.setFn_safe (f : FnId) (g : Fn → Fn) : (s.setFn f g).safe = s.safe := rfl
@[simp] theorem State.setFn_postBoot (f : FnId) (g : Fn → Fn) : (s.setFn f g).postBoot = s.postBoot := rfl
@[simp] theorem State.setFn_portA (f : FnId) (g : Fn → Fn) : (s.setFn f g).portA = s.portA := rfl
@[simp] theorem State.setFn_portB (f : FnId) (g : Fn → Fn) : (s.setFn f g).portB = s.portB := rfl
@[simp] theorem State.setFn_fore (f : FnId) (g : Fn → Fn) : (s.setFn f g).fore = s.fore := rfl
@[simp] theorem State.setFn_fcu (f : FnId) (g : Fn → Fn) : (s.setFn f g).fcu = s.fcu := rfl
@[simp] theorem State.setFn_mem (f : FnId) (g : Fn → Fn) : (s.setFn f g).mem = s.mem := rfl
@[simp] theorem State.setFn_streams (f : FnId) (g : Fn → Fn) : (s.setFn f g).streams = s.streams := rfl
@[simp] theorem State.setFn_cl (f : FnId) (g : Fn → Fn) : (s.setFn f g).cl = s.cl := rfl
@[simp] theorem State.setFn_eth (f : FnId) (g : Fn → Fn) : (s.setFn f g).eth = s.eth := rfl
@[simp] theorem State.setFn_uart (f : FnId) (g : Fn → Fn) : (s.setFn f g).uart = s.uart := rfl
@[simp] theorem State.setFn_drift (f : FnId) (g : Fn → Fn) : (s.setFn f g).drift = s.drift := rfl
@[simp] theorem State.setFn_xc (f : FnId) (g : Fn → Fn) : (s.setFn f g).xc = s.xc := rfl
@[simp] theorem State.setFn_lamp (f : FnId) (g : Fn → Fn) : (s.setFn f g).lamp = s.lamp := rfl
@[simp] theorem State.setFn_can (f : FnId) (g : Fn → Fn) : (s.setFn f g).can = s.can := rfl
@[simp] theorem State.setFn_wdog (f : FnId) (g : Fn → Fn) : (s.setFn f g).wdog = s.wdog := rfl
@[simp] theorem State.setFn_power (f : FnId) (g : Fn → Fn) : (s.setFn f g).power = s.power := rfl
@[simp] theorem State.setFn_scions (f : FnId) (g : Fn → Fn) : (s.setFn f g).scions = s.scions := rfl
@[simp] theorem State.setFn_engines (f : FnId) (g : Fn → Fn) : (s.setFn f g).engines = s.engines := rfl
@[simp] theorem State.setFn_footprint (f : FnId) (g : Fn → Fn) : (s.setFn f g).footprint = s.footprint := rfl
@[simp] theorem State.setFn_dieTemp (f : FnId) (g : Fn → Fn) : (s.setFn f g).dieTemp = s.dieTemp := rfl
@[simp] theorem State.setFn_draws (f : FnId) (g : Fn → Fn) : (s.setFn f g).draws = s.draws := rfl
@[simp] theorem State.setFn_sent (f : FnId) (g : Fn → Fn) : (s.setFn f g).sent = s.sent := rfl
@[simp] theorem State.setFn_pending (f : FnId) (g : Fn → Fn) : (s.setFn f g).pending = s.pending := rfl
@[simp] theorem State.setFn_self (f : FnId) (g : Fn → Fn) :
    (s.setFn f g).fns[f.val] = g s.fns[f.val] := by
  simp [State.setFn]
theorem State.setFn_other (f i : FnId) (g : Fn → Fn) (h : f ≠ i) :
    (s.setFn f g).fns[i.val] = s.fns[i.val] := by
  simp only [State.setFn]
  exact Vector.getElem_set_ne _ _ (fun e => h (Fin.ext e))

/-! ## setStream -/

@[simp] theorem State.setStream_fixed (c : CtxId) (g : Stream → Stream) : (s.setStream c g).fixed = s.fixed := rfl
@[simp] theorem State.setStream_flash (c : CtxId) (g : Stream → Stream) : (s.setStream c g).flash = s.flash := rfl
@[simp] theorem State.setStream_boot (c : CtxId) (g : Stream → Stream) : (s.setStream c g).boot = s.boot := rfl
@[simp] theorem State.setStream_clk (c : CtxId) (g : Stream → Stream) : (s.setStream c g).clk = s.clk := rfl
@[simp] theorem State.setStream_rootDrivesLow (c : CtxId) (g : Stream → Stream) : (s.setStream c g).rootDrivesLow = s.rootDrivesLow := rfl
@[simp] theorem State.setStream_lampDrivesLow (c : CtxId) (g : Stream → Stream) : (s.setStream c g).lampDrivesLow = s.lampDrivesLow := rfl
@[simp] theorem State.setStream_safe (c : CtxId) (g : Stream → Stream) : (s.setStream c g).safe = s.safe := rfl
@[simp] theorem State.setStream_postBoot (c : CtxId) (g : Stream → Stream) : (s.setStream c g).postBoot = s.postBoot := rfl
@[simp] theorem State.setStream_fns (c : CtxId) (g : Stream → Stream) : (s.setStream c g).fns = s.fns := rfl
@[simp] theorem State.setStream_portA (c : CtxId) (g : Stream → Stream) : (s.setStream c g).portA = s.portA := rfl
@[simp] theorem State.setStream_portB (c : CtxId) (g : Stream → Stream) : (s.setStream c g).portB = s.portB := rfl
@[simp] theorem State.setStream_fore (c : CtxId) (g : Stream → Stream) : (s.setStream c g).fore = s.fore := rfl
@[simp] theorem State.setStream_fcu (c : CtxId) (g : Stream → Stream) : (s.setStream c g).fcu = s.fcu := rfl
@[simp] theorem State.setStream_mem (c : CtxId) (g : Stream → Stream) : (s.setStream c g).mem = s.mem := rfl
@[simp] theorem State.setStream_cl (c : CtxId) (g : Stream → Stream) : (s.setStream c g).cl = s.cl := rfl
@[simp] theorem State.setStream_eth (c : CtxId) (g : Stream → Stream) : (s.setStream c g).eth = s.eth := rfl
@[simp] theorem State.setStream_uart (c : CtxId) (g : Stream → Stream) : (s.setStream c g).uart = s.uart := rfl
@[simp] theorem State.setStream_drift (c : CtxId) (g : Stream → Stream) : (s.setStream c g).drift = s.drift := rfl
@[simp] theorem State.setStream_xc (c : CtxId) (g : Stream → Stream) : (s.setStream c g).xc = s.xc := rfl
@[simp] theorem State.setStream_lamp (c : CtxId) (g : Stream → Stream) : (s.setStream c g).lamp = s.lamp := rfl
@[simp] theorem State.setStream_can (c : CtxId) (g : Stream → Stream) : (s.setStream c g).can = s.can := rfl
@[simp] theorem State.setStream_wdog (c : CtxId) (g : Stream → Stream) : (s.setStream c g).wdog = s.wdog := rfl
@[simp] theorem State.setStream_power (c : CtxId) (g : Stream → Stream) : (s.setStream c g).power = s.power := rfl
@[simp] theorem State.setStream_scions (c : CtxId) (g : Stream → Stream) : (s.setStream c g).scions = s.scions := rfl
@[simp] theorem State.setStream_engines (c : CtxId) (g : Stream → Stream) : (s.setStream c g).engines = s.engines := rfl
@[simp] theorem State.setStream_footprint (c : CtxId) (g : Stream → Stream) : (s.setStream c g).footprint = s.footprint := rfl
@[simp] theorem State.setStream_dieTemp (c : CtxId) (g : Stream → Stream) : (s.setStream c g).dieTemp = s.dieTemp := rfl
@[simp] theorem State.setStream_draws (c : CtxId) (g : Stream → Stream) : (s.setStream c g).draws = s.draws := rfl
@[simp] theorem State.setStream_sent (c : CtxId) (g : Stream → Stream) : (s.setStream c g).sent = s.sent := rfl
@[simp] theorem State.setStream_pending (c : CtxId) (g : Stream → Stream) : (s.setStream c g).pending = s.pending := rfl
@[simp] theorem State.setStream_self (c : CtxId) (g : Stream → Stream) :
    (s.setStream c g).streams[c.val] = g s.streams[c.val] := by
  simp [State.setStream]
theorem State.setStream_other (c i : CtxId) (g : Stream → Stream) (h : c ≠ i) :
    (s.setStream c g).streams[i.val] = s.streams[i.val] := by
  simp only [State.setStream]
  exact Vector.getElem_set_ne _ _ (fun e => h (Fin.ext e))

/-! ## setCl -/

@[simp] theorem State.setCl_fixed (p : ClPortId) (g : ClPort → ClPort) : (s.setCl p g).fixed = s.fixed := rfl
@[simp] theorem State.setCl_flash (p : ClPortId) (g : ClPort → ClPort) : (s.setCl p g).flash = s.flash := rfl
@[simp] theorem State.setCl_boot (p : ClPortId) (g : ClPort → ClPort) : (s.setCl p g).boot = s.boot := rfl
@[simp] theorem State.setCl_clk (p : ClPortId) (g : ClPort → ClPort) : (s.setCl p g).clk = s.clk := rfl
@[simp] theorem State.setCl_rootDrivesLow (p : ClPortId) (g : ClPort → ClPort) : (s.setCl p g).rootDrivesLow = s.rootDrivesLow := rfl
@[simp] theorem State.setCl_lampDrivesLow (p : ClPortId) (g : ClPort → ClPort) : (s.setCl p g).lampDrivesLow = s.lampDrivesLow := rfl
@[simp] theorem State.setCl_safe (p : ClPortId) (g : ClPort → ClPort) : (s.setCl p g).safe = s.safe := rfl
@[simp] theorem State.setCl_postBoot (p : ClPortId) (g : ClPort → ClPort) : (s.setCl p g).postBoot = s.postBoot := rfl
@[simp] theorem State.setCl_fns (p : ClPortId) (g : ClPort → ClPort) : (s.setCl p g).fns = s.fns := rfl
@[simp] theorem State.setCl_portA (p : ClPortId) (g : ClPort → ClPort) : (s.setCl p g).portA = s.portA := rfl
@[simp] theorem State.setCl_portB (p : ClPortId) (g : ClPort → ClPort) : (s.setCl p g).portB = s.portB := rfl
@[simp] theorem State.setCl_fore (p : ClPortId) (g : ClPort → ClPort) : (s.setCl p g).fore = s.fore := rfl
@[simp] theorem State.setCl_fcu (p : ClPortId) (g : ClPort → ClPort) : (s.setCl p g).fcu = s.fcu := rfl
@[simp] theorem State.setCl_mem (p : ClPortId) (g : ClPort → ClPort) : (s.setCl p g).mem = s.mem := rfl
@[simp] theorem State.setCl_streams (p : ClPortId) (g : ClPort → ClPort) : (s.setCl p g).streams = s.streams := rfl
@[simp] theorem State.setCl_eth (p : ClPortId) (g : ClPort → ClPort) : (s.setCl p g).eth = s.eth := rfl
@[simp] theorem State.setCl_uart (p : ClPortId) (g : ClPort → ClPort) : (s.setCl p g).uart = s.uart := rfl
@[simp] theorem State.setCl_drift (p : ClPortId) (g : ClPort → ClPort) : (s.setCl p g).drift = s.drift := rfl
@[simp] theorem State.setCl_xc (p : ClPortId) (g : ClPort → ClPort) : (s.setCl p g).xc = s.xc := rfl
@[simp] theorem State.setCl_lamp (p : ClPortId) (g : ClPort → ClPort) : (s.setCl p g).lamp = s.lamp := rfl
@[simp] theorem State.setCl_can (p : ClPortId) (g : ClPort → ClPort) : (s.setCl p g).can = s.can := rfl
@[simp] theorem State.setCl_wdog (p : ClPortId) (g : ClPort → ClPort) : (s.setCl p g).wdog = s.wdog := rfl
@[simp] theorem State.setCl_power (p : ClPortId) (g : ClPort → ClPort) : (s.setCl p g).power = s.power := rfl
@[simp] theorem State.setCl_scions (p : ClPortId) (g : ClPort → ClPort) : (s.setCl p g).scions = s.scions := rfl
@[simp] theorem State.setCl_engines (p : ClPortId) (g : ClPort → ClPort) : (s.setCl p g).engines = s.engines := rfl
@[simp] theorem State.setCl_footprint (p : ClPortId) (g : ClPort → ClPort) : (s.setCl p g).footprint = s.footprint := rfl
@[simp] theorem State.setCl_dieTemp (p : ClPortId) (g : ClPort → ClPort) : (s.setCl p g).dieTemp = s.dieTemp := rfl
@[simp] theorem State.setCl_draws (p : ClPortId) (g : ClPort → ClPort) : (s.setCl p g).draws = s.draws := rfl
@[simp] theorem State.setCl_sent (p : ClPortId) (g : ClPort → ClPort) : (s.setCl p g).sent = s.sent := rfl
@[simp] theorem State.setCl_pending (p : ClPortId) (g : ClPort → ClPort) : (s.setCl p g).pending = s.pending := rfl
@[simp] theorem State.setCl_self (p : ClPortId) (g : ClPort → ClPort) :
    (s.setCl p g).cl[p.val] = g s.cl[p.val] := by
  simp [State.setCl]
theorem State.setCl_other (p i : ClPortId) (g : ClPort → ClPort) (h : p ≠ i) :
    (s.setCl p g).cl[i.val] = s.cl[i.val] := by
  simp only [State.setCl]
  exact Vector.getElem_set_ne _ _ (fun e => h (Fin.ext e))

/-! ## setEth -/

@[simp] theorem State.setEth_fixed (p : Port4) (g : EthPort → EthPort) : (s.setEth p g).fixed = s.fixed := rfl
@[simp] theorem State.setEth_flash (p : Port4) (g : EthPort → EthPort) : (s.setEth p g).flash = s.flash := rfl
@[simp] theorem State.setEth_boot (p : Port4) (g : EthPort → EthPort) : (s.setEth p g).boot = s.boot := rfl
@[simp] theorem State.setEth_clk (p : Port4) (g : EthPort → EthPort) : (s.setEth p g).clk = s.clk := rfl
@[simp] theorem State.setEth_rootDrivesLow (p : Port4) (g : EthPort → EthPort) : (s.setEth p g).rootDrivesLow = s.rootDrivesLow := rfl
@[simp] theorem State.setEth_lampDrivesLow (p : Port4) (g : EthPort → EthPort) : (s.setEth p g).lampDrivesLow = s.lampDrivesLow := rfl
@[simp] theorem State.setEth_safe (p : Port4) (g : EthPort → EthPort) : (s.setEth p g).safe = s.safe := rfl
@[simp] theorem State.setEth_postBoot (p : Port4) (g : EthPort → EthPort) : (s.setEth p g).postBoot = s.postBoot := rfl
@[simp] theorem State.setEth_fns (p : Port4) (g : EthPort → EthPort) : (s.setEth p g).fns = s.fns := rfl
@[simp] theorem State.setEth_portA (p : Port4) (g : EthPort → EthPort) : (s.setEth p g).portA = s.portA := rfl
@[simp] theorem State.setEth_portB (p : Port4) (g : EthPort → EthPort) : (s.setEth p g).portB = s.portB := rfl
@[simp] theorem State.setEth_fore (p : Port4) (g : EthPort → EthPort) : (s.setEth p g).fore = s.fore := rfl
@[simp] theorem State.setEth_fcu (p : Port4) (g : EthPort → EthPort) : (s.setEth p g).fcu = s.fcu := rfl
@[simp] theorem State.setEth_mem (p : Port4) (g : EthPort → EthPort) : (s.setEth p g).mem = s.mem := rfl
@[simp] theorem State.setEth_streams (p : Port4) (g : EthPort → EthPort) : (s.setEth p g).streams = s.streams := rfl
@[simp] theorem State.setEth_cl (p : Port4) (g : EthPort → EthPort) : (s.setEth p g).cl = s.cl := rfl
@[simp] theorem State.setEth_uart (p : Port4) (g : EthPort → EthPort) : (s.setEth p g).uart = s.uart := rfl
@[simp] theorem State.setEth_drift (p : Port4) (g : EthPort → EthPort) : (s.setEth p g).drift = s.drift := rfl
@[simp] theorem State.setEth_xc (p : Port4) (g : EthPort → EthPort) : (s.setEth p g).xc = s.xc := rfl
@[simp] theorem State.setEth_lamp (p : Port4) (g : EthPort → EthPort) : (s.setEth p g).lamp = s.lamp := rfl
@[simp] theorem State.setEth_can (p : Port4) (g : EthPort → EthPort) : (s.setEth p g).can = s.can := rfl
@[simp] theorem State.setEth_wdog (p : Port4) (g : EthPort → EthPort) : (s.setEth p g).wdog = s.wdog := rfl
@[simp] theorem State.setEth_power (p : Port4) (g : EthPort → EthPort) : (s.setEth p g).power = s.power := rfl
@[simp] theorem State.setEth_scions (p : Port4) (g : EthPort → EthPort) : (s.setEth p g).scions = s.scions := rfl
@[simp] theorem State.setEth_engines (p : Port4) (g : EthPort → EthPort) : (s.setEth p g).engines = s.engines := rfl
@[simp] theorem State.setEth_footprint (p : Port4) (g : EthPort → EthPort) : (s.setEth p g).footprint = s.footprint := rfl
@[simp] theorem State.setEth_dieTemp (p : Port4) (g : EthPort → EthPort) : (s.setEth p g).dieTemp = s.dieTemp := rfl
@[simp] theorem State.setEth_draws (p : Port4) (g : EthPort → EthPort) : (s.setEth p g).draws = s.draws := rfl
@[simp] theorem State.setEth_sent (p : Port4) (g : EthPort → EthPort) : (s.setEth p g).sent = s.sent := rfl
@[simp] theorem State.setEth_pending (p : Port4) (g : EthPort → EthPort) : (s.setEth p g).pending = s.pending := rfl
@[simp] theorem State.setEth_self (p : Port4) (g : EthPort → EthPort) :
    (s.setEth p g).eth[p.val] = g s.eth[p.val] := by
  simp [State.setEth]
theorem State.setEth_other (p i : Port4) (g : EthPort → EthPort) (h : p ≠ i) :
    (s.setEth p g).eth[i.val] = s.eth[i.val] := by
  simp only [State.setEth]
  exact Vector.getElem_set_ne _ _ (fun e => h (Fin.ext e))

/-! ## setUart -/

@[simp] theorem State.setUart_fixed (p : Port4) (g : UartPort → UartPort) : (s.setUart p g).fixed = s.fixed := rfl
@[simp] theorem State.setUart_flash (p : Port4) (g : UartPort → UartPort) : (s.setUart p g).flash = s.flash := rfl
@[simp] theorem State.setUart_boot (p : Port4) (g : UartPort → UartPort) : (s.setUart p g).boot = s.boot := rfl
@[simp] theorem State.setUart_clk (p : Port4) (g : UartPort → UartPort) : (s.setUart p g).clk = s.clk := rfl
@[simp] theorem State.setUart_rootDrivesLow (p : Port4) (g : UartPort → UartPort) : (s.setUart p g).rootDrivesLow = s.rootDrivesLow := rfl
@[simp] theorem State.setUart_lampDrivesLow (p : Port4) (g : UartPort → UartPort) : (s.setUart p g).lampDrivesLow = s.lampDrivesLow := rfl
@[simp] theorem State.setUart_safe (p : Port4) (g : UartPort → UartPort) : (s.setUart p g).safe = s.safe := rfl
@[simp] theorem State.setUart_postBoot (p : Port4) (g : UartPort → UartPort) : (s.setUart p g).postBoot = s.postBoot := rfl
@[simp] theorem State.setUart_fns (p : Port4) (g : UartPort → UartPort) : (s.setUart p g).fns = s.fns := rfl
@[simp] theorem State.setUart_portA (p : Port4) (g : UartPort → UartPort) : (s.setUart p g).portA = s.portA := rfl
@[simp] theorem State.setUart_portB (p : Port4) (g : UartPort → UartPort) : (s.setUart p g).portB = s.portB := rfl
@[simp] theorem State.setUart_fore (p : Port4) (g : UartPort → UartPort) : (s.setUart p g).fore = s.fore := rfl
@[simp] theorem State.setUart_fcu (p : Port4) (g : UartPort → UartPort) : (s.setUart p g).fcu = s.fcu := rfl
@[simp] theorem State.setUart_mem (p : Port4) (g : UartPort → UartPort) : (s.setUart p g).mem = s.mem := rfl
@[simp] theorem State.setUart_streams (p : Port4) (g : UartPort → UartPort) : (s.setUart p g).streams = s.streams := rfl
@[simp] theorem State.setUart_cl (p : Port4) (g : UartPort → UartPort) : (s.setUart p g).cl = s.cl := rfl
@[simp] theorem State.setUart_eth (p : Port4) (g : UartPort → UartPort) : (s.setUart p g).eth = s.eth := rfl
@[simp] theorem State.setUart_drift (p : Port4) (g : UartPort → UartPort) : (s.setUart p g).drift = s.drift := rfl
@[simp] theorem State.setUart_xc (p : Port4) (g : UartPort → UartPort) : (s.setUart p g).xc = s.xc := rfl
@[simp] theorem State.setUart_lamp (p : Port4) (g : UartPort → UartPort) : (s.setUart p g).lamp = s.lamp := rfl
@[simp] theorem State.setUart_can (p : Port4) (g : UartPort → UartPort) : (s.setUart p g).can = s.can := rfl
@[simp] theorem State.setUart_wdog (p : Port4) (g : UartPort → UartPort) : (s.setUart p g).wdog = s.wdog := rfl
@[simp] theorem State.setUart_power (p : Port4) (g : UartPort → UartPort) : (s.setUart p g).power = s.power := rfl
@[simp] theorem State.setUart_scions (p : Port4) (g : UartPort → UartPort) : (s.setUart p g).scions = s.scions := rfl
@[simp] theorem State.setUart_engines (p : Port4) (g : UartPort → UartPort) : (s.setUart p g).engines = s.engines := rfl
@[simp] theorem State.setUart_footprint (p : Port4) (g : UartPort → UartPort) : (s.setUart p g).footprint = s.footprint := rfl
@[simp] theorem State.setUart_dieTemp (p : Port4) (g : UartPort → UartPort) : (s.setUart p g).dieTemp = s.dieTemp := rfl
@[simp] theorem State.setUart_draws (p : Port4) (g : UartPort → UartPort) : (s.setUart p g).draws = s.draws := rfl
@[simp] theorem State.setUart_sent (p : Port4) (g : UartPort → UartPort) : (s.setUart p g).sent = s.sent := rfl
@[simp] theorem State.setUart_pending (p : Port4) (g : UartPort → UartPort) : (s.setUart p g).pending = s.pending := rfl
@[simp] theorem State.setUart_self (p : Port4) (g : UartPort → UartPort) :
    (s.setUart p g).uart[p.val] = g s.uart[p.val] := by
  simp [State.setUart]
theorem State.setUart_other (p i : Port4) (g : UartPort → UartPort) (h : p ≠ i) :
    (s.setUart p g).uart[i.val] = s.uart[i.val] := by
  simp only [State.setUart]
  exact Vector.getElem_set_ne _ _ (fun e => h (Fin.ext e))

/-! ## setDrift -/

@[simp] theorem State.setDrift_fixed (p : Port4) (g : DriftPort → DriftPort) : (s.setDrift p g).fixed = s.fixed := rfl
@[simp] theorem State.setDrift_flash (p : Port4) (g : DriftPort → DriftPort) : (s.setDrift p g).flash = s.flash := rfl
@[simp] theorem State.setDrift_boot (p : Port4) (g : DriftPort → DriftPort) : (s.setDrift p g).boot = s.boot := rfl
@[simp] theorem State.setDrift_clk (p : Port4) (g : DriftPort → DriftPort) : (s.setDrift p g).clk = s.clk := rfl
@[simp] theorem State.setDrift_rootDrivesLow (p : Port4) (g : DriftPort → DriftPort) : (s.setDrift p g).rootDrivesLow = s.rootDrivesLow := rfl
@[simp] theorem State.setDrift_lampDrivesLow (p : Port4) (g : DriftPort → DriftPort) : (s.setDrift p g).lampDrivesLow = s.lampDrivesLow := rfl
@[simp] theorem State.setDrift_safe (p : Port4) (g : DriftPort → DriftPort) : (s.setDrift p g).safe = s.safe := rfl
@[simp] theorem State.setDrift_postBoot (p : Port4) (g : DriftPort → DriftPort) : (s.setDrift p g).postBoot = s.postBoot := rfl
@[simp] theorem State.setDrift_fns (p : Port4) (g : DriftPort → DriftPort) : (s.setDrift p g).fns = s.fns := rfl
@[simp] theorem State.setDrift_portA (p : Port4) (g : DriftPort → DriftPort) : (s.setDrift p g).portA = s.portA := rfl
@[simp] theorem State.setDrift_portB (p : Port4) (g : DriftPort → DriftPort) : (s.setDrift p g).portB = s.portB := rfl
@[simp] theorem State.setDrift_fore (p : Port4) (g : DriftPort → DriftPort) : (s.setDrift p g).fore = s.fore := rfl
@[simp] theorem State.setDrift_fcu (p : Port4) (g : DriftPort → DriftPort) : (s.setDrift p g).fcu = s.fcu := rfl
@[simp] theorem State.setDrift_mem (p : Port4) (g : DriftPort → DriftPort) : (s.setDrift p g).mem = s.mem := rfl
@[simp] theorem State.setDrift_streams (p : Port4) (g : DriftPort → DriftPort) : (s.setDrift p g).streams = s.streams := rfl
@[simp] theorem State.setDrift_cl (p : Port4) (g : DriftPort → DriftPort) : (s.setDrift p g).cl = s.cl := rfl
@[simp] theorem State.setDrift_eth (p : Port4) (g : DriftPort → DriftPort) : (s.setDrift p g).eth = s.eth := rfl
@[simp] theorem State.setDrift_uart (p : Port4) (g : DriftPort → DriftPort) : (s.setDrift p g).uart = s.uart := rfl
@[simp] theorem State.setDrift_xc (p : Port4) (g : DriftPort → DriftPort) : (s.setDrift p g).xc = s.xc := rfl
@[simp] theorem State.setDrift_lamp (p : Port4) (g : DriftPort → DriftPort) : (s.setDrift p g).lamp = s.lamp := rfl
@[simp] theorem State.setDrift_can (p : Port4) (g : DriftPort → DriftPort) : (s.setDrift p g).can = s.can := rfl
@[simp] theorem State.setDrift_wdog (p : Port4) (g : DriftPort → DriftPort) : (s.setDrift p g).wdog = s.wdog := rfl
@[simp] theorem State.setDrift_power (p : Port4) (g : DriftPort → DriftPort) : (s.setDrift p g).power = s.power := rfl
@[simp] theorem State.setDrift_scions (p : Port4) (g : DriftPort → DriftPort) : (s.setDrift p g).scions = s.scions := rfl
@[simp] theorem State.setDrift_engines (p : Port4) (g : DriftPort → DriftPort) : (s.setDrift p g).engines = s.engines := rfl
@[simp] theorem State.setDrift_footprint (p : Port4) (g : DriftPort → DriftPort) : (s.setDrift p g).footprint = s.footprint := rfl
@[simp] theorem State.setDrift_dieTemp (p : Port4) (g : DriftPort → DriftPort) : (s.setDrift p g).dieTemp = s.dieTemp := rfl
@[simp] theorem State.setDrift_draws (p : Port4) (g : DriftPort → DriftPort) : (s.setDrift p g).draws = s.draws := rfl
@[simp] theorem State.setDrift_sent (p : Port4) (g : DriftPort → DriftPort) : (s.setDrift p g).sent = s.sent := rfl
@[simp] theorem State.setDrift_pending (p : Port4) (g : DriftPort → DriftPort) : (s.setDrift p g).pending = s.pending := rfl
@[simp] theorem State.setDrift_self (p : Port4) (g : DriftPort → DriftPort) :
    (s.setDrift p g).drift[p.val] = g s.drift[p.val] := by
  simp [State.setDrift]
theorem State.setDrift_other (p i : Port4) (g : DriftPort → DriftPort) (h : p ≠ i) :
    (s.setDrift p g).drift[i.val] = s.drift[i.val] := by
  simp only [State.setDrift]
  exact Vector.getElem_set_ne _ _ (fun e => h (Fin.ext e))

/-! ## setCan -/

@[simp] theorem State.setCan_fixed (b : BusId) (g : CanBus → CanBus) : (s.setCan b g).fixed = s.fixed := rfl
@[simp] theorem State.setCan_flash (b : BusId) (g : CanBus → CanBus) : (s.setCan b g).flash = s.flash := rfl
@[simp] theorem State.setCan_boot (b : BusId) (g : CanBus → CanBus) : (s.setCan b g).boot = s.boot := rfl
@[simp] theorem State.setCan_clk (b : BusId) (g : CanBus → CanBus) : (s.setCan b g).clk = s.clk := rfl
@[simp] theorem State.setCan_rootDrivesLow (b : BusId) (g : CanBus → CanBus) : (s.setCan b g).rootDrivesLow = s.rootDrivesLow := rfl
@[simp] theorem State.setCan_lampDrivesLow (b : BusId) (g : CanBus → CanBus) : (s.setCan b g).lampDrivesLow = s.lampDrivesLow := rfl
@[simp] theorem State.setCan_safe (b : BusId) (g : CanBus → CanBus) : (s.setCan b g).safe = s.safe := rfl
@[simp] theorem State.setCan_postBoot (b : BusId) (g : CanBus → CanBus) : (s.setCan b g).postBoot = s.postBoot := rfl
@[simp] theorem State.setCan_fns (b : BusId) (g : CanBus → CanBus) : (s.setCan b g).fns = s.fns := rfl
@[simp] theorem State.setCan_portA (b : BusId) (g : CanBus → CanBus) : (s.setCan b g).portA = s.portA := rfl
@[simp] theorem State.setCan_portB (b : BusId) (g : CanBus → CanBus) : (s.setCan b g).portB = s.portB := rfl
@[simp] theorem State.setCan_fore (b : BusId) (g : CanBus → CanBus) : (s.setCan b g).fore = s.fore := rfl
@[simp] theorem State.setCan_fcu (b : BusId) (g : CanBus → CanBus) : (s.setCan b g).fcu = s.fcu := rfl
@[simp] theorem State.setCan_mem (b : BusId) (g : CanBus → CanBus) : (s.setCan b g).mem = s.mem := rfl
@[simp] theorem State.setCan_streams (b : BusId) (g : CanBus → CanBus) : (s.setCan b g).streams = s.streams := rfl
@[simp] theorem State.setCan_cl (b : BusId) (g : CanBus → CanBus) : (s.setCan b g).cl = s.cl := rfl
@[simp] theorem State.setCan_eth (b : BusId) (g : CanBus → CanBus) : (s.setCan b g).eth = s.eth := rfl
@[simp] theorem State.setCan_uart (b : BusId) (g : CanBus → CanBus) : (s.setCan b g).uart = s.uart := rfl
@[simp] theorem State.setCan_drift (b : BusId) (g : CanBus → CanBus) : (s.setCan b g).drift = s.drift := rfl
@[simp] theorem State.setCan_xc (b : BusId) (g : CanBus → CanBus) : (s.setCan b g).xc = s.xc := rfl
@[simp] theorem State.setCan_lamp (b : BusId) (g : CanBus → CanBus) : (s.setCan b g).lamp = s.lamp := rfl
@[simp] theorem State.setCan_wdog (b : BusId) (g : CanBus → CanBus) : (s.setCan b g).wdog = s.wdog := rfl
@[simp] theorem State.setCan_power (b : BusId) (g : CanBus → CanBus) : (s.setCan b g).power = s.power := rfl
@[simp] theorem State.setCan_scions (b : BusId) (g : CanBus → CanBus) : (s.setCan b g).scions = s.scions := rfl
@[simp] theorem State.setCan_engines (b : BusId) (g : CanBus → CanBus) : (s.setCan b g).engines = s.engines := rfl
@[simp] theorem State.setCan_footprint (b : BusId) (g : CanBus → CanBus) : (s.setCan b g).footprint = s.footprint := rfl
@[simp] theorem State.setCan_dieTemp (b : BusId) (g : CanBus → CanBus) : (s.setCan b g).dieTemp = s.dieTemp := rfl
@[simp] theorem State.setCan_draws (b : BusId) (g : CanBus → CanBus) : (s.setCan b g).draws = s.draws := rfl
@[simp] theorem State.setCan_sent (b : BusId) (g : CanBus → CanBus) : (s.setCan b g).sent = s.sent := rfl
@[simp] theorem State.setCan_pending (b : BusId) (g : CanBus → CanBus) : (s.setCan b g).pending = s.pending := rfl
@[simp] theorem State.setCan_self (b : BusId) (g : CanBus → CanBus) :
    (s.setCan b g).can[b.val] = g s.can[b.val] := by
  simp [State.setCan]
theorem State.setCan_other (b i : BusId) (g : CanBus → CanBus) (h : b ≠ i) :
    (s.setCan b g).can[i.val] = s.can[i.val] := by
  simp only [State.setCan]
  exact Vector.getElem_set_ne _ _ (fun e => h (Fin.ext e))

/-! ## setWdog -/

@[simp] theorem State.setWdog_fixed (w : WdogId) (g : Wdog → Wdog) : (s.setWdog w g).fixed = s.fixed := rfl
@[simp] theorem State.setWdog_flash (w : WdogId) (g : Wdog → Wdog) : (s.setWdog w g).flash = s.flash := rfl
@[simp] theorem State.setWdog_boot (w : WdogId) (g : Wdog → Wdog) : (s.setWdog w g).boot = s.boot := rfl
@[simp] theorem State.setWdog_clk (w : WdogId) (g : Wdog → Wdog) : (s.setWdog w g).clk = s.clk := rfl
@[simp] theorem State.setWdog_rootDrivesLow (w : WdogId) (g : Wdog → Wdog) : (s.setWdog w g).rootDrivesLow = s.rootDrivesLow := rfl
@[simp] theorem State.setWdog_lampDrivesLow (w : WdogId) (g : Wdog → Wdog) : (s.setWdog w g).lampDrivesLow = s.lampDrivesLow := rfl
@[simp] theorem State.setWdog_safe (w : WdogId) (g : Wdog → Wdog) : (s.setWdog w g).safe = s.safe := rfl
@[simp] theorem State.setWdog_postBoot (w : WdogId) (g : Wdog → Wdog) : (s.setWdog w g).postBoot = s.postBoot := rfl
@[simp] theorem State.setWdog_fns (w : WdogId) (g : Wdog → Wdog) : (s.setWdog w g).fns = s.fns := rfl
@[simp] theorem State.setWdog_portA (w : WdogId) (g : Wdog → Wdog) : (s.setWdog w g).portA = s.portA := rfl
@[simp] theorem State.setWdog_portB (w : WdogId) (g : Wdog → Wdog) : (s.setWdog w g).portB = s.portB := rfl
@[simp] theorem State.setWdog_fore (w : WdogId) (g : Wdog → Wdog) : (s.setWdog w g).fore = s.fore := rfl
@[simp] theorem State.setWdog_fcu (w : WdogId) (g : Wdog → Wdog) : (s.setWdog w g).fcu = s.fcu := rfl
@[simp] theorem State.setWdog_mem (w : WdogId) (g : Wdog → Wdog) : (s.setWdog w g).mem = s.mem := rfl
@[simp] theorem State.setWdog_streams (w : WdogId) (g : Wdog → Wdog) : (s.setWdog w g).streams = s.streams := rfl
@[simp] theorem State.setWdog_cl (w : WdogId) (g : Wdog → Wdog) : (s.setWdog w g).cl = s.cl := rfl
@[simp] theorem State.setWdog_eth (w : WdogId) (g : Wdog → Wdog) : (s.setWdog w g).eth = s.eth := rfl
@[simp] theorem State.setWdog_uart (w : WdogId) (g : Wdog → Wdog) : (s.setWdog w g).uart = s.uart := rfl
@[simp] theorem State.setWdog_drift (w : WdogId) (g : Wdog → Wdog) : (s.setWdog w g).drift = s.drift := rfl
@[simp] theorem State.setWdog_xc (w : WdogId) (g : Wdog → Wdog) : (s.setWdog w g).xc = s.xc := rfl
@[simp] theorem State.setWdog_lamp (w : WdogId) (g : Wdog → Wdog) : (s.setWdog w g).lamp = s.lamp := rfl
@[simp] theorem State.setWdog_can (w : WdogId) (g : Wdog → Wdog) : (s.setWdog w g).can = s.can := rfl
@[simp] theorem State.setWdog_power (w : WdogId) (g : Wdog → Wdog) : (s.setWdog w g).power = s.power := rfl
@[simp] theorem State.setWdog_scions (w : WdogId) (g : Wdog → Wdog) : (s.setWdog w g).scions = s.scions := rfl
@[simp] theorem State.setWdog_engines (w : WdogId) (g : Wdog → Wdog) : (s.setWdog w g).engines = s.engines := rfl
@[simp] theorem State.setWdog_footprint (w : WdogId) (g : Wdog → Wdog) : (s.setWdog w g).footprint = s.footprint := rfl
@[simp] theorem State.setWdog_dieTemp (w : WdogId) (g : Wdog → Wdog) : (s.setWdog w g).dieTemp = s.dieTemp := rfl
@[simp] theorem State.setWdog_draws (w : WdogId) (g : Wdog → Wdog) : (s.setWdog w g).draws = s.draws := rfl
@[simp] theorem State.setWdog_sent (w : WdogId) (g : Wdog → Wdog) : (s.setWdog w g).sent = s.sent := rfl
@[simp] theorem State.setWdog_pending (w : WdogId) (g : Wdog → Wdog) : (s.setWdog w g).pending = s.pending := rfl
@[simp] theorem State.setWdog_self (w : WdogId) (g : Wdog → Wdog) :
    (s.setWdog w g).wdog[w.val] = g s.wdog[w.val] := by
  simp [State.setWdog]
theorem State.setWdog_other (w i : WdogId) (g : Wdog → Wdog) (h : w ≠ i) :
    (s.setWdog w g).wdog[i.val] = s.wdog[i.val] := by
  simp only [State.setWdog]
  exact Vector.getElem_set_ne _ _ (fun e => h (Fin.ext e))

/-! ## setScion -/

@[simp] theorem State.setScion_fixed (n : ScionId) (g : Scion → Scion) : (s.setScion n g).fixed = s.fixed := rfl
@[simp] theorem State.setScion_flash (n : ScionId) (g : Scion → Scion) : (s.setScion n g).flash = s.flash := rfl
@[simp] theorem State.setScion_boot (n : ScionId) (g : Scion → Scion) : (s.setScion n g).boot = s.boot := rfl
@[simp] theorem State.setScion_clk (n : ScionId) (g : Scion → Scion) : (s.setScion n g).clk = s.clk := rfl
@[simp] theorem State.setScion_rootDrivesLow (n : ScionId) (g : Scion → Scion) : (s.setScion n g).rootDrivesLow = s.rootDrivesLow := rfl
@[simp] theorem State.setScion_lampDrivesLow (n : ScionId) (g : Scion → Scion) : (s.setScion n g).lampDrivesLow = s.lampDrivesLow := rfl
@[simp] theorem State.setScion_safe (n : ScionId) (g : Scion → Scion) : (s.setScion n g).safe = s.safe := rfl
@[simp] theorem State.setScion_postBoot (n : ScionId) (g : Scion → Scion) : (s.setScion n g).postBoot = s.postBoot := rfl
@[simp] theorem State.setScion_fns (n : ScionId) (g : Scion → Scion) : (s.setScion n g).fns = s.fns := rfl
@[simp] theorem State.setScion_portA (n : ScionId) (g : Scion → Scion) : (s.setScion n g).portA = s.portA := rfl
@[simp] theorem State.setScion_portB (n : ScionId) (g : Scion → Scion) : (s.setScion n g).portB = s.portB := rfl
@[simp] theorem State.setScion_fore (n : ScionId) (g : Scion → Scion) : (s.setScion n g).fore = s.fore := rfl
@[simp] theorem State.setScion_fcu (n : ScionId) (g : Scion → Scion) : (s.setScion n g).fcu = s.fcu := rfl
@[simp] theorem State.setScion_mem (n : ScionId) (g : Scion → Scion) : (s.setScion n g).mem = s.mem := rfl
@[simp] theorem State.setScion_streams (n : ScionId) (g : Scion → Scion) : (s.setScion n g).streams = s.streams := rfl
@[simp] theorem State.setScion_cl (n : ScionId) (g : Scion → Scion) : (s.setScion n g).cl = s.cl := rfl
@[simp] theorem State.setScion_eth (n : ScionId) (g : Scion → Scion) : (s.setScion n g).eth = s.eth := rfl
@[simp] theorem State.setScion_uart (n : ScionId) (g : Scion → Scion) : (s.setScion n g).uart = s.uart := rfl
@[simp] theorem State.setScion_drift (n : ScionId) (g : Scion → Scion) : (s.setScion n g).drift = s.drift := rfl
@[simp] theorem State.setScion_xc (n : ScionId) (g : Scion → Scion) : (s.setScion n g).xc = s.xc := rfl
@[simp] theorem State.setScion_lamp (n : ScionId) (g : Scion → Scion) : (s.setScion n g).lamp = s.lamp := rfl
@[simp] theorem State.setScion_can (n : ScionId) (g : Scion → Scion) : (s.setScion n g).can = s.can := rfl
@[simp] theorem State.setScion_wdog (n : ScionId) (g : Scion → Scion) : (s.setScion n g).wdog = s.wdog := rfl
@[simp] theorem State.setScion_power (n : ScionId) (g : Scion → Scion) : (s.setScion n g).power = s.power := rfl
@[simp] theorem State.setScion_engines (n : ScionId) (g : Scion → Scion) : (s.setScion n g).engines = s.engines := rfl
@[simp] theorem State.setScion_footprint (n : ScionId) (g : Scion → Scion) : (s.setScion n g).footprint = s.footprint := rfl
@[simp] theorem State.setScion_dieTemp (n : ScionId) (g : Scion → Scion) : (s.setScion n g).dieTemp = s.dieTemp := rfl
@[simp] theorem State.setScion_draws (n : ScionId) (g : Scion → Scion) : (s.setScion n g).draws = s.draws := rfl
@[simp] theorem State.setScion_sent (n : ScionId) (g : Scion → Scion) : (s.setScion n g).sent = s.sent := rfl
@[simp] theorem State.setScion_pending (n : ScionId) (g : Scion → Scion) : (s.setScion n g).pending = s.pending := rfl
@[simp] theorem State.setScion_self (n : ScionId) (g : Scion → Scion) :
    (s.setScion n g).scions[n.val] = g s.scions[n.val] := by
  simp [State.setScion]
theorem State.setScion_other (n i : ScionId) (g : Scion → Scion) (h : n ≠ i) :
    (s.setScion n g).scions[i.val] = s.scions[i.val] := by
  simp only [State.setScion]
  exact Vector.getElem_set_ne _ _ (fun e => h (Fin.ext e))

/-! ## setEngine -/

@[simp] theorem State.setEngine_fixed (e : EngineId) (g : Engine → Engine) : (s.setEngine e g).fixed = s.fixed := rfl
@[simp] theorem State.setEngine_flash (e : EngineId) (g : Engine → Engine) : (s.setEngine e g).flash = s.flash := rfl
@[simp] theorem State.setEngine_boot (e : EngineId) (g : Engine → Engine) : (s.setEngine e g).boot = s.boot := rfl
@[simp] theorem State.setEngine_clk (e : EngineId) (g : Engine → Engine) : (s.setEngine e g).clk = s.clk := rfl
@[simp] theorem State.setEngine_rootDrivesLow (e : EngineId) (g : Engine → Engine) : (s.setEngine e g).rootDrivesLow = s.rootDrivesLow := rfl
@[simp] theorem State.setEngine_lampDrivesLow (e : EngineId) (g : Engine → Engine) : (s.setEngine e g).lampDrivesLow = s.lampDrivesLow := rfl
@[simp] theorem State.setEngine_safe (e : EngineId) (g : Engine → Engine) : (s.setEngine e g).safe = s.safe := rfl
@[simp] theorem State.setEngine_postBoot (e : EngineId) (g : Engine → Engine) : (s.setEngine e g).postBoot = s.postBoot := rfl
@[simp] theorem State.setEngine_fns (e : EngineId) (g : Engine → Engine) : (s.setEngine e g).fns = s.fns := rfl
@[simp] theorem State.setEngine_portA (e : EngineId) (g : Engine → Engine) : (s.setEngine e g).portA = s.portA := rfl
@[simp] theorem State.setEngine_portB (e : EngineId) (g : Engine → Engine) : (s.setEngine e g).portB = s.portB := rfl
@[simp] theorem State.setEngine_fore (e : EngineId) (g : Engine → Engine) : (s.setEngine e g).fore = s.fore := rfl
@[simp] theorem State.setEngine_fcu (e : EngineId) (g : Engine → Engine) : (s.setEngine e g).fcu = s.fcu := rfl
@[simp] theorem State.setEngine_mem (e : EngineId) (g : Engine → Engine) : (s.setEngine e g).mem = s.mem := rfl
@[simp] theorem State.setEngine_streams (e : EngineId) (g : Engine → Engine) : (s.setEngine e g).streams = s.streams := rfl
@[simp] theorem State.setEngine_cl (e : EngineId) (g : Engine → Engine) : (s.setEngine e g).cl = s.cl := rfl
@[simp] theorem State.setEngine_eth (e : EngineId) (g : Engine → Engine) : (s.setEngine e g).eth = s.eth := rfl
@[simp] theorem State.setEngine_uart (e : EngineId) (g : Engine → Engine) : (s.setEngine e g).uart = s.uart := rfl
@[simp] theorem State.setEngine_drift (e : EngineId) (g : Engine → Engine) : (s.setEngine e g).drift = s.drift := rfl
@[simp] theorem State.setEngine_xc (e : EngineId) (g : Engine → Engine) : (s.setEngine e g).xc = s.xc := rfl
@[simp] theorem State.setEngine_lamp (e : EngineId) (g : Engine → Engine) : (s.setEngine e g).lamp = s.lamp := rfl
@[simp] theorem State.setEngine_can (e : EngineId) (g : Engine → Engine) : (s.setEngine e g).can = s.can := rfl
@[simp] theorem State.setEngine_wdog (e : EngineId) (g : Engine → Engine) : (s.setEngine e g).wdog = s.wdog := rfl
@[simp] theorem State.setEngine_power (e : EngineId) (g : Engine → Engine) : (s.setEngine e g).power = s.power := rfl
@[simp] theorem State.setEngine_scions (e : EngineId) (g : Engine → Engine) : (s.setEngine e g).scions = s.scions := rfl
@[simp] theorem State.setEngine_footprint (e : EngineId) (g : Engine → Engine) : (s.setEngine e g).footprint = s.footprint := rfl
@[simp] theorem State.setEngine_dieTemp (e : EngineId) (g : Engine → Engine) : (s.setEngine e g).dieTemp = s.dieTemp := rfl
@[simp] theorem State.setEngine_draws (e : EngineId) (g : Engine → Engine) : (s.setEngine e g).draws = s.draws := rfl
@[simp] theorem State.setEngine_sent (e : EngineId) (g : Engine → Engine) : (s.setEngine e g).sent = s.sent := rfl
@[simp] theorem State.setEngine_pending (e : EngineId) (g : Engine → Engine) : (s.setEngine e g).pending = s.pending := rfl
@[simp] theorem State.setEngine_self (e : EngineId) (g : Engine → Engine) :
    (s.setEngine e g).engines[e.val] = g s.engines[e.val] := by
  simp [State.setEngine]
theorem State.setEngine_other (e i : EngineId) (g : Engine → Engine) (h : e ≠ i) :
    (s.setEngine e g).engines[i.val] = s.engines[i.val] := by
  simp only [State.setEngine]
  exact Vector.getElem_set_ne _ _ (fun e => h (Fin.ext e))

/-! ## setFore -/

@[simp] theorem State.setFore_fixed (g : Foreman → Foreman) : (s.setFore g).fixed = s.fixed := rfl
@[simp] theorem State.setFore_flash (g : Foreman → Foreman) : (s.setFore g).flash = s.flash := rfl
@[simp] theorem State.setFore_boot (g : Foreman → Foreman) : (s.setFore g).boot = s.boot := rfl
@[simp] theorem State.setFore_clk (g : Foreman → Foreman) : (s.setFore g).clk = s.clk := rfl
@[simp] theorem State.setFore_rootDrivesLow (g : Foreman → Foreman) : (s.setFore g).rootDrivesLow = s.rootDrivesLow := rfl
@[simp] theorem State.setFore_lampDrivesLow (g : Foreman → Foreman) : (s.setFore g).lampDrivesLow = s.lampDrivesLow := rfl
@[simp] theorem State.setFore_safe (g : Foreman → Foreman) : (s.setFore g).safe = s.safe := rfl
@[simp] theorem State.setFore_postBoot (g : Foreman → Foreman) : (s.setFore g).postBoot = s.postBoot := rfl
@[simp] theorem State.setFore_fns (g : Foreman → Foreman) : (s.setFore g).fns = s.fns := rfl
@[simp] theorem State.setFore_portA (g : Foreman → Foreman) : (s.setFore g).portA = s.portA := rfl
@[simp] theorem State.setFore_portB (g : Foreman → Foreman) : (s.setFore g).portB = s.portB := rfl
@[simp] theorem State.setFore_fore (g : Foreman → Foreman) : (s.setFore g).fore = g s.fore := rfl
@[simp] theorem State.setFore_fcu (g : Foreman → Foreman) : (s.setFore g).fcu = s.fcu := rfl
@[simp] theorem State.setFore_mem (g : Foreman → Foreman) : (s.setFore g).mem = s.mem := rfl
@[simp] theorem State.setFore_streams (g : Foreman → Foreman) : (s.setFore g).streams = s.streams := rfl
@[simp] theorem State.setFore_cl (g : Foreman → Foreman) : (s.setFore g).cl = s.cl := rfl
@[simp] theorem State.setFore_eth (g : Foreman → Foreman) : (s.setFore g).eth = s.eth := rfl
@[simp] theorem State.setFore_uart (g : Foreman → Foreman) : (s.setFore g).uart = s.uart := rfl
@[simp] theorem State.setFore_drift (g : Foreman → Foreman) : (s.setFore g).drift = s.drift := rfl
@[simp] theorem State.setFore_xc (g : Foreman → Foreman) : (s.setFore g).xc = s.xc := rfl
@[simp] theorem State.setFore_lamp (g : Foreman → Foreman) : (s.setFore g).lamp = s.lamp := rfl
@[simp] theorem State.setFore_can (g : Foreman → Foreman) : (s.setFore g).can = s.can := rfl
@[simp] theorem State.setFore_wdog (g : Foreman → Foreman) : (s.setFore g).wdog = s.wdog := rfl
@[simp] theorem State.setFore_power (g : Foreman → Foreman) : (s.setFore g).power = s.power := rfl
@[simp] theorem State.setFore_scions (g : Foreman → Foreman) : (s.setFore g).scions = s.scions := rfl
@[simp] theorem State.setFore_engines (g : Foreman → Foreman) : (s.setFore g).engines = s.engines := rfl
@[simp] theorem State.setFore_footprint (g : Foreman → Foreman) : (s.setFore g).footprint = s.footprint := rfl
@[simp] theorem State.setFore_dieTemp (g : Foreman → Foreman) : (s.setFore g).dieTemp = s.dieTemp := rfl
@[simp] theorem State.setFore_draws (g : Foreman → Foreman) : (s.setFore g).draws = s.draws := rfl
@[simp] theorem State.setFore_sent (g : Foreman → Foreman) : (s.setFore g).sent = s.sent := rfl
@[simp] theorem State.setFore_pending (g : Foreman → Foreman) : (s.setFore g).pending = s.pending := rfl

/-! ## setLamp -/

@[simp] theorem State.setLamp_fixed (g : Lamp → Lamp) : (s.setLamp g).fixed = s.fixed := rfl
@[simp] theorem State.setLamp_flash (g : Lamp → Lamp) : (s.setLamp g).flash = s.flash := rfl
@[simp] theorem State.setLamp_boot (g : Lamp → Lamp) : (s.setLamp g).boot = s.boot := rfl
@[simp] theorem State.setLamp_clk (g : Lamp → Lamp) : (s.setLamp g).clk = s.clk := rfl
@[simp] theorem State.setLamp_rootDrivesLow (g : Lamp → Lamp) : (s.setLamp g).rootDrivesLow = s.rootDrivesLow := rfl
@[simp] theorem State.setLamp_lampDrivesLow (g : Lamp → Lamp) : (s.setLamp g).lampDrivesLow = s.lampDrivesLow := rfl
@[simp] theorem State.setLamp_safe (g : Lamp → Lamp) : (s.setLamp g).safe = s.safe := rfl
@[simp] theorem State.setLamp_postBoot (g : Lamp → Lamp) : (s.setLamp g).postBoot = s.postBoot := rfl
@[simp] theorem State.setLamp_fns (g : Lamp → Lamp) : (s.setLamp g).fns = s.fns := rfl
@[simp] theorem State.setLamp_portA (g : Lamp → Lamp) : (s.setLamp g).portA = s.portA := rfl
@[simp] theorem State.setLamp_portB (g : Lamp → Lamp) : (s.setLamp g).portB = s.portB := rfl
@[simp] theorem State.setLamp_fore (g : Lamp → Lamp) : (s.setLamp g).fore = s.fore := rfl
@[simp] theorem State.setLamp_fcu (g : Lamp → Lamp) : (s.setLamp g).fcu = s.fcu := rfl
@[simp] theorem State.setLamp_mem (g : Lamp → Lamp) : (s.setLamp g).mem = s.mem := rfl
@[simp] theorem State.setLamp_streams (g : Lamp → Lamp) : (s.setLamp g).streams = s.streams := rfl
@[simp] theorem State.setLamp_cl (g : Lamp → Lamp) : (s.setLamp g).cl = s.cl := rfl
@[simp] theorem State.setLamp_eth (g : Lamp → Lamp) : (s.setLamp g).eth = s.eth := rfl
@[simp] theorem State.setLamp_uart (g : Lamp → Lamp) : (s.setLamp g).uart = s.uart := rfl
@[simp] theorem State.setLamp_drift (g : Lamp → Lamp) : (s.setLamp g).drift = s.drift := rfl
@[simp] theorem State.setLamp_xc (g : Lamp → Lamp) : (s.setLamp g).xc = s.xc := rfl
@[simp] theorem State.setLamp_lamp (g : Lamp → Lamp) : (s.setLamp g).lamp = g s.lamp := rfl
@[simp] theorem State.setLamp_can (g : Lamp → Lamp) : (s.setLamp g).can = s.can := rfl
@[simp] theorem State.setLamp_wdog (g : Lamp → Lamp) : (s.setLamp g).wdog = s.wdog := rfl
@[simp] theorem State.setLamp_power (g : Lamp → Lamp) : (s.setLamp g).power = s.power := rfl
@[simp] theorem State.setLamp_scions (g : Lamp → Lamp) : (s.setLamp g).scions = s.scions := rfl
@[simp] theorem State.setLamp_engines (g : Lamp → Lamp) : (s.setLamp g).engines = s.engines := rfl
@[simp] theorem State.setLamp_footprint (g : Lamp → Lamp) : (s.setLamp g).footprint = s.footprint := rfl
@[simp] theorem State.setLamp_dieTemp (g : Lamp → Lamp) : (s.setLamp g).dieTemp = s.dieTemp := rfl
@[simp] theorem State.setLamp_draws (g : Lamp → Lamp) : (s.setLamp g).draws = s.draws := rfl
@[simp] theorem State.setLamp_sent (g : Lamp → Lamp) : (s.setLamp g).sent = s.sent := rfl
@[simp] theorem State.setLamp_pending (g : Lamp → Lamp) : (s.setLamp g).pending = s.pending := rfl

/-! ## setClk -/

@[simp] theorem State.setClk_fixed (g : Clocks → Clocks) : (s.setClk g).fixed = s.fixed := rfl
@[simp] theorem State.setClk_flash (g : Clocks → Clocks) : (s.setClk g).flash = s.flash := rfl
@[simp] theorem State.setClk_boot (g : Clocks → Clocks) : (s.setClk g).boot = s.boot := rfl
@[simp] theorem State.setClk_clk (g : Clocks → Clocks) : (s.setClk g).clk = g s.clk := rfl
@[simp] theorem State.setClk_rootDrivesLow (g : Clocks → Clocks) : (s.setClk g).rootDrivesLow = s.rootDrivesLow := rfl
@[simp] theorem State.setClk_lampDrivesLow (g : Clocks → Clocks) : (s.setClk g).lampDrivesLow = s.lampDrivesLow := rfl
@[simp] theorem State.setClk_safe (g : Clocks → Clocks) : (s.setClk g).safe = s.safe := rfl
@[simp] theorem State.setClk_postBoot (g : Clocks → Clocks) : (s.setClk g).postBoot = s.postBoot := rfl
@[simp] theorem State.setClk_fns (g : Clocks → Clocks) : (s.setClk g).fns = s.fns := rfl
@[simp] theorem State.setClk_portA (g : Clocks → Clocks) : (s.setClk g).portA = s.portA := rfl
@[simp] theorem State.setClk_portB (g : Clocks → Clocks) : (s.setClk g).portB = s.portB := rfl
@[simp] theorem State.setClk_fore (g : Clocks → Clocks) : (s.setClk g).fore = s.fore := rfl
@[simp] theorem State.setClk_fcu (g : Clocks → Clocks) : (s.setClk g).fcu = s.fcu := rfl
@[simp] theorem State.setClk_mem (g : Clocks → Clocks) : (s.setClk g).mem = s.mem := rfl
@[simp] theorem State.setClk_streams (g : Clocks → Clocks) : (s.setClk g).streams = s.streams := rfl
@[simp] theorem State.setClk_cl (g : Clocks → Clocks) : (s.setClk g).cl = s.cl := rfl
@[simp] theorem State.setClk_eth (g : Clocks → Clocks) : (s.setClk g).eth = s.eth := rfl
@[simp] theorem State.setClk_uart (g : Clocks → Clocks) : (s.setClk g).uart = s.uart := rfl
@[simp] theorem State.setClk_drift (g : Clocks → Clocks) : (s.setClk g).drift = s.drift := rfl
@[simp] theorem State.setClk_xc (g : Clocks → Clocks) : (s.setClk g).xc = s.xc := rfl
@[simp] theorem State.setClk_lamp (g : Clocks → Clocks) : (s.setClk g).lamp = s.lamp := rfl
@[simp] theorem State.setClk_can (g : Clocks → Clocks) : (s.setClk g).can = s.can := rfl
@[simp] theorem State.setClk_wdog (g : Clocks → Clocks) : (s.setClk g).wdog = s.wdog := rfl
@[simp] theorem State.setClk_power (g : Clocks → Clocks) : (s.setClk g).power = s.power := rfl
@[simp] theorem State.setClk_scions (g : Clocks → Clocks) : (s.setClk g).scions = s.scions := rfl
@[simp] theorem State.setClk_engines (g : Clocks → Clocks) : (s.setClk g).engines = s.engines := rfl
@[simp] theorem State.setClk_footprint (g : Clocks → Clocks) : (s.setClk g).footprint = s.footprint := rfl
@[simp] theorem State.setClk_dieTemp (g : Clocks → Clocks) : (s.setClk g).dieTemp = s.dieTemp := rfl
@[simp] theorem State.setClk_draws (g : Clocks → Clocks) : (s.setClk g).draws = s.draws := rfl
@[simp] theorem State.setClk_sent (g : Clocks → Clocks) : (s.setClk g).sent = s.sent := rfl
@[simp] theorem State.setClk_pending (g : Clocks → Clocks) : (s.setClk g).pending = s.pending := rfl

/-! ## setBoot -/

@[simp] theorem State.setBoot_fixed (g : Boot → Boot) : (s.setBoot g).fixed = s.fixed := rfl
@[simp] theorem State.setBoot_flash (g : Boot → Boot) : (s.setBoot g).flash = s.flash := rfl
@[simp] theorem State.setBoot_boot (g : Boot → Boot) : (s.setBoot g).boot = g s.boot := rfl
@[simp] theorem State.setBoot_clk (g : Boot → Boot) : (s.setBoot g).clk = s.clk := rfl
@[simp] theorem State.setBoot_rootDrivesLow (g : Boot → Boot) : (s.setBoot g).rootDrivesLow = s.rootDrivesLow := rfl
@[simp] theorem State.setBoot_lampDrivesLow (g : Boot → Boot) : (s.setBoot g).lampDrivesLow = s.lampDrivesLow := rfl
@[simp] theorem State.setBoot_safe (g : Boot → Boot) : (s.setBoot g).safe = s.safe := rfl
@[simp] theorem State.setBoot_postBoot (g : Boot → Boot) : (s.setBoot g).postBoot = s.postBoot := rfl
@[simp] theorem State.setBoot_fns (g : Boot → Boot) : (s.setBoot g).fns = s.fns := rfl
@[simp] theorem State.setBoot_portA (g : Boot → Boot) : (s.setBoot g).portA = s.portA := rfl
@[simp] theorem State.setBoot_portB (g : Boot → Boot) : (s.setBoot g).portB = s.portB := rfl
@[simp] theorem State.setBoot_fore (g : Boot → Boot) : (s.setBoot g).fore = s.fore := rfl
@[simp] theorem State.setBoot_fcu (g : Boot → Boot) : (s.setBoot g).fcu = s.fcu := rfl
@[simp] theorem State.setBoot_mem (g : Boot → Boot) : (s.setBoot g).mem = s.mem := rfl
@[simp] theorem State.setBoot_streams (g : Boot → Boot) : (s.setBoot g).streams = s.streams := rfl
@[simp] theorem State.setBoot_cl (g : Boot → Boot) : (s.setBoot g).cl = s.cl := rfl
@[simp] theorem State.setBoot_eth (g : Boot → Boot) : (s.setBoot g).eth = s.eth := rfl
@[simp] theorem State.setBoot_uart (g : Boot → Boot) : (s.setBoot g).uart = s.uart := rfl
@[simp] theorem State.setBoot_drift (g : Boot → Boot) : (s.setBoot g).drift = s.drift := rfl
@[simp] theorem State.setBoot_xc (g : Boot → Boot) : (s.setBoot g).xc = s.xc := rfl
@[simp] theorem State.setBoot_lamp (g : Boot → Boot) : (s.setBoot g).lamp = s.lamp := rfl
@[simp] theorem State.setBoot_can (g : Boot → Boot) : (s.setBoot g).can = s.can := rfl
@[simp] theorem State.setBoot_wdog (g : Boot → Boot) : (s.setBoot g).wdog = s.wdog := rfl
@[simp] theorem State.setBoot_power (g : Boot → Boot) : (s.setBoot g).power = s.power := rfl
@[simp] theorem State.setBoot_scions (g : Boot → Boot) : (s.setBoot g).scions = s.scions := rfl
@[simp] theorem State.setBoot_engines (g : Boot → Boot) : (s.setBoot g).engines = s.engines := rfl
@[simp] theorem State.setBoot_footprint (g : Boot → Boot) : (s.setBoot g).footprint = s.footprint := rfl
@[simp] theorem State.setBoot_dieTemp (g : Boot → Boot) : (s.setBoot g).dieTemp = s.dieTemp := rfl
@[simp] theorem State.setBoot_draws (g : Boot → Boot) : (s.setBoot g).draws = s.draws := rfl
@[simp] theorem State.setBoot_sent (g : Boot → Boot) : (s.setBoot g).sent = s.sent := rfl
@[simp] theorem State.setBoot_pending (g : Boot → Boot) : (s.setBoot g).pending = s.pending := rfl

/-! ## send -/

@[simp] theorem State.send_fixed (x : Sent) : (s.send x).fixed = s.fixed := rfl
@[simp] theorem State.send_flash (x : Sent) : (s.send x).flash = s.flash := rfl
@[simp] theorem State.send_boot (x : Sent) : (s.send x).boot = s.boot := rfl
@[simp] theorem State.send_clk (x : Sent) : (s.send x).clk = s.clk := rfl
@[simp] theorem State.send_rootDrivesLow (x : Sent) : (s.send x).rootDrivesLow = s.rootDrivesLow := rfl
@[simp] theorem State.send_lampDrivesLow (x : Sent) : (s.send x).lampDrivesLow = s.lampDrivesLow := rfl
@[simp] theorem State.send_safe (x : Sent) : (s.send x).safe = s.safe := rfl
@[simp] theorem State.send_postBoot (x : Sent) : (s.send x).postBoot = s.postBoot := rfl
@[simp] theorem State.send_fns (x : Sent) : (s.send x).fns = s.fns := rfl
@[simp] theorem State.send_portA (x : Sent) : (s.send x).portA = s.portA := rfl
@[simp] theorem State.send_portB (x : Sent) : (s.send x).portB = s.portB := rfl
@[simp] theorem State.send_fore (x : Sent) : (s.send x).fore = s.fore := rfl
@[simp] theorem State.send_fcu (x : Sent) : (s.send x).fcu = s.fcu := rfl
@[simp] theorem State.send_mem (x : Sent) : (s.send x).mem = s.mem := rfl
@[simp] theorem State.send_streams (x : Sent) : (s.send x).streams = s.streams := rfl
@[simp] theorem State.send_cl (x : Sent) : (s.send x).cl = s.cl := rfl
@[simp] theorem State.send_eth (x : Sent) : (s.send x).eth = s.eth := rfl
@[simp] theorem State.send_uart (x : Sent) : (s.send x).uart = s.uart := rfl
@[simp] theorem State.send_drift (x : Sent) : (s.send x).drift = s.drift := rfl
@[simp] theorem State.send_xc (x : Sent) : (s.send x).xc = s.xc := rfl
@[simp] theorem State.send_lamp (x : Sent) : (s.send x).lamp = s.lamp := rfl
@[simp] theorem State.send_can (x : Sent) : (s.send x).can = s.can := rfl
@[simp] theorem State.send_wdog (x : Sent) : (s.send x).wdog = s.wdog := rfl
@[simp] theorem State.send_power (x : Sent) : (s.send x).power = s.power := rfl
@[simp] theorem State.send_scions (x : Sent) : (s.send x).scions = s.scions := rfl
@[simp] theorem State.send_engines (x : Sent) : (s.send x).engines = s.engines := rfl
@[simp] theorem State.send_footprint (x : Sent) : (s.send x).footprint = s.footprint := rfl
@[simp] theorem State.send_dieTemp (x : Sent) : (s.send x).dieTemp = s.dieTemp := rfl
@[simp] theorem State.send_draws (x : Sent) : (s.send x).draws = s.draws := rfl
@[simp] theorem State.send_sent (x : Sent) : (s.send x).sent = x :: s.sent := rfl
@[simp] theorem State.send_pending (x : Sent) : (s.send x).pending = s.pending := rfl

/-! ## setPort -/

@[simp] theorem State.setPort_fixed (p : HostPort) (g : PciePort → PciePort) :
    (s.setPort p g).fixed = s.fixed := by
  cases p <;> rfl
@[simp] theorem State.setPort_flash (p : HostPort) (g : PciePort → PciePort) :
    (s.setPort p g).flash = s.flash := by
  cases p <;> rfl
@[simp] theorem State.setPort_boot (p : HostPort) (g : PciePort → PciePort) :
    (s.setPort p g).boot = s.boot := by
  cases p <;> rfl
@[simp] theorem State.setPort_clk (p : HostPort) (g : PciePort → PciePort) :
    (s.setPort p g).clk = s.clk := by
  cases p <;> rfl
@[simp] theorem State.setPort_rootDrivesLow (p : HostPort) (g : PciePort → PciePort) :
    (s.setPort p g).rootDrivesLow = s.rootDrivesLow := by
  cases p <;> rfl
@[simp] theorem State.setPort_lampDrivesLow (p : HostPort) (g : PciePort → PciePort) :
    (s.setPort p g).lampDrivesLow = s.lampDrivesLow := by
  cases p <;> rfl
@[simp] theorem State.setPort_safe (p : HostPort) (g : PciePort → PciePort) :
    (s.setPort p g).safe = s.safe := by
  cases p <;> rfl
@[simp] theorem State.setPort_postBoot (p : HostPort) (g : PciePort → PciePort) :
    (s.setPort p g).postBoot = s.postBoot := by
  cases p <;> rfl
@[simp] theorem State.setPort_fns (p : HostPort) (g : PciePort → PciePort) :
    (s.setPort p g).fns = s.fns := by
  cases p <;> rfl
@[simp] theorem State.setPort_fore (p : HostPort) (g : PciePort → PciePort) :
    (s.setPort p g).fore = s.fore := by
  cases p <;> rfl
@[simp] theorem State.setPort_fcu (p : HostPort) (g : PciePort → PciePort) :
    (s.setPort p g).fcu = s.fcu := by
  cases p <;> rfl
@[simp] theorem State.setPort_mem (p : HostPort) (g : PciePort → PciePort) :
    (s.setPort p g).mem = s.mem := by
  cases p <;> rfl
@[simp] theorem State.setPort_streams (p : HostPort) (g : PciePort → PciePort) :
    (s.setPort p g).streams = s.streams := by
  cases p <;> rfl
@[simp] theorem State.setPort_cl (p : HostPort) (g : PciePort → PciePort) :
    (s.setPort p g).cl = s.cl := by
  cases p <;> rfl
@[simp] theorem State.setPort_eth (p : HostPort) (g : PciePort → PciePort) :
    (s.setPort p g).eth = s.eth := by
  cases p <;> rfl
@[simp] theorem State.setPort_uart (p : HostPort) (g : PciePort → PciePort) :
    (s.setPort p g).uart = s.uart := by
  cases p <;> rfl
@[simp] theorem State.setPort_drift (p : HostPort) (g : PciePort → PciePort) :
    (s.setPort p g).drift = s.drift := by
  cases p <;> rfl
@[simp] theorem State.setPort_xc (p : HostPort) (g : PciePort → PciePort) :
    (s.setPort p g).xc = s.xc := by
  cases p <;> rfl
@[simp] theorem State.setPort_lamp (p : HostPort) (g : PciePort → PciePort) :
    (s.setPort p g).lamp = s.lamp := by
  cases p <;> rfl
@[simp] theorem State.setPort_can (p : HostPort) (g : PciePort → PciePort) :
    (s.setPort p g).can = s.can := by
  cases p <;> rfl
@[simp] theorem State.setPort_wdog (p : HostPort) (g : PciePort → PciePort) :
    (s.setPort p g).wdog = s.wdog := by
  cases p <;> rfl
@[simp] theorem State.setPort_power (p : HostPort) (g : PciePort → PciePort) :
    (s.setPort p g).power = s.power := by
  cases p <;> rfl
@[simp] theorem State.setPort_scions (p : HostPort) (g : PciePort → PciePort) :
    (s.setPort p g).scions = s.scions := by
  cases p <;> rfl
@[simp] theorem State.setPort_engines (p : HostPort) (g : PciePort → PciePort) :
    (s.setPort p g).engines = s.engines := by
  cases p <;> rfl
@[simp] theorem State.setPort_footprint (p : HostPort) (g : PciePort → PciePort) :
    (s.setPort p g).footprint = s.footprint := by
  cases p <;> rfl
@[simp] theorem State.setPort_dieTemp (p : HostPort) (g : PciePort → PciePort) :
    (s.setPort p g).dieTemp = s.dieTemp := by
  cases p <;> rfl
@[simp] theorem State.setPort_draws (p : HostPort) (g : PciePort → PciePort) :
    (s.setPort p g).draws = s.draws := by
  cases p <;> rfl
@[simp] theorem State.setPort_sent (p : HostPort) (g : PciePort → PciePort) :
    (s.setPort p g).sent = s.sent := by
  cases p <;> rfl
@[simp] theorem State.setPort_pending (p : HostPort) (g : PciePort → PciePort) :
    (s.setPort p g).pending = s.pending := by
  cases p <;> rfl
@[simp] theorem State.setPort_self (p : HostPort) (g : PciePort → PciePort) :
    (s.setPort p g).port p = g (s.port p) := by
  cases p <;> rfl
theorem State.setPort_other (p q : HostPort) (g : PciePort → PciePort) (h : p ≠ q) :
    (s.setPort p g).port q = s.port q := by
  cases p <;> cases q <;> first | rfl | exact absurd rfl h

/-! ## Reading a function -/

@[simp] theorem State.setFn_fn (f : FnId) (g : Fn → Fn) : (s.setFn f g).fn f = g (s.fn f) := by
  simp [State.fn, State.setFn]
theorem State.setFn_fn_other (f i : FnId) (g : Fn → Fn) (h : f ≠ i) : (s.setFn f g).fn i = s.fn i :=
  State.setFn_other s f i g h

end Sys2Proof.Machine
end

