-- ==== Sys2Proof/Laws/Ops.lean ====
section
/-!
SUPPORT. What each shared operation can do, said once: taken commands and their completion, CAN
transmission, the lamp die's entry to the safe state, whole-device resets.
-/

namespace Sys2Proof.Machine

/-- An event whose condition holds acts. -/
theorem State.when_pos {s t : State} {c : Bool} (h : c = true) : s.when c t = t := by simp [State.when, h]

/-- An event whose condition fails finds nothing to act on. -/
theorem State.when_neg {s t : State} {c : Bool} (h : c = false) : s.when c t = s := by simp [State.when, h]

/-! ## Taken commands -/

/-- The command found under a number has that number. -/
theorem State.cmd_id {s : State} {id : Nat} {c : Cmd} (h : s.cmd id = some c) : c.id = id := by
  have := List.find?_some h
  simpa using this

/-- A row whose command has begun acts on it. -/
theorem State.Begins.run {s : State} {id : Nat} {o : Opcode} {c : Cmd} (h : s.Begins id o c) (g : Cmd → State) :
    s.withCmd id o g = g c := by
  simp [State.withCmd, h.cmd, h.runs, h.phase, h.op]

/-- The number of a command that has begun. -/
theorem State.Begins.id_eq {s : State} {id : Nat} {o : Opcode} {c : Cmd} (h : s.Begins id o c) : c.id = id :=
  State.cmd_id h.cmd

/-- A row that meets admission acts on its command. -/
theorem State.Offered.run {s : State} {id : Nat} {o : Opcode} {c : Cmd} (h : s.Offered id o c) (g : Cmd → State) :
    s.withJob id o g = g c := by
  have p := h.phase
  simp only [State.withJob, h.cmd]
  rw [if_pos ⟨h.runs, p, h.op, h.fresh⟩]

/-- Changing a taken command that keeps its number. -/
theorem State.setCmd_cmd (s : State) (id j : Nat) (g : Cmd → Cmd) (k : ∀ c, (g c).id = c.id) :
    (s.setCmd id g).cmd j = if j = id then (s.cmd j).map g else s.cmd j := by
  simp only [State.setCmd, State.cmd, State.setFore]
  induction s.fore.taken with
  | nil => simp
  | cons c r ih =>
    simp only [List.map_cons, List.find?_cons]
    have e : (if c.id = id then g c else c).id = c.id := by
      split
      · exact k c
      · rfl
    rw [e]
    by_cases m : (c.id == j) = true
    · have m' : c.id = j := by simpa using m
      subst m'
      simp only [m]
      by_cases q : c.id = id <;> simp [q]
    · simp only [m]
      exact ih

/-- A completion formed for a command that has none: its status, DETAIL, RESULT and the device time. -/
theorem State.finish_cmd {s : State} {id : Nat} {c : Cmd} (h : s.cmd id = some c) (l : c.live = true)
    (status detail : BitVec 16) (result : BitVec 64) :
    (s.finish id status detail result).cmd id = some { c with phase := .formed status detail result s.now } := by
  rw [State.finish, State.setCmd_cmd _ _ _ _ (fun c => by split <;> rfl)]
  simp [h, l]

/-- A command that has begun has no completion yet. -/
theorem State.Begins.live {s : State} {id : Nat} {o : Opcode} {c : Cmd} (b : s.Begins id o c) : c.live = true := by
  simp [Cmd.live, b.phase]

/-- Every other command stays as it is. -/
theorem State.finish_other (s : State) {id j : Nat} (n : j ≠ id) (status detail : BitVec 16) (result : BitVec 64) :
    (s.finish id status detail result).cmd j = s.cmd j := by
  rw [State.finish, State.setCmd_cmd _ _ _ _ (fun c => by split <;> rfl)]
  simp [n]

/-- A completion formed after changes that leave the taken commands alone. -/
theorem State.finish_completed {s u : State} {id : Nat} {c : Cmd} (h : s.cmd id = some c) (l : c.live = true)
    (k : u.fore.taken = s.fore.taken) (st d : BitVec 16) (r : BitVec 64) : Completed s (u.finish id st d r) id c st d r := by
  have h' : u.cmd id = some c := by simpa only [State.cmd, k] using h
  exact ⟨(State.finish_cmd h' l st d r).trans rfl,
    fun j n => (State.finish_other u n st d r).trans (by simp only [State.cmd, k])⟩

/-! ## CAN transmission and the lamp die -/

/-- A controller that starts its next frame changes the controllers and what was sent. -/
theorem State.kick_frame (s : State) (b : BusId) : ∃ can sent, s.kick b = { s with can := can, sent := sent } := by
  unfold State.kick State.send State.setCan
  dsimp only
  repeat' split
  all_goals exact ⟨_, _, rfl⟩

/-- The lamp die's entry to the safe state: the pins, its own state, the controllers, what was sent. -/
theorem State.lampSafe_frame (s : State) (cause : Nat) (h : s.lamp.safe = false) :
    ∃ can sent, s.lampSafe cause = { s with
      lampDrivesLow := true
      lamp := { s.lamp with
        safe := true
        cause := some (s.lamp.cause.getD cause)
        toRoot := s.lamp.toRoot ++ [.safeRequest cause] }
      can := can, sent := sent } := by
  unfold State.lampSafe
  simp only [h, Bool.false_eq_true, if_false]
  obtain ⟨c, n, e⟩ := State.kick_frame { s with
      lampDrivesLow := true
      lamp := { s.lamp with
        safe := true
        cause := some (s.lamp.cause.getD cause)
        toRoot := s.lamp.toRoot ++ [.safeRequest cause] }
      can := s.can.map CanBus.enterSafe } 0
  rw [e]
  obtain ⟨c', n', e'⟩ := State.kick_frame { s with
      lampDrivesLow := true
      lamp := { s.lamp with
        safe := true
        cause := some (s.lamp.cause.getD cause)
        toRoot := s.lamp.toRoot ++ [.safeRequest cause] }
      can := c, sent := n } 1
  exact ⟨c', n', e'⟩

/-! ## Functions and interrupts -/

/-- A signalled vector changes functions and what was sent. -/
theorem State.signal_frame (s : State) (f : FnId) (v : Fin 32) :
    ∃ fns sent, s.signal f v = { s with fns := fns, sent := sent } := by
  unfold State.signal State.send State.setFn
  repeat' split
  all_goals exact ⟨_, _, rfl⟩

/-- Setting bits of FN_EVENT changes functions and what was sent. -/
theorem State.setEvent_frame (s : State) (f : FnId) (bits : BitVec 7) :
    ∃ fns sent, s.setEvent f bits = { s with fns := fns, sent := sent } := by
  unfold State.setEvent
  dsimp only
  split
  · exact ⟨_, _, rfl⟩
  · obtain ⟨a, b, e⟩ := State.signal_frame (s.setFn f (fun x => { x with event := x.event ||| bits })) f 0
    exact ⟨a, b, e⟩

/-- Events of many functions change functions and what was sent. -/
theorem State.eachFn_frame (s : State) (g : State → FnId → State)
    (k : ∀ (t : State) f, ∃ fns sent, g t f = { t with fns := fns, sent := sent }) :
    ∃ fns sent, s.eachFn g = { s with fns := fns, sent := sent } := by
  unfold State.eachFn
  generalize List.finRange 128 = l
  induction l generalizing s with
  | nil => exact ⟨_, _, rfl⟩
  | cons f r ih =>
    obtain ⟨a, b, e⟩ := k s f
    obtain ⟨a', b', e'⟩ := ih (g s f)
    refine ⟨a', b', ?_⟩
    rw [List.foldl_cons, e', e]

/-! ## Tiles aborted -/

/-- `t` is `s` but for engines, memory, the draws, and what the runs have used. -/
def Aborted (s t : State) : Prop :=
  ∃ engines mem draws runs, t = { s with engines := engines, mem := mem, draws := draws,
                                         fore := { s.fore with runs := runs } }

theorem Aborted.refl (s : State) : Aborted s s := ⟨_, _, _, _, rfl⟩

theorem Aborted.trans {s t u : State} (a : Aborted s t) (b : Aborted t u) : Aborted s u := by
  obtain ⟨_, _, _, _, rfl⟩ := a
  obtain ⟨_, _, _, _, rfl⟩ := b
  exact ⟨_, _, _, _, rfl⟩

/-- An aborted tile changes engines, memory, the draws and its run. -/
theorem State.abortTile_frame (s : State) (e : EngineId) : Aborted s (s.abortTile e) := by
  unfold State.abortTile State.scatter
  dsimp only
  repeat' split
  all_goals exact ⟨_, _, _, _, rfl⟩

/-- Aborted tiles change engines, memory, the draws and their runs. -/
theorem State.abortTiles_frame (s : State) (p : Nat → Bool) : Aborted s (s.abortTiles p) := by
  unfold State.abortTiles
  generalize List.finRange 64 = l
  induction l generalizing s with
  | nil => exact Aborted.refl s
  | cons f r ih =>
    rw [List.foldl_cons]
    refine Aborted.trans ?_ (ih _)
    split
    · split
      · exact State.abortTile_frame s f
      · exact Aborted.refl s
    · exact Aborted.refl s

/-! ## The rootstock's entry to the safe state -/

/-- A stopped engine holds no tile. -/
@[simp] theorem Engine.rest_tile (e : Engine) : e.rest.tile = none := rfl

/-- A stopped engine runs no self-test slice. -/
@[simp] theorem Engine.rest_slice (e : Engine) : e.rest.slice = false := rfl

/-- A stopped engine stays with its crew. -/
@[simp] theorem Engine.rest_crew (e : Engine) : e.rest.crew = e.crew := rfl

/-- The rootstock's entry to the safe state, said once (R139, R396, R397). -/
theorem State.rootSafe_frame (s : State) (cause boot : Nat) (h : s.safe = false) :
    ∃ (engines : Vector Engine 64) (mem : Memory) (draws : Nat) (fns : Vector Fn 128) (sent : List Sent)
      (used : Nat → BitVec 64), s.rootSafe cause boot = { s with
      safe := true
      rootDrivesLow := true
      postBoot := !(!s.boot.complete || boot == 6)
      boot := { s.boot with
        failCause := if !s.boot.complete || boot == 6 then some (s.boot.failCause.getD boot) else s.boot.failCause }
      scions := s.scions.map (fun x =>
        { x with state := if x.state = .restoring then .fenced else x.state })
      fcu := { s.fcu with timers := [] }
      engines := engines.map Engine.rest
      mem := mem
      draws := draws
      fore := { s.fore with
        runs := []
        restoring := none
        taken := s.fore.taken.map (fun c => c.enterSafe s.now (used c.id)) }
      streams := s.streams.map Stream.enterSafe
      cl := s.cl.map (fun x => { x with retrainCmd := none })
      lamp := { s.lamp with toLamp := s.lamp.toLamp ++ [.safeRequest cause] }
      fns := fns
      sent := sent } := by
  unfold State.rootSafe
  rw [if_neg (by simp [h])]
  obtain ⟨en, m, d, runs, e⟩ := s.abortTiles_frame (fun _ => true)
  rw [e]
  obtain ⟨fns, sent, q⟩ := State.eachFn_frame _ _ (fun t f => t.setEvent_frame f _)
  exact ⟨en, m, d, fns, sent, _, q⟩

/-- A command whose completion is not formed by the entry to the safe state is marked S at CLASS 0 and
stays as it was (R139). -/
theorem Cmd.enterSafe_live {now : BitVec 64} {result : BitVec 64} {c : Cmd} (l : (c.enterSafe now result).live = true) :
    c.enterSafe now result = c ∧ c.cls = 0 ∧ ∃ o, opcodeOf c.opcode = some o ∧ o.safeMark = true := by
  unfold Cmd.enterSafe at l ⊢
  cases h : opcodeOf c.opcode with
  | none =>
    simp only [h] at l ⊢
    split at l
    · simp [Cmd.live] at l
    · rename_i w
      simp [l] at w
  | some o =>
    simp only [h] at l ⊢
    split at l
    · simp [Cmd.live] at l
    · rename_i w
      rw [if_neg w]
      simp [l] at w
      exact ⟨rfl, w.2, o, rfl, w.1⟩

/-- Every other outstanding command has its completion formed with SAFE_STATE (R139). -/
theorem Cmd.enterSafe_formed {now : BitVec 64} {result : BitVec 64} {c : Cmd} (l : c.live = true)
    (n : ∀ o, opcodeOf c.opcode = some o → o.safeMark = false ∨ c.cls ≠ 0) :
    c.enterSafe now result = { c with phase := .formed stSafe 0 result now } := by
  unfold Cmd.enterSafe
  cases h : opcodeOf c.opcode with
  | none => simp [l]
  | some o =>
    rcases n o h with q | q
    · simp [l, q]
    · simpa [l] using fun _ k => absurd k q

/-! ## Whole-device resets -/

/-- What `blank` leaves of a state. -/
theorem State.blank_restarted (s : State) : Restarted s s.blank := by
  refine ⟨rfl, rfl, fun n => ?_, rfl, rfl, rfl, rfl, rfl, rfl, rfl, rfl, rfl, rfl, fun p => ?_, rfl, rfl, rfl, rfl, rfl,
    rfl, rfl, rfl, rfl⟩
  · simp [State.blank]
  · simp [State.blank]

/-- Time zero: a start of the device with a cause and a mode. -/
theorem State.startUp_started (s : State) (cause : ResetCause) (test : Bool) :
    Started s (s.startUp cause test) cause test := by
  obtain ⟨a1, a2, a3, a4, a5, a6, a7, a8, a9, a10, a11, a12, a13, a14, a15, a16, a17, a18, a19, a20, a21, a22, a23⟩ :=
    s.blank_restarted
  unfold State.startUp
  dsimp only
  cases test
  · refine ⟨⟨a1, a2, a3, a4, a5, a6, a7, a8, a9, a10, a11, a12, a13, a14, a15, a16, a17, a18, a19, a20, a21, a22, a23⟩,
      rfl, fun w => ?_, fun _ => ⟨rfl, rfl⟩, fun h => nomatch h⟩
    simp [Wdog.start]
  · obtain ⟨c, n, e⟩ := State.lampSafe_frame ({ s.blank with
      boot := { cause := cause, testMode := true }
      wdog := Vector.replicate 3 (Wdog.start s.fixed.wdogHwStart false)
      can := Vector.ofFn (fun b => CanBus.start s.fixed b) }) 0x3F rfl
    rw [if_pos rfl, e]
    refine ⟨⟨a1, a2, a3, a4, a5, a6, a7, a8, a9, a10, a11, a12, a13, a14, a15, a16, a17, a18, a19, a20, a21, a22, a23⟩,
      rfl, fun w => ?_, fun h => (nomatch h), fun _ => ⟨rfl, ?_⟩⟩
    · simp [Wdog.start]
    · simp [State.pinsHigh]

end Sys2Proof.Machine
end

