-- ==== Sys2Proof/Laws/Raise.lean ====
section
/-!
SUPPORT. What operations on every function, function-level resets, FN_ERROR, BAR writes and raised events
change and leave alone, said once.
-/

namespace Sys2Proof.Machine

-- One theorem at a time: elaborated side by side, each waits in a thread with its own large stack.
set_option Elab.async false

/-- What every step of an operation on every function keeps, the whole keeps. -/
theorem State.eachFn_induct (P : State → Prop) (s : State) (g : State → FnId → State) (a : P s)
    (k : ∀ t f, P t → P (g t f)) : P (s.eachFn g) := by
  unfold State.eachFn
  generalize List.finRange 128 = l
  induction l generalizing s with
  | nil => exact a
  | cons f r ih => exact ih _ (k _ _ a)

/-- What an operation on every function establishes for its own function and keeps for the others. -/
theorem State.eachFn_each (Q : FnId → State → Prop) (s : State) (g : State → FnId → State)
    (a : ∀ t f, Q f (g t f)) (k : ∀ t f i, Q i t → Q i (g t f)) (i : FnId) : Q i (s.eachFn g) := by
  unfold State.eachFn
  have m := List.mem_finRange i
  generalize List.finRange 128 = l at m
  induction l generalizing s with
  | nil => simp at m
  | cons f r ih =>
    rw [List.foldl_cons]
    rcases List.mem_cons.1 m with e | e
    · subst e
      clear ih m
      have h := a s i
      generalize g s i = t at h
      induction r generalizing t with
      | nil => exact h
      | cons f r ih => exact ih _ (k _ _ _ h)
    · exact ih _ e

/-- An aborted tile leaves every run but its own as it was. -/
theorem State.abortTile_runs (s : State) (e : EngineId) {r : Run} (h : r ∈ (s.abortTile e).fore.runs)
    (n : ∀ t, (s.engines[e.val]).tile = some t → t.run ≠ r.id) : r ∈ s.fore.runs := by
  unfold State.abortTile at h
  cases k : (s.engines[e.val]).tile with
  | none => simpa only [k] using h
  | some t =>
    have out : ∀ (u : State) q j v, (u.scatter q j v).fore = u.fore := by
      intro u q j v
      unfold State.scatter
      split <;> rfl
    have m : ∃ us, r ∈ s.fore.runs.map (fun r => if r.id = t.run then { r with usedUs := r.usedUs + us } else r) := by
      refine ⟨s.usSince t.start, ?_⟩
      simp only [k] at h
      revert h
      split
      · exact id
      · rw [out]
        exact id
    obtain ⟨us, m⟩ := m
    obtain ⟨q, hq, e⟩ := List.mem_map.1 m
    split at e
    · rename_i i
      subst e
      exact absurd i.symm (n t k)
    · rw [← e]
      exact hq

/-- Aborted tiles leave the runs outside the set as they were. -/
theorem State.abortTiles_runs (s : State) (p : Nat → Bool) {r : Run} (h : r ∈ (s.abortTiles p).fore.runs)
    (n : p r.id = false) : r ∈ s.fore.runs := by
  unfold State.abortTiles at h
  generalize List.finRange 64 = l at h
  induction l generalizing s with
  | nil => exact h
  | cons e l ih =>
    rw [List.foldl_cons] at h
    have := ih _ h
    revert this
    split
    · rename_i t k
      split
      · rename_i q
        refine fun m => State.abortTile_runs s e m (fun t' k' i => ?_)
        rw [k, Option.some.injEq] at k'
        subst k'
        rw [i, n] at q
        cases q
      · exact id
    · exact id

/-- Dropping runs: those that satisfy the test are gone, the others stay. -/
theorem State.dropRuns_frame (s : State) (p : Run → Bool) :
    ∃ (engines : Vector Engine 64) (mem : Memory) (draws : Nat) (runs : List Run),
      s.dropRuns p = { s with
        engines := engines, mem := mem, draws := draws, fore := { s.fore with runs := runs } }
      ∧ ∀ r ∈ runs, p r = false ∧ r ∈ s.fore.runs := by
  unfold State.dropRuns
  obtain ⟨e, m, d, runs, h⟩ := State.abortTiles_frame s
    (fun n => ((s.fore.runs.filter p).map (·.id)).contains n)
  refine ⟨e, m, d, runs.filter (fun r => !((s.fore.runs.filter p).map (·.id)).contains r.id), ?_, ?_⟩
  · dsimp only; rw [h]; rfl
  · intro r hr
    simp only [List.mem_filter] at hr
    have hm : r ∈ s.fore.runs := by
      refine State.abortTiles_runs s (fun n => ((s.fore.runs.filter p).map (·.id)).contains n) (by rw [h]; exact hr.1) ?_
      simpa using hr.2
    refine ⟨?_, hm⟩
    cases k : p r with
    | false => rfl
    | true =>
      have : r.id ∈ (s.fore.runs.filter p).map (·.id) := List.mem_map_of_mem (List.mem_filter.2 ⟨hm, k⟩)
      rw [List.contains_iff_mem.2 this] at hr
      simp at hr

/-- FLR's beginning: the function is RESETTING, its commands and runs are gone, nothing is sent, no other
function changes. -/
theorem State.flrBegin_frame (s : State) (f : FnId) :
    ∃ (engines : Vector Engine 64) (mem : Memory) (draws : Nat) (runs : List Run) (streams : Vector Stream 48),
      s.flrBegin f = { s.setFn f (fun x => { x with resetting := true }) with
        engines := engines, mem := mem, draws := draws, streams := streams
        fore := { s.fore with runs := runs, taken := s.fore.taken.filter (fun c => c.fn != f) } }
      ∧ (∀ r ∈ runs, r.fn ≠ f ∧ r ∈ s.fore.runs) := by
  unfold State.flrBegin
  obtain ⟨e, m, d, r, h, k⟩ := State.dropRuns_frame (s.setFn f (fun x => { x with resetting := true }))
    (fun r => r.fn == f)
  dsimp only
  rw [h]
  refine ⟨e, m, d, r, _, rfl, fun x hx => ⟨fun y => ?_, (k x hx).2⟩⟩
  have := (k x hx).1
  simp [y] at this

/-- What an FLR may change. -/
structure FlrFrame (s t : State) (p : FnId → Prop) : Prop where
  same  : ∃ (fns : Vector Fn 128) (engines : Vector Engine 64) (mem : Memory) (draws : Nat) (runs : List Run)
    (taken : List Cmd) (streams : Vector Stream 48),
      t = { s with fns := fns, engines := engines, mem := mem, draws := draws, streams := streams
                   fore := { s.fore with runs := runs, taken := taken } }
        ∧ (∀ r ∈ runs, r ∈ s.fore.runs) ∧ (∀ c ∈ taken, c ∈ s.fore.taken)
  other : ∀ g, ¬ p g → t.fn g = s.fn g

theorem FlrFrame.begin' {s t : State} {p : FnId → Prop} (h : FlrFrame s t p) {f : FnId} (m : p f) :
    FlrFrame s (t.flrBegin f) p := by
  obtain ⟨⟨a1, a2, a3, a4, a5, a6, a7, rfl, b, c⟩, o⟩ := h
  obtain ⟨e, me, d, r, st, k, l⟩ := State.flrBegin_frame { s with fns := a1, engines := a2, mem := a3, draws := a4, streams := a7
                                                                  fore := { s.fore with runs := a5, taken := a6 } } f
  rw [k]
  refine ⟨⟨_, e, me, d, r, _, st, rfl, fun x hx => b x (l x hx).2, fun x hx => c x (List.mem_filter.1 hx).1⟩, fun g hg => ?_⟩
  · have : f ≠ g := fun e => hg (e ▸ m)
    have n : f.val ≠ g.val := fun e => this (Fin.ext e)
    have := o g hg
    simpa [State.fn, State.setFn, Vector.getElem_set, n] using this

theorem FlrFrame.refl (s : State) (p : FnId → Prop) : FlrFrame s s p :=
  ⟨⟨_, _, _, _, _, _, _, rfl, fun _ h => h, fun _ h => h⟩, fun _ _ => rfl⟩

theorem State.flrBegin_own (s : State) (f : FnId) :
    ((s.flrBegin f).fn f).resetting = true ∧ (∀ c ∈ (s.flrBegin f).fore.taken, c.fn ≠ f)
      ∧ (∀ r ∈ (s.flrBegin f).fore.runs, r.fn ≠ f) := by
  obtain ⟨e, me, d, r, st, k, l⟩ := State.flrBegin_frame s f
  rw [k]
  refine ⟨?_, fun c hc => ?_, fun x hx => (l x hx).1⟩
  · simp [State.fn, State.setFn]
  · simp only [List.mem_filter] at hc; simpa using hc.2

theorem State.flrBegin_stays (s : State) (f i : FnId)
    (h : (s.fn i).resetting = true ∧ (∀ c ∈ s.fore.taken, c.fn ≠ i) ∧ (∀ r ∈ s.fore.runs, r.fn ≠ i)) :
    ((s.flrBegin f).fn i).resetting = true ∧ (∀ c ∈ (s.flrBegin f).fore.taken, c.fn ≠ i)
      ∧ (∀ r ∈ (s.flrBegin f).fore.runs, r.fn ≠ i) := by
  obtain ⟨e, me, d, r, st, k, l⟩ := State.flrBegin_frame s f
  rw [k]
  refine ⟨?_, fun c hc => ?_, fun x hx => h.2.2 x (l x hx).2⟩
  · have := h.1
    by_cases q : f.val = i.val <;> simp [State.fn, State.setFn, Vector.getElem_set, q] <;> simpa [State.fn] using this
  · exact h.2.1 c (List.mem_filter.1 hc).1

/-- FLR: see R119, R120, R122. -/
theorem State.flr_vf (s : State) (f : FnId) (v : isVf f = true) :
    FlrFrame s (s.flr f) (fun g => g = f) := by
  simp only [State.flr, v, if_true]
  exact (FlrFrame.refl s _).begin' rfl

theorem State.flr_pf (s : State) (f : FnId) (v : isVf f = false) :
    ∃ t, s.flr f = t.setPort (portOf f) (fun x => { x with vfs := 0, proposal := none, keyArmed := false })
      ∧ FlrFrame s t (fun g => portOf g = portOf f)
      ∧ ∀ g, portOf g = portOf f → (t.fn g).resetting = true ∧ (t.fn g).provision = none
          ∧ (∀ c ∈ t.fore.taken, c.fn ≠ g) ∧ (∀ r ∈ t.fore.runs, r.fn ≠ g) := by
  simp only [State.flr, v]
  generalize h1 : s.eachFn (fun s g => if portOf g = portOf f then s.flrBegin g else s) = s1
  have f1 : FlrFrame s s1 (fun g => portOf g = portOf f) := by
    subst h1
    refine State.eachFn_induct (fun t => FlrFrame s t (fun g => portOf g = portOf f)) s _ (FlrFrame.refl s _) (fun t g h => ?_)
    split
    · exact h.begin' ‹_›
    · exact h
  have e1 : ∀ g, portOf g = portOf f → (s1.fn g).resetting = true ∧ (∀ c ∈ s1.fore.taken, c.fn ≠ g)
      ∧ (∀ r ∈ s1.fore.runs, r.fn ≠ g) := by
    subst h1
    refine State.eachFn_each (fun g t => portOf g = portOf f → (t.fn g).resetting = true ∧ (∀ c ∈ t.fore.taken, c.fn ≠ g)
      ∧ (∀ r ∈ t.fore.runs, r.fn ≠ g)) s _ (fun t g h => ?_) (fun t g i h k => ?_)
    · simp only [h, if_true]; exact State.flrBegin_own t g
    · split
      · exact State.flrBegin_stays t g i (h k)
      · exact h k
  generalize h2 : s1.eachFn (fun s g => if portOf g = portOf f then s.setFn g (fun x => { x with provision := none }) else s) = s2
  have fr : s2 = { s1 with fns := s2.fns } := by
    subst h2
    refine State.eachFn_induct (fun t => t = { s1 with fns := t.fns }) s1 _ rfl (fun t g h => ?_)
    split
    · simp only [State.setFn]; rw [h]
    · exact h
  have f2 : ∀ g, portOf g ≠ portOf f → s2.fn g = s1.fn g := by
    subst h2
    intro i hi
    refine State.eachFn_induct (fun t => t.fn i = s1.fn i) s1 _ rfl (fun t g h => ?_)
    split
    · rw [State.setFn_fn_other]
      · exact h
      · intro q; subst q; exact hi ‹_›
    · exact h
  have e2 : ∀ g, portOf g = portOf f → (s2.fn g).resetting = true ∧ (s2.fn g).provision = none := by
    intro i hi
    constructor
    · subst h2
      refine State.eachFn_induct (fun t => (t.fn i).resetting = true) s1 _ (e1 i hi).1 (fun t g h => ?_)
      split
      · by_cases q : g = i
        · subst q; simpa [State.fn, State.setFn] using h
        · rw [State.setFn_fn_other _ _ _ _ q]; exact h
      · exact h
    · subst h2
      revert hi
      refine State.eachFn_each (fun i t => portOf i = portOf f → (t.fn i).provision = none) s1 _ (fun t g h => ?_) (fun t g i h k => ?_) i
      · simp [h, State.fn, State.setFn]
      · split
        · by_cases q : g = i
          · subst q; simp [State.fn, State.setFn]
          · rw [State.setFn_fn_other _ _ _ _ q]; exact h k
        · exact h k
  refine ⟨s2, rfl, ⟨?_, fun g hg => (f2 g hg).trans (f1.other g hg)⟩, fun g hg => ⟨(e2 g hg).1, (e2 g hg).2, ?_, ?_⟩⟩
  · obtain ⟨a1, a2, a3, a4, a5, a6, a7, rfl, b, c⟩ := f1.same
    exact ⟨s2.fns, a2, a3, a4, a5, a6, a7, fr, b, c⟩
  · rw [fr]; exact (e1 g hg).2.1
  · rw [fr]; exact (e1 g hg).2.2

theorem State.setError_frame (s : State) (f : FnId) (bit : BitVec 4) (ring : Nat) :
    ∃ fns sent, s.setError f bit ring = { s with fns := fns, sent := sent } := by
  unfold State.setError
  dsimp only
  split
  · obtain ⟨a, b, e⟩ := State.setEvent_frame (s.setFn f (fun x =>
      { x with error := x.error ||| bit, errorRing := BitVec.ofNat 5 ring })) f evtError
    rw [e]; exact ⟨_, _, rfl⟩
  · exact ⟨_, _, rfl⟩

/-- What a write to BAR0 may change: functions, what was sent, the messages on their way to the lamp die, the
service sequences. -/
def BarFrame (s t : State) : Prop :=
  ∃ (fns : Vector Fn 128) (sent : List Sent) (q : List SeamMsg) (a b : Bool),
    t = { s with fns := fns, sent := sent, lamp := { s.lamp with toLamp := q }
                 portA := { s.portA with keyArmed := a }, portB := { s.portB with keyArmed := b } }

theorem BarFrame.of_fns {s t : State} (h : ∃ fns sent, t = { s with fns := fns, sent := sent }) : BarFrame s t := by
  obtain ⟨a, b, rfl⟩ := h; exact ⟨_, _, _, _, _, rfl⟩

theorem BarFrame.ite {s t u : State} {c : Prop} [Decidable c] (h : BarFrame s t) (k : BarFrame s u) :
    BarFrame s (if c then t else u) := by split <;> assumption

theorem BarFrame.trans {s t u : State} (h : BarFrame s t) (k : BarFrame t u) : BarFrame s u := by
  obtain ⟨a1, a2, a3, a4, a5, rfl⟩ := h
  obtain ⟨b1, b2, b3, b4, b5, rfl⟩ := k
  exact ⟨b1, b2, b3, b4, b5, rfl⟩

theorem State.msixMask_frame (s : State) (f : FnId) (v : Fin 32) (m : Bool) :
    ∃ fns sent, s.msixMask f v m = { s with fns := fns, sent := sent } := by
  unfold State.msixMask
  dsimp only
  split
  · obtain ⟨a, b, e⟩ := State.signal_frame ((s.setFn f (fun x => { x with msix := x.msix.set v.val { (s.fn f).msix[v.val] with masked := m } })).setFn f
      (fun x => { x with msix := x.msix.set v.val { (s.fn f).msix[v.val] with masked := false, pba := false } })) f v
    rw [e]; exact ⟨_, _, rfl⟩
  · exact ⟨_, _, rfl⟩

theorem State.arm_frame (s : State) (p : HostPort) (b : Bool) : BarFrame s (s.arm p b) := by
  cases p <;> exact ⟨_, _, _, _, _, rfl⟩

theorem State.sendService_frame (s : State) (w : WdogId) (x : Service) : BarFrame s (s.sendService w x) := by
  unfold State.sendService State.toLampDie; split <;> exact ⟨_, _, _, _, _, rfl⟩

theorem State.keyError_frame (s : State) (p : HostPort) : BarFrame s (s.keyError p) :=
  (State.arm_frame s p false).trans (State.sendService_frame _ _ _)

theorem State.key2_frame (s : State) (p : HostPort) : BarFrame s (s.key2 p) := by
  unfold State.key2; split
  · exact (State.arm_frame s p false).trans (State.sendService_frame _ _ _)
  · exact State.keyError_frame s p

theorem State.ring_frames (s : State) (f : FnId) (n : RingId) (v : BitVec 32) (h : Bool) :
    (∃ fns sent, s.sqBase f n h v = { s with fns := fns, sent := sent })
    ∧ (∃ fns sent, s.cqBase f n h v = { s with fns := fns, sent := sent })
    ∧ (∃ fns sent, s.sqControl f n v = { s with fns := fns, sent := sent })
    ∧ (∃ fns sent, s.cqControl f n v = { s with fns := fns, sent := sent })
    ∧ (∀ k, ∃ fns sent, s.tailDoorbell f n k = { s with fns := fns, sent := sent })
    ∧ (∀ k, ∃ fns sent, s.headDoorbell f n k = { s with fns := fns, sent := sent })
    ∧ (∀ i w, ∃ fns sent, s.msixWrite f i w v = { s with fns := fns, sent := sent }) := by
  unfold State.sqBase State.cqBase State.sqControl State.cqControl State.tailDoorbell State.headDoorbell State.msixWrite
  dsimp only
  refine ⟨?_, ?_, ?_, ?_, fun k => ?_, fun k => ?_, fun i w => ?_⟩
  all_goals
    repeat' split
    all_goals first
      | exact ⟨_, _, rfl⟩
      | exact State.setError_frame _ _ _ _
      | exact State.msixMask_frame _ _ _ _

/-- A write to BAR0 changes nothing else. -/
theorem State.barWrite_frame (s : State) (f : FnId) (o : Nat) (v : BitVec 32) : BarFrame s (s.barWrite f o v) := by
  have r := fun n h => State.ring_frames s f n v h
  unfold State.barWrite
  dsimp only
  repeat' with_reducible refine BarFrame.ite ?_ ?_
  all_goals first
    | exact BarFrame.of_fns ⟨_, _, rfl⟩
    | exact State.arm_frame _ _ _
    | exact State.key2_frame _ _
    | exact State.keyError_frame _ _
    | exact BarFrame.of_fns (r _ _).1
    | exact BarFrame.of_fns (r _ _).2.1
    | exact BarFrame.of_fns (r _ false).2.2.1
    | exact BarFrame.of_fns (r _ false).2.2.2.1
    | exact BarFrame.of_fns ((r _ false).2.2.2.2.1 _)
    | exact BarFrame.of_fns ((r _ false).2.2.2.2.2.1 _)
    | exact BarFrame.of_fns ((r 0 false).2.2.2.2.2.2 _ _)

/-- The function stays within the host's reach. -/
theorem BarFrame.reaches {s t : State} (h : BarFrame s t) (f : FnId) : t.reaches f = s.reaches f := by
  obtain ⟨a, b, c, d, e, rfl⟩ := h
  simp only [State.reaches, State.enabled]
  cases portOf f <;> rfl

/-- A taken command's phase changed. -/
theorem State.setPhase_cmd {s : State} {id : Nat} {c : Cmd} (h : s.cmd id = some c) (p : Phase) :
    (s.setCmd id (fun c => { c with phase := p })).cmd id = some { c with phase := p } := by
  rw [State.setCmd_cmd s id id (fun c => { c with phase := p }) (fun _ => rfl)]
  simp [h]

/-- What raising an event leaves alone: the rings, the turn, the numbering of commands, completions formed. -/
structure Undisturbed (s t : State) : Prop where
  rings  : ∀ f : FnId, (t.fn f).sqs = (s.fn f).sqs ∧ (t.fn f).cqs = (s.fn f).cqs
  turn   : t.fore.portTurn = s.fore.portTurn ∧ t.fore.nextCmd = s.fore.nextCmd
  formed : ∀ c ∈ s.fore.taken, c.live = false → c ∈ t.fore.taken

theorem Undisturbed.trans {s t u : State} (h : Undisturbed s t) (k : Undisturbed t u) : Undisturbed s u :=
  ⟨fun f => ⟨(k.rings f).1.trans (h.rings f).1, (k.rings f).2.trans (h.rings f).2⟩,
   ⟨k.turn.1.trans h.turn.1, k.turn.2.trans h.turn.2⟩, fun c m l => k.formed c (h.formed c m l) l⟩

theorem Undisturbed.of_fns {s t : State} (h : t.fns = s.fns) (k : t.fore = s.fore) : Undisturbed s t :=
  ⟨fun f => by simp only [State.fn, h, and_self], by rw [k]; exact ⟨rfl, rfl⟩, fun c m _ => by rw [k]; exact m⟩

theorem Undisturbed.setFn (s : State) (f : FnId) (g : Fn → Fn) (h : ∀ x, (g x).sqs = x.sqs ∧ (g x).cqs = x.cqs) :
    Undisturbed s (s.setFn f g) := by
  refine ⟨fun i => ?_, ⟨rfl, rfl⟩, fun c m _ => m⟩
  by_cases q : f.val = i.val <;> simp [State.fn, State.setFn, Vector.getElem_set, q]
  exact ⟨by simpa [q] using (h _).1, by simpa [q] using (h _).2⟩

theorem State.signal_undisturbed (s : State) (f : FnId) (v : Fin 32) : Undisturbed s (s.signal f v) := by
  unfold State.signal
  repeat' split
  · exact Undisturbed.setFn _ _ _ (fun _ => ⟨rfl, rfl⟩)
  · exact Undisturbed.of_fns rfl rfl
  · exact Undisturbed.of_fns rfl rfl

theorem State.setEvent_undisturbed (s : State) (f : FnId) (v : BitVec 7) : Undisturbed s (s.setEvent f v) := by
  unfold State.setEvent
  dsimp only
  split
  · exact Undisturbed.setFn _ _ _ (fun _ => ⟨rfl, rfl⟩)
  · refine Undisturbed.trans ?_ (State.signal_undisturbed _ _ _)
    exact Undisturbed.setFn _ _ _ (fun _ => ⟨rfl, rfl⟩)

theorem State.distribute_undisturbed (s : State) (r : Rec) : Undisturbed s (s.distribute r) := by
  unfold State.distribute
  refine State.eachFn_induct (Undisturbed s) s _ (Undisturbed.of_fns rfl rfl) (fun t f h => ?_)
  split
  · dsimp only
    split
    · exact h.trans (Undisturbed.setFn _ _ _ (fun _ => ⟨rfl, rfl⟩))
    · refine h.trans (Undisturbed.trans ?_ (State.setEvent_undisturbed _ _ _))
      exact Undisturbed.setFn _ _ _ (fun _ => ⟨rfl, rfl⟩)
  · exact h

theorem State.rootSafe_undisturbed (s : State) (c b : Nat) : Undisturbed s (s.rootSafe c b) := by
  unfold State.rootSafe
  dsimp only
  split
  · exact Undisturbed.of_fns rfl rfl
  · obtain ⟨e, m, d, runs, k⟩ := State.abortTiles_frame s (fun _ => true)
    rw [k]
    refine State.eachFn_induct (Undisturbed s) _ _ ⟨fun f => ⟨rfl, rfl⟩, ⟨rfl, rfl⟩, fun c m l => ?_⟩ (fun t f h => ?_)
    · refine List.mem_map.2 ⟨c, m, ?_⟩
      simp [Cmd.enterSafe, l]
    · exact h.trans (State.setEvent_undisturbed _ _ _)

theorem State.raiseFcu_undisturbed (s : State) (r : Raise) : Undisturbed s (s.raiseFcu r) := by
  unfold State.raiseFcu
  split
  · dsimp only
    have a : ∀ t : State, t.fns = s.fns → t.fore = s.fore → ∀ rc : Rec, Undisturbed s (if rc.tier = 3 then (t.distribute rc).rootSafe (Ev.code r.event) (bootCauseOf r.source r.event) else t.distribute rc) := by
      intro t h k rc
      have b := (Undisturbed.of_fns h k).trans (State.distribute_undisturbed t rc)
      split
      · exact b.trans (State.rootSafe_undisturbed _ _ _)
      · exact b
    refine a _ ?_ ?_ _ <;> split <;> rfl
  · exact Undisturbed.of_fns rfl rfl

theorem State.lampSafe_undisturbed (s : State) (c : Nat) : Undisturbed s (s.lampSafe c) := by
  cases h : s.lamp.safe
  · obtain ⟨a, b, e⟩ := State.lampSafe_frame s c h
    rw [e]; exact Undisturbed.of_fns rfl rfl
  · simp only [State.lampSafe, h, if_true]; exact Undisturbed.of_fns rfl rfl

/-- Raising an event leaves the rings, the turn and every formed completion as they are. -/
theorem State.raise_undisturbed (s : State) (r : Raise) : Undisturbed s (s.raise r) := by
  unfold State.raise
  split
  · unfold State.raiseLamp
    dsimp only
    repeat' split
    · exact State.lampSafe_undisturbed _ _
    · exact (Undisturbed.of_fns rfl rfl : Undisturbed s (s.setLamp _)).trans (State.lampSafe_undisturbed _ _)
    · exact Undisturbed.of_fns rfl rfl
    · exact Undisturbed.of_fns rfl rfl
  · exact State.raiseFcu_undisturbed s r

/-- Where no unit of memory has flipped bits, a read of lines leaves the state as it is. -/
theorem State.senseLines_calm (s : State) (l n : Nat) (h : s.mem.upsets = []) : s.senseLines l n = s := by
  simp [State.senseLines, Memory.upsetIn, h]

theorem State.senseRange_calm (s : State) (k n : Nat) (h : s.mem.upsets = []) : s.senseRange k n = s :=
  State.senseLines_calm s _ _ h

/-- Where no unit of memory has flipped bits, the lines of which a write takes a part are only read. -/
theorem State.senseEdges_calm (s : State) (k n : Nat) (h : s.mem.upsets = []) : s.senseEdges k n = s := by
  unfold State.senseEdges
  dsimp only
  have a : (if n = 0 ∨ k % 256 = 0 ∧ 256 ≤ n then s else s.senseLines (k / 256) 1) = s := by
    split
    · rfl
    · exact State.senseLines_calm s _ _ h
  rw [a]
  split
  · rfl
  · exact State.senseLines_calm s _ _ h

/-- A write flips no bits. -/
theorem Memory.store_upsets {m : Memory} (h : m.upsets = []) (k : Nat) (b : Bytes) : (m.store k b).1.upsets = [] := by
  have span : ∀ (m : Memory) k b, m.upsets = [] → (m.storeSpan k b).1.upsets = [] := by
    intro m k b h
    unfold Memory.storeSpan
    dsimp only
    repeat' split
    all_goals simp [Memory.putLine, h]
  unfold Memory.store
  generalize b.length / 256 + 2 = n
  induction n generalizing m k b with
  | zero => exact h
  | succ n ih =>
    unfold Memory.storeLines
    split
    · exact h
    · dsimp only
      have q := span m k (b.take (256 - k % 256)) h
      generalize m.storeSpan k (b.take (256 - k % 256)) = w at q ⊢
      obtain ⟨u, x⟩ := w
      cases x with
      | some d => exact q
      | none => exact ih q _ _

theorem State.writeSeg_frame (s : State) (f : FnId) (g : Seg) (b : Bytes) (c : s.mem.upsets = []) :
    ∃ mem sent, (s.writeSeg f g b).1 = { s with mem := mem, sent := sent } ∧ mem.upsets = [] := by
  unfold State.writeSeg
  split
  · exact ⟨_, _, rfl, c⟩
  · rw [State.senseEdges_calm s _ _ c]
    exact ⟨_, _, rfl, Memory.store_upsets c _ _⟩

/-- Writing parts of a range changes memory and what was sent, where no unit has flipped bits. -/
theorem State.writeSegs_frame (s : State) (f : FnId) (r : List Seg) (b : Bytes) (c : s.mem.upsets = []) :
    ∃ mem sent, (s.writeSegs f r b).1 = { s with mem := mem, sent := sent } := by
  induction r generalizing s b with
  | nil => exact ⟨_, _, rfl⟩
  | cons g r ih =>
    unfold State.writeSegs
    split
    · exact ⟨_, _, rfl⟩
    · obtain ⟨m, t, e, c'⟩ := State.writeSeg_frame s f g (b.take g.len) c
      generalize s.writeSeg f g (b.take g.len) = w at e ⊢
      obtain ⟨u, n, x⟩ := w
      dsimp only at e
      subst e
      cases x with
      | some d => exact ⟨_, _, rfl⟩
      | none =>
        obtain ⟨m2, t2, e2⟩ := ih { s with mem := m, sent := t } (b.drop g.len) c'
        dsimp only
        rw [e2]
        exact ⟨_, _, rfl⟩

/-- A write through a function's mappings: memory and what was sent, then the event of a failed line. -/
theorem State.writeVa_frame (s : State) (f : FnId) (k : Bool) (va : Nat) (b : Bytes) (io : HostIo)
    (c : s.mem.upsets = []) : ∃ mem sent, (s.writeVa f k va b io).1 = { s with mem := mem, sent := sent }
      ∨ ((s.writeVa f k va b io).2.2 = some 4
        ∧ (s.writeVa f k va b io).1 = ({ s with mem := mem, sent := sent } : State).graftCopy f k) := by
  unfold State.writeVa
  dsimp only
  have g : ∀ (t : State) (d : BitVec 16), d ≠ 4 → t.graftIf f k d = t := fun t d h => if_neg h
  have g4 : ∀ (t : State), t.graftIf f k 4 = t.graftCopy f k := fun t => if_pos rfl
  split
  · obtain ⟨m, t, e⟩ := State.writeSegs_frame s f (((s.fn f).segs va b.length).getD []) b c
    generalize s.writeSegs f (((s.fn f).segs va b.length).getD []) b = w at e ⊢
    obtain ⟨u, n, x⟩ := w
    dsimp only at e
    subst e
    cases x with
    | none => exact ⟨m, t, .inl rfl⟩
    | some d =>
      by_cases h : d = 4
      · subst h; exact ⟨m, t, .inr ⟨rfl, g4 _⟩⟩
      · exact ⟨m, t, .inl (g _ _ h)⟩
  · rename_i j _
    obtain ⟨m, t, e⟩ := State.writeSegs_frame s f (((s.fn f).segs va b.length).getD []) (b.take j) c
    generalize s.writeSegs f (((s.fn f).segs va b.length).getD []) (b.take j) = w at e ⊢
    obtain ⟨u, n, x⟩ := w
    dsimp only at e
    subst e
    cases x with
    | none => exact ⟨m, _, .inl rfl⟩
    | some d =>
      by_cases h : d = 4
      · subst h; exact ⟨m, t, .inr ⟨rfl, g4 _⟩⟩
      · exact ⟨m, t, .inl (g _ _ h)⟩

/-- The safe state leaves a command or completes it. -/
theorem Cmd.enterSafe_cases (now result : BitVec 64) (c : Cmd) :
    c.enterSafe now result = c ∨ c.enterSafe now result = { c with phase := .formed stSafe 0 result now } := by
  unfold Cmd.enterSafe
  dsimp only
  repeat' split
  all_goals first | exact .inl rfl | exact .inr rfl

/-- What raising an event makes of a taken command: nothing, or the safe state completes it; device time
stands. -/
theorem State.raise_cmd {s : State} {id : Nat} {c : Cmd} (r : Raise) (h : s.cmd id = some c) :
    (s.raise r).now = s.now
      ∧ ((s.raise r).cmd id = some c
        ∨ ∃ res, (s.raise r).cmd id = some { c with phase := .formed stSafe 0 res s.now }) := by
  have dist : ∀ (t : State) (rc : Rec), (t.distribute rc).fore = t.fore ∧ (t.distribute rc).clk = t.clk := by
    intro t rc
    obtain ⟨a, b, e⟩ := State.eachFn_frame t (fun s f =>
      if s.viewers rc f then
        let s := s.setFn f (fun x => x.enterView rc)
        if rc.tier = 0 then s else s.setEvent f evtFault
      else s) (fun t f => by
        dsimp only
        repeat' split
        · exact ⟨_, _, rfl⟩
        · obtain ⟨x, y, e⟩ := State.setEvent_frame (t.setFn f (fun x => x.enterView rc)) f evtFault
          rw [e]; exact ⟨_, _, rfl⟩
        · exact ⟨_, _, rfl⟩)
    unfold State.distribute
    rw [e]; exact ⟨rfl, rfl⟩
  have safe : ∀ (t : State) (x y : Nat), t.fore = s.fore → t.clk = s.clk → (t.rootSafe x y).now = s.now
      ∧ ((t.rootSafe x y).cmd id = some c ∨ ∃ res, (t.rootSafe x y).cmd id = some { c with phase := .formed stSafe 0 res s.now }) := by
    intro t x y hf hc
    cases k : t.safe
    · obtain ⟨a1, a2, a3, a4, a5, used, e⟩ := State.rootSafe_frame t x y k
      rw [e]
      refine ⟨by simp only [State.now, hc], ?_⟩
      have cid := State.cmd_id h
      simp only [State.cmd, hf] at h ⊢
      have : List.find? (fun c => c.id == id) (s.fore.taken.map (fun c => c.enterSafe t.now (used c.id)))
          = (s.fore.taken.find? (fun c => c.id == id)).map (fun c => c.enterSafe t.now (used c.id)) := by
        rw [List.find?_map]
        congr 2
        funext d
        simp only [Function.comp, Cmd.enterSafe]
        repeat' split
        all_goals rfl
      rw [this, h]
      simp only [Option.map_some]
      rcases Cmd.enterSafe_cases t.now (used c.id) c with q | q
      · left; rw [q]
      · right; rw [q]; exact ⟨used c.id, by simp only [State.now, hc]⟩
    · simp only [State.rootSafe, k, if_true]
      refine ⟨by simp only [State.now, hc], .inl ?_⟩
      simpa only [State.cmd, hf] using h
  unfold State.raise
  split
  · unfold State.raiseLamp
    dsimp only
    have ls : ∀ (t : State) x, t.fore = s.fore → t.clk = s.clk → (t.lampSafe x).fore = s.fore ∧ (t.lampSafe x).clk = s.clk := by
      intro t x hf hc
      cases k : t.lamp.safe
      · obtain ⟨a, b, e⟩ := State.lampSafe_frame t x k
        rw [e]; exact ⟨hf, hc⟩
      · simp only [State.lampSafe, k, if_true]; exact ⟨hf, hc⟩
    have fin : ∀ t : State, t.fore = s.fore ∧ t.clk = s.clk → t.now = s.now ∧ (t.cmd id = some c ∨ ∃ res, t.cmd id = some { c with phase := .formed stSafe 0 res s.now }) := by
      intro t ⟨hf, hc⟩
      exact ⟨by simp only [State.now, hc], .inl (by simpa only [State.cmd, hf] using h)⟩
    apply fin
    split
    · exact ls _ _ (by split <;> rfl) (by split <;> rfl)
    · split <;> exact ⟨rfl, rfl⟩
  · unfold State.raiseFcu
    split
    · dsimp only
      have fin : ∀ (t : State) (rc : Rec), t.fore = s.fore → t.clk = s.clk →
          (if rc.tier = 3 then (t.distribute rc).rootSafe (Ev.code r.event) (bootCauseOf r.source r.event) else t.distribute rc).now = s.now
          ∧ ((if rc.tier = 3 then (t.distribute rc).rootSafe (Ev.code r.event) (bootCauseOf r.source r.event) else t.distribute rc).cmd id = some c
            ∨ ∃ res, (if rc.tier = 3 then (t.distribute rc).rootSafe (Ev.code r.event) (bootCauseOf r.source r.event) else t.distribute rc).cmd id
              = some { c with phase := .formed stSafe 0 res s.now }) := by
        intro t rc hf hc
        obtain ⟨d1, d2⟩ := dist t rc
        split
        · exact safe _ _ _ (d1.trans hf) (d2.trans hc)
        · exact ⟨by simp only [State.now, d2, hc], .inl (by simpa only [State.cmd, d1, hf] using h)⟩
      refine fin _ _ ?_ ?_ <;> split <;> rfl
    · exact ⟨rfl, .inl h⟩

/-- What raising an event leaves alone, on whichever die and whatever its tier: the clocks, the ports and links
but for a RETRAIN that the safe state completes, the watchdogs, power; a command changes only where the safe
state completes it; and while the rootstock's safe state does not change, memory, streams, runs and commands. -/
structure Raised (s t : State) : Prop where
  same : t.fixed = s.fixed ∧ t.flash = s.flash ∧ t.clk = s.clk ∧ t.portA = s.portA ∧ t.portB = s.portB
    ∧ t.wdog = s.wdog ∧ t.eth = s.eth ∧ t.uart = s.uart ∧ t.drift = s.drift ∧ t.xc = s.xc ∧ t.power = s.power
    ∧ t.footprint = s.footprint ∧ t.dieTemp = s.dieTemp ∧ t.pending = s.pending
  cl   : t.cl.map (fun x => { x with retrainCmd := none }) = s.cl.map (fun x => { x with retrainCmd := none })
  cmd  : ∀ id c, s.cmd id = some c → t.cmd id = some c
    ∨ c.live = true ∧ ∃ r, t.cmd id = some { c with phase := .formed stSafe 0 r s.now }
  calm : t.safe = s.safe → t.rootDrivesLow = s.rootDrivesLow ∧ t.postBoot = s.postBoot ∧ t.boot = s.boot
    ∧ t.fore = s.fore ∧ t.mem = s.mem ∧ t.streams = s.streams ∧ t.cl = s.cl ∧ t.scions = s.scions
    ∧ t.engines = s.engines ∧ t.draws = s.draws

theorem Raised.refl (s : State) : Raised s s :=
  ⟨⟨rfl, rfl, rfl, rfl, rfl, rfl, rfl, rfl, rfl, rfl, rfl, rfl, rfl, rfl⟩, rfl, fun _ _ h => .inl h,
    fun _ => ⟨rfl, rfl, rfl, rfl, rfl, rfl, rfl, rfl, rfl, rfl⟩⟩

/-- The rootstock's entry to the safe state, after changes of functions, the FCU and the lamp seam's queue. -/
theorem State.rootSafe_raised {s t : State} (h : Raised s t) (e : t.safe = s.safe) (c b : Nat) : Raised s (t.rootSafe c b) := by
  cases k : t.safe
  · obtain ⟨a1, a2, a3, a4, a5, used, q⟩ := State.rootSafe_frame t c b k
    rw [q]
    refine ⟨h.same, ?_, fun id d hd => ?_, fun n => ?_⟩
    · rw [← h.cl]; ext1 i hi; simp
    · obtain ⟨_, _, _, g4, _⟩ := h.calm e
      have cid := State.cmd_id hd
      have hclk := h.same.2.2.1
      simp only [State.cmd, g4] at hd ⊢
      have : List.find? (fun c => c.id == id) (s.fore.taken.map (fun c => c.enterSafe t.now (used c.id)))
          = (s.fore.taken.find? (fun c => c.id == id)).map (fun c => c.enterSafe t.now (used c.id)) := by
        rw [List.find?_map]
        congr 2
        funext d
        simp only [Function.comp, Cmd.enterSafe]
        repeat' split
        all_goals rfl
      rw [this, hd]
      simp only [Option.map_some]
      cases l : d.live
      · left; congr 1; unfold Cmd.enterSafe; simp [l]
      · rcases Cmd.enterSafe_cases t.now (used d.id) d with q | q
        · left; rw [q]
        · right; rw [q]; exact ⟨rfl, used d.id, by simp only [State.now, hclk]⟩
    · rw [← e, k] at n; cases n
  · simp only [State.rootSafe, k, if_true]; exact h

/-- What raising an event leaves alone. -/
theorem State.raise_raised (s : State) (r : Raise) : Raised s (s.raise r) := by
  have ovr (t : State) (e : ∃ fns fcu lamp can low sent, t = { s with fns := fns, fcu := fcu, lamp := lamp, can := can, lampDrivesLow := low, sent := sent }) : Raised s t := by
    obtain ⟨_, _, _, _, _, _, rfl⟩ := e
    exact ⟨⟨rfl, rfl, rfl, rfl, rfl, rfl, rfl, rfl, rfl, rfl, rfl, rfl, rfl, rfl⟩, rfl, fun _ _ h => .inl h,
      fun _ => ⟨rfl, rfl, rfl, rfl, rfl, rfl, rfl, rfl, rfl, rfl⟩⟩
  unfold State.raise
  split
  · apply ovr
    unfold State.raiseLamp
    have k : ∀ u : State, (∃ l, u = { s with lamp := l }) → ∃ fns fcu lamp can low sent, (if r.tier.getD (baseTier r.source r.event) = 3 then u.lampSafe (Ev.code r.event) else u) = { s with fns := fns, fcu := fcu, lamp := lamp, can := can, lampDrivesLow := low, sent := sent } := by
      rintro u ⟨l, rfl⟩
      split
      · cases hs : l.safe
        · obtain ⟨c, n, e⟩ := State.lampSafe_frame { s with lamp := l } (Ev.code r.event) hs
          rw [e]; exact ⟨_, _, _, _, _, _, rfl⟩
        · exact ⟨s.fns, s.fcu, l, s.can, s.lampDrivesLow, s.sent, by simp [State.lampSafe, hs]⟩
      · exact ⟨_, _, _, _, _, _, rfl⟩
    apply k
    split
    · exact ⟨_, rfl⟩
    · exact ⟨_, rfl⟩
  · unfold State.raiseFcu
    split
    · dsimp only
      have dist : ∀ (t : State) (rc : Rec), ∃ a b, t.distribute rc = { t with fns := a, sent := b } := by
        intro t rc
        unfold State.distribute
        refine State.eachFn_frame t _ (fun t f => ?_)
        dsimp only
        repeat' split
        · exact ⟨_, _, rfl⟩
        · obtain ⟨x, y, e⟩ := State.setEvent_frame (t.setFn f (fun x => x.enterView rc)) f evtFault
          rw [e]; exact ⟨_, _, rfl⟩
        · exact ⟨_, _, rfl⟩
      have fin : ∀ (t : State) (rc : Rec), (∃ fcu lamp, t = { s with fcu := fcu, lamp := lamp }) → Raised s (if rc.tier = 3 then (t.distribute rc).rootSafe (Ev.code r.event) (bootCauseOf r.source r.event) else t.distribute rc) := by
        rintro t rc ⟨f, l, rfl⟩
        obtain ⟨a, b, e⟩ := dist { s with fcu := f, lamp := l } rc
        rw [e]
        have g := ovr { s with fns := a, fcu := f, lamp := l, sent := b } ⟨_, _, _, _, _, _, rfl⟩
        split
        · exact State.rootSafe_raised g rfl _ _
        · exact g
      apply fin
      split
      · exact ⟨_, _, rfl⟩
      · exact ⟨_, _, rfl⟩
    · exact Raised.refl s

/-- The rootstock's entry to the safe state changes nothing on the lamp die but the queue toward it. -/
theorem State.rootSafe_lamp (s : State) (c b : Nat) : (s.rootSafe c b).can = s.can
    ∧ (s.rootSafe c b).lampDrivesLow = s.lampDrivesLow
    ∧ { (s.rootSafe c b).lamp with toLamp := [] } = { s.lamp with toLamp := [] } := by
  cases k : s.safe
  · obtain ⟨a1, a2, a3, a4, a5, used, q⟩ := State.rootSafe_frame s c b k
    rw [q]; exact ⟨rfl, rfl, rfl⟩
  · simp [State.rootSafe, k]

/-- A source of the rootstock or the scions changes nothing on the lamp die but the queue toward it. -/
theorem State.raise_root (s : State) (r : Raise) (h : lampSource r.source = false) :
    (s.raise r).can = s.can ∧ (s.raise r).lampDrivesLow = s.lampDrivesLow
      ∧ { (s.raise r).lamp with toLamp := [] } = { s.lamp with toLamp := [] } := by
  have dist : ∀ (t : State) (rc : Rec), ∃ a b, t.distribute rc = { t with fns := a, sent := b } := by
    intro t rc
    unfold State.distribute
    refine State.eachFn_frame t _ (fun t f => ?_)
    dsimp only
    repeat' split
    · exact ⟨_, _, rfl⟩
    · obtain ⟨x, y, e⟩ := State.setEvent_frame (t.setFn f (fun x => x.enterView rc)) f evtFault
      rw [e]; exact ⟨_, _, rfl⟩
    · exact ⟨_, _, rfl⟩
  unfold State.raise
  rw [if_neg (by simp [h])]
  unfold State.raiseFcu
  split
  · dsimp only
    have fin : ∀ (t : State) (rc : Rec), (t.can = s.can ∧ t.lampDrivesLow = s.lampDrivesLow
      ∧ ({ t.lamp with toLamp := [] } : Lamp) = { s.lamp with toLamp := [] }) →
        let u := (if rc.tier = 3 then (t.distribute rc).rootSafe (Ev.code r.event) (bootCauseOf r.source r.event) else t.distribute rc)
        u.can = s.can ∧ u.lampDrivesLow = s.lampDrivesLow ∧ ({ u.lamp with toLamp := [] } : Lamp) = { s.lamp with toLamp := [] } := by
      intro t rc g
      obtain ⟨a, b, e⟩ := dist t rc
      rw [e]
      dsimp only
      split
      · obtain ⟨x, y, z⟩ := State.rootSafe_lamp { t with fns := a, sent := b } (Ev.code r.event) (bootCauseOf r.source r.event)
        exact ⟨x.trans g.1, y.trans g.2.1, z.trans g.2.2⟩
      · exact g
    apply fin
    split
    · exact ⟨rfl, rfl, rfl⟩
    · exact ⟨rfl, rfl, rfl⟩
  · exact ⟨rfl, rfl, rfl⟩

/-- An operation on every function whose step changes only its own function's part: each part is updated once. -/
theorem State.eachFn_part {α : Type} (part : State → FnId → α) (upd : FnId → α → α) (s : State) (g : State → FnId → State)
    (a : ∀ t f, part (g t f) f = upd f (part t f)) (k : ∀ t f i, i ≠ f → part (g t f) i = part t i) (i : FnId) :
    part (s.eachFn g) i = upd i (part s i) := by
  unfold State.eachFn
  have m := List.mem_finRange i
  have n := List.nodup_finRange 128
  generalize List.finRange 128 = l at m n
  have rest : ∀ (r : List FnId) (t : State), i ∉ r → part (r.foldl g t) i = part t i := by
    intro r
    induction r with
    | nil => intro t _; rfl
    | cons f r ih =>
      intro t h
      rw [List.foldl_cons, ih _ (fun q => h (List.mem_cons_of_mem _ q)), k]
      exact fun q => h (by rw [q]; exact List.mem_cons_self ..)
  induction l generalizing s with
  | nil => simp at m
  | cons f r ih =>
    rw [List.foldl_cons]
    have d := List.nodup_cons.1 n
    rcases List.mem_cons.1 m with e | e
    · subst e
      rw [rest r _ d.1, a]
    · rw [ih _ e d.2, k]
      intro q; subst q; exact d.1 e

/-- Events leave a function's views, totals and provision as they are. -/
theorem State.setEvent_view (s : State) (f : FnId) (v : BitVec 7) (i : FnId) :
    ((s.setEvent f v).fn i).view = (s.fn i).view ∧ ((s.setEvent f v).fn i).total = (s.fn i).total
      ∧ ((s.setEvent f v).fn i).provision = (s.fn i).provision := by
  have set : ∀ (t : State) (g : Fn → Fn), (∀ x, (g x).view = x.view ∧ (g x).total = x.total ∧ (g x).provision = x.provision) →
      ((t.setFn f g).fn i).view = (t.fn i).view ∧ ((t.setFn f g).fn i).total = (t.fn i).total
      ∧ ((t.setFn f g).fn i).provision = (t.fn i).provision := by
    intro t g h
    by_cases q : f.val = i.val
    · simp only [State.fn, State.setFn, Vector.getElem_set, q, if_true]; simpa [q] using h _
    · simp [State.fn, State.setFn, Vector.getElem_set, q]
  have sig : ∀ (t : State) w, ((t.signal f w).fn i).view = (t.fn i).view ∧ ((t.signal f w).fn i).total = (t.fn i).total
      ∧ ((t.signal f w).fn i).provision = (t.fn i).provision := by
    intro t w
    unfold State.signal
    repeat' split
    · exact set _ _ (fun _ => ⟨rfl, rfl, rfl⟩)
    · exact ⟨rfl, rfl, rfl⟩
    · exact ⟨rfl, rfl, rfl⟩
  unfold State.setEvent
  dsimp only
  split
  · exact set _ _ (fun _ => ⟨rfl, rfl, rfl⟩)
  · obtain ⟨a, b, c⟩ := sig (s.setFn f (fun x => { x with event := x.event ||| v })) 0
    obtain ⟨a', b', c'⟩ := set s (fun x => { x with event := x.event ||| v }) (fun _ => ⟨rfl, rfl, rfl⟩)
    exact ⟨a.trans a', b.trans b', c.trans c'⟩

/-- A record enters the views that R382 names, once, and no other (R383, R384). -/
theorem State.distribute_view (s : State) (r : Rec) (i : FnId) :
    ((s.distribute r).fn i).view = (if s.viewers r i then (r :: (s.fn i).view).take 32 else (s.fn i).view)
      ∧ ((s.distribute r).fn i).total = (if s.viewers r i then (s.fn i).total + 1 else (s.fn i).total) := by
  let see (auth : Bool) (f : FnId) : Bool := match r.owner with
    | none => true
    | some o => f == o || f == pfOf (portOf o) || (decide (2 ≤ r.tier) && decide (portOf f = portOf o) && auth)
  let part (t : State) (f : FnId) : Bool × List Rec × BitVec 32 := (t.hasAuth f, (t.fn f).view, (t.fn f).total)
  let upd (f : FnId) (x : Bool × List Rec × BitVec 32) : Bool × List Rec × BitVec 32 :=
    if see x.1 f then (x.1, (r :: x.2.1).take 32, x.2.2 + 1) else x
  have vw : ∀ (t : State) f, t.viewers r f = see (t.hasAuth f) f := fun t f => rfl
  have sv : ∀ (t : State) (f i : FnId), part (t.setEvent f evtFault) i = part t i := by
    intro t f i
    obtain ⟨a, b, c⟩ := State.setEvent_view t f evtFault i
    simp only [part, State.hasAuth, a, b, c]
  have own : ∀ (t : State) (f : FnId), part (t.setFn f (fun x => x.enterView r)) f = ((part t f).1, (r :: (part t f).2.1).take 32, (part t f).2.2 + 1) := by
    intro t f
    simp [part, State.hasAuth, State.fn, State.setFn, Fn.enterView]
  have oth : ∀ (t : State) (f i : FnId), i ≠ f → part (t.setFn f (fun x => x.enterView r)) i = part t i := by
    intro t f i h
    have : f.val ≠ i.val := fun q => h (Fin.ext q.symm)
    simp [part, State.hasAuth, State.fn, State.setFn, Vector.getElem_set, this]
  have := State.eachFn_part part upd s (fun s f =>
    if s.viewers r f then
      let s := s.setFn f (fun x => x.enterView r)
      if r.tier = 0 then s else s.setEvent f evtFault
    else s) (fun t f => by
      dsimp only [upd]
      rw [show see (part t f).1 f = t.viewers r f from rfl]
      split
      · split
        · exact own t f
        · rw [sv]; exact own t f
      · rfl) (fun t f i h => by
      dsimp only
      split
      · split
        · exact oth t f i h
        · rw [sv]; exact oth t f i h
      · rfl) i
  have e : part (s.distribute r) i = upd i (part s i) := this
  have e1 := congrArg (fun x => x.2.1) e
  have e2 := congrArg (fun x => x.2.2) e
  refine ⟨e1.trans ?_, e2.trans ?_⟩
  · dsimp only [upd]
    rw [show see (part s i).1 i = s.viewers r i from rfl]
    split <;> rfl
  · dsimp only [upd]
    rw [show see (part s i).1 i = s.viewers r i from rfl]
    split <;> rfl

/-- The entry to the safe state leaves views and totals as they are. -/
theorem State.rootSafe_view (s : State) (c b : Nat) (i : FnId) :
    ((s.rootSafe c b).fn i).view = (s.fn i).view ∧ ((s.rootSafe c b).fn i).total = (s.fn i).total := by
  unfold State.rootSafe
  dsimp only
  split
  · exact ⟨rfl, rfl⟩
  · obtain ⟨e, m, d, runs, k⟩ := State.abortTiles_frame s (fun _ => true)
    rw [k]
    refine State.eachFn_induct (fun t => (t.fn i).view = (s.fn i).view ∧ (t.fn i).total = (s.fn i).total) _ _ ⟨rfl, rfl⟩ (fun t f h => ?_)
    exact ⟨(State.setEvent_view t f _ i).1.trans h.1, (State.setEvent_view t f _ i).2.1.trans h.2⟩

/-- A record that is distributed changes functions and what was sent. -/
theorem State.distribute_frame (s : State) (r : Rec) : ∃ fns sent, s.distribute r = { s with fns := fns, sent := sent } := by
  unfold State.distribute
  refine State.eachFn_frame s _ (fun t f => ?_)
  dsimp only
  repeat' split
  · exact ⟨_, _, rfl⟩
  · obtain ⟨x, y, e⟩ := State.setEvent_frame (t.setFn f (fun x => x.enterView r)) f evtFault
    rw [e]; exact ⟨_, _, rfl⟩
  · exact ⟨_, _, rfl⟩

/-- What a captured edge leaves: the FCU's own part, the views, the safe state for a Fatal record. -/
theorem State.raiseFcu_spec (s : State) (r : Raise) (run : s.rootRuns = true) (e : s.fcu.isEdge r.source r.event = true) :
    let p := s.fcu.capture r (r.time.getD s.now) s.fore.safety.reactionUs s.safe
    let t := s.raiseFcu r
    (p.2.tier ≠ 3 → t.fcu = p.1 ∧ t.safe = s.safe) ∧ (p.2.tier = 3 → t.safe = true)
    ∧ t.fcu.nextSeq = p.1.nextSeq ∧ t.fcu.holdoff = p.1.holdoff ∧ t.fcu.live = p.1.live ∧ t.fcu.holds = p.1.holds
    ∧ t.fcu.window = p.1.window
    ∧ (∀ i, (t.fn i).view = (if s.viewers p.2 i then (p.2 :: (s.fn i).view).take 32 else (s.fn i).view)
        ∧ (t.fn i).total = (if s.viewers p.2 i then (s.fn i).total + 1 else (s.fn i).total))
    ∧ t.lamp = { s.lamp with toLamp := t.lamp.toLamp } ∧ (p.2.timer = true → .timerStart r.source ∈ t.lamp.toLamp)
    ∧ (∀ x ∈ t.fcu.timers, x ∈ p.1.timers) := by
  intro p t
  have ht : t = if p.2.tier = 3 then ((if p.2.timer then
        ({ s with fcu := p.1 } : State).setLamp (fun l => { l with toLamp := l.toLamp ++ [.timerStart r.source] })
      else ({ s with fcu := p.1 } : State)).distribute p.2).rootSafe (Ev.code r.event) (bootCauseOf r.source r.event) else ((if p.2.timer then
        ({ s with fcu := p.1 } : State).setLamp (fun l => { l with toLamp := l.toLamp ++ [.timerStart r.source] })
      else ({ s with fcu := p.1 } : State)).distribute p.2) := by
    simp only [t, State.raiseFcu, run, e, Bool.and_self, if_true]; rfl
  have base : ∃ q, (if p.2.timer then
        ({ s with fcu := p.1 } : State).setLamp (fun l => { l with toLamp := l.toLamp ++ [.timerStart r.source] })
      else ({ s with fcu := p.1 } : State)) = { s with fcu := p.1, lamp := { s.lamp with toLamp := q } } ∧ (p.2.timer = true → .timerStart r.source ∈ q) := by
    split
    · exact ⟨_, rfl, fun _ => by simp⟩
    · exact ⟨_, rfl, fun h => absurd h ‹_›⟩
  obtain ⟨q, b, bq⟩ := base
  rw [b] at ht
  have v := fun i => State.distribute_view ({ s with fcu := p.1, lamp := { s.lamp with toLamp := q } } : State) p.2 i
  obtain ⟨fns, sent, d⟩ := State.distribute_frame ({ s with fcu := p.1, lamp := { s.lamp with toLamp := q } } : State) p.2
  rw [d] at v ht
  generalize hu : ({ ({ s with fcu := p.1, lamp := { s.lamp with toLamp := q } } : State) with fns := fns, sent := sent } : State) = u at v ht
  by_cases c : p.2.tier = 3
  · rw [if_pos c] at ht
    rw [ht]
    have w := fun i => State.rootSafe_view u (Ev.code r.event) (bootCauseOf r.source r.event) i
    have vv : ∀ i, (((u.rootSafe (Ev.code r.event) (bootCauseOf r.source r.event)).fn i).view = (if s.viewers p.2 i then (p.2 :: (s.fn i).view).take 32 else (s.fn i).view)
        ∧ ((u.rootSafe (Ev.code r.event) (bootCauseOf r.source r.event)).fn i).total = (if s.viewers p.2 i then (s.fn i).total + 1 else (s.fn i).total)) :=
      fun i => ⟨(w i).1.trans (v i).1, (w i).2.trans (v i).2⟩
    cases k : u.safe
    · obtain ⟨a1, a2, a3, a4, a5, used, z⟩ := State.rootSafe_frame u (Ev.code r.event) (bootCauseOf r.source r.event) k
      rw [z] at vv ⊢
      subst hu
      exact ⟨fun h => absurd c h, fun _ => rfl, rfl, rfl, rfl, rfl, rfl, vv, rfl, fun h => List.mem_append_left _ (bq h), fun x h => by simp at h⟩
    · have z : u.rootSafe (Ev.code r.event) (bootCauseOf r.source r.event) = u := by simp [State.rootSafe, k]
      rw [z] at vv ⊢
      subst hu
      exact ⟨fun h => absurd c h, fun _ => k, rfl, rfl, rfl, rfl, rfl, vv, rfl, bq, fun x h => h⟩
  · rw [if_neg c] at ht
    rw [ht]
    subst hu
    exact ⟨fun _ => ⟨rfl, rfl⟩, fun h => absurd h c, rfl, rfl, rfl, rfl, rfl, v, rfl, bq, fun x h => h⟩

/-- An event below tier 2 that no threshold promotes leaves the safe state as it is. -/
theorem State.raise_low (s : State) (r : Raise) (h : promotion r.event = none) (k : r.tier.getD (baseTier r.source r.event) < 2) : (s.raise r).safe = s.safe := by
  unfold State.raise
  split
  · unfold State.raiseLamp
    rw [if_neg (by omega)]
    split <;> rfl
  · by_cases q : s.rootRuns = true ∧ s.fcu.isEdge r.source r.event = true
    · refine ((State.raiseFcu_spec s r q.1 q.2).1 ?_).2
      simp only [Fcu.capture, Fcu.judge, Fcu.threshold, h]
      rw [if_neg (by simp; omega)]
      simp; omega
    · unfold State.raiseFcu
      rw [if_neg (by simpa using q)]

/-- Such an event leaves the Foreman, memory, streams, links, scions, engines and clocks alone. -/
theorem State.raise_calm (s : State) (r : Raise) (h : promotion r.event = none) (k : r.tier.getD (baseTier r.source r.event) < 2) :
    (s.raise r).fore = s.fore ∧ (s.raise r).mem = s.mem ∧ (s.raise r).streams = s.streams ∧ (s.raise r).cl = s.cl ∧ (s.raise r).scions = s.scions ∧ (s.raise r).engines = s.engines ∧ (s.raise r).boot = s.boot ∧ (s.raise r).clk = s.clk ∧ (s.raise r).safe = s.safe := by
  have a := State.raise_low s r h k
  have R := State.raise_raised s r
  obtain ⟨_, _, b, f, m, ss, c, sc, en, _⟩ := R.calm a
  exact ⟨f, m, ss, c, sc, en, b, R.same.2.2.1, a⟩

end Sys2Proof.Machine
end

