-- ==== Sys2Proof/Laws/Beside.lean ====
section
/-!
SUPPORT. What events, result entries, the end of a run and a port without its link leave alone.
-/

namespace Sys2Proof.Machine

/-! ## Crews, scions and ports beside results -/

/-- What an event, a result entry, its digest and the end of a run leave alone: the clocks, host ports, watchdogs,
Ethernet, UART and power; every crew; an idle engine stays idle, a fenced scion fenced; and the Chroylink ports but
for a RETRAIN that the safe state completes. -/
structure Beside (s t : State) : Prop where
  rest  : t.fixed = s.fixed ∧ t.flash = s.flash ∧ t.clk = s.clk ∧ t.portA = s.portA ∧ t.portB = s.portB
    ∧ t.wdog = s.wdog ∧ t.eth = s.eth ∧ t.uart = s.uart ∧ t.power = s.power ∧ t.pending = s.pending
  cl    : t.cl.map (fun x => { x with retrainCmd := none }) = s.cl.map (fun x => { x with retrainCmd := none })
  scion : ∀ n : ScionId, (s.scions[n.val]).state = .fenced → (t.scions[n.val]).state = .fenced
  crew  : ∀ e : EngineId, (t.engines[e.val]).crew = (s.engines[e.val]).crew
  idle  : ∀ e : EngineId, (s.engines[e.val]).tile = none → (t.engines[e.val]).tile = none

theorem Beside.refl (s : State) : Beside s s :=
  ⟨⟨rfl, rfl, rfl, rfl, rfl, rfl, rfl, rfl, rfl, rfl⟩, rfl, fun _ h => h, fun _ => rfl, fun _ h => h⟩

theorem Beside.trans {s t u : State} (h : Beside s t) (k : Beside t u) : Beside s u := by
  obtain ⟨a1, a2, a3, a4, a5, a6, a7, a8, a9, a10⟩ := h.rest
  obtain ⟨b1, b2, b3, b4, b5, b6, b7, b8, b9, b10⟩ := k.rest
  exact ⟨⟨b1.trans a1, b2.trans a2, b3.trans a3, b4.trans a4, b5.trans a5, b6.trans a6, b7.trans a7, b8.trans a8,
    b9.trans a9, b10.trans a10⟩, k.cl.trans h.cl, fun n q => k.scion n (h.scion n q), fun e => (k.crew e).trans (h.crew e),
    fun e q => k.idle e (h.idle e q)⟩

theorem Beside.ite {s t u : State} {c : Prop} [Decidable c] (h : Beside s t) (k : Beside s u) :
    Beside s (if c then t else u) := by
  split
  · exact h
  · exact k

/-- Changes of the Foreman, functions, memory, streams, Drift, cross-checking, faults, the lamp die and what was
sent are beside. -/
theorem Beside.of {s t : State} (h : ∃ fns fore fcu mem streams drift xc lamp can low sent safe root post boot draws foot die, t = { s with
    fns := fns, fore := fore, fcu := fcu, mem := mem, streams := streams, drift := drift, xc := xc, lamp := lamp
    can := can, lampDrivesLow := low, sent := sent, safe := safe, rootDrivesLow := root, postBoot := post, boot := boot
    draws := draws, footprint := foot, dieTemp := die }) : Beside s t := by
  obtain ⟨_, _, _, _, _, _, _, _, _, _, _, _, _, _, _, _, _, _, rfl⟩ := h
  exact ⟨⟨rfl, rfl, rfl, rfl, rfl, rfl, rfl, rfl, rfl, rfl⟩, rfl, fun _ h => h, fun _ => rfl, fun _ h => h⟩

theorem State.abortTile_beside (s : State) (e : EngineId) : Beside s (s.abortTile e) := by
  have step : ∀ fore, Beside s { s with engines := s.engines.set e.val { s.engines[e.val] with tile := none }, fore := fore } := by
    intro fore
    refine ⟨⟨rfl, rfl, rfl, rfl, rfl, rfl, rfl, rfl, rfl, rfl⟩, rfl, fun _ h => h, fun d => ?_, fun d h => ?_⟩
    · by_cases q : e.val = d.val <;> simp [q]
    · by_cases q : e.val = d.val <;> simp [q, h]
  unfold State.abortTile
  split
  · exact Beside.refl s
  · rename_i t _
    dsimp only
    split
    · exact step _
    · refine Beside.trans (step { s.fore with runs := s.fore.runs.map (fun r =>
        if r.id = t.run then { r with usedUs := r.usedUs + s.usSince t.start } else r) }) (Beside.of ?_)
      unfold State.scatter
      dsimp only
      repeat' split
      all_goals exact ⟨_, _, _, _, _, _, _, _, _, _, _, _, _, _, _, _, _, _, rfl⟩

theorem State.abortTiles_beside (s : State) (p : Nat → Bool) : Beside s (s.abortTiles p) := by
  unfold State.abortTiles
  generalize List.finRange 64 = l
  induction l generalizing s with
  | nil => exact Beside.refl s
  | cons f r ih =>
    rw [List.foldl_cons]
    refine Beside.trans ?_ (ih _)
    split
    · split
      · exact State.abortTile_beside s f
      · exact Beside.refl s
    · exact Beside.refl s

theorem State.eachFn_beside (s : State) (g : State → FnId → State)
    (k : ∀ (t : State) f, ∃ fns sent, g t f = { t with fns := fns, sent := sent }) : Beside s (s.eachFn g) := by
  obtain ⟨a, b, e⟩ := State.eachFn_frame s g k
  rw [e]
  exact Beside.of ⟨_, _, _, _, _, _, _, _, _, _, _, _, _, _, _, _, _, _, rfl⟩

theorem State.rootSafe_beside (s : State) (c b : Nat) : Beside s (s.rootSafe c b) := by
  unfold State.rootSafe
  split
  · exact Beside.refl s
  · refine Beside.trans ?_ (State.eachFn_beside _ _ (fun t f => t.setEvent_frame f _))
    refine (s.abortTiles_beside (fun _ => true)).trans ?_
    generalize s.abortTiles (fun _ => true) = u
    refine ⟨⟨rfl, rfl, rfl, rfl, rfl, rfl, rfl, rfl, rfl, rfl⟩, ?_, fun n h => ?_, fun e => ?_, fun e h => ?_⟩
    · ext1 i hi; simp
    · simp [h]
    · simp [Engine.rest]
    · simp [Engine.rest]

theorem State.raise_beside (s : State) (r : Raise) : Beside s (s.raise r) := by
  unfold State.raise
  split
  · apply Beside.of
    unfold State.raiseLamp
    have k : ∀ u : State, (∃ l, u = { s with lamp := l }) → ∃ fns fore fcu mem streams drift xc lamp can low sent safe root post boot draws foot die,
        (if r.tier.getD (baseTier r.source r.event) = 3 then u.lampSafe (Ev.code r.event) else u) = { s with
    fns := fns, fore := fore, fcu := fcu, mem := mem, streams := streams, drift := drift, xc := xc, lamp := lamp
    can := can, lampDrivesLow := low, sent := sent, safe := safe, rootDrivesLow := root, postBoot := post, boot := boot
    draws := draws, footprint := foot, dieTemp := die } := by
      rintro u ⟨l, rfl⟩
      split
      · cases hs : l.safe
        · obtain ⟨c, n, e⟩ := State.lampSafe_frame { s with lamp := l } (Ev.code r.event) hs
          rw [e]; exact ⟨_, _, _, _, _, _, _, _, _, _, _, _, _, _, _, _, _, _, rfl⟩
        · have : State.lampSafe { s with lamp := l } (Ev.code r.event) = { s with lamp := l } := by
            unfold State.lampSafe
            rw [if_pos hs]
          rw [this]
          exact ⟨_, _, _, _, _, _, _, _, _, _, _, _, _, _, _, _, _, _, rfl⟩
      · exact ⟨_, _, _, _, _, _, _, _, _, _, _, _, _, _, _, _, _, _, rfl⟩
    apply k
    split
    · exact ⟨_, rfl⟩
    · exact ⟨_, rfl⟩
  · unfold State.raiseFcu
    split
    · dsimp only
      have fin : ∀ (t : State) (rc : Rec), (∃ fcu lamp, t = { s with fcu := fcu, lamp := lamp }) →
          Beside s (if rc.tier = 3 then (t.distribute rc).rootSafe (Ev.code r.event) (bootCauseOf r.source r.event) else t.distribute rc) := by
        rintro t rc ⟨f, l, rfl⟩
        obtain ⟨a, b, e⟩ := State.distribute_frame { s with fcu := f, lamp := l } rc
        rw [e]
        have g : Beside s { s with fns := a, fcu := f, lamp := l, sent := b } :=
          Beside.of ⟨_, _, _, _, _, _, _, _, _, _, _, _, _, _, _, _, _, _, rfl⟩
        split
        · exact g.trans (State.rootSafe_beside _ _ _)
        · exact g
      apply fin
      split
      · exact ⟨_, _, rfl⟩
      · exact ⟨_, _, rfl⟩
    · exact Beside.refl s

/-- Lines of memory that are read. -/
theorem State.senseLines_beside (s : State) (l n : Nat) : Beside s (s.senseLines l n) := by
  unfold State.senseLines
  generalize s.mem.upsetIn l n = r
  induction r generalizing s with
  | nil => exact Beside.refl s
  | cons x r ih =>
    refine Beside.trans ?_ (ih _)
    unfold State.readUnit
    have a : ∀ m, Beside s { s with mem := m } := fun m => Beside.of ⟨_, _, _, _, _, _, _, _, _, _, _, _, _, _, _, _, _, _, rfl⟩
    dsimp only
    split
    · exact a _
    · exact (a _).trans (State.raise_beside _ _)

theorem State.senseEdges_beside (s : State) (k n : Nat) : Beside s (s.senseEdges k n) := by
  have a : ∀ (u : State), Beside s u → Beside s (if n = 0 ∨ (k + n) % 256 = 0 ∨ (k + n) / 256 = k / 256 then u
      else u.senseLines ((k + n) / 256) 1) := by
    intro u h
    split
    · exact h
    · exact h.trans (State.senseLines_beside _ _ _)
  refine a _ ?_
  split
  · exact Beside.refl s
  · exact State.senseLines_beside _ _ _

theorem State.writeSegs_beside (s : State) (f : FnId) (r : List Seg) (b : Bytes) : Beside s (s.writeSegs f r b).1 := by
  induction r generalizing s b with
  | nil => exact Beside.refl s
  | cons g r ih =>
    have one : ∀ c, Beside s (s.writeSeg f g c).1 := by
      intro c
      unfold State.writeSeg
      split
      · exact Beside.of ⟨_, _, _, _, _, _, _, _, _, _, _, _, _, _, _, _, _, _, rfl⟩
      · exact (State.senseEdges_beside s _ _).trans (Beside.of ⟨_, _, _, _, _, _, _, _, _, _, _, _, _, _, _, _, _, _, rfl⟩)
    unfold State.writeSegs
    split
    · exact Beside.refl s
    · have o := one (b.take g.len)
      generalize s.writeSeg f g (b.take g.len) = w at o ⊢
      obtain ⟨u, n, x⟩ := w
      cases x with
      | some d => exact o
      | none => exact o.trans (ih u (b.drop g.len))

theorem State.writeVa_beside (s : State) (f : FnId) (k : Bool) (va : Nat) (b : Bytes) (io : HostIo) : Beside s (s.writeVa f k va b io).1 := by
  have g : ∀ (t : State) (d : BitVec 16), Beside t (t.graftIf f k d) := by
    intro t d
    unfold State.graftIf
    split
    · exact State.raise_beside _ _
    · exact Beside.refl t
  unfold State.writeVa
  dsimp only
  split
  · have h := State.writeSegs_beside s f (((s.fn f).segs va b.length).getD []) b
    generalize s.writeSegs f (((s.fn f).segs va b.length).getD []) b = w at h ⊢
    obtain ⟨u, n, x⟩ := w
    cases x with
    | none => exact h
    | some d => exact Beside.trans h (g _ _)
  · rename_i j _
    have h := State.writeSegs_beside s f (((s.fn f).segs va b.length).getD []) (b.take j)
    generalize s.writeSegs f (((s.fn f).segs va b.length).getD []) (b.take j) = w at h ⊢
    obtain ⟨u, n, x⟩ := w
    cases x with
    | none => exact Beside.trans h (Beside.of ⟨_, _, _, _, _, _, _, _, _, _, _, _, _, _, _, _, _, _, rfl⟩)
    | some d => exact Beside.trans h (g _ _)

theorem State.signal_beside (s : State) (f : FnId) (v : Fin 32) : Beside s (s.signal f v) := by
  obtain ⟨a, b, e⟩ := State.signal_frame s f v
  rw [e]; exact Beside.of ⟨_, _, _, _, _, _, _, _, _, _, _, _, _, _, _, _, _, _, rfl⟩

theorem State.driftRoute_beside (s : State) (v : Port4) (d ty sr : Nat) (p : Bytes) : Beside s (s.driftRoute v d ty sr p) := by
  apply Beside.of
  unfold State.driftRoute State.driftSend State.driftWire State.send State.setDrift
  dsimp only
  repeat' split
  all_goals exact ⟨_, _, _, _, _, _, _, _, _, _, _, _, _, _, _, _, _, _, rfl⟩

theorem State.xcMismatch_beside (s : State) (c : Nat) : Beside s (s.xcMismatch c) := by
  unfold State.xcMismatch
  split
  · exact Beside.refl s
  · exact State.raise_beside _ _

theorem State.xcRecord_beside (s : State) (d : Digest) : Beside s (s.xcRecord d) := by
  have k : ∀ xc, Beside s { s with xc := xc } := fun xc => Beside.of ⟨_, _, _, _, _, _, _, _, _, _, _, _, _, _, _, _, _, _, rfl⟩
  unfold State.xcRecord State.xcMissing
  dsimp only
  repeat' split
  all_goals first
    | exact k _
    | exact (k _).trans (State.xcMismatch_beside _ _)

theorem State.sendDigest_beside (s : State) (c : Nat) (st : BitVec 16) (n : BitVec 32) (t : BitVec 64) (d : BitVec 32) :
    Beside s (s.sendDigest c st n t d) := by
  unfold State.sendDigest
  split
  · exact Beside.refl s
  · split
    · exact Beside.refl s
    · exact (State.driftRoute_beside _ _ _ _ _ _).trans (State.xcRecord_beside _ _)

theorem State.setStream_beside (s : State) (c : CtxId) (g : Stream → Stream) : Beside s (s.setStream c g) :=
  Beside.of ⟨_, _, _, _, _, _, _, _, _, _, _, _, _, _, _, _, _, _, rfl⟩

theorem State.setFore_beside (s : State) (g : Foreman → Foreman) : Beside s (s.setFore g) :=
  Beside.of ⟨_, _, _, _, _, _, _, _, _, _, _, _, _, _, _, _, _, _, rfl⟩

theorem State.writeEntry_beside (s : State) (c : CtxId) (b : Binding) (e : FrameEntry) : Beside s (s.writeEntry c b e) := by
  unfold State.writeEntry
  dsimp only
  have k : ∀ u : State, Beside s u → Beside s (if (s.streams[c.val]).cfg.cls = 2 then (u.setStream c (fun x => { x with
      bound := x.bound.map (fun b => { b with written := b.written + 1 }) })).sendDigest c.val e.status e.counter e.stamp e.digest
      else u.setStream c (fun x => { x with bound := x.bound.map (fun b => { b with written := b.written + 1 }) })) := by
    intro u h
    have h := h.trans (u.setStream_beside c (fun x => { x with bound := x.bound.map (fun b => { b with written := b.written + 1 }) }))
    split
    · exact h.trans (State.sendDigest_beside _ _ _ _ _ _)
    · exact h
  apply k
  split
  · exact State.writeVa_beside _ _ _ _ _ _
  · exact (State.writeVa_beside _ _ _ _ _ _).trans (State.signal_beside _ _ _)

theorem State.flush_beside (s : State) (c : CtxId) : Beside s (s.flush c) := by
  unfold State.flush
  refine Beside.trans ?_ (State.setStream_beside _ _ _)
  generalize ((s.streams[c.val]).entries.length) = n
  induction n generalizing s with
  | zero => exact Beside.refl s
  | succ n ih =>
    unfold State.flushFuel
    dsimp only
    split
    · split
      · exact Beside.refl s
      · exact ((s.setStream_beside c _).trans (State.writeEntry_beside _ _ _ _)).trans (ih _)
    · exact Beside.refl s

theorem State.pushEntry_beside (s : State) (c : CtxId) (e : FrameEntry) : Beside s (s.pushEntry c e) := by
  unfold State.pushEntry
  dsimp only
  apply Beside.ite
  · exact (s.setStream_beside c _).trans (State.flush_beside _ _)
  · exact Beside.refl s

theorem State.finish_beside (s : State) (id : Nat) (a b : BitVec 16) (r : BitVec 64) : Beside s (s.finish id a b r) :=
  Beside.of ⟨_, _, _, _, _, _, _, _, _, _, _, _, _, _, _, _, _, _, rfl⟩

theorem State.endRun_beside (s : State) (r : Run) : Beside s (s.endRun r) := by
  have pre : ∀ (g : Foreman → Foreman), Beside s (((s.correctCharge r).calibrate r).setFore g) := by
    intro g
    apply Beside.of
    unfold State.correctCharge State.calibrate
    repeat' split
    all_goals exact ⟨_, _, _, _, _, _, _, _, _, _, _, _, _, _, _, _, _, _, rfl⟩
  unfold State.endRun
  dsimp only
  split
  · have c : ∀ (u : State) k, Beside s u → Beside s (u.closeIdle k) := by
      intro u k h
      unfold State.closeIdle
      split
      · exact h.trans (State.setStream_beside _ _ _)
      · exact h
    apply c
    unfold State.decideEntry
    exact ((pre _).trans (State.setStream_beside _ _ _)).trans (State.flush_beside _ _)
  · exact (pre _).trans (State.finish_beside _ _ _ _ _)
  · exact (pre _).trans (State.finish_beside _ _ _ _ _)

theorem State.settle_beside (s : State) (id : Nat) : Beside s (s.settle id) := by
  unfold State.settle
  split
  · split
    · exact State.endRun_beside _ _
    · exact Beside.refl s
  · exact Beside.refl s

theorem State.replaceRun_beside (s : State) (n : ScionId) (id : Nat) (l : List Nat) : Beside s (s.replaceRun n id l) := by
  unfold State.replaceRun
  dsimp only
  have a : ∀ (t : State) (g : Run → Run), Beside t (t.setRun id g) := fun t g => t.setFore_beside _
  split
  · exact a _ _
  · apply Beside.ite
    · exact a _ _
    · exact ((a _ _).trans (a _ _)).trans (State.settle_beside _ _)

theorem State.breakFrame_beside (s : State) (c : CtxId) : Beside s (s.breakFrame c) := by
  apply Beside.of
  unfold State.breakFrame State.storeFrame
  dsimp only
  repeat' split
  all_goals exact ⟨_, _, _, _, _, _, _, _, _, _, _, _, _, _, _, _, _, _, rfl⟩

theorem State.cutFrame_beside (s : State) (c : CtxId) (a : FrameAsm) (d : BitVec 16) : Beside s (s.cutFrame c a d) := by
  unfold State.cutFrame
  dsimp only
  split
  · exact State.setStream_beside _ _ _
  · split
    · exact Beside.of ⟨_, _, _, _, _, _, _, _, _, _, _, _, _, _, _, _, _, _, rfl⟩
    · unfold State.integrityFrame
      refine Beside.trans ?_ (State.pushEntry_beside _ _ _)
      apply Beside.of
      unfold State.storeFrame
      dsimp only
      repeat' split
      all_goals exact ⟨_, _, _, _, _, _, _, _, _, _, _, _, _, _, _, _, _, _, rfl⟩

theorem State.streamDown_beside (s : State) (c : CtxId) : Beside s (s.streamDown c) := by
  unfold State.streamDown
  dsimp only
  split
  · exact Beside.refl s
  · refine Beside.trans ?_ (State.pushEntry_beside _ _ _)
    have d : ∀ (u : State) (b : Bool) (g : Stream → Stream), Beside s u →
        Beside s (if b = true then (u.setStream c g).drawn else u.setStream c g) := by
      intro u b g h
      have h := h.trans (u.setStream_beside c g)
      split
      · exact h.trans (Beside.of ⟨_, _, _, _, _, _, _, _, _, _, _, _, _, _, _, _, _, _, rfl⟩)
      · exact h
    apply d
    repeat' split
    · exact State.cutFrame_beside _ _ _ _
    · exact State.breakFrame_beside _ _
    · exact State.breakFrame_beside _ _
    · exact Beside.refl s

/-- Streams whose link goes down. -/
theorem State.portDown_beside (s : State) (a b : Nat) : Beside s (s.portDown a b) := by
  unfold State.portDown
  generalize List.finRange 48 = l
  induction l generalizing s with
  | nil => exact Beside.refl s
  | cons f r ih =>
    rw [List.foldl_cons]
    refine Beside.trans ?_ (ih _)
    dsimp only
    split
    · exact State.streamDown_beside _ _
    · exact Beside.refl s

theorem State.failOpen_beside (s : State) (c : CtxId) : Beside s (s.failOpen c) := by
  unfold State.failOpen
  split
  · exact Beside.refl s
  · exact (State.finish_beside _ _ _ _ _).trans (State.setStream_beside _ _ _)

/-- Openings that fail. -/
theorem State.failOpens_beside (s : State) (l : List CtxId) : Beside s (l.foldl State.failOpen s) := by
  induction l generalizing s with
  | nil => exact Beside.refl s
  | cons f r ih => exact (State.failOpen_beside s f).trans (ih _)

end Sys2Proof.Machine
end

