-- ==== Sys2Proof/Laws/Plan.lean ====
section
/-!
SUPPORT. What thinning, re-partition and the decision log change and leave alone.
-/

namespace Sys2Proof.Machine

/-- What a change of crews, thinning and the decision log touches while no mirror collects: engines, streams, the
Foreman but for its taken commands, runs, reservations and restore. -/
structure Planned (s t : State) : Prop where
  state : ∃ (engines : Vector Engine 64) (streams : Vector Stream 48) (fore : Foreman),
    t = { s with engines := engines, streams := streams, fore := fore }
  fore  : t.fore.taken = s.fore.taken ∧ t.fore.runs = s.fore.runs ∧ t.fore.restoring = s.fore.restoring
    ∧ t.fore.safety = s.fore.safety ∧ t.fore.reservations = s.fore.reservations
    ∧ t.fore.shift = s.fore.shift ∧ t.fore.usable = s.fore.usable
    ∧ t.fore.f0Halted = s.fore.f0Halted ∧ t.fore.f1Halted = s.fore.f1Halted ∧ t.fore.replay = s.fore.replay
    ∧ t.fore.agreed = s.fore.agreed ∧ t.fore.enginesA = s.fore.enginesA ∧ t.fore.memA = s.fore.memA
    ∧ t.fore.streamsA = s.fore.streamsA
  engines : ∀ e : EngineId, (t.engines[e.val]).tile = (s.engines[e.val]).tile
    ∧ (t.engines[e.val]).state = (s.engines[e.val]).state
    ∧ (s.crewed e = false → (s.engines[e.val]).crew = none → (t.engines[e.val]).crew = none)

theorem Planned.refl (s : State) : Planned s s :=
  ⟨⟨_, _, _, rfl⟩, ⟨rfl, rfl, rfl, rfl, rfl, rfl, rfl, rfl, rfl, rfl, rfl, rfl, rfl, rfl⟩, fun _ => ⟨rfl, rfl, fun _ h => h⟩⟩

theorem Planned.trans {s t u : State} (h : Planned s t) (k : Planned t u) : Planned s u := by
  obtain ⟨⟨a, b, c, rfl⟩, ⟨e1, e2, e3, e4, e5, e6, e7, e8, e9, e10, e11, e12, e13, e14⟩, eg⟩ := h
  obtain ⟨⟨a', b', c', rfl⟩, ⟨f1, f2, f3, f4, f5, f6, f7, f8, f9, f10, f11, f12, f13, f14⟩, fg⟩ := k
  refine ⟨⟨a', b', c', rfl⟩, ⟨f1.trans e1, f2.trans e2, f3.trans e3, f4.trans e4, f5.trans e5, f6.trans e6, f7.trans e7,
    f8.trans e8, f9.trans e9, f10.trans e10, f11.trans e11, f12.trans e12,
    f13.trans e13, f14.trans e14⟩, fun e => ⟨(fg e).1.trans (eg e).1, (fg e).2.1.trans (eg e).2.1, fun q n => ?_⟩⟩
  refine (fg e).2.2 ?_ ((eg e).2.2 q n)
  rw [← q]
  simp only [State.crewed]
  rw [(eg e).2.1]

theorem State.logRecord_planned (s : State) (cls : Nat) (f : Option FnId) (b : LogBody) (h : s.fore.replay.state ≠ .collecting) :
    Planned s (s.logRecord cls f b) := by
  unfold State.logRecord State.mirror
  dsimp only
  split
  · rename_i k
    exact absurd k h
  · exact ⟨⟨_, _, _, rfl⟩, ⟨rfl, rfl, rfl, rfl, rfl, rfl, rfl, rfl, rfl, rfl, rfl, rfl, rfl, rfl⟩, fun _ => ⟨rfl, rfl, fun _ h => h⟩⟩

theorem State.setStream_planned (s : State) (c : CtxId) (g : Stream → Stream) : Planned s (s.setStream c g) :=
  ⟨⟨_, _, _, rfl⟩, ⟨rfl, rfl, rfl, rfl, rfl, rfl, rfl, rfl, rfl, rfl, rfl, rfl, rfl, rfl⟩, fun _ => ⟨rfl, rfl, fun _ h => h⟩⟩

theorem Planned.quiet {s t : State} (p : Planned s t) (h : s.fore.replay.state ≠ .collecting) : t.fore.replay.state ≠ .collecting := by
  rw [p.fore.2.2.2.2.2.2.2.2.2.1]; exact h

theorem State.thinClass_planned (s : State) (cls n higher : Nat) (engaged : Bool) (h : s.fore.replay.state ≠ .collecting) :
    Planned s (s.thinClass cls n higher engaged).1 := by
  have fold : ∀ (l : List CtxId) (k : State → CtxId → Nat) (fr : Bool) (t : State), t.fore.replay.state ≠ .collecting →
      Planned t (l.foldl (fun s c => s.setKeep c (k s c) fr) t) := by
    intro l k fr
    induction l with
    | nil => exact fun t _ => Planned.refl t
    | cons c r ih =>
      intro t q
      rw [List.foldl_cons]
      have a : Planned t (t.setKeep c (k t c) fr) := (State.setStream_planned t c _).trans (State.logRecord_planned _ _ _ _ q)
      exact a.trans (ih _ (a.quiet q))
  unfold State.thinClass
  dsimp only
  repeat' split
  · exact fold _ (fun _ _ => 256) true s h
  · exact fold _ (fun s c => keepCount (lambdaOf _ _) (s.streams[c.val]).cfg.weight) false s h
  · exact Planned.refl s

theorem State.thin_planned (s : State) (n : Nat) (h : s.fore.replay.state ≠ .collecting) : Planned s (s.thin n) := by
  unfold State.thin
  dsimp only
  have a := State.thinClass_planned s 1 n (s.classDemand 2) s.fore.thin1 h
  have b := State.thinClass_planned _ 0 n (s.classDemand 2 + s.classDemand 1)
    (s.thinClass 1 n (s.classDemand 2) s.fore.thin1).1.fore.thin0 (a.quiet h)
  exact (a.trans b).trans ⟨⟨_, _, _, rfl⟩, ⟨rfl, rfl, rfl, rfl, rfl, rfl, rfl, rfl, rfl, rfl, rfl, rfl, rfl, rfl⟩, fun _ => ⟨rfl, rfl, fun _ h => h⟩⟩

/-- What a re-partition touches while no mirror collects. -/
theorem State.repartition_planned (s : State) (cause : Nat) (m : Bool) (h : s.fore.replay.state ≠ .collecting) :
    Planned s (s.repartition cause m) := by
  unfold State.repartition
  dsimp only
  have last : ∀ t : State, Planned s t → Planned s t.resetDemand := fun t h =>
    h.trans ⟨⟨_, _, _, rfl⟩, ⟨rfl, rfl, rfl, rfl, rfl, rfl, rfl, rfl, rfl, rfl, rfl, rfl, rfl, rfl⟩, fun _ => ⟨rfl, rfl, fun _ h => h⟩⟩
  have go : ∀ (t : State) (cls f b n), Planned s t →
      Planned s (State.resetDemand (if (t.logRecord cls f b).fore.replay.state = .armed then t.logRecord cls f b else (t.logRecord cls f b).thin n)) := by
    intro t cls f b n p
    have l := p.trans (State.logRecord_planned t cls f b (p.quiet h))
    apply last
    split
    · exact l
    · exact l.trans (State.thin_planned _ _ (l.quiet h))
  apply go
  split
  · refine ⟨⟨_, _, _, rfl⟩, ⟨rfl, rfl, rfl, rfl, rfl, rfl, rfl, rfl, rfl, rfl, rfl, rfl, rfl, rfl⟩, fun e => ⟨by simp [State.setCrews], by simp [State.setCrews], fun q _ => ?_⟩⟩
    have : e ∉ s.crewEngines := by simp [State.crewEngines, q]
    simp [State.setCrews, this]
  · exact Planned.refl s

end Sys2Proof.Machine
end

