-- ==== Sys2Proof/Laws/Store.lean ====
section
/-!
SUPPORT. What a store changes: bytes inside and outside the stored range, through lines and through mappings.
-/

namespace Sys2Proof.Machine

/-- Reading a table of which only some addresses stay. -/
theorem sparseGet_filter {α : Type} [DecidableEq α] {d : α} (keep : Nat → Bool) (l : List (Nat × α)) (lo a : Nat)
    (w : sparseWf d lo l = true) :
    sparseGet d (l.filter (fun x => keep x.1)) a = if keep a then sparseGet d l a else d := by
  induction l generalizing lo with
  | nil => simp [sparseGet]
  | cons x r ih =>
    obtain ⟨k, v⟩ := x
    simp only [sparseWf, Bool.and_eq_true, decide_eq_true_eq] at w
    have i := ih _ w.2
    have low := sparseGet_low (d := d) (l := r) (a := a) (lo := k + 1) 
    by_cases q : keep k = true
    · rw [List.filter_cons_of_pos (by simpa using q)]
      simp only [sparseGet]
      by_cases e : a = k
      · subst e; simp [q]
      · simp only [e, if_false]
        split
        · simp
        · rw [i]
    · rw [List.filter_cons_of_neg (by simpa using q), i]
      simp only [sparseGet]
      by_cases e : a = k
      · subst e; simp [q]
      · simp only [e, if_false]
        by_cases l : a < k
        · rw [if_pos l, low (by omega) w.2]
        · rw [if_neg l]

/-- Zeroed memory: the range reads 0, every other byte reads as before (R94). -/
theorem Memory.zero_byte (m : Memory) (k n a : Nat) (w : m.wf = true) :
    (m.zero k n).byte a = if k ≤ a ∧ a < k + n then 0 else m.byte a := by
  simp only [Memory.wf, Bool.and_eq_true] at w
  have := sparseGet_filter (fun a => decide (a < k) || decide (k + n ≤ a)) m.cells 0 a w.1
  simp only [Memory.byte, Memory.zero]
  refine this.trans ?_
  by_cases q : k ≤ a ∧ a < k + n
  · rw [if_neg (by simp; omega), if_pos q]; rfl
  · rw [if_pos (by simp; omega), if_neg q]

theorem Memory.line_length (m : Memory) (l : Nat) : (m.line l).length = 256 := by
  simp [Memory.line, Memory.bytes]

theorem Memory.line_byte (m : Memory) (l i : Nat) (h : i < 256) : byteAt (m.line l) i = m.byte (256 * l + i) := by
  simp [Memory.line, Memory.bytes, byteAt, List.getD, h]

/-- A list of 256 bytes is a line if its bytes are. -/
theorem Memory.line_ext (m : Memory) (l : Nat) (b : Bytes) (n : b.length = 256)
    (h : ∀ i, i < 256 → m.byte (256 * l + i) = byteAt b i) : m.line l = b := by
  apply List.ext_getElem (by rw [m.line_length, n])
  intro i h1 h2
  have := h i (by omega)
  rw [← m.line_byte l i (by omega)] at this
  simpa [byteAt, List.getD, List.getElem?_eq_getElem h1, List.getElem?_eq_getElem h2] using this

/-- A line written: its bytes, its tag, its poison; every other line and every shadow as before (R227, R333). -/
theorem Memory.putLine_spec (m : Memory) (l : Nat) (b : Bytes) (w : m.wf = true) (n : b.length = 256) (low : l < 2 ^ 78) :
    (∀ a, (m.putLine l b).byte a = if a / 256 = l then byteAt b (a % 256) else m.byte a)
      ∧ (m.putLine l b).line l = b ∧ (m.putLine l b).tag l = crc32c b
      ∧ (m.putLine l b).linePoisoned l = m.tagPoisoned l
      ∧ (∀ k, (m.putLine l b).tagPoisoned k = m.tagPoisoned k)
      ∧ ∀ k, k ≠ l → (m.putLine l b).tag k = m.tag k ∧ (m.putLine l b).linePoisoned k = m.linePoisoned k := by
  simp only [Memory.wf, Bool.and_eq_true] at w
  have bytes : ∀ a, (m.putLine l b).byte a = if a / 256 = l then byteAt b (a % 256) else m.byte a := by
    intro a
    split
    · have := putBytes_inside b m.cells (256 * l) (a % 256) w.1 (by omega)
      simp only [Memory.byte, Memory.putLine]
      rw [← this]; congr 1; omega
    · exact putBytes_outside b m.cells (256 * l) a w.1 (by omega)
  have shadow : ∀ k, (m.putLine l b).tagPoisoned k = m.tagPoisoned k := by
    intro k
    have : shadowUnit k / 4 ≠ l := by unfold shadowUnit; omega
    rw [Bool.eq_iff_iff]
    simp only [Memory.tagPoisoned, Memory.putLine, List.contains_iff_mem, List.mem_filter, bne_iff_ne]
    exact ⟨fun h => h.1, fun h => ⟨h, this⟩⟩
  refine ⟨bytes, Memory.line_ext _ _ _ n (fun i h => ?_), sparseGet_put_same _ 0 _ _ w.2, ?_, shadow, fun k h =>
    ⟨sparseGet_put_other _ 0 _ _ _ h w.2, ?_⟩⟩
  · rw [bytes, if_pos (by omega)]; congr 1; omega
  · rw [← shadow l]
    have own : ((m.putLine l b).poison.any fun u => u / 4 == l) = false := by
      simp only [Memory.putLine, List.any_eq_false, List.mem_filter]
      intro u hu; simpa using hu.2
    unfold Memory.linePoisoned
    rw [own]; rfl
  · have rest : ((m.putLine l b).poison.any fun u => u / 4 == k) = (m.poison.any fun u => u / 4 == k) := by
      simp only [Memory.putLine]
      rw [List.any_filter]
      refine congrArg (fun p => m.poison.any p) (funext fun u => ?_)
      by_cases q : u / 4 = k
      · simp [q, h]
      · simp [q]
    unfold Memory.linePoisoned
    rw [rest, shadow k]

theorem splice_length (old b : Bytes) (off : Nat) (h : off + b.length ≤ old.length) :
    (splice old off b).length = old.length := by
  simp [splice]; omega

theorem splice_byte (old b : Bytes) (off i : Nat) (h : off + b.length ≤ old.length) :
    byteAt (splice old off b) i = if off ≤ i ∧ i < off + b.length then byteAt b (i - off) else byteAt old i := by
  simp only [splice, byteAt, List.getD]
  by_cases q : i < off
  · rw [if_neg (by omega), List.append_assoc, List.getElem?_append_left (by simp; omega), List.getElem?_take, if_pos q]
  · by_cases q2 : i < off + b.length
    · rw [if_pos (by omega), List.append_assoc, List.getElem?_append_right (by simp; omega),
        List.getElem?_append_left (by simp; omega)]
      congr 2; simp; omega
    · rw [if_neg (by omega), List.getElem?_append_right (by simp; omega), List.getElem?_drop]
      congr 2; simp; omega

/-- What one part of a store does within a line (R227, R335). -/
theorem Memory.storeSpan_spec (m : Memory) (k : Nat) (b : Bytes) (w : m.wf = true) (r : k % 256 + b.length ≤ 256)
    (low : k < 2 ^ 86) :
    (∃ m', m.storeSpan k b = (m', none) ∧ m'.wf = true
      ∧ (∀ a, m'.byte a = if k ≤ a ∧ a < k + b.length then byteAt b (a - k) else m.byte a)
      ∧ m'.tag (k / 256) = crc32c (m'.line (k / 256)) ∧ m'.linePoisoned (k / 256) = m.tagPoisoned (k / 256)
      ∧ (∀ l, m'.tagPoisoned l = m.tagPoisoned l)
      ∧ ∀ l, l ≠ k / 256 → m'.tag l = m.tag l ∧ m'.linePoisoned l = m.linePoisoned l)
    ∨ (∃ d, m.storeSpan k b = (m, some d) ∧ b.length ≠ 256
      ∧ (d = 0x0200 ∧ m.linePoisoned (k / 256) = true
        ∨ d = 4 ∧ m.linePoisoned (k / 256) = false ∧ m.tag (k / 256) ≠ crc32c (m.line (k / 256)))) := by
  by_cases f : b.length = 256
  · left
    have st : m.storeSpan k b = (m.putLine (k / 256) b, none) := by simp [Memory.storeSpan, f]
    obtain ⟨p1, p2, p3, p4, p5⟩ := Memory.putLine_spec m (k / 256) b w f (by omega)
    refine ⟨_, st, Memory.putLine_wf _ _ _ w, fun a => ?_, by rw [p3, p2], p4, p5⟩
    rw [p1]
    by_cases q : a / 256 = k / 256
    · rw [if_pos q, if_pos (by omega)]; congr 1; omega
    · rw [if_neg q, if_neg (by omega)]
  · by_cases p : m.linePoisoned (k / 256) = true
    · right; exact ⟨0x0200, by simp [Memory.storeSpan, f, p], f, .inl ⟨rfl, p⟩⟩
    · have p' : m.linePoisoned (k / 256) = false := by simpa using p
      by_cases t : m.tag (k / 256) = crc32c (m.line (k / 256))
      · left
        have ll := m.line_length (k / 256)
        have st : m.storeSpan k b = (m.putLine (k / 256) (splice (m.line (k / 256)) (k % 256) b), none) := by
          simp [Memory.storeSpan, f, p', t]
        have sl : (splice (m.line (k / 256)) (k % 256) b).length = 256 := by
          rw [splice_length _ _ _ (by omega), ll]
        obtain ⟨p1, p2, p3, p4, p5⟩ := Memory.putLine_spec m (k / 256) _ w sl (by omega)
        refine ⟨_, st, Memory.putLine_wf _ _ _ w, fun a => ?_, by rw [p3, p2], p4, p5⟩
        rw [p1]
        by_cases q : a / 256 = k / 256
        · rw [if_pos q, splice_byte _ _ _ _ (by omega)]
          by_cases q2 : k ≤ a ∧ a < k + b.length
          · rw [if_pos (by omega), if_pos q2]; congr 1; omega
          · rw [if_neg (by omega), if_neg q2, m.line_byte _ _ (Nat.mod_lt _ (by decide))]; congr 1; omega
        · rw [if_neg q, if_neg (by omega)]
      · right; exact ⟨4, by simp [Memory.storeSpan, f, p', t], f, .inr ⟨rfl, p', t⟩⟩

/-- What a store does, line by line (R227, R333, R335). -/
theorem Memory.storeLines_spec (fuel : Nat) (m : Memory) (k : Nat) (b : Bytes) (w : m.wf = true)
    (h : k % 256 + b.length ≤ 256 * fuel) (low : k + b.length ≤ 2 ^ 86) :
    ∃ m' n e, Memory.storeLines fuel m k b = (m', n, e) ∧ n ≤ b.length ∧ m'.wf = true
      ∧ (∀ a, m'.byte a = if k ≤ a ∧ a < k + n then byteAt b (a - k) else m.byte a)
      ∧ (e = none → n = b.length)
      ∧ (∀ d, e = some d → let l := (k + n) / 256
          (d = 0x0200 ∧ m.linePoisoned l = true ∨ d = 4 ∧ m.linePoisoned l = false ∧ m.tag l ≠ crc32c (m.line l))
          ∧ ((k + n) % 256 ≠ 0 ∨ k + b.length < 256 * l + 256))
      ∧ (∀ i, i < n → m'.tag ((k + i) / 256) = crc32c (m'.line ((k + i) / 256))
          ∧ m'.linePoisoned ((k + i) / 256) = m.tagPoisoned ((k + i) / 256))
      ∧ (∀ l, m'.tagPoisoned l = m.tagPoisoned l)
      ∧ (∀ l, (∀ i, i < n → (k + i) / 256 ≠ l) → m'.tag l = m.tag l ∧ m'.linePoisoned l = m.linePoisoned l) := by
  induction fuel generalizing m k b with
  | zero =>
    have : b = [] := List.eq_nil_of_length_eq_zero (by omega)
    subst this
    exact ⟨m, 0, none, rfl, by simp, w, fun a => by rw [if_neg (by omega)], fun _ => rfl, by simp, by simp, fun _ => rfl, fun _ _ => ⟨rfl, rfl⟩⟩
  | succ fuel ih =>
    by_cases z : b = []
    · subst z
      exact ⟨m, 0, none, by simp [Memory.storeLines], by simp, w, fun a => by rw [if_neg (by omega)], fun _ => rfl, by simp, by simp, fun _ => rfl, fun _ _ => ⟨rfl, rfl⟩⟩
    · have bl : 0 < b.length := List.length_pos_of_ne_nil z
      have tl : (b.take (256 - k % 256)).length = min (256 - k % 256) b.length := List.length_take
      rcases Memory.storeSpan_spec m k (b.take (256 - k % 256)) w (by omega) (by omega) with ⟨m1, e1, w1, b1, t1, q1, s1, o1⟩ | ⟨d, e1, f1, c1⟩
      · by_cases last : b.length ≤ 256 - k % 256
        · have dr : b.drop (256 - k % 256) = [] := List.drop_eq_nil_of_le last
          have tk : b.take (256 - k % 256) = b := List.take_of_length_le last
          rw [tk] at e1 b1
          refine ⟨m1, b.length, none, ?_, Nat.le_refl _, w1, b1, fun _ => rfl, by simp, fun i hi => ?_, s1, fun l hl => ?_⟩
          · simp only [Memory.storeLines, z, if_false, tk, e1, dr]
            cases fuel <;> simp [Memory.storeLines]
          · have : (k + i) / 256 = k / 256 := by omega
            rw [this]; exact ⟨t1, q1⟩
          · exact o1 l (fun e => hl 0 bl (by simp [e]))
        · have tl' : (b.take (256 - k % 256)).length = 256 - k % 256 := by omega
          have dl : (b.drop (256 - k % 256)).length = b.length - (256 - k % 256) := List.length_drop
          obtain ⟨m2, n2, e2, s2, le2, w2, b2, all2, er2, t2, h2, o2⟩ := ih m1 (k + (256 - k % 256)) (b.drop (256 - k % 256)) w1 (by omega) (by omega)
          rw [tl'] at b1
          refine ⟨m2, (256 - k % 256) + n2, e2, ?_, by omega, w2, fun a => ?_, fun e => by have := all2 e; omega, fun d hd => ?_, fun i hi => ?_, fun l => (h2 l).trans (s1 l), fun l hl => ?_⟩
          · simp only [Memory.storeLines, z, if_false, e1, s2, tl']
          · rw [b2]
            by_cases q : k + (256 - k % 256) ≤ a ∧ a < k + (256 - k % 256) + n2
            · rw [if_pos q, if_pos (by omega)]
              simp only [byteAt, List.getD, List.getElem?_drop]; congr 2; omega
            · rw [if_neg q, b1]
              by_cases q2 : k ≤ a ∧ a < k + (256 - k % 256)
              · rw [if_pos q2, if_pos (by omega)]
                simp only [byteAt, List.getD]; rw [List.getElem?_take, if_pos (by omega)]
              · rw [if_neg q2, if_neg (by omega)]
          · obtain ⟨c, p⟩ := er2 d hd
            have e : k + (256 - k % 256) + n2 = k + (256 - k % 256 + n2) := by omega
            rw [e] at c p
            refine ⟨?_, by rw [dl] at p; omega⟩
            have ne : (k + (256 - k % 256 + n2)) / 256 ≠ k / 256 := by omega
            obtain ⟨o3, o4⟩ := o1 _ ne
            rw [o3, o4] at c
            have ln : m1.line ((k + (256 - k % 256 + n2)) / 256) = m.line ((k + (256 - k % 256 + n2)) / 256) := by
              apply Memory.line_ext _ _ _ (m.line_length _)
              intro i hi
              rw [b1, if_neg (by omega), m.line_byte _ _ hi]
            rw [ln] at c
            exact c
          · by_cases q : i < 256 - k % 256
            · have e : (k + i) / 256 = k / 256 := by omega
              rw [e]
              obtain ⟨o3, o4⟩ := o2 (k / 256) (fun j _ => by omega)
              rw [o3, o4, t1]
              refine ⟨?_, q1⟩
              congr 1
              symm
              apply Memory.line_ext _ _ _ (m1.line_length _)
              intro j hj
              rw [b2, if_neg (by omega), m1.line_byte _ _ hj]
            · have := t2 (i - (256 - k % 256)) (by omega)
              have e : k + (256 - k % 256) + (i - (256 - k % 256)) = k + i := by omega
              rw [e] at this; exact ⟨this.1, this.2.trans (s1 _)⟩
          · obtain ⟨o3, o4⟩ := o2 l (fun j hj e => hl ((256 - k % 256) + j) (by omega) (by rw [← e]; congr 1; omega))
            obtain ⟨o5, o6⟩ := o1 l (fun e => hl 0 (by omega) (by rw [e]; simp))
            exact ⟨o3.trans o5, o4.trans o6⟩
      · refine ⟨m, 0, some d, ?_, by omega, w, fun a => by rw [if_neg (by omega)], by simp, fun d' hd => ?_, by simp, fun _ => rfl, fun _ _ => ⟨rfl, rfl⟩⟩
        · simp only [Memory.storeLines, z, if_false, e1]
        · simp at hd; subst hd
          refine ⟨c1, ?_⟩
          simp only [Nat.add_zero]; omega

/-- A write through mappings stays within the range that the mappings cover. -/
theorem State.writeSegs_stays (x : Fn) (f : FnId) (fuel va n : Nat) (r : List Seg) (h : x.segsFuel fuel va n = some r)
    (s : State) (b : Bytes) (w : s.mem.wf = true) (calm : s.mem.upsets = []) (top : va + n ≤ 2 ^ 48) :
    (s.writeSegs f r b).1.mem.wf = true ∧ s.sent <:+ (s.writeSegs f r b).1.sent
      ∧ ∀ a, (a < memKey f va ∨ memKey f va + n ≤ a) → (s.writeSegs f r b).1.mem.byte a = s.mem.byte a := by
  induction fuel generalizing va n r s b with
  | zero =>
    cases n with
    | zero => simp only [Fn.segsFuel] at h; cases h; exact ⟨w, List.suffix_refl _, fun _ _ => rfl⟩
    | succ n => simp [Fn.segsFuel] at h
  | succ fuel ih =>
    cases n with
    | zero => simp only [Fn.segsFuel] at h; cases h; exact ⟨w, List.suffix_refl _, fun _ _ => rfl⟩
    | succ n =>
      simp only [Fn.segsFuel] at h
      cases m : x.mapAt va with
      | none => simp [m] at h
      | some mp =>
        simp only [m] at h
        cases q : x.segsFuel fuel (va + min (n + 1) (mp.va + mp.size - va)) (n + 1 - min (n + 1) (mp.va + mp.size - va)) with
        | none => simp [q] at h
        | some r' =>
          simp only [q, Option.some.injEq] at h
          subst h
          generalize hl : min (n + 1) (mp.va + mp.size - va) = l at q ⊢
          have ll : l ≤ n + 1 := by omega
          unfold State.writeSegs
          split
          · exact ⟨w, List.suffix_refl _, fun _ _ => rfl⟩
          · have one : ∀ c : Bytes, c.length ≤ l → (s.writeSeg f ⟨va, l, mp⟩ c).1.mem.wf = true
                ∧ (s.writeSeg f ⟨va, l, mp⟩ c).1.mem.upsets = []
                ∧ s.sent <:+ (s.writeSeg f ⟨va, l, mp⟩ c).1.sent
                ∧ ∀ a, (a < memKey f va ∨ memKey f va + (n + 1) ≤ a) → (s.writeSeg f ⟨va, l, mp⟩ c).1.mem.byte a = s.mem.byte a := by
              intro c hc
              unfold State.writeSeg
              split
              · exact ⟨w, calm, List.suffix_cons _ _, fun _ _ => rfl⟩
              · rw [State.senseEdges_calm s _ _ calm]
                have up := Memory.store_upsets calm (memKey f va) c
                obtain ⟨m', k, e, h1, h2, h3, h4, _⟩ := Memory.storeLines_spec (c.length / 256 + 2) s.mem (memKey f va) c w (by omega) (by simp only [memKey]; omega)
                have st : s.mem.store (memKey f va) c = (m', k, e) := h1
                simp only [st] at up ⊢
                refine ⟨h3, up, List.suffix_refl _, fun a ha => ?_⟩
                rw [h4, if_neg (by omega)]
            obtain ⟨o1, o0, o2, o3⟩ := one (b.take l) (by rw [List.length_take]; omega)
            dsimp only at o1 o0 o2 o3 ⊢
            generalize s.writeSeg f ⟨va, l, mp⟩ (b.take l) = v at o1 o0 o2 o3 ⊢
            obtain ⟨u, k, e⟩ := v
            cases e with
            | some d => exact ⟨o1, o2, o3⟩
            | none =>
              dsimp only at o1 o0 o2 o3 ⊢
              obtain ⟨i1, i2, i3⟩ := ih _ _ _ q u (b.drop l) o1 o0 (by omega)
              refine ⟨i1, o2.trans i2, fun a ha => ?_⟩
              rw [i3 a (by simp only [memKey] at *; omega), o3 a ha]

end Sys2Proof.Machine
end

