-- ==== Sys2Proof/Laws/Effects.lean ====
section
/-!
SUPPORT. What the shared operations do, unit by unit: the lemmas that proofs about commands cite in place
of unfolding an operation.
-/

namespace Sys2Proof.Machine

-- One theorem at a time: elaborated side by side, each waits in a thread with its own large stack.
set_option Elab.async false

/-! ## Records and completions -/

/-- Forming a live command's completion, on a state with the same taken commands. -/
theorem State.finish_completed_of_taken {s t : State} {id : Nat} {c : Cmd} (h : s.cmd id = some c) (l : c.live = true) (k : t.fore.taken = s.fore.taken)
    (st d : BitVec 16) (r : BitVec 64) : Completed s (t.finish id st d r) id c st d r := by
  have h' : t.cmd id = some c := by simpa only [State.cmd, k] using h
  refine ⟨(State.finish_cmd h' l st d r).trans rfl, fun j n => (State.finish_other t n st d r).trans (by simp only [State.cmd, k])⟩

/-- A command offered to admission is live. -/
theorem State.Offered.live {s : State} {id o c} (b : s.Offered id o c) : c.live = true := by
  rcases b.phase with h | h <;> simp [Cmd.live, h]

/-- A taken command is as before, or the safe state has completed it; device time stands. -/
def KeepsCmd (s t : State) (id : Nat) (c : Cmd) : Prop :=
  t.now = s.now ∧ (t.cmd id = some c ∨ ∃ r, t.cmd id = some { c with phase := .formed stSafe 0 r s.now })

theorem KeepsCmd.raise {s t : State} {id : Nat} {c : Cmd} (h : KeepsCmd s t id c) (r : Raise) : KeepsCmd s (t.raise r) id c := by
  obtain ⟨n, h | ⟨x, h⟩⟩ := h
  · obtain ⟨n', q⟩ := State.raise_cmd r h
    rw [n] at n' q
    exact ⟨n', q⟩
  · refine ⟨(State.raise_cmd r h).1.trans n, .inr ⟨x, ?_⟩⟩
    rcases (State.raise_raised t r).cmd id _ h with q | ⟨l, _⟩
    · exact q
    · simp [Cmd.live] at l

theorem KeepsCmd.of {s t u : State} {id : Nat} {c : Cmd} (h : KeepsCmd s t id c) (f : u.fore = t.fore) (k : u.clk = t.clk) :
    KeepsCmd s u id c := by
  obtain ⟨n, q⟩ := h
  exact ⟨by rw [← n]; simp only [State.now, k], by simpa only [State.cmd, f] using q⟩

/-- Lines that are read. -/
theorem KeepsCmd.senseLines {s t : State} {id : Nat} {c : Cmd} (h : KeepsCmd s t id c) (l n : Nat) :
    KeepsCmd s (t.senseLines l n) id c := by
  unfold State.senseLines
  generalize t.mem.upsetIn l n = r
  induction r generalizing t with
  | nil => exact h
  | cons x r ih =>
    refine ih ?_
    unfold State.readUnit
    have a : ∀ m, KeepsCmd s { t with mem := m } id c := fun m => h.of rfl rfl
    dsimp only
    split
    · exact a _
    · exact (a _).raise _

theorem KeepsCmd.senseEdges {s t : State} {id : Nat} {c : Cmd} (h : KeepsCmd s t id c) (k n : Nat) :
    KeepsCmd s (t.senseEdges k n) id c := by
  have a : ∀ (u : State), KeepsCmd s u id c → KeepsCmd s (if n = 0 ∨ (k + n) % 256 = 0 ∨ (k + n) / 256 = k / 256 then u
      else u.senseLines ((k + n) / 256) 1) id c := by
    intro u h
    split
    · exact h
    · exact h.senseLines _ _
  refine a _ ?_
  split
  · exact h
  · exact h.senseLines _ _

theorem KeepsCmd.writeSegs {s t : State} {id : Nat} {c : Cmd} (h : KeepsCmd s t id c) (f : FnId) (r : List Seg) (b : Bytes) :
    KeepsCmd s (t.writeSegs f r b).1 id c := by
  induction r generalizing t b with
  | nil => exact h
  | cons g r ih =>
    have one : ∀ v, KeepsCmd s (t.writeSeg f g v).1 id c := by
      intro v
      unfold State.writeSeg
      split
      · exact h.of rfl rfl
      · exact (h.senseEdges _ _).of rfl rfl
    unfold State.writeSegs
    split
    · exact h
    · have o := one (b.take g.len)
      generalize t.writeSeg f g (b.take g.len) = w at o ⊢
      obtain ⟨u, n, x⟩ := w
      cases x with
      | some d => exact o
      | none => exact ih o (b.drop g.len)

/-- A write through a function's mappings. -/
theorem KeepsCmd.writeVa {s t : State} {id : Nat} {c : Cmd} (h : KeepsCmd s t id c) (f : FnId) (k : Bool) (va : Nat)
    (b : Bytes) (io : HostIo) : KeepsCmd s (t.writeVa f k va b io).1 id c := by
  have g : ∀ (u : State) (d : BitVec 16), KeepsCmd s u id c → KeepsCmd s (u.graftIf f k d) id c := by
    intro u d h
    unfold State.graftIf
    split
    · exact h.raise _
    · exact h
  unfold State.writeVa
  dsimp only
  split
  · have h := h.writeSegs f (((t.fn f).segs va b.length).getD []) b
    generalize t.writeSegs f (((t.fn f).segs va b.length).getD []) b = w at h ⊢
    obtain ⟨u, n, x⟩ := w
    cases x with
    | none => exact h
    | some d => exact g _ _ h
  · rename_i j _
    have h := h.writeSegs f (((t.fn f).segs va b.length).getD []) (b.take j)
    generalize t.writeSegs f (((t.fn f).segs va b.length).getD []) (b.take j) = w at h ⊢
    obtain ⟨u, n, x⟩ := w
    cases x with
    | none => exact KeepsCmd.of h rfl rfl
    | some d => exact g _ _ h

/-- A command kept so far is completed. -/
theorem KeepsCmd.finish {s t : State} {id : Nat} {c : Cmd} (h : KeepsCmd s t id c) (l : c.live = true) (st d : BitVec 16) (r : BitVec 64) :
    ∃ st' d' r', (t.finish id st d r).cmd id = some { c with phase := .formed st' d' r' t.now } := by
  obtain ⟨n, h | ⟨x, h⟩⟩ := h
  · exact ⟨_, _, _, State.finish_cmd h l st d r⟩
  · refine ⟨stSafe, 0, x, ?_⟩
    rw [State.finish, State.setCmd_cmd _ _ _ _ (fun c => by split <;> rfl)]
    simp [h, Cmd.live, n]

/-- A row that answers with a record meets `Answers`. -/
theorem State.answers_of_exec {s : State} {row : Instr} {id : Nat} {o : Opcode} {c : Cmd} (b : s.Begins id o c) (va : Nat) (rec : Bytes) (io : HostIo) (r : BitVec 64)
    (e : exec row s = .next (s.answer c va rec io r)) : s.Answers row id c va rec io r := by
  obtain rfl := b.id_eq
  have keep := (show KeepsCmd s s c.id c from ⟨rfl, .inl b.cmd⟩).writeVa c.fn (c.cls == 2) va rec io
  refine ⟨_, e, ?_, fun calm u n w => ?_, fun calm u n d w => ?_⟩
  · unfold State.answer
    generalize s.writeVa c.fn (c.cls == 2) va rec io = w at keep ⊢
    obtain ⟨u, n, x⟩ := w
    cases x with
    | none => exact keep.finish (State.Begins.live b) _ _ _
    | some d => exact keep.finish (State.Begins.live b) _ _ _
  · obtain ⟨m, t, f⟩ := State.writeVa_frame s c.fn (c.cls == 2) va rec io calm
    simp only [State.answer, w] at f ⊢
    rcases f with f | ⟨f, _⟩
    · refine ⟨State.finish_completed_of_taken b.cmd (State.Begins.live b) ?_ _ _ _, rfl, rfl⟩
      rw [f]
    · simp at f
  · obtain ⟨m, t, f⟩ := State.writeVa_frame s c.fn (c.cls == 2) va rec io calm
    simp only [State.answer, w] at f ⊢
    rcases f with f | ⟨f, g⟩
    · exact fun _ => State.finish_completed_of_taken b.cmd (State.Begins.live b) (t := u) (by rw [f]) stIntegrity d 0
    · simp at f
      exact fun n4 => absurd f n4

/-- Lengths of the record pieces. -/
theorem leBytes_length : ∀ k v, (leBytes k v).length = k := by
    intro k; induction k with
    | zero => intro v; rfl
    | succ k ih => intro v; simp [leBytes, ih]

theorem leInt_length (k v) : (leInt k v).length = k := leBytes_length k _

theorem zeros_length : ∀ n, (zeros n).length = n := by simp [zeros]

/-- Entries of one length, one after another. -/
theorem flatMap_length {α} (l : List α) (g : α → Bytes) (k : Nat) (h : ∀ a, (g a).length = k) : (l.flatMap g).length = l.length * k := by
  induction l with
  | nil => simp
  | cons a r ih => simp [ih, h, Nat.add_mul]; omega

/-- Lengths of the records that the queries write. -/
theorem State.deviceRecord_length (s : State) : s.deviceRecord.length = 64 := by unfold State.deviceRecord; (try dsimp only); simp only [List.length_append, leBytes_length, zeros_length]

theorem State.functionRecord_length (s : State) (f) : (s.functionRecord f).length = 32 := by unfold State.functionRecord; (try dsimp only); simp only [List.length_append, leBytes_length, zeros_length]

theorem timeRecord_length (c) : (timeRecord c).length = 24 := by unfold timeRecord; simp only [List.length_append, leBytes_length, leInt_length, zeros_length]

theorem State.streamRecord_length (s : State) (x y) : (s.streamRecord x y).length = 80 := by unfold State.streamRecord; (try dsimp only); simp only [List.length_append, leBytes_length, zeros_length]

theorem State.clRecord_length (s : State) (p) : (s.clRecord p).length = 96 := by
  unfold State.clRecord; dsimp only
  have a := flatMap_length ((s.cl[p.val]).taps.toList) (leInt 1) 1 (fun _ => leInt_length _ _)
  simp only [List.length_append, leBytes_length, zeros_length, leInt_length, a, Vector.length_toList]

theorem State.ethRecord_length (s : State) (p) : (s.ethRecord p).length = 64 := by unfold State.ethRecord; (try dsimp only); simp only [List.length_append, leBytes_length, zeros_length]

theorem State.uartRecord_length (s : State) (p) : (s.uartRecord p).length = 48 := by unfold State.uartRecord; (try dsimp only); simp only [List.length_append, leBytes_length, zeros_length]

theorem State.driftRecord_length (s : State) (p) : (s.driftRecord p).length = 72 := by unfold State.driftRecord; (try dsimp only); simp only [List.length_append, leBytes_length, zeros_length]

theorem Rec.bytes_length (r : Rec) (b) : (r.bytes b).length = 16 := by unfold Rec.bytes; simp only [List.length_append, leBytes_length]

theorem State.engineEntry_length (s : State) (e) : (s.engineEntry e).length = 16 := by unfold State.engineEntry; (try dsimp only); simp only [List.length_append, leBytes_length, zeros_length]

theorem State.selftestRecord_length (s : State) : s.selftestRecord.length = 1056 := by
  unfold State.selftestRecord
  have := flatMap_length (List.finRange 64) s.engineEntry 16 (State.engineEntry_length s)
  simp only [List.length_append, leBytes_length, zeros_length, this, List.length_finRange]

theorem State.scionEntry_length (s : State) (e) : (s.scionEntry e).length = 16 := by unfold State.scionEntry; (try dsimp only); simp only [List.length_append, leBytes_length, leInt_length]

theorem State.thermalRecord_length (s : State) : s.thermalRecord.length = 256 := by
  unfold State.thermalRecord
  have a := flatMap_length (List.finRange 4) s.scionEntry 16 (State.scionEntry_length s)
  have b := flatMap_length (List.range 16) (fun i => leInt 2 (s.footprint.getD i 0)) 2 (fun _ => leInt_length _ _)
  have c := flatMap_length (List.range 64) (fun i => leInt 2 (s.dieReading (i / 16) (i % 16))) 2 (fun _ => leInt_length _ _)
  simp only [List.length_append, leBytes_length, zeros_length, a, b, c, List.length_finRange, List.length_range]

theorem LogRec.bytes_length (r : LogRec) : r.bytes.length = 32 := by
  unfold LogRec.bytes
  dsimp only
  have : r.body.bytes.length = 12 := by
    cases r.body <;> (unfold LogBody.bytes; simp only [List.length_append, leBytes_length, zeros_length])
  simp only [List.length_append, leBytes_length, this]

/-- What a signal, an event and an error leave of the functions' rings. -/
theorem State.signal_fns (s : State) (f : FnId) (v : Fin 32) (g : FnId) : ((s.signal f v).fn g).sqs = (s.fn g).sqs ∧ ((s.signal f v).fn g).cqs = (s.fn g).cqs ∧ ((s.signal f v).fn g).error = (s.fn g).error ∧ ((s.signal f v).fn g).errorRing = (s.fn g).errorRing := by
  unfold State.signal
  repeat' split
  · by_cases q : f.val = g.val <;> simp [State.fn, State.setFn, Vector.getElem_set, q]
  · exact ⟨rfl, rfl, rfl, rfl⟩
  · exact ⟨rfl, rfl, rfl, rfl⟩

theorem State.setEvent_fns (s : State) (f : FnId) (v) (g : FnId) : ((s.setEvent f v).fn g).sqs = (s.fn g).sqs ∧ ((s.setEvent f v).fn g).cqs = (s.fn g).cqs ∧ ((s.setEvent f v).fn g).error = (s.fn g).error ∧ ((s.setEvent f v).fn g).errorRing = (s.fn g).errorRing := by
  unfold State.setEvent
  dsimp only
  split
  · by_cases q : f.val = g.val <;> simp [State.fn, State.setFn, Vector.getElem_set, q]
  · obtain ⟨a, b, c, d⟩ := State.signal_fns (s.setFn f (fun x => { x with event := x.event ||| v })) f 0 g
    rw [a, b, c, d]
    by_cases q : f.val = g.val <;> simp [State.fn, State.setFn, Vector.getElem_set, q]

theorem State.setError_fns (s : State) (f : FnId) (v) (r) : ((s.setError f v r).fn f).sqs = (s.fn f).sqs ∧ ((s.setError f v r).fn f).cqs = (s.fn f).cqs ∧ ((s.setError f v r).fn f).error = (s.fn f).error ||| v ∧ ((s.setError f v r).fn f).errorRing = BitVec.ofNat 5 r := by
  unfold State.setError
  dsimp only
  split
  · obtain ⟨a, b, c, d⟩ := State.setEvent_fns (s.setFn f (fun x => { x with error := x.error ||| v, errorRing := BitVec.ofNat 5 r })) f evtError f
    rw [a, b, c, d]
    simp [State.fn, State.setFn]
  · simp [State.fn, State.setFn]

/-- Signalling a completion ring. -/
theorem State.signalCq_facts (s : State) (f : FnId) (n : RingId) :
    ((s.signalCq f n).cq f n) = { s.cq f n with unsignalled := 0 } ∧ (s.signalCq f n).fore = s.fore
    ∧ (∀ x ∈ s.sent, x ∈ (s.signalCq f n).sent) := by
  unfold State.signalCq
  dsimp only
  generalize (BitVec.toFin (s.cq f n).vector) = v
  obtain ⟨a, b, c, d⟩ := State.signal_fns (s.setCq f n (fun q => { q with unsignalled := 0 })) f v f
  refine ⟨?_, ?_, ?_⟩
  · simp only [State.cq, b]; simp [State.setCq]
  · obtain ⟨x, y, e⟩ := State.signal_frame (s.setCq f n (fun q => { q with unsignalled := 0 })) f v
    rw [e]; rfl
  · intro x hx
    unfold State.signal
    repeat' split
    · exact hx
    · exact List.mem_cons_of_mem _ hx
    · exact hx

/-- Moderating a completion ring's interrupt. -/
theorem State.moderate_facts (s : State) (f : FnId) (n : RingId) (b : Bool) :
    ((s.moderate f n b).cq f n).tail = (s.cq f n).tail ∧ ((s.moderate f n b).cq f n).phase = (s.cq f n).phase
    ∧ (s.moderate f n b).fore = s.fore ∧ (∀ x ∈ s.sent, x ∈ (s.moderate f n b).sent) := by
  unfold State.moderate
  dsimp only
  split
  · obtain ⟨a, b, c⟩ := State.signalCq_facts (s.setCq f n (fun q => { q with unsignalled := q.unsignalled + 1 })) f n
    rw [a]
    refine ⟨?_, ?_, b, c⟩ <;> simp [State.cq, State.setCq]
  · refine ⟨?_, ?_, rfl, fun x h => h⟩ <;> simp [State.cq, State.setCq]

/-- HELLO's end: the ring and the Foreman stay. -/
theorem State.helloDone_facts (s : State) (f : FnId) (st : BitVec 16) (r : BitVec 64) :
    ((s.helloDone f st r).fn f).cqs = (s.fn f).cqs ∧ (s.helloDone f st r).fore = s.fore ∧ (s.helloDone f st r).sent = s.sent
    ∧ (st = stOk → ((s.helloDone f st r).fn f).helloDone = true ∧ ((s.helloDone f st r).fn f).tally = (r.setWidth 16).toNat) := by
  unfold State.helloDone
  dsimp only
  split
  · split
    · refine ⟨by simp, rfl, rfl, fun h => ?_⟩
      subst h; simp [stOk, stSafe]
    · refine ⟨by simp [State.fn, State.setWdog, State.setFn], rfl, rfl, fun h => ?_⟩
      subst h; simp [stOk, stSafe, State.fn, State.setWdog, State.setFn]
  · exact ⟨rfl, rfl, rfl, fun h => absurd (Or.inl h) ‹_›⟩

/-- A held command is at work. -/
theorem State.hold_cmd {s : State} {id : Nat} {c : Cmd} (h : s.cmd id = some c) : (s.hold id).cmd id = some { c with phase := .running } := by
  unfold State.hold
  rw [State.setCmd_cmd s id id (fun c => { c with phase := .running }) (fun c => rfl)]
  simp [h]

/-! ## Rings and watchdog keys -/

/-- The ring that is taken from is enabled. -/
theorem State.nextFn_enabled (s : State) (p : HostPort) (f n) (h : s.nextFn p = some (f, n)) : (s.sq f n).enable = true := by
  unfold State.nextFn at h
  obtain ⟨g, hg, e⟩ := List.exists_of_findSome?_eq_some h
  split at e
  · rw [Option.map_eq_some_iff] at e
    obtain ⟨m, hm, e⟩ := e
    obtain ⟨rfl, rfl⟩ := Prod.mk.inj e
    unfold State.nextRing at hm
    have := List.find?_some hm
    simp only [State.ringMayTake, Bool.and_eq_true] at this
    exact this.1.1.1.1.1.1
  · cases e

theorem State.nextTake_enabled (s : State) (f n) (h : s.nextTake = some (f, n)) : (s.sq f n).enable = true := by
  unfold State.nextTake at h
  split at h
  · rename_i x e
    exact State.nextFn_enabled s _ f n (h ▸ e)
  · exact State.nextFn_enabled s _ f n h

/-- The turn passes to the other port. -/
theorem State.advanceTurn_facts (s : State) (f : FnId) (n : RingId) : (s.advanceTurn f n).fore = { s.fore with portTurn := otherPort (portOf f) } ∧ (s.advanceTurn f n).clk = s.clk
        ∧ (s.advanceTurn f n).sq f n = s.sq f n ∧ (s.advanceTurn f n).sent = s.sent ∧ ((s.advanceTurn f n).fn f).error = (s.fn f).error := by
  refine ⟨?_, ?_, ?_, ?_, ?_⟩ <;> simp [State.advanceTurn, State.sq, State.fn, State.setFore]

theorem mem_map_of (l : List Cmd) (id : Nat) (P : Cmd → Prop) (c : Cmd) (g : Cmd → Cmd) (m : c ∈ l) (k : P (g c)) : ∃ d ∈ l.map g, P d :=
  ⟨g c, List.mem_map_of_mem m, k⟩

/-- A command enters the taken commands. -/
theorem State.admitCmd_facts (u : State) (f : FnId) (n : RingId) (d : Bytes) (c : Cmd) (hc : c.desc = d ∧ c.id = u.fore.nextCmd ∧ c.fn = f ∧ c.sq = n) :
    let u2 := u.setSq f n SubRing.advance
    let t := u2.admitCmd c
    t.fore.nextCmd = u.fore.nextCmd + 1 ∧ (t.sq f n).head = (u.sq f n).advance.head ∧ t.fore.portTurn = u.fore.portTurn
      ∧ ∃ c' ∈ t.fore.taken, c'.id = u.fore.nextCmd ∧ c'.fn = f ∧ c'.sq = n ∧ c'.desc = d ∧ c'.block = c.block ∧ (c'.phase = c.phase ∨ c'.phase = .begun) := by
  dsimp only
  have sq : ((u.setSq f n SubRing.advance).sq f n).head = (u.sq f n).advance.head := by
    simp [State.sq, State.setSq]
  have sq' : ((((u.setSq f n SubRing.advance).setClk Clocks.endSlew).sq f n).head = (u.sq f n).advance.head) := sq
  unfold State.admitCmd
  dsimp only
  generalize (c.op == some .kvClose && _) = nm
  have main : ∀ v : State, v.fore = u.fore → (v.sq f n).head = (u.sq f n).advance.head →
      let w := v.addCmd { c with naming := nm }
      let t := if (w.blockers { c with naming := nm }).isEmpty then w.setCmd c.id (fun c => { c with phase := .begun }) else w
      t.fore.nextCmd = u.fore.nextCmd + 1 ∧ (t.sq f n).head = (u.sq f n).advance.head ∧ t.fore.portTurn = u.fore.portTurn
      ∧ ∃ c' ∈ t.fore.taken, c'.id = u.fore.nextCmd ∧ c'.fn = f ∧ c'.sq = n ∧ c'.desc = d ∧ c'.block = c.block ∧ (c'.phase = c.phase ∨ c'.phase = .begun) := by
    intro v hv hs
    dsimp only
    split
    · refine ⟨by simp [State.setCmd, State.addCmd, State.setFore, hv], hs, by simp [State.setCmd, State.addCmd, State.setFore, hv],
        mem_map_of _ c.id _ { c with naming := nm } _ (by simp [State.addCmd, State.setFore]) ?_⟩
      simp [hc]
    · exact ⟨by simp [State.addCmd, State.setFore, hv], hs, by simp [State.addCmd, State.setFore, hv], { c with naming := nm },
        by simp [State.addCmd, State.setFore], hc.2.1, hc.2.2.1, hc.2.2.2, hc.1, rfl, .inl rfl⟩
  split
  · exact main _ rfl sq'
  · exact main _ rfl sq

/-- A service on its way to the lamp die. -/
theorem State.sendService_facts (s : State) (w : WdogId) (x : Service) (p : HostPort) : (s.sendService w x).port p = s.port p
    ∧ (s.lamp.seamLost = false → (s.sendService w x).lamp = { s.lamp with toLamp := s.lamp.toLamp ++ [.service w x] })
    ∧ (s.lamp.seamLost = true → s.sendService w x = s) := by
  refine ⟨?_, fun l => ?_, fun l => ?_⟩
  · unfold State.sendService State.toLampDie; split
    · rfl
    · cases p <;> rfl
  · simp [State.sendService, State.toLampDie, l, State.setLamp]
  · simp [State.sendService, State.toLampDie, l]

/-- Arming a port's service sequence. -/
theorem State.arm_facts (s : State) (p : HostPort) (b : Bool) : ((s.arm p b).port p).keyArmed = b ∧ (s.arm p b).wdog = s.wdog ∧ (s.arm p b).lamp = s.lamp := by
  refine ⟨by simp [State.arm], ?_, ?_⟩ <;> cases p <;> rfl

/-! ## Memory -/

/-- Allocation touches the frames of a port alone. -/
theorem State.alloc_frame (s t : State) (f : FnId) (a b c : Nat) (h : s.alloc f a b c = some t) :
    t.fore = s.fore ∧ t.fns = s.fns ∧ t.mem = s.mem := by
  unfold State.alloc at h
  split at h
  · cases h
  · cases h; simp

theorem State.allocMapping_frame (s t : State) (f : FnId) (m : Mapping) (h : s.allocMapping f m = some t) :
    t.fore = s.fore ∧ t.fns = s.fns ∧ t.mem = s.mem := by
  unfold State.allocMapping at h
  split at h
  · cases h
  · rename_i u e
    obtain ⟨a1, a2, a3⟩ := State.alloc_frame _ _ _ _ _ _ e
    obtain ⟨b1, b2, b3⟩ := State.alloc_frame _ _ _ _ _ _ (Option.filter_eq_some_iff.1 h).1
    exact ⟨b1.trans a1, b2.trans a2, b3.trans a3⟩

/-- Dropping a list of mappings. -/
theorem State.dropMappings_facts (f : FnId) (ms : List Mapping) (s : State) (w : s.mem.wf = true) :
    (ms.foldl (fun s m => s.dropMapping f m) s).fore = s.fore
    ∧ (∀ m, m ∈ ((ms.foldl (fun s m => s.dropMapping f m) s).fn f).maps ↔ m ∈ (s.fn f).maps ∧ m ∉ ms)
    ∧ (∀ g, g ≠ f → (ms.foldl (fun s m => s.dropMapping f m) s).fn g = s.fn g)
    ∧ (ms.foldl (fun s m => s.dropMapping f m) s).mem.wf = true
    ∧ (∀ a, (ms.foldl (fun s m => s.dropMapping f m) s).mem.byte a =
        if ∃ m ∈ ms, m.host = false ∧ memKey f m.va ≤ a ∧ a < memKey f m.va + m.size then 0 else s.mem.byte a) := by
  induction ms generalizing s with
  | nil => exact ⟨rfl, fun m => by simp, fun _ _ => rfl, w, fun a => by simp⟩
  | cons m r ih =>
    have d1 : (s.dropMapping f m).fore = s.fore := by
      unfold State.dropMapping State.release; dsimp only; split <;> simp
    have d2 : (s.dropMapping f m).fns = (s.setFn f (fun x => { x with maps := x.maps.filter (fun y => y != m) })).fns := by
      unfold State.dropMapping State.release; dsimp only; split <;> simp [State.setFn]
    have d3 : (s.dropMapping f m).mem = if m.host then s.mem else s.mem.zero (memKey f m.va) m.size := by
      unfold State.dropMapping State.release; dsimp only; split <;> simp_all
    have d4 : (s.dropMapping f m).mem.wf = true := by
      rw [d3]; split
      · exact w
      · exact Memory.zero_wf _ _ _ w
    obtain ⟨i1, i2, i3, i4, i5⟩ := ih (s.dropMapping f m) d4
    rw [List.foldl_cons]
    refine ⟨i1.trans d1, fun x => ?_, fun g hg => ?_, i4, fun a => ?_⟩
    · rw [i2]
      have : ((s.dropMapping f m).fn f).maps = (s.fn f).maps.filter (fun y => y != m) := by
        simp only [State.fn, d2]; simp
      rw [this]; simp; tauto
    · rw [i3 g hg]
      simp only [State.fn, d2]
      exact State.setFn_other _ _ _ _ (fun e => hg e.symm)
    · rw [i5, d3]
      by_cases q : ∃ x ∈ r, x.host = false ∧ memKey f x.va ≤ a ∧ a < memKey f x.va + x.size
      · rw [if_pos q, if_pos]; obtain ⟨x, h1, h2⟩ := q; exact ⟨x, List.mem_cons_of_mem _ h1, h2⟩
      · rw [if_neg q]
        cases hh : m.host
        · simp only [Bool.false_eq_true, if_false]
          rw [Memory.zero_byte _ _ _ _ w]
          by_cases q2 : memKey f m.va ≤ a ∧ a < memKey f m.va + m.size
          · rw [if_pos q2, if_pos ⟨m, List.mem_cons_self, hh, q2⟩]
          · rw [if_neg q2, if_neg]
            rintro ⟨x, h1, h2⟩
            rcases List.mem_cons.1 h1 with e | e
            · subst e; exact q2 h2.2
            · exact q ⟨x, e, h2⟩
        · simp only [if_true]
          rw [if_neg]
          rintro ⟨x, h1, h2⟩
          rcases List.mem_cons.1 h1 with e | e
          · subst e; rw [hh] at h2; simp at h2
          · exact q ⟨x, e, h2⟩

/-- Writes leave the Foreman. -/
theorem State.writeSegs_fore (s u : State) (f) (r : List Seg) (b : Bytes) (k : Nat) (e) (h : s.writeSegs f r b = (u, k, e))
    (c : s.mem.upsets = []) : u.fore = s.fore := by
  obtain ⟨m, t, q⟩ := State.writeSegs_frame s f r b c
  rw [h] at q; dsimp only at q; rw [q]

theorem State.release_frame (s : State) (f : FnId) (u : Nat) : (s.release f u).fns = s.fns ∧ (s.release f u).fore = s.fore := by
  unfold State.release
  constructor <;> (cases portOf f <;> rfl)

theorem State.fn_setFn_self (s : State) (f : FnId) (g : Fn → Fn) : (s.setFn f g).fn f = g (s.fn f) := by simp [State.fn, State.setFn]

/-! ## The lamp die -/

/-- An FLR of a PF takes the port's functions with it. -/
theorem State.flr_resetting (s : State) (f i : FnId) (h : portOf i = portOf f) (k : isVf f = false) : ((s.flr f).fn i).resetting = true := by
  obtain ⟨t, e, _, g⟩ := State.flr_pf s f k
  rw [e]
  have := (g i h).1
  cases q : portOf f <;> simpa [State.setPort, State.fn, q] using this

/-- Entering the lamp die's safe state. -/
theorem State.lampSafe_safe (s : State) (k : Nat) : (s.lampSafe k).lamp.safe = true := by
  cases h : s.lamp.safe
  · obtain ⟨c, n, e⟩ := State.lampSafe_frame s k h
    rw [e]
  · simp [State.lampSafe, h]

theorem State.lampSafe_low (s : State) (k : Nat) (h : s.lamp.safe = false) : (s.lampSafe k).lampDrivesLow = true := by
  obtain ⟨c, n, e⟩ := State.lampSafe_frame s k h
  rw [e]

theorem State.lampSafe_side (s : State) (k : Nat) (d : Side) : ((s.lampSafe k).lamp.side d) = s.lamp.side d := by
  cases h : s.lamp.safe
  · obtain ⟨c, n, e⟩ := State.lampSafe_frame s k h
    rw [e]; cases d <;> rfl
  · simp [State.lampSafe, h]

/-- Entering the rootstock's safe state. -/
theorem State.rootSafe_safe (s : State) (k b : Nat) : (s.rootSafe k b).safe = true := by
  cases h : s.safe
  · obtain ⟨en, me, d, f, n, used, e⟩ := State.rootSafe_frame s k b h
    rw [e]
  · simp [State.rootSafe, h]

theorem State.rootSafe_low (s : State) (k b : Nat) (h : s.safe = false) : (s.rootSafe k b).rootDrivesLow = true := by
  obtain ⟨en, me, d, f, n, used, e⟩ := State.rootSafe_frame s k b h
  rw [e]

/-- The lamp die loses the seam. -/
theorem State.lampLosesSeam_facts (s : State) (h : s.lamp.lampSide.lost = false) :
    (s.lampLosesSeam).lamp.lampSide.lost = true ∧ (s.lampLosesSeam).lamp.safe = true := by
  unfold State.lampLosesSeam
  rw [if_neg (by simp [h])]
  simp only [State.raiseWide, State.raise, show lampSource 0x504 = true from by decide, if_true]
  unfold State.raiseLamp
  simp only [Option.getD, show baseTier 0x504 .lampSeamLost = 3 from by decide, if_true]
  refine ⟨?_, State.lampSafe_safe _ _⟩
  have : ∀ t : State, t.lamp.lampSide.lost = true → (t.lampSafe (Ev.code .lampSeamLost)).lamp.lampSide.lost = true :=
    fun t q => by have := State.lampSafe_side t (Ev.code .lampSeamLost) .lamp; simp only [Lamp.side] at this; rw [this]; exact q
  apply this
  split <;> rfl

theorem State.lampSafe_config (s : State) (k : Nat) : (s.lampSafe k).lamp.configOk = s.lamp.configOk := by
  cases h : s.lamp.safe
  · obtain ⟨c, n, e⟩ := State.lampSafe_frame s k h
    rw [e]
  · simp [State.lampSafe, h]

/-- A silenced controller starts nothing. -/
theorem State.kick_silenced (s : State) (b : BusId) (h : (s.can[b.val]).silenced = true) : s.kick b = s := by
  unfold State.kick; simp [h]

theorem State.lampSafe_silenced (s : State) (k : Nat) (h : ∀ b : BusId, (s.can[b.val]).silenced = true) (p : ∀ b : BusId, (s.can[b.val]).safePending = false) (b : BusId) :
    (((s.lampSafe k).can)[b.val]).silenced = true ∧ (((s.lampSafe k).can)[b.val]).safePending = false := by
  unfold State.lampSafe
  split
  · exact ⟨h b, p b⟩
  · dsimp only
    rw [State.kick_silenced _ 0, State.kick_silenced _ 1]
    · simp [CanBus.enterSafe, h b]
    · have := h 1; simpa [CanBus.enterSafe] using this
    · have := h 0; simpa [CanBus.enterSafe] using this

/-- What an event of a lamp source touches. -/
theorem State.raise_lamp_frame (s : State) (r : Raise) (h : lampSource r.source = true) :
    ∃ l c n d, s.raise r = { s with lamp := l, can := c, sent := n, lampDrivesLow := d } ∧ l.noscTripped = s.lamp.noscTripped := by
  simp only [State.raise, h, if_true]
  unfold State.raiseLamp
  have k : ∀ u : State, (∃ l, u = { s with lamp := l } ∧ l.noscTripped = s.lamp.noscTripped) → ∃ l c n d, (if r.tier.getD (baseTier r.source r.event) = 3 then u.lampSafe (Ev.code r.event) else u) = { s with lamp := l, can := c, sent := n, lampDrivesLow := d } ∧ l.noscTripped = s.lamp.noscTripped := by
    rintro u ⟨l, rfl, q⟩
    split
    · cases hs : l.safe
      · obtain ⟨c, n, e⟩ := State.lampSafe_frame { s with lamp := l } (Ev.code r.event) hs
        rw [e]; exact ⟨_, _, _, _, rfl, q⟩
      · exact ⟨l, s.can, s.sent, s.lampDrivesLow, by simp [State.lampSafe, hs], q⟩
    · exact ⟨_, _, _, _, rfl, q⟩
  apply k
  split
  · exact ⟨_, rfl, rfl⟩
  · exact ⟨_, rfl, rfl⟩

theorem State.lampSafe_wdog (s : State) (k : Nat) : (s.lampSafe k).wdog = s.wdog := by
  cases h : s.lamp.safe
  · obtain ⟨c, n, e⟩ := State.lampSafe_frame s k h
    rw [e]
  · simp [State.lampSafe, h]

theorem State.lampSafe_resetDue (s : State) (k : Nat) : (s.lampSafe k).lamp.resetDue = s.lamp.resetDue := by
  cases h : s.lamp.safe
  · obtain ⟨c, n, e⟩ := State.lampSafe_frame s k h
    rw [e]
  · simp [State.lampSafe, h]

theorem State.raise_wdog (s : State) (r : Raise) (h : lampSource r.source = true) : (s.raise r).wdog = s.wdog := by
  obtain ⟨l, c, n, d, e, _⟩ := State.raise_lamp_frame s r h
  rw [e]

theorem State.setEvent_wdog (s : State) (f : FnId) (v : BitVec 7) : (s.setEvent f v).wdog = s.wdog := by
  obtain ⟨a, b, e⟩ := State.setEvent_frame s f v
  rw [e]

/-- The watchdogs' sources lie on the lamp die. -/
theorem wdogSource_lamp (w : WdogId) : lampSource (wdogSource w) = true := (by decide : ∀ w : WdogId, lampSource (wdogSource w) = true) w

/-- A watchdog's first failure. -/
theorem State.wdogWarns_wdog (s : State) (w : WdogId) : (s.wdogWarns w).wdog = (s.setWdog w (fun x => { x with state := .warned, lastTick := 0, failures := satAdd 16 x.failures 1 })).wdog := by
  unfold State.wdogWarns
  dsimp only
  generalize hu : (if s.entersNight = true then s.wakeLater (.watchdog w) else s) = u
  have e : u.wdog = s.wdog := by subst hu; split <;> rfl
  have q : ∀ g, (u.setWdog w g).wdog = (s.setWdog w g).wdog := fun g => by simp only [State.setWdog, e]
  split
  · exact (State.raise_wdog _ { source := wdogSource w, event := _ } (wdogSource_lamp w)).trans (q _)
  · rw [State.setEvent_wdog, State.raise_wdog _ _ (wdogSource_lamp w), q]

/-- The lamp watchdog's final failure. -/
theorem State.wdogFails_lamp (s : State) (w : WdogId) (h : w.val = 0) : (s.wdogFails w).wdog = (s.setWdog w (fun x => { x with lastTick := 0, failures := satAdd 16 x.failures 1 })).wdog
    ∧ (s.wdogFails w).lamp.resetDue = true ∧ (s.wdogFails w).lamp.safe = true := by
  unfold State.wdogFails
  rw [if_pos h]
  exact ⟨State.lampSafe_wdog _ _, State.lampSafe_resetDue _ _, lampSafe_safe _ _⟩

/-- A host watchdog's final failure. -/
theorem State.wdogFails_host (s : State) (w : WdogId) (h : w.val ≠ 0) : (s.wdogFails w).wdog = (s.setWdog w (fun x => { x with state := .waiting, lastTick := 0, failures := satAdd 16 x.failures 1 })).wdog
    ∧ (s.lamp.seamLost = false → .channelReset (wdogPort w) ∈ (s.wdogFails w).lamp.toRoot) := by
  unfold State.wdogFails
  rw [if_neg h]
  have fr : ∀ (u : State) (e : Ev), u.lamp.seamLost = s.lamp.seamLost → (u.raiseWide (wdogSource w) e).lamp.seamLost = s.lamp.seamLost := by
    intro u e q
    unfold State.raiseWide State.raise
    rw [if_pos (wdogSource_lamp w)]
    unfold State.raiseLamp
    have : ∀ (v : State) (k : Nat), (v.lampSafe k).lamp.seamLost = v.lamp.seamLost := by
      intro v k
      cases h : v.lamp.safe
      · obtain ⟨c, n, e⟩ := State.lampSafe_frame v k h
        rw [e]; rfl
      · simp [State.lampSafe, h]
    dsimp only
    repeat' split
    all_goals (try rw [this]); exact q
  constructor
  · dsimp only
    split
    · rw [apply_ite State.wdog]
      have : ∀ (u : State) g, (u.setLamp g).wdog = u.wdog := fun _ _ => rfl
      rw [this, ite_self]
      exact State.raise_wdog _ { source := wdogSource w, event := _ } (wdogSource_lamp w)
    · rw [apply_ite State.wdog]
      have : ∀ (u : State) g, (u.setLamp g).wdog = u.wdog := fun _ _ => rfl
      rw [this, ite_self]
      exact State.raise_wdog _ { source := wdogSource w, event := _ } (wdogSource_lamp w)
  · intro q
    dsimp only
    rw [if_neg]
    · simp [State.setLamp]
    · rw [fr (s.setWdog w _) _ rfl, q]; simp

/-- A watchdog's failure, by its state. -/
theorem State.wdogFailure_facts (s : State) (w : WdogId) : 
    (∀ v : WdogId, v ≠ w → (s.wdogFailure w).wdog[v.val] = s.wdog[v.val])
    ∧ ((s.wdogFailure w).wdog[w.val]).failures = min ((s.wdog[w.val]).failures + 1) 65535
    ∧ ((s.wdogFailure w).wdog[w.val]).early = (s.wdog[w.val]).early
    ∧ ((s.wdog[w.val]).state = .running → ((s.wdogFailure w).wdog[w.val]).state = .warned)
      ∧ ((s.wdog[w.val]).state = .warned → w.val = 0 → (s.wdogFailure w).lamp.resetDue = true ∧ (s.wdogFailure w).lamp.safe = true)
      ∧ ((s.wdog[w.val]).state = .warned → w.val ≠ 0 → ((s.wdogFailure w).wdog[w.val]).state = .waiting
          ∧ (s.lamp.seamLost = false → .channelReset (wdogPort w) ∈ (s.wdogFailure w).lamp.toRoot)) := by
  unfold State.wdogFailure
  dsimp only
  generalize hu : (if s.power.state = .doze then ({ s with power := { s.power with state := .run, dozeDue := false, eclkStopped := false } } : State) else s) = u
  have e1 : u.wdog = s.wdog := by subst hu; split <;> rfl
  have e2 : u.lamp = s.lamp := by subst hu; split <;> rfl
  rw [← e1, ← e2]
  have ne : ∀ v : WdogId, v ≠ w → w.val ≠ v.val := fun v h q => h (Fin.ext q.symm)
  by_cases h : (u.wdog[w.val]).state = .warned
  · rw [if_pos h]
    by_cases z : w.val = 0
    · obtain ⟨a, b, c⟩ := State.wdogFails_lamp u w z
      rw [a]
      refine ⟨fun v hv => ?_, ?_, ?_, ?_, fun _ _ => ⟨b, c⟩, fun _ q => absurd z q⟩
      · simp [State.setWdog, Vector.getElem_set, ne v hv]
      · simp [State.setWdog, satAdd]
      · simp [State.setWdog]
      · intro q; rw [q] at h; cases h
    · obtain ⟨a, b⟩ := State.wdogFails_host u w z
      rw [a]
      refine ⟨fun v hv => ?_, ?_, ?_, ?_, fun _ q => absurd q z, fun _ _ => ⟨?_, b⟩⟩
      · simp [State.setWdog, Vector.getElem_set, ne v hv]
      · simp [State.setWdog, satAdd]
      · simp [State.setWdog]
      · intro q; rw [q] at h; cases h
      · simp [State.setWdog]
  · rw [if_neg h, State.wdogWarns_wdog]
    refine ⟨fun v hv => ?_, ?_, ?_, ?_, fun q => absurd q h, fun q => absurd q h⟩
    · simp [State.setWdog, Vector.getElem_set, ne v hv]
    · simp [State.setWdog, satAdd]
    · simp [State.setWdog]
    · simp [State.setWdog]

/-! ## The CAN controllers -/

/-- Frames withdrawn from a queue. -/
theorem State.withdrawFrames_can (s : State) (b : BusId) (p st d) : (s.withdrawFrames b p st d).can = (s.setCan b (fun x => { x with queue := x.queue.filter (fun y => !p y) })).can := by
  unfold State.withdrawFrames
  dsimp only
  generalize s.setCan b _ = u
  generalize List.filter _ _ = l
  induction l generalizing u with
  | nil => rfl
  | cons x r ih => rw [List.foldl_cons, ih]; rfl

/-- A controller looks for what to send: its wire and its queue alone change. -/
theorem State.kick_can (s : State) (b o : BusId) : ∃ w q, ((s.kick b).can[o.val]) = { s.can[o.val] with wire := w, queue := q } := by
  have g : ∀ (f : CanBus → CanBus) (x : Sent), (∀ y, ∃ w q, f y = { y with wire := w, queue := q }) → ∃ w q, (((s.setCan b f).send x).can[o.val]) = { s.can[o.val] with wire := w, queue := q } := by
    intro f x hf
    by_cases h : b = o
    · subst h
      obtain ⟨w, q, e⟩ := hf s.can[b.val]
      exact ⟨w, q, by simp [State.send, State.setCan, e]⟩
    · have : b.val ≠ o.val := fun q => h (Fin.ext q)
      exact ⟨s.can[o.val].wire, s.can[o.val].queue, by simp [State.send, State.setCan, Vector.getElem_set, this]⟩
  unfold State.kick
  dsimp only
  repeat' split
  · exact g _ _ (fun y => ⟨_, _, rfl⟩)
  · exact ⟨_, _, rfl⟩
  · exact g _ _ (fun y => ⟨_, _, rfl⟩)
  · exact ⟨_, _, rfl⟩

theorem State.kick_cmd {s : State} {id : Nat} (b : BusId) : (s.kick b).cmd id = s.cmd id := by
  obtain ⟨a, c, e⟩ := State.kick_frame s b
  rw [e]; rfl

theorem canSource_root (b : BusId) : lampSource (0x670 + b.val) = false := (by decide : ∀ b : BusId, lampSource (0x670 + b.val) = false) b

/-- Error-passive, by the counters. -/
theorem State.canPassive_can (s : State) (b : BusId) : ∃ p, ((s.canPassive b).can[b.val]) = { s.can[b.val] with passive := p } := by
  unfold State.canPassive
  dsimp only
  split
  · unfold State.raiseWide
    have e := (State.raise_root (s.setCan b (fun x => { x with passive := true })) { source := 0x670 + b.val, event := .canErrorPassive } (canSource_root b)).1
    exact ⟨true, by simp only [e]; simp [State.setCan]⟩
  · split
    · exact ⟨false, by simp [State.setCan]⟩
    · exact ⟨_, rfl⟩

theorem State.canPassive_cmd {s : State} {id : Nat} {c : Cmd} (b : BusId) (h : s.cmd id = some c) (l : c.live = false) : (s.canPassive b).cmd id = some c := by
  unfold State.canPassive
  dsimp only
  split
  · rcases (State.raise_raised (s.setCan b (fun x => { x with passive := true })) { source := 0x670 + b.val, event := .canErrorPassive }).cmd id c h with k | ⟨k, _⟩
    · exact k
    · rw [l] at k; cases k
  · split <;> exact h

theorem Lamp.safe_of_eq {l m : Lamp} (h : { l with toLamp := [] } = { m with toLamp := [] }) : l.safe = m.safe := by
  have := congrArg Lamp.safe h; exact this

theorem State.canPassive_safe (s : State) (b : BusId) : (s.canPassive b).lamp.safe = s.lamp.safe := by
  unfold State.canPassive
  dsimp only
  split
  · unfold State.raiseWide
    exact (Lamp.safe_of_eq (State.raise_root (s.setCan b (fun x => { x with passive := true })) { source := 0x670 + b.val, event := .canErrorPassive } (canSource_root b)).2.2)
  · split <;> rfl

/-- Bus-off, by TEC. -/
theorem State.canBusOff_can (s : State) (b : BusId) : ∃ q, ((s.canBusOff b).can[b.val]) = 
    if 255 < (s.can[b.val]).tec ∧ (s.can[b.val]).busOff = false then { s.can[b.val] with busOff := true, recovering := (s.can[b.val]).cfg.autoRecover || s.lamp.safe, queue := q } else s.can[b.val] := by
  unfold State.canBusOff
  dsimp only
  split
  · have e := (State.raise_root (s.setCan b (fun x => { x with busOff := true, recovering := x.cfg.autoRecover || s.lamp.safe })) { source := 0x670 + b.val, event := .canBusOff } (canSource_root b)).1
    split
    · unfold State.raiseWide
      exact ⟨s.can[b.val].queue, by simp only [e]; simp [State.setCan]⟩
    · have e2 := State.withdrawFrames_can ((s.setCan b (fun x => { x with busOff := true, recovering := x.cfg.autoRecover || s.lamp.safe })).raiseWide (0x670 + b.val) .canBusOff) b (fun _ => true) stBusy 8
      refine ⟨[], ?_⟩
      simp only [e2]
      have e3 : ∀ u : State, u.can = (s.setCan b (fun x => { x with busOff := true, recovering := x.cfg.autoRecover || s.lamp.safe })).can →
          ((u.setCan b (fun x => { x with queue := x.queue.filter (fun _ => !true) })).can[b.val]) = { s.can[b.val] with busOff := true, recovering := (s.can[b.val]).cfg.autoRecover || s.lamp.safe, queue := [] } := by
        intro u hu
        simp only [State.setCan] at hu ⊢
        simp [hu]
      exact e3 _ e
  · exact ⟨[], rfl⟩

/-! ## Faults -/

/-- A cleared condition may rise again. -/
theorem State.clearLive_isEdge (s : State) (src : Nat) (e : Ev) (a : (src, e) ∉ s.fcu.holdoff) (b : (src, e) ∉ s.fcu.holds) : (s.clearLive src e).fcu.isEdge src e = true := by
  simp [State.clearLive, Fcu.isEdge, a, b]

theorem baseTier_reactionExpired (src : Nat) : baseTier src .reactionExpired = 3 := rfl

/-- A Fatal event that no threshold judges. -/
theorem Fcu.capture_fatal (c : Fcu) (r : Raise) (t us safe) (h : promotion r.event = none) (k : r.tier.getD (baseTier r.source r.event) = 3) : (c.capture r t us safe).2.tier = 3 ∧ (c.capture r t us safe).1.timers = c.timers := by
  simp only [Fcu.capture, Fcu.judge, Fcu.threshold, h, k]
  simp

/-- A Fatal event of a lamp source. -/
theorem State.raise_lamp_fatal (s : State) (r : Raise) (h : lampSource r.source = true) (k : r.tier.getD (baseTier r.source r.event) = 3) :
    (s.raise r).lamp.safe = true ∧ (s.lamp.safe = false → (s.raise r).lampDrivesLow = true) ∧ (s.raise r).lamp.halted = s.lamp.halted
     ∧ (s.lamp.seamLost = false → .record r.source r.event r.owner s.now r.injected r.stays ∈ (s.raise r).lamp.toRoot) := by
  have g : ∀ (u : State) (k : Nat), (u.lampSafe k).lamp.safe = true ∧ (u.lamp.safe = false → (u.lampSafe k).lampDrivesLow = true) ∧ (u.lampSafe k).lamp.halted = u.lamp.halted
      ∧ ∀ m ∈ u.lamp.toRoot, m ∈ (u.lampSafe k).lamp.toRoot := by
    intro u k
    cases hs : u.lamp.safe
    · obtain ⟨c, n, e⟩ := State.lampSafe_frame u k hs
      rw [e]; exact ⟨rfl, fun _ => rfl, rfl, fun m h => List.mem_append_left _ h⟩
    · simp [State.lampSafe, hs]
  unfold State.raise
  rw [if_pos h]
  unfold State.raiseLamp
  simp only [k, if_true]
  split
  · obtain ⟨a, b, c, d⟩ := g s (Ev.code r.event)
    exact ⟨a, b, c, fun q => absurd q (by simp [*])⟩
  · obtain ⟨a, b, c, d⟩ := g (s.setLamp (fun l => { l with toRoot := l.toRoot ++ [.record r.source r.event r.owner s.now r.injected r.stays] })) (Ev.code r.event)
    exact ⟨a, b, c, fun q => d _ (by simp [State.setLamp])⟩

/-- A Fatal event of the rootstock. -/
theorem State.raiseWide_fatal (s : State) (src : Nat) (e : Ev) (run : s.rootRuns = true) (ls : lampSource src = false) (ed : s.fcu.isEdge src e = true) (h : promotion e = none) (k : baseTier src e = 3) :
    (s.raiseWide src e).safe = true := by
  unfold State.raiseWide State.raise
  rw [if_neg (by simp [ls])]
  have S := State.raiseFcu_spec s { source := src, event := e } run ed
  exact S.2.1 (Fcu.capture_fatal s.fcu { source := src, event := e } _ _ _ h k).1

/-- The halted pairs stay. -/
theorem State.rootSafe_halted (s : State) (c b) : (s.rootSafe c b).fore.f0Halted = s.fore.f0Halted ∧ (s.rootSafe c b).fore.f1Halted = s.fore.f1Halted := by
  cases k : s.safe
  · obtain ⟨a1, a2, a3, a4, a5, used, q⟩ := State.rootSafe_frame s c b k
    rw [q]; exact ⟨rfl, rfl⟩
  · simp [State.rootSafe, k]

theorem State.raiseFcu_halted (s : State) (r : Raise) : (s.raiseFcu r).fore.f0Halted = s.fore.f0Halted ∧ (s.raiseFcu r).fore.f1Halted = s.fore.f1Halted := by
  unfold State.raiseFcu
  split
  · dsimp only
    have g : ∀ (u : State) rc, u.fore = s.fore → (if rc.tier = 3 then (u.distribute rc).rootSafe (Ev.code r.event) (bootCauseOf r.source r.event) else u.distribute rc).fore.f0Halted = s.fore.f0Halted ∧ (if rc.tier = 3 then (u.distribute rc).rootSafe (Ev.code r.event) (bootCauseOf r.source r.event) else u.distribute rc).fore.f1Halted = s.fore.f1Halted := by
      intro u rc h
      obtain ⟨a, b, e⟩ := State.distribute_frame u rc
      split
      · rw [(State.rootSafe_halted _ _ _).1, (State.rootSafe_halted _ _ _).2, e, ← h]; exact ⟨rfl, rfl⟩
      · rw [e, ← h]; exact ⟨rfl, rfl⟩
    apply g
    split <;> rfl
  · exact ⟨rfl, rfl⟩

/-- An acknowledged record is latched in no view. -/
theorem State.unlatch_view (s : State) (q : BitVec 21) (ep) (f : FnId) : ∀ x ∈ ((s.unlatch q ep).fn f).view, x.seq = q → x.latched = false := by
  intro x hx e
  simp only [State.unlatch, State.fn, Vector.getElem_map, List.mem_map] at hx
  obtain ⟨y, _, rfl⟩ := hx
  unfold Rec.unlatch at e ⊢
  split
  · rfl
  · rename_i h
    rw [if_neg h] at e
    exact absurd (.inl e) h

/-- An edge takes one number, no edge changes nothing. -/
theorem State.raise_nextSeq (s : State) (r : Raise) (run : s.rootRuns = true) (ls : lampSource r.source = false) :
    ((s.fcu.isEdge r.source r.event = true → (s.raise r).fcu.nextSeq = s.fcu.nextSeq + 1)
      ∧ (s.fcu.isEdge r.source r.event = false → s.raise r = s)) := by
  unfold State.raise
  rw [if_neg (by simp [ls])]
  constructor
  · intro e
    obtain ⟨_, _, h, _⟩ := State.raiseFcu_spec s r run e
    rw [h]
    simp only [Fcu.capture]
    repeat' split
    all_goals rfl
  · intro e
    unfold State.raiseFcu
    simp [e]

theorem State.raise_injectFailed (s : State) (r : Raise) : (s.raise r).boot.injectFailed = s.boot.injectFailed ∧ (s.raise r).boot.injected = s.boot.injected := by
  unfold State.raise
  split
  · unfold State.raiseLamp
    have g : ∀ (u : State) (k : Nat), u.boot = s.boot → (u.lampSafe k).boot = s.boot := by
      intro u k h
      cases hs : u.lamp.safe
      · obtain ⟨c, n, e⟩ := State.lampSafe_frame u k hs
        rw [e]; exact h
      · simp [State.lampSafe, hs, h]
    have : ∀ u : State, u.boot = s.boot → u.boot.injectFailed = s.boot.injectFailed ∧ u.boot.injected = s.boot.injected := fun u h => by rw [h]; exact ⟨rfl, rfl⟩
    apply this
    dsimp only
    repeat' split
    · exact g _ _ rfl
    · exact g _ _ rfl
    · rfl
    · rfl
  · unfold State.raiseFcu
    have g : ∀ (u : State) a b, u.boot.injectFailed = s.boot.injectFailed ∧ u.boot.injected = s.boot.injected → (u.rootSafe a b).boot.injectFailed = s.boot.injectFailed ∧ (u.rootSafe a b).boot.injected = s.boot.injected := by
      intro u a b h
      cases hs : u.safe
      · obtain ⟨a1, a2, a3, a4, a5, used, q⟩ := State.rootSafe_frame u a b hs
        rw [q]; exact h
      · simp only [State.rootSafe, hs, if_true]; exact h
    split
    · dsimp only
      have k : ∀ (u : State) rc, u.boot = s.boot → (if rc.tier = 3 then (u.distribute rc).rootSafe (Ev.code r.event) (bootCauseOf r.source r.event) else u.distribute rc).boot.injectFailed = s.boot.injectFailed ∧ (if rc.tier = 3 then (u.distribute rc).rootSafe (Ev.code r.event) (bootCauseOf r.source r.event) else u.distribute rc).boot.injected = s.boot.injected := by
        intro u rc h
        obtain ⟨a, b, e⟩ := State.distribute_frame u rc
        rw [e]
        split
        · exact g _ _ _ (by rw [← h]; exact ⟨rfl, rfl⟩)
        · rw [← h]; exact ⟨rfl, rfl⟩
      apply k
      split <;> rfl
    · exact ⟨rfl, rfl⟩

/-- The bits of FN_EVENT after an event. -/
theorem State.setEvent_bit (t : State) (f i : FnId) (v : BitVec 7) (k : Nat) : ((t.setEvent f v).fn i).event.getLsbD k = (((t.fn i).event.getLsbD k) || (decide (i = f) && v.getLsbD k)) := by
  have set : ((t.setFn f (fun x => { x with event := x.event ||| v })).fn i).event.getLsbD k = (((t.fn i).event.getLsbD k) || (decide (i = f) && v.getLsbD k)) := by
    by_cases q : f.val = i.val
    · have : i = f := Fin.ext q.symm
      subst this
      simp [State.fn, State.setFn]
    · have : ¬ i = f := fun h => q (by rw [h])
      simp [State.fn, State.setFn, Vector.getElem_set, q, this]
  have sig : ∀ (t : State) w, ((t.signal f w).fn i).event = (t.fn i).event := by
    intro t w
    unfold State.signal
    repeat' split
    · by_cases q : f.val = i.val
      · simp only [State.fn, State.setFn, Vector.getElem_set, q, if_true]
      · simp [State.fn, State.setFn, Vector.getElem_set, q]
    · rfl
    · rfl
  unfold State.setEvent
  dsimp only
  split
  · exact set
  · rw [sig]; exact set

/-- A sum over the scions. -/
theorem sum_scions (f : ScionId → Nat) : ((List.finRange 4).map f).sum = f 0 + f 1 + f 2 + f 3 := by
  simp [List.finRange_succ, Fin.isValue]
  show f 0 + (f 1 + (f 2 + f 3)) = _
  omega

/-! ## Streams -/

/-- One stream changes, the others stay. -/
theorem State.setStream_at (s : State) (c : CtxId) (g : Stream → Stream) : (s.setStream c g).streams[c.val] = g s.streams[c.val] := by
  simp [State.setStream]

theorem State.setStream_ne (s : State) (c d : CtxId) (n : d ≠ c) (g : Stream → Stream) : (s.setStream c g).streams[d.val] = s.streams[d.val] := by
  have : c.val ≠ d.val := fun h => n (Fin.ext h.symm)
  simp [State.setStream, this]

theorem State.setStream_twice (s : State) (c : CtxId) (g h) : (s.setStream c g).setStream c h = s.setStream c (fun x => h (g x)) := by
  simp [State.setStream]

theorem ctxId_ofNat (x : CtxId) {n : Nat} (h : n = x.val) : Fin.ofNat 48 n = x := by subst h; ext; simp

theorem streams_any_false (s : State) (y : CtxId) (f : Stream → Bool) (h : s.streams.toList.any f = false) : f s.streams[y.val] = false := by
  rw [List.any_eq_false] at h
  have := h (s.streams[y.val]) (by simp)
  simpa using this

theorem streams_any_true (s : State) (y : CtxId) (f : Stream → Bool) (h : f s.streams[y.val] = true) : s.streams.toList.any f = true := by
  rw [List.any_eq_true]
  exact ⟨_, by simp, h⟩

/-- What breaking a frame touches. -/
theorem State.breakFrame_facts (s : State) (x : CtxId) : ∃ m, s.breakFrame x = { s with mem := m, streams := (s.breakFrame x).streams } ∧
    (s.breakFrame x).streams = s.streams.set x.val { (s.streams[x.val]) with asm := none } := by
  unfold State.breakFrame
  split
  · rename_i h
    refine ⟨s.mem, rfl, ?_⟩
    refine Vector.ext ?_
    intro i hi
    by_cases q : x.val = i
    · subst q
      simp
      cases e : s.streams[x.val]
      rw [e] at h
      simp at h
      simp [h]
    · simp [q]
  · dsimp only
    split
    · refine ⟨s.mem, rfl, ?_⟩
      simp [State.setStream]
    · rename_i a _ _
      have st : ∃ m, s.storeFrame x a = { s with mem := m } := by
        unfold State.storeFrame
        dsimp only
        repeat' split
        all_goals exact ⟨_, rfl⟩
      obtain ⟨m, e⟩ := st
      rw [e]
      exact ⟨m, rfl, rfl⟩

/-- With no entry left, the flush ends the binding. -/
theorem State.flush_empty (s : State) (x : CtxId) (h : (s.streams[x.val]).entries = []) : s.flush x = s.setStream x Stream.endBinding := by
  unfold State.flush
  rw [h]
  rfl

/-- Runs that have begun are not cancelled. -/
theorem State.cancelUnbegun_begun (s : State) (x : CtxId) (h : ∀ r ∈ s.fore.runs, r.ofCtx x = true → r.begun = true) : s.cancelUnbegun x = s := by
  unfold State.cancelUnbegun
  have : s.fore.runs.filter (fun r => r.ofCtx x && !r.begun) = [] := by
    rw [List.filter_eq_nil_iff]
    intro r m
    simp only [Bool.and_eq_true, Bool.not_eq_true', not_and, Bool.not_eq_false]
    exact h r m
  rw [this]
  rfl

/-- A replayed frame that every check passes is stored and served. -/
theorem State.endFrame_served (u : State) (y : CtxId) (a : FrameAsm) (i : Nat) (sf : u.safe = false) (bf : a.buffer = some i)
    (nb : (u.streams[y.val]).bound = none) (lb : (u.streams[y.val]).cfg.lengthBad a.bytes.length = false)
    (ck : (u.streams[y.val]).cfg.guard.checks = 0) (so : (u.streams[y.val]).cfg.source = 3)
    (ln : a.length = a.bytes.length) (fl : a.failed = none) (bl : a.badLines = []) :
    ∃ m H, u.endFrame y a = ({ u with mem := m } : State).setStream y H
      ∧ m = (u.mem.store (memKey (u.streams[y.val]).owner ((u.streams[y.val]).cfg.bufferVa i)) (padLines (a.bytes.take (u.streams[y.val]).cfg.frameBytes))).1
      ∧ ((H u.streams[y.val]).lastTime = a.stamp ∧ (H u.streams[y.val]).lastBuffer = i
        ∧ (H u.streams[y.val]).offered = satAdd 64 (u.streams[y.val]).offered 1 ∧ (H u.streams[y.val]).served = satAdd 64 (u.streams[y.val]).served 1
        ∧ (H u.streams[y.val]).asm = none ∧ (H u.streams[y.val]).lastFed = (u.streams[y.val]).lastFed) := by
  have A : ∃ G : Stream → Stream, (u.setStream y (fun x => { x with asm := none })).countOffered y a.stamp = u.setStream y G
      ∧ (G u.streams[y.val]).asm = none ∧ (G u.streams[y.val]).lastTime = a.stamp ∧ (G u.streams[y.val]).offered = satAdd 64 (u.streams[y.val]).offered 1
      ∧ (G u.streams[y.val]).served = (u.streams[y.val]).served ∧ (G u.streams[y.val]).lastFed = (u.streams[y.val]).lastFed
      ∧ (G u.streams[y.val]).cfg = (u.streams[y.val]).cfg ∧ (G u.streams[y.val]).bound = (u.streams[y.val]).bound
      ∧ (G u.streams[y.val]).owner = (u.streams[y.val]).owner := by
    refine ⟨?G, ?A, ?B⟩
    case A => unfold State.countOffered State.note; rw [State.setStream_twice, State.setStream_twice]
    case B => exact ⟨rfl, rfl, rfl, rfl, rfl, rfl, rfl, rfl⟩
  obtain ⟨G, A, g1, g2, g3, g4, g5, g6, g7, g8⟩ := A
  unfold State.endFrame
  dsimp only
  rw [if_neg (by simp [sf]), A, bf]
  dsimp only
  rw [State.setStream_at, g6, if_neg (by simp [ln, lb]), fl]
  dsimp only
  have B : (u.setStream y G).storeFrame y a = ({ u with mem := (u.mem.store (memKey (u.streams[y.val]).owner ((u.streams[y.val]).cfg.bufferVa i)) (padLines (a.bytes.take (u.streams[y.val]).cfg.frameBytes))).1 } : State).setStream y G := by
    unfold State.storeFrame
    rw [bf, State.setStream_at]
    dsimp only
    rw [if_pos bl, g6, g8]
    rfl
  rw [B]
  generalize hm : (u.mem.store (memKey (u.streams[y.val]).owner ((u.streams[y.val]).cfg.bufferVa i)) (padLines (a.bytes.take (u.streams[y.val]).cfg.frameBytes))).1 = m
  have gf : ∀ sg, (G u.streams[y.val]).guardFailures a sg = [] := by
    intro sg
    unfold Stream.guardFailures
    simp [g6, ck]
  rw [gf]
  simp only [List.isEmpty_nil, if_true]
  generalize hs : StreamCfg.signature _ _ = sg
  have C : (({ u with mem := m } : State).setStream y G).guardSees y a sg = ({ u with mem := m } : State).setStream y (fun x => { (G x) with
      sigs := (sg :: (G x).sigs).take 4, lastStamp := some a.stamp, skipInterval := (G x).skipInterval && !a.skips
      grace := (G x).grace - 1, seedFrames := (G x).seedFrames + 1, counterRef := some a.counter, lastCounter := a.counter, counterSeen := true }) := by
    unfold State.guardSees State.seeCounter
    dsimp only
    rw [if_neg, State.setStream_twice, State.setStream_twice]
    rintro ⟨w, _⟩
    rw [State.setStream_twice, State.setStream_at] at w
    dsimp only at w
    rw [g6, so] at w
    cases w
  rw [C]
  have D : ∀ H : Stream → Stream, (H u.streams[y.val]).bound = none →
      (({ u with mem := m } : State).setStream y H).validFrame y a i = ((({ u with mem := m } : State).setStream y H).noteStatus y stOk 0 i).countServed y := by
    intro H h
    unfold State.validFrame State.noteStatus
    dsimp only
    rw [show ((({ u with mem := m } : State).setStream y H).streams[y.val]) = H u.streams[y.val] from State.setStream_at _ _ _, h]
  rw [D _ (by dsimp only; rw [g7]; exact nb)]
  refine ⟨m, ?H, ?A, rfl, ?B⟩
  case A => unfold State.noteStatus State.countServed State.note; rw [State.setStream_twice, State.setStream_twice, State.setStream_twice]
  case B => exact ⟨g2, rfl, g3, congrArg (satAdd 64 · 1) g4, g1, g5⟩

/-- A frame without a free buffer is dropped. -/
theorem State.endFrame_ringFull (u : State) (y : CtxId) (a : FrameAsm) (sf : u.safe = false) (bf : a.buffer = none) :
    ∃ H, u.endFrame y a = u.setStream y H ∧ (H u.streams[y.val]).ringFull = satAdd 32 (u.streams[y.val]).ringFull 1
      ∧ (H u.streams[y.val]).served = (u.streams[y.val]).served := by
  unfold State.endFrame
  dsimp only
  rw [if_neg (by simp [sf]), bf]
  dsimp only
  refine ⟨?H, ?A, ?B⟩
  case A =>
    unfold State.countOffered State.note State.ringFullFrame State.seeCounter
    rw [State.setStream_twice, State.setStream_twice, State.setStream_twice, State.setStream_twice]
  case B => exact ⟨rfl, rfl⟩

/-! ## Runs and sequences -/

/-- A number of the device's choice is unused and within its range. -/
theorem State.unusedNumber_facts (s : State) (lo hi : Nat) (used : List Nat) (h : used.length < hi + 1 - lo) :
    s.unusedNumber lo hi used ∉ used ∧ lo ≤ s.unusedNumber lo hi used ∧ s.unusedNumber lo hi used ≤ hi := by
  have m := Nat.mod_lt (Config.givenNumber s.draws) (show 0 < hi + 1 - lo by omega)
  unfold State.unusedNumber
  dsimp only
  split
  · cases q : ((List.range (hi + 1 - lo)).map (fun k => lo + k)).find? (fun k => !used.contains k) with
    | some i =>
      have a := List.find?_some q
      have b := List.mem_of_find?_eq_some q
      simp only [List.mem_map, List.mem_range] at b
      obtain ⟨k, hk, rfl⟩ := b
      refine ⟨fun c => ?_, ?_, ?_⟩
      · have d : lo + k ∈ used := c
        simp [d] at a
      · simp
      · simp only [Option.getD_some]; omega
    | none =>
      exfalso
      rw [List.find?_eq_none] at q
      have sub : ((List.range (hi + 1 - lo)).map (fun k => lo + k)) ⊆ used := by
        intro n a
        have := q n a
        simpa using this
      have nd : ((List.range (hi + 1 - lo)).map (fun k => lo + k)).Nodup :=
        List.Nodup.map (fun a b h => by simpa using h) List.nodup_range
      have := (nd.subperm sub).length_le
      simp only [List.length_map, List.length_range] at this
      omega
  · rename_i c
    refine ⟨fun d => c (List.contains_iff_mem.2 d), by omega, by omega⟩

theorem find_num_none {α : Type} (l : List α) (f : α → Nat) (n : Nat) (h : n ∉ l.map f) : l.find? (fun x => f x == n) = none := by
  rw [List.find?_eq_none]
  intro x m e
  exact h (List.mem_map.2 ⟨x, m, by simpa using e⟩)

/-- The handle of a new graph is in no use. -/
theorem State.newGraph_facts (s : State) (f : FnId) (h : (s.fn f).graphs.length < 32) : (s.fn f).graph (s.newGraph f) = none :=
  find_num_none _ _ _ (State.unusedNumber_facts s 0 (2 ^ 32 - 1) ((s.fn f).graphs.map (·.handle)) (by simp; omega)).1

theorem State.newSequence_facts (s : State) (f : FnId) (h : (s.fn f).seqs.length < 256) :
    s.newSequence f ≠ 0 ∧ (s.fn f).seq (s.newSequence f) = none := by
  obtain ⟨a, b, c⟩ := State.unusedNumber_facts s 1 (2 ^ 32 - 1) ((s.fn f).seqs.map (·.handle)) (by simp; omega)
  exact ⟨by unfold State.newSequence; omega, find_num_none _ _ _ a⟩

/-- A free reservation number. -/
theorem State.freeReservation_facts (s : State) (h : s.fore.reservations.length < 256) :
    s.reservation s.freeReservation = none ∧ 1 ≤ s.freeReservation ∧ s.freeReservation ≤ 256 := by
  obtain ⟨a, b, c⟩ := State.unusedNumber_facts s 1 256 (s.fore.reservations.map (·.num)) (by simpa using h)
  exact ⟨find_num_none _ _ _ a, b, c⟩

/-- The plan rests on the functions alone. -/
theorem State.layRuns_congr (s t : State) (h : s.fns = t.fns) (w : List Nat) (l : List Run) (es) : s.layRuns w l es = t.layRuns w l es := by
  have k : ∀ r, s.factor r = t.factor r := by intro r; unfold State.factor State.fn; rw [h]
  induction l generalizing es with
  | nil => rfl
  | cons r rest ih =>
    unfold State.layRuns
    simp only [k, ih]

/-- A job's demand is counted. -/
theorem State.offer_job (s : State) (r : Run) (us : Nat) (q : ∀ c b n st, r.kind ≠ .bound c b n st) : ∃ jd, s.offer r us = s.setFore (fun x => { x with jobDemand := jd }) := by
  unfold State.offer
  split
  · rename_i h; exact absurd h (q _ _ _ _)
  · exact ⟨_, rfl⟩

theorem State.plan_offer (s : State) (r r' : Run) (us : Nat) (w : Waits) (f) (q : ∀ c b n st, r'.kind ≠ .bound c b n st) : (s.offer r' us).plan r w f = s.plan r w f := by
  have : ∃ jd, s.offer r' us = s.setFore (fun x => { x with jobDemand := jd }) := by
    unfold State.offer
    split
    · rename_i h; exact absurd h (q _ _ _ _)
    · exact ⟨_, rfl⟩
  obtain ⟨jd, e⟩ := this
  rw [e]
  unfold State.plan
  simp only [State.layRuns_congr (s.setFore (fun x => { x with jobDemand := jd })) s rfl]
  rfl

theorem State.late_setFore (s : State) (g : Foreman → Foreman) (r : Run) (p : Plan) : (s.setFore g).late r p = s.late r p := rfl

/-- A log record, while no ring collects the log, leaves the commands and the runs. -/
theorem State.logRecord_runs (s : State) (cls f b) (h : ¬ s.fore.replay.state = .collecting) : (s.logRecord cls f b).fore.taken = s.fore.taken
    ∧ (s.logRecord cls f b).fore.runs = s.fore.runs ∧ (s.logRecord cls f b).fore.nextRun = s.fore.nextRun := by
  unfold State.logRecord State.mirror
  dsimp only
  split
  · rename_i k; exact absurd k h
  · exact ⟨rfl, rfl, rfl⟩

/-- A run that is not late is admitted, a late one shed. -/
theorem State.judgeRun_admits (u : State) (r w p) (hp : u.plan r w none = p) (h : u.late r p = false) : u.judgeRun r w = (u.enterRun r p, .admitted) := by
  unfold State.judgeRun
  simp only [hp, h, Bool.not_false, if_true]

theorem State.judgeRun_sheds (u : State) (r : Run) (w p) (hp : u.plan r w none = p) (h : u.late r p = true) (n : r.cls ≠ 2) :
    u.judgeRun r w = (u.shedRun r 1 (u.lateness r p), .shed 1) := by
  unfold State.judgeRun
  simp only [hp, h, Bool.not_true, Bool.false_eq_true, if_false, n]

/-- A run enters the list. -/
theorem State.enterRun_facts (u : State) (r : Run) (p : Plan) (n2 : r.cls ≠ 2) (o : ¬ u.fore.replay.state = .collecting) :
    (u.enterRun r p).fore.taken = u.fore.taken ∧ ∃ x ∈ (u.enterRun r p).fore.runs, x.kind = r.kind ∧ x.reqs = r.reqs ∧ x.admitted = true ∧ x.fn = r.fn ∧ x.cls = r.cls := by
  unfold State.enterRun
  simp only [n2, if_false]
  exact ⟨(State.logRecord_runs u _ _ _ o).1, ⟨_, List.mem_append_right _ (List.mem_singleton_self _), rfl, rfl, rfl, rfl, rfl⟩⟩

theorem State.shedRun_facts (u : State) (r : Run) (k : Nat) (n2 : r.cls ≠ 2) (o : ¬ u.fore.replay.state = .collecting) :
    (u.shedRun r 1 k).fore.taken = u.fore.taken ∧ (u.shedRun r 1 k).fore.runs = u.fore.runs ∧ (u.shedRun r 1 k).clk = u.clk := by
  unfold State.shedRun
  simp only [n2, false_and, if_false]
  exact ⟨(State.logRecord_runs u _ _ _ o).1, (State.logRecord_runs u _ _ _ o).2.1, (by
    unfold State.logRecord State.mirror
    dsimp only
    split
    · rename_i k; exact absurd k o
    · rfl)⟩

/-- The functions, the Foreman and the clocks stay. -/
abbrev SameWork (s t : State) : Prop := t.fns = s.fns ∧ t.fore = s.fore ∧ t.clk = s.clk

theorem SameWork.rfl {s : State} : SameWork s s := ⟨Eq.refl _, Eq.refl _, Eq.refl _⟩

theorem SameWork.trans {s t u : State} (a : SameWork s t) (b : SameWork t u) : SameWork s u := ⟨b.1.trans a.1, b.2.1.trans a.2.1, b.2.2.trans a.2.2⟩

theorem State.alloc_sameWork (s t : State) (f a b c) (h : s.alloc f a b c = some t) : SameWork s t := by
  unfold State.alloc at h
  split at h
  · cases h
  · injection h with h; subst h
    refine ⟨?_, ?_, ?_⟩ <;> (cases portOf f <;> rfl)

theorem State.dropPage_sameWork (s : State) (f q p) : SameWork s (s.dropPage f q p) := by
  unfold State.dropPage State.zeroPage State.release
  refine ⟨?_, ?_, ?_⟩ <;> (cases portOf f <;> rfl)

theorem State.dropPages_sameWork (f q) (l : List (Nat × Nat)) (s : State) : SameWork s (l.foldl (fun s x => s.dropPage f q x.1) s) := by
  induction l generalizing s with
  | nil => exact SameWork.rfl
  | cons x r ih => exact (State.dropPage_sameWork s f q x.1).trans (ih _)

theorem State.writeRows_sameWork (f q) (l : List Bytes) (p : Nat) (s : State) (c : s.mem.upsets = []) : SameWork s (s.writeRows f q p l) := by
  induction l generalizing s p with
  | nil => exact SameWork.rfl
  | cons x r ih =>
    unfold State.writeRows
    rw [State.senseEdges_calm s _ _ c]
    exact SameWork.trans ⟨rfl, rfl, rfl⟩ (ih _ _ (Memory.store_upsets c _ _))

theorem commitPage_sameWork (f q ts) (m n : Commit) (t : Nat) (h : commitPage f q ts m t = some n) : SameWork m.state n.state := by
  unfold commitPage at h
  dsimp only at h
  split at h
  · split at h <;> (injection h with h; subst h; exact SameWork.rfl)
  · split at h
    · rename_i u e
      injection h with h; subst h
      split at e
      · exact (State.alloc_sameWork _ _ _ _ _ _ e).trans ⟨rfl, rfl, rfl⟩
      · cases e
    · split at h
      · cases h
      · split at h
        · cases h
        · split at h
          · cases h
          · rename_i u e
            injection h with h; subst h
            exact ((State.dropPage_sameWork _ _ _ _).trans (State.alloc_sameWork _ _ _ _ _ _ e)).trans ⟨rfl, rfl, rfl⟩

theorem commitPages_sameWork (f q ts) (l : List Nat) (m n : Commit) (h : commitPages f q ts l m = some n) : SameWork m.state n.state := by
  induction l generalizing m with
  | nil => simp only [commitPages, Option.some.injEq] at h; subst h; exact SameWork.rfl
  | cons t r ih =>
    unfold commitPages at h
    split at h
    · cases h
    · rename_i u e
      exact (commitPage_sameWork _ _ _ _ _ _ e).trans (ih u h)

/-- A changed sequence. -/
theorem State.seq_setSeq (s : State) (f : FnId) (h : Nat) (g : KvSeq → KvSeq) (k : ∀ q, (g q).handle = q.handle) :
    ((s.setSeq f h g).fn f).seq h = ((s.fn f).seq h).map g := by
  have : ((s.setSeq f h g).fn f).seqs = (s.fn f).seqs.map (fun q => if q.handle = h then g q else q) := by simp [State.setSeq, State.setFn, State.fn]
  unfold Fn.seq
  rw [this]
  induction (s.fn f).seqs with
  | nil => rfl
  | cons q r ih =>
    simp only [List.map_cons, List.find?_cons]
    have e : (if q.handle = h then g q else q).handle = q.handle := by split; exact k q; rfl
    rw [e]
    by_cases w : (q.handle == h) = true
    · have w' : q.handle = h := by simpa using w
      simp [w']
    · simp only [w]
      exact ih

theorem Fn.seq_handle {x : Fn} {h : Nat} {q : KvSeq} (e : x.seq h = some q) : q.handle = h := by
  have := List.find?_some e
  simpa using this

theorem SameWork.fn {s t : State} (a : SameWork s t) (f : FnId) : t.fn f = s.fn f := by unfold State.fn; rw [a.1]

theorem State.logRecord_fns (s : State) (cls f b) (h : ¬ s.fore.replay.state = .collecting) : (s.logRecord cls f b).fns = s.fns
    ∧ (s.logRecord cls f b).mem = s.mem ∧ (s.logRecord cls f b).fore.taken = s.fore.taken := by
  unfold State.logRecord State.mirror
  dsimp only
  split
  · rename_i k; exact absurd k h
  · exact ⟨rfl, rfl, rfl⟩

/-- One engine changes, the others stay. -/
theorem State.setEngine_at (s : State) (c : EngineId) (g : Engine → Engine) : (s.setEngine c g).engines[c.val] = g s.engines[c.val] := by
  simp [State.setEngine]

theorem State.setEngine_ne (s : State) (c d : EngineId) (n : d ≠ c) (g : Engine → Engine) : (s.setEngine c g).engines[d.val] = s.engines[d.val] := by
  have : c.val ≠ d.val := fun h => n (Fin.ext h.symm)
  simp [State.setEngine, this]

/-- A changed run. -/
theorem State.setRun_find (s : State) (id j : Nat) (g : Run → Run) (k : ∀ r, (g r).id = r.id) :
    (s.setRun id g).fore.runs.find? (fun r => r.id == j) = if j = id then (s.fore.runs.find? (fun r => r.id == j)).map g else s.fore.runs.find? (fun r => r.id == j) := by
  unfold State.setRun State.setFore
  dsimp only
  induction s.fore.runs with
  | nil => simp
  | cons r l ih =>
    simp only [List.map_cons, List.find?_cons]
    have e : (if r.id = id then g r else r).id = r.id := by split; exact k r; rfl
    rw [e]
    by_cases w : (r.id == j) = true
    · have w' : r.id = j := by simpa using w
      subst w'
      by_cases q : r.id = id <;> simp [q]
    · simp only [w]
      exact ih

theorem State.starve_calm (s : State) (e : EngineId) : (s.starve e).fore = s.fore ∧ (s.starve e).engines = s.engines := by
  have h : promotion Ev.selftestStarved = none := rfl
  have a := raise_calm s { source := engineSource e 0x70, event := .selftestStarved } h (by
    show baseTier (engineSource e 0x70) Ev.selftestStarved < 2
    unfold baseTier
    simp)
  exact ⟨a.1, a.2.2.2.2.2.1⟩

/-- The correction of a run's charge. -/
theorem State.charge_facts (u : State) (r : Run) : ∃ fns res, (u.correctCharge r).calibrate r = { u with fns := fns, fore := { u.fore with reservations := res } } := by
  unfold State.correctCharge State.calibrate
  split <;> split <;> exact ⟨_, _, rfl⟩

/-- The end of a job's run forms its completion. -/
theorem State.endRun_job (u : State) (r : Run) (id : Nat) (h : r.kind = .job id) : ∃ fns res, u.endRun r = State.finish { u with fns := fns, fore := { u.fore with
          reservations := res, runs := u.fore.runs.filter (fun y => y.id != r.id) } } id (u.runStatus r).1 (u.runStatus r).2 r.result := by
  unfold State.endRun
  rcases u.runStatus r with ⟨x, y⟩
  obtain ⟨fns, res, e⟩ := State.charge_facts u r
  simp only [h, e]
  exact ⟨fns, res, rfl⟩

theorem State.slicing_slice {s : State} {e : EngineId} (h : s.slicing = some e) : (s.engines[e.val]).slice = true := by
  have := List.find?_some h
  simpa using this

/-! ## Scions -/

theorem State.crewed_fenced {s : State} {e : EngineId} {n : ScionId} (h : scionOf e = n) (k : (s.scions[n.val]).state = .fenced) : s.crewed e = false := by
  subst h
  simp [State.crewed, k]

/-- A scion is fenced, and its engines hold no tile and no crew. -/
def Fenced (n : ScionId) (t : State) : Prop := (t.scions[n.val]).state = .fenced ∧ ∀ e : EngineId, scionOf e = n → (t.engines[e.val]).tile = none ∧ (t.engines[e.val]).crew = none

theorem Fenced.beside {n : ScionId} {t u : State} (h : Fenced n t) (b : Beside t u) : Fenced n u :=
    ⟨b.scion n h.1, fun e k => ⟨b.idle e (h.2 e k).1, (b.crew e).trans (h.2 e k).2⟩⟩

theorem Fenced.planned {n : ScionId} {t u : State} (h : Fenced n t) (p : Planned t u) : Fenced n u := by
  have hs : u.scions = t.scions := by
    obtain ⟨_, _, _, e⟩ := p.state
    rw [e]
  exact ⟨by rw [hs]; exact h.1, fun e k => ⟨(p.engines e).1.trans (h.2 e k).1, (p.engines e).2.2 (State.crewed_fenced k h.1) (h.2 e k).2⟩⟩

theorem Fenced.fence (n : ScionId) (t : State) : Fenced n (t.fence n) := by
  refine ⟨by simp [State.fence, State.setScion], fun e k => ?_⟩
  simp [State.fence, State.setScion, State.mapScion, k, Engine.fence]

theorem Fenced.replaceRuns {n : ScionId} (l : List Nat) (g : Nat → List Nat) (t : State) (h : Fenced n t) : Fenced n (l.foldl (fun s id => s.replaceRun n id (g id)) t) := by
  induction l generalizing t with
  | nil => exact h
  | cons x r ih => exact ih _ (h.beside (State.replaceRun_beside _ _ _ _))

theorem abortTiles_collecting (n : ScionId) (l : List EngineId) (t : State) (h : t.fore.replay.state ≠ .collecting) :
      (l.foldl (fun s (e : EngineId) => if scionOf e = n then s.abortTile e else s) t).fore.replay.state ≠ .collecting := by
  induction l generalizing t with
  | nil => exact h
  | cons x r ih =>
    rw [List.foldl_cons]
    apply ih
    split
    · obtain ⟨a, b, c, d, e⟩ := State.abortTile_frame t x
      rw [e]; exact h
    · exact h

theorem Fenced.raise {n : ScionId} (u : State) (h : Fenced n u) (q : u.fore.replay.state ≠ .collecting) (r : Raise) :
    Fenced n (if (u.raise r).boot.complete ∧ (u.raise r).safe = false then (u.raise r).repartition 1 true else u.raise r) := by
  have hr := h.beside (State.raise_beside u r)
  split
  · rename_i k
    refine hr.planned (State.repartition_planned _ _ _ ?_)
    have z : u.safe = false := by
      cases z : u.safe
      · rfl
      · have := (State.raise_keeps r (Keeps.refl u)).latched.root z
        rw [k.2] at this; cases this
    rw [((State.raise_raised u r).calm (by rw [z]; exact k.2)).2.2.2.1]
    exact q
  · exact hr

theorem State.fence_fore (t : State) (n : ScionId) : (t.fence n).fore = t.fore := by
  unfold State.fence State.setScion State.mapScion
  dsimp only

/-! ## Chroylink -/

/-- One port changes, the others stay. -/
theorem State.setCl_at (s : State) (c : ClPortId) (g : ClPort → ClPort) : (s.setCl c g).cl[c.val] = g s.cl[c.val] := by
  simp [State.setCl]

theorem State.setCl_ne (s : State) (c d : ClPortId) (n : d ≠ c) (g : ClPort → ClPort) : (s.setCl c g).cl[d.val] = s.cl[d.val] := by
  have : c.val ≠ d.val := fun h => n (Fin.ext h.symm)
  simp [State.setCl, this]

/-- A back-channel message is sent. -/
theorem State.bcSend_cl (s : State) (p : ClPortId) (ty : Nat) (b : Bytes) : (s.bcSend p ty b).cl[p.val] = { s.cl[p.val] with
    nextMsg := (s.cl[p.val]).nextMsg + 1
    unacked := if ty = 1 then (s.cl[p.val]).unacked
      else (s.cl[p.val]).unacked ++ [{ msgNo := (s.cl[p.val]).nextMsg.toNat, type := ty, body := b, tries := 1 }] } := by
  simp [State.bcSend, State.setCl, State.send]

theorem State.bcSend_other (s : State) (p q : ClPortId) (n : q ≠ p) (ty : Nat) (b : Bytes) : (s.bcSend p ty b).cl[q.val] = s.cl[q.val] := by
  have : p.val ≠ q.val := fun h => n (Fin.ext h.symm)
  simp [State.bcSend, State.setCl, State.send, this]

theorem State.bcSend_sent (s : State) (p : ClPortId) (ty : Nat) (b : Bytes) : (s.bcSend p ty b).sent = .backChannel p (bcLine (bcBytes (s.cl[p.val]).nextMsg.toNat ty b)) :: s.sent := by
  simp [State.bcSend, State.setCl, State.send]

theorem retrainCmd_stripped {s t : State} (h : t.cl.map (fun x => { x with retrainCmd := none }) = s.cl.map (fun x => { x with retrainCmd := none })) (p : ClPortId) :
    ({ t.cl[p.val] with retrainCmd := none } : ClPort) = { s.cl[p.val] with retrainCmd := none } := by
  have := congrArg (fun v : Vector ClPort 24 => v[p.val]) h
  simpa using this

/-- A port goes down. -/
theorem State.clDown_cl (s : State) (p : ClPortId) : ({ (s.clDown p).cl[p.val] with retrainCmd := none } : ClPort)
    = { s.cl[p.val] with state := .down, phase := .idle, unacked := [], badSyncs := 0, resyncHits := 0, loose0 := none, loose1 := none, retrainCmd := none }
    ∧ ∀ q : ClPortId, q ≠ p → ({ (s.clDown p).cl[q.val] with retrainCmd := none } : ClPort) = { s.cl[q.val] with retrainCmd := none } := by
  unfold State.clDown
  dsimp only
  have a := State.failOpens_beside s (s.seedWaiters p)
  generalize (s.seedWaiters p).foldl State.failOpen s = u at a ⊢
  have b := State.portDown_beside (u.setCl p (fun x => { x with state := .down, phase := .idle, unacked := [], badSyncs := 0, resyncHits := 0, loose0 := none, loose1 := none })) 0 p.val
  constructor
  · have e1 := retrainCmd_stripped b.cl p
    rw [State.setCl_at] at e1
    have e2 := retrainCmd_stripped a.cl p
    rw [e1]
    exact congrArg (fun x : ClPort => ({ x with state := .down, phase := .idle, unacked := [], badSyncs := 0, resyncHits := 0, loose0 := none, loose1 := none } : ClPort)) e2
  · intro q n
    have e1 := retrainCmd_stripped b.cl q
    rw [State.setCl_ne _ _ _ n] at e1
    exact e1.trans (retrainCmd_stripped a.cl q)

theorem State.clDown_fields (s : State) (p : ClPortId) : ((s.clDown p).cl[p.val]).state = .down ∧ ((s.clDown p).cl[p.val]).phase = .idle
    ∧ ((s.clDown p).cl[p.val]).unacked = [] ∧ ((s.clDown p).cl[p.val]).retrains = (s.cl[p.val]).retrains
    ∧ ∀ q : ClPortId, q ≠ p → ((s.clDown p).cl[q.val]).state = (s.cl[q.val]).state := by
  obtain ⟨a, o⟩ := State.clDown_cl s p
  generalize s.clDown p = u at a o ⊢
  have e1 := congrArg ClPort.state a
  have e2 := congrArg ClPort.phase a
  have e3 := congrArg ClPort.unacked a
  have e4 := congrArg ClPort.retrains a
  dsimp only at e1 e2 e3 e4
  exact ⟨e1, e2, e3, e4, fun q n => by have := congrArg ClPort.state (o q n); dsimp only at this; exact this⟩

theorem scramblerByte_lt (k r a : Nat) : (scramblerByte k r a).2 < 2 ^ k * (a + 1) := by
  induction k generalizing r a with
  | zero => simp [scramblerByte]
  | succ k ih =>
    unfold scramblerByte
    dsimp only
    have h := ih ((2 * r + (r / 16384 % 2 ^^^ (r / 8192 % 2))) % 32768) (2 * a + r / 16384 % 2)
    have : 2 ^ k * (2 * a + r / 16384 % 2 + 1) ≤ 2 ^ (k + 1) * (a + 1) := by
      rw [Nat.pow_succ, Nat.mul_assoc]
      apply Nat.mul_le_mul_left
      omega
    omega

theorem State.contextOf_setCl (s : State) (p : ClPortId) (g) (a b c : Nat) : (s.setCl p g).contextOf a b c = s.contextOf a b c := by
  unfold State.contextOf
  simp only [State.setCl_streams]

/-- Adaptation changes the taps and the gain alone. -/
theorem ClPort.adapt_fields (x : ClPort) (l) : (x.adapt l).state = x.state ∧ (x.adapt l).blocks = x.blocks ∧ (x.adapt l).malformed = x.malformed
    ∧ (x.adapt l).idleBlocks = x.idleBlocks ∧ (x.adapt l).noiseAge = x.noiseAge ∧ (x.adapt l).noiseValid = x.noiseValid ∧ (x.adapt l).discarded = x.discarded := by
  unfold ClPort.adapt; split <;> exact ⟨rfl, rfl, rfl, rfl, rfl, rfl, rfl⟩

theorem State.breakCl_cl (s : State) (p : ClPortId) (c : CtxId) (q : ClPortId) : ((s.breakCl p c).cl[q.val]).state = (s.cl[q.val]).state
    ∧ ((s.breakCl p c).cl[q.val]).syncLosses = (s.cl[q.val]).syncLosses ∧ ((s.breakCl p c).cl[q.val]).agcFrozen = (s.cl[q.val]).agcFrozen := by
  have f : (s.breakFrame c).cl = s.cl := by
    obtain ⟨m, e, _⟩ := State.breakFrame_facts s c
    rw [e]
  unfold State.breakCl
  split
  · exact ⟨rfl, rfl, rfl⟩
  · split
    · rename_i a _ _ d _
      have e := retrainCmd_stripped (State.cutFrame_beside s c a d).cl q
      have e1 := congrArg ClPort.state e
      have e2 := congrArg ClPort.syncLosses e
      have e3 := congrArg ClPort.agcFrozen e
      exact ⟨e1, e2, e3⟩
    · unfold State.countBroken
      by_cases h : q = p
      · subst h; rw [State.setCl_at]; simp [f]
      · rw [State.setCl_ne _ _ _ h]; simp [f]

theorem State.cutCl_cl (s : State) (p : ClPortId) (c : CtxId) (q : ClPortId) : ((s.cutCl p c).cl[q.val]).state = (s.cl[q.val]).state
    ∧ ((s.cutCl p c).cl[q.val]).syncLosses = (s.cl[q.val]).syncLosses ∧ ((s.cutCl p c).cl[q.val]).agcFrozen = (s.cl[q.val]).agcFrozen := by
  unfold State.cutCl
  split
  · exact ⟨rfl, rfl, rfl⟩
  · exact State.breakCl_cl s p c q

/-! ## Ethernet, UART, Drift -/

theorem State.setEth_at (s : State) (c : Port4) (g) : (s.setEth c g).eth[c.val] = g s.eth[c.val] := by simp [State.setEth]

theorem State.setEth_ne (s : State) (c d : Port4) (n : d ≠ c) (g) : (s.setEth c g).eth[d.val] = s.eth[d.val] := by
  have : c.val ≠ d.val := fun h => n (Fin.ext h.symm)
  simp [State.setEth, this]

theorem State.setEth_twice (s : State) (p : Port4) (g h : EthPort → EthPort) : (s.setEth p g).setEth p h = s.setEth p (fun x => h (g x)) := by
  simp [State.setEth]

theorem State.setUart_at (s : State) (c : Port4) (g) : (s.setUart c g).uart[c.val] = g s.uart[c.val] := by simp [State.setUart]

theorem State.setUart_ne (s : State) (c d : Port4) (n : d ≠ c) (g) : (s.setUart c g).uart[d.val] = s.uart[d.val] := by
  have : c.val ≠ d.val := fun h => n (Fin.ext h.symm)
  simp [State.setUart, this]

theorem State.udpContext_setEth (s : State) (p q : Port4) (g) (n) : (s.setEth p g).udpContext q n = s.udpContext q n := by
  unfold State.udpContext; simp only [State.setEth_streams]

theorem State.uartContext_setUart (s : State) (p q : Port4) (g) : (s.setUart p g).uartContext q = s.uartContext q := by
  unfold State.uartContext State.contextOf; simp only [State.setUart_streams]

theorem State.setDrift_at (s : State) (c : Port4) (g) : (s.setDrift c g).drift[c.val] = g s.drift[c.val] := by simp [State.setDrift]

theorem State.setDrift_ne (s : State) (c d : Port4) (n : d ≠ c) (g) : (s.setDrift c g).drift[d.val] = s.drift[d.val] := by
  have : c.val ≠ d.val := fun h => n (Fin.ext h.symm)
  simp [State.setDrift, this]

theorem State.setDrift_twice (s : State) (c : Port4) (g h) : (s.setDrift c g).setDrift c h = s.setDrift c (fun x => h (g x)) := by
  simp [State.setDrift]

theorem State.setDrift_id (s : State) (p : Port4) (g) (h : g s.drift[p.val] = s.drift[p.val]) : s.setDrift p g = s := by
  unfold State.setDrift
  rw [h]
  simp

theorem State.driftWire_drift (s : State) (p : Port4) (b : Bytes) : (s.driftWire p b).drift = (s.setDrift p (fun x => { x with sent := satAdd 64 x.sent 1 })).drift := rfl

theorem State.driftWire_sent (s : State) (p : Port4) (b : Bytes) : (s.driftWire p b).sent = .drift p b :: s.sent := rfl

theorem State.driftWire_xc (s : State) (p : Port4) (b : Bytes) : (s.driftWire p b).xc = s.xc := rfl

theorem State.driftWireAll_facts (s : State) (p : Port4) (l) : ∃ n w, s.driftWireAll p l = { (s.setDrift p (fun x => { x with sent := n })) with sent := w } := by
  unfold State.driftWireAll
  induction l generalizing s with
  | nil => exact ⟨(s.drift[p.val]).sent, s.sent, by rw [State.setDrift_id _ _ _ rfl]; rfl⟩
  | cons a l ih =>
    rw [List.foldl_cons]
    obtain ⟨n, w, e⟩ := ih (s.driftWire p a.2)
    refine ⟨n, w, ?_⟩
    rw [e]
    simp [State.driftWire, State.send, State.setDrift]

/-- A packet for a node outside the topology is dropped. -/
theorem State.driftRoute_outside (s : State) (v : Port4) (dest ty src pl) (h : (s.drift[v.val]).xDim * (s.drift[v.val]).yDim ≤ dest) :
    s.driftRoute v dest ty src pl = s.setDrift v (fun y => { y with dropped := satAdd 32 y.dropped 1 }) := by
  unfold State.driftRoute
  dsimp only
  rw [if_pos h]

/-- A packet is forwarded by the port of its route. -/
theorem State.driftRoute_forwards (s : State) (v q : Port4) (dest ty src pl) (h : dest < (s.drift[v.val]).xDim * (s.drift[v.val]).yDim)
    (e : routePort (s.drift[v.val]).topology (s.drift[v.val]).xDim (s.drift[v.val]).yDim (s.drift[v.val]).nodeId dest = q)
    (u : (s.drift[q.val]).state = .up) (room : (s.drift[q.val]).txBuf.length < 64) :
    (s.driftRoute v dest ty src pl).sent = .drift q (driftBytes dest ty src (s.drift[q.val]).txSeq pl) :: s.sent
    ∧ ((s.driftRoute v dest ty src pl).drift[q.val]).txSeq = (s.drift[q.val]).txSeq + 1 := by
  have E : s.driftRoute v dest ty src pl = s.driftSend q dest ty src pl := by
    unfold State.driftRoute
    dsimp only
    rw [if_neg (by omega)]
    refine (fun (r : Port4) (h : r = q) => ?_ : ∀ r : Port4, r = q → (if (s.drift[r.val]).state = .up then s.driftSend r dest ty src pl else _) = _) _ e
    subst h
    rw [if_pos u]
  rw [E]
  unfold State.driftSend
  dsimp only
  rw [if_pos (show (s.drift[q.val]).txBuf.length < driftWindow from room)]
  simp only [State.driftWire_drift, State.driftWire_sent, State.setDrift_at, State.setDrift_twice, State.setDrift_sent]
  exact ⟨trivial, trivial⟩

/-- A digest record meets one that is not valid. -/
theorem State.xcRecord_skips (u : State) (d m : Digest) (f : u.xc.held.find? (fun x => x.mine != d.mine && x.ctx == d.ctx && x.counter == d.counter) = some m)
    (v : ¬ (m.valid = true ∧ d.valid = true)) : (u.xcRecord d).xc = { u.xc with held := u.xc.held.erase m, skipped := satAdd 32 u.xc.skipped 1 } := by
  unfold State.xcRecord
  dsimp only
  rw [f]
  dsimp only
  rw [if_pos v]

/-- Two equal digest records match. -/
theorem State.xcRecord_matches (u : State) (d m : Digest) (f : u.xc.held.find? (fun x => x.mine != d.mine && x.ctx == d.ctx && x.counter == d.counter) = some m)
    (v : m.valid = true ∧ d.valid = true) (w : m.digest = d.digest) :
    (u.xcRecord d).xc = { u.xc with held := u.xc.held.erase m, matched := satAdd 32 u.xc.matched 1 } := by
  unfold State.xcRecord
  dsimp only
  rw [f]
  dsimp only
  rw [if_neg (by simpa using v), if_pos w]

end Sys2Proof.Machine
end

