-- ==== Sys2Proof/Laws/Meanings.lean ====
section
/-!
SUPPORT. What each command keeps: one lemma for each meaning. The rows of a whole-device reset and of
Night end what the others keep, so they have lemmas of their own.
-/

namespace Sys2Proof.Machine

-- One theorem at a time: elaborated side by side, each waits in a thread with its own large stack.
set_option Elab.async false

variable {s t : State}

/-- A slew begins at a correction within the bounds, and keeps the one before it. -/
theorem State.startSlew_keeps (g : Clocks → Clocks) (ns : Int) (n : Nat)
    (w : ∀ x : Clocks, x.corr.natAbs ≤ Config.maxCorrection → (∀ c, x.slew = some c → c.prev.natAbs ≤ Config.maxCorrection) →
      (g x).corr.natAbs ≤ Config.maxCorrection
        ∧ ∀ c, (g x).slew = some c → c.prev.natAbs ≤ Config.maxCorrection) (h : Keeps s t) :
    Keeps s (t.setClk (fun x => (g x).startSlew ns n)) := by
  refine State.setClk_keeps _ (fun x a b => ?_) h
  unfold Clocks.startSlew
  split
  · exact w x a b
  · refine ⟨by simp only [clampCorr]; omega, fun c q => ?_⟩
    simp only [Option.some.injEq] at q
    subst q
    exact (w x a b).1

theorem execTimeSet_keeps (cmd : Nat) {u : State} (e : execTimeSet cmd t = .next u) : Keeps t u := by
  unfold execTimeSet at e
  injection e with e
  subst e
  have h := Keeps.refl t
  refine State.withCmd_keeps _ _ _ (fun c => ?_) h
  have k := State.endSlew_keeps h
  dsimp only
  refine Keeps.ite (State.finish_keeps _ _ _ _ (State.setClk_keeps _ (fun x a b => ⟨Nat.zero_le _, b⟩) k)) ?_
  have n := State.setClk_keeps (fun x => x.noServo .host) (fun _ a b => ⟨a, b⟩) k
  split
  · exact State.finish_keeps _ _ _ _ (State.send_keeps _ (State.setClk_keeps _ (fun _ a b => ⟨a, b⟩) k))
  · exact Keeps.ite (State.finish_keeps _ _ _ _ n) (Keeps.ite (State.finish_keeps _ _ _ _ k)
      (Keeps.ite (Keeps.ite (State.finish_keeps _ _ _ _ k) (State.finish_keeps _ _ _ _ (State.stepTime_keeps _ n)))
        (State.finish_keeps _ _ _ _ (State.startSlew_keeps (fun k => k.noServo .host) _ _ (fun _ a b => ⟨a, b⟩) k))))

theorem execTimeSlewEnd_keeps {u : State} (e : execTimeSlewEnd t = .next u) : Keeps t u := by
  unfold execTimeSlewEnd at e
  injection e with e
  subst e
  have h := Keeps.refl t
  exact State.when_keeps _ (State.endSlew_keeps h) h

theorem execTimeGet_keeps (cmd : Nat) (io : HostIo) {u : State} (e : execTimeGet cmd io t = .next u) : Keeps t u := by
  unfold execTimeGet at e
  injection e with e
  subst e
  have h := Keeps.refl t
  try dsimp only
  repeat' (first
    | (with_reducible assumption) | (with_reducible apply State.answer_keeps)
    | (with_reducible apply State.withCmd_keeps) | (with_reducible apply State.finish_keeps)
    | (with_reducible apply Keeps.ite) | (intro c) | (split))

theorem execGptpSync_keeps (p : Port4) (m : SyncMeasure) {u : State} (e : execGptpSync p m t = .next u) : Keeps t u := by
  unfold execGptpSync at e
  injection e with e
  subst e
  have h := Keeps.refl t
  have w : ∀ x : Clocks, (x.synced m).corr.natAbs ≤ Config.maxCorrection
      ∧ ∀ c, (x.synced m).slew = some c → c.prev.natAbs ≤ Config.maxCorrection := by
    intro x
    refine ⟨?_, fun c k => by simp [Clocks.synced] at k⟩
    simp only [Clocks.synced, clampCorr]
    omega
  exact State.when_keeps _ (Keeps.ite (State.setClk_keeps _ (fun x _ _ => w x) (State.stepTime_keeps _ h))
    (State.startSlew_keeps (fun c => c.synced m) _ _ (fun x _ _ => w x) h)) h

theorem execGptpPeerDelay_keeps (p : Port4) (m : PeerDelay) {u : State} (e : execGptpPeerDelay p m t = .next u) : Keeps t u := by
  unfold execGptpPeerDelay at e
  injection e with e
  subst e
  have h := Keeps.refl t
  try dsimp only
  repeat' (first
    | (with_reducible assumption) | (with_reducible apply State.send_keeps)
    | (with_reducible apply State.setClk_keeps _ (by exact fun _ hx hy => ⟨hx, hy⟩))
    | (with_reducible apply State.when_keeps) | (intro c) | (split)
    | (fail_if_no_progress with_reducible apply Keeps.plain))

theorem execGptpHoldover_keeps {u : State} (e : execGptpHoldover t = .next u) : Keeps t u := by
  unfold execGptpHoldover at e
  injection e with e
  subst e
  have h := Keeps.refl t
  try dsimp only
  repeat' (first
    | (with_reducible assumption)
    | (with_reducible apply State.setClk_keeps _ (by exact fun _ hx hy => ⟨hx, hy⟩))
    | (with_reducible apply State.when_keeps) | (intro c)
    | (fail_if_no_progress with_reducible apply Keeps.plain))

theorem execFaultAck_keeps (cmd : Nat) {u : State} (e : execFaultAck cmd t = .next u) : Keeps t u := by
  unfold execFaultAck at e
  injection e with e
  subst e
  have h := Keeps.refl t
  try dsimp only
  repeat' (first
    | (with_reducible assumption) | (with_reducible apply State.stopTimer_keeps)
    | (with_reducible apply State.unlatch_keeps) | (with_reducible apply State.withCmd_keeps)
    | (with_reducible apply State.finish_keeps) | (with_reducible apply Keeps.ite) | (intro c) | (split)
    | (with_reducible apply Keeps.collect _ (by first | exact id | exact fun w => (List.length_filter_le _ _).trans w))
    | (fail_if_no_progress with_reducible apply Keeps.plain))

theorem execFaultHistory_keeps (cmd : Nat) (io : HostIo) {u : State} (e : execFaultHistory cmd io t = .next u) : Keeps t u := by
  unfold execFaultHistory at e
  injection e with e
  subst e
  have h := Keeps.refl t
  try dsimp only
  repeat' (first
    | (with_reducible assumption) | (with_reducible apply State.answer_keeps)
    | (with_reducible apply State.withCmd_keeps) | (intro c) | (split))

theorem execThresholdSet_keeps (cmd : Nat) {u : State} (e : execThresholdSet cmd t = .next u) : Keeps t u := by
  unfold execThresholdSet at e
  injection e with e
  subst e
  have h := Keeps.refl t
  try dsimp only
  repeat' (first
    | (with_reducible assumption) | (with_reducible apply State.withCmd_keeps)
    | (with_reducible apply State.finish_keeps) | (intro c) | (split)
    | (with_reducible apply Keeps.collect _ (by first | exact id | exact fun w => (List.length_filter_le _ _).trans w))
    | (fail_if_no_progress with_reducible apply Keeps.plain))

theorem execFaultHoldoffEnd_keeps (source : Nat) (event : Ev) {u : State} (e : execFaultHoldoffEnd source event t = .next u) : Keeps t u := by
  unfold execFaultHoldoffEnd at e
  injection e with e
  subst e
  have h := Keeps.refl t
  try dsimp only
  repeat' (first
    | (with_reducible assumption) | (with_reducible apply State.when_keeps) | (intro c)
    | (with_reducible apply Keeps.collect _ (by first | exact id | exact fun w => (List.length_filter_le _ _).trans w))
    | (fail_if_no_progress with_reducible apply Keeps.plain))

theorem execReactionExpired_keeps (source : Nat) {u : State} (e : execReactionExpired source t = .next u) : Keeps t u := by
  unfold execReactionExpired at e
  injection e with e
  subst e
  have h := Keeps.refl t
  try dsimp only
  repeat' (first
    | (with_reducible assumption) | (with_reducible apply State.raiseFcu_keeps)
    | (with_reducible apply State.when_keeps) | (intro c) | (split)
    | (with_reducible apply Keeps.collect _ (by first | exact id | exact fun w => (List.length_filter_le _ _).trans w))
    | (fail_if_no_progress with_reducible apply Keeps.plain))

theorem execShadowTimerExpired_keeps (source : Nat) {u : State} (e : execShadowTimerExpired source t = .next u) : Keeps t u := by
  unfold execShadowTimerExpired at e
  injection e with e
  subst e
  have h := Keeps.refl t
  try dsimp only
  repeat' (first
    | (with_reducible assumption) | (with_reducible apply State.lampSafe_keeps)
    | (with_reducible apply State.setLamp_keeps _ (by exact fun _ hx => hx))
    | (with_reducible apply State.when_keeps) | (intro c)
    | (fail_if_no_progress with_reducible apply Keeps.plain))

theorem execFaultInNLow_keeps {u : State} (e : execFaultInNLow t = .next u) : Keeps t u := by
  unfold execFaultInNLow at e
  injection e with e
  subst e
  have h := Keeps.refl t
  try dsimp only
  repeat' (first
    | (with_reducible assumption) | (with_reducible apply State.wakeLater_keeps) | (with_reducible apply Keeps.ite) | (with_reducible apply State.raiseWide_keeps)
    | (with_reducible apply State.when_keeps))

theorem execVoltageMonitor_keeps (rail : Fin 10) {u : State} (e : execVoltageMonitor rail t = .next u) : Keeps t u := by
  unfold execVoltageMonitor at e
  injection e with e
  subst e
  have h := Keeps.refl t
  try dsimp only
  repeat' (first
    | (with_reducible assumption) | (with_reducible apply State.raiseWide_keeps)
    | (with_reducible apply State.when_keeps))

theorem execLockstepMismatch_keeps (p : Pair) {u : State} (e : execLockstepMismatch p t = .next u) : Keeps t u := by
  unfold execLockstepMismatch at e
  injection e with e
  subst e
  have h := Keeps.refl t
  try dsimp only
  repeat' (first
    | (with_reducible assumption) | (with_reducible apply State.raiseWide_keeps)
    | (with_reducible apply State.setLamp_keeps _ (by exact fun _ hx => hx))
    | (with_reducible apply State.setFore_keeps _ (by exact fun _ hx => hx))
    | (with_reducible apply State.when_keeps) | (intro c) | (split)
    | (fail_if_no_progress with_reducible apply Keeps.plain))

theorem execSqTailDb_keeps (f : FnId) (ring : RingId) (value : BitVec 32) {u : State} (e : execSqTailDb f ring value t = .next u) : Keeps t u := by
  unfold execSqTailDb at e
  injection e with e
  subst e
  have h := Keeps.refl t
  try dsimp only
  repeat' (first
    | (with_reducible assumption) | (with_reducible apply State.tailDoorbell_keeps)
    | (with_reducible apply State.when_keeps))

theorem execCqHeadDb_keeps (f : FnId) (ring : RingId) (value : BitVec 32) {u : State} (e : execCqHeadDb f ring value t = .next u) : Keeps t u := by
  unfold execCqHeadDb at e
  injection e with e
  subst e
  have h := Keeps.refl t
  try dsimp only
  repeat' (first
    | (with_reducible assumption) | (with_reducible apply State.headDoorbell_keeps)
    | (with_reducible apply State.when_keeps))

theorem execSqRingControlWrite_keeps (f : FnId) (ring : RingId) (value : BitVec 32) {u : State} (e : execSqRingControlWrite f ring value t = .next u) : Keeps t u := by
  unfold execSqRingControlWrite at e
  injection e with e
  subst e
  have h := Keeps.refl t
  try dsimp only
  repeat' (first
    | (with_reducible assumption) | (with_reducible apply State.sqControl_keeps)
    | (with_reducible apply State.when_keeps))

theorem execCqRingControlWrite_keeps (f : FnId) (ring : RingId) (value : BitVec 32) {u : State} (e : execCqRingControlWrite f ring value t = .next u) : Keeps t u := by
  unfold execCqRingControlWrite at e
  injection e with e
  subst e
  have h := Keeps.refl t
  try dsimp only
  repeat' (first
    | (with_reducible assumption) | (with_reducible apply State.cqControl_keeps)
    | (with_reducible apply State.when_keeps))

theorem execHwdogServiceKey1_keeps (f : FnId) {u : State} (e : execHwdogServiceKey1 f t = .next u) : Keeps t u := by
  unfold execHwdogServiceKey1 at e
  injection e with e
  subst e
  have h := Keeps.refl t
  try dsimp only
  repeat' (first
    | (with_reducible assumption) | (with_reducible apply State.arm_keeps)
    | (with_reducible apply State.when_keeps))

theorem execHwdogServiceKey2_keeps (f : FnId) {u : State} (e : execHwdogServiceKey2 f t = .next u) : Keeps t u := by
  unfold execHwdogServiceKey2 at e
  injection e with e
  subst e
  have h := Keeps.refl t
  try dsimp only
  repeat' (first
    | (with_reducible assumption) | (with_reducible apply State.key2_keeps)
    | (with_reducible apply State.when_keeps))

theorem execHwdogServiceOther_keeps (f : FnId) {u : State} (e : execHwdogServiceOther f t = .next u) : Keeps t u := by
  unfold execHwdogServiceOther at e
  injection e with e
  subst e
  have h := Keeps.refl t
  try dsimp only
  repeat' (first
    | (with_reducible assumption) | (with_reducible apply State.keyError_keeps)
    | (with_reducible apply State.when_keeps))

theorem execHwdogKeyTimeout_keeps (p : HostPort) {u : State} (e : execHwdogKeyTimeout p t = .next u) : Keeps t u := by
  unfold execHwdogKeyTimeout at e
  injection e with e
  subst e
  have h := Keeps.refl t
  try dsimp only
  repeat' (first
    | (with_reducible assumption) | (with_reducible apply State.arm_keeps)
    | (with_reducible apply State.when_keeps))

theorem execMsixVectorUnmask_keeps (f : FnId) (vector : Fin 32) {u : State} (e : execMsixVectorUnmask f vector t = .next u) : Keeps t u := by
  unfold execMsixVectorUnmask at e
  injection e with e
  subst e
  have h := Keeps.refl t
  try dsimp only
  repeat' (first
    | (with_reducible assumption) | (with_reducible apply State.msixMask_keeps)
    | (with_reducible apply State.when_keeps))

theorem execRegisterWrite_keeps (f : FnId) (offset : Nat) (size : Nat) (value : BitVec 64) {u : State} (e : execRegisterWrite f offset size value t = .next u) : Keeps t u := by
  unfold execRegisterWrite at e
  have h := Keeps.refl t
  split at e
  · injection e with e
    subst e
    exact State.when_keeps _ (State.barWrite_keeps _ _ _ h) h
  · split at e
    · injection e with e
      subst e
      exact State.when_keeps _ (State.barWrite_keeps _ _ _ (State.barWrite_keeps _ _ _ h)) h
    · injection e with e
      subst e
      exact h

theorem execCompletionWrite_keeps (cmd : Nat) (ok : Bool) {u : State} (e : execCompletionWrite cmd ok t = .next u) : Keeps t u := by
  unfold execCompletionWrite at e
  injection e with e
  subst e
  have h := Keeps.refl t
  try dsimp only
  repeat' (first
    | (with_reducible assumption) | (with_reducible apply State.helloDone_keeps)
    | (with_reducible apply State.moderate_keeps) | (with_reducible apply State.retire_keeps)
    | (with_reducible apply State.setCq_keeps) | (with_reducible apply State.setError_keeps)
    | (with_reducible apply State.send_keeps) | (with_reducible apply Keeps.ite) | (intro c) | (split)
    | (fail_if_no_progress with_reducible apply Keeps.plain))

theorem execCqModerationTimer_keeps (f : FnId) (ring : RingId) {u : State} (e : execCqModerationTimer f ring t = .next u) : Keeps t u := by
  unfold execCqModerationTimer at e
  injection e with e
  subst e
  have h := Keeps.refl t
  try dsimp only
  repeat' (first
    | (with_reducible assumption) | (with_reducible apply State.signalCq_keeps)
    | (with_reducible apply State.when_keeps))

theorem execFunctionLevelReset_keeps (f : FnId) {u : State} (e : execFunctionLevelReset f t = .next u) : Keeps t u := by
  unfold execFunctionLevelReset at e
  injection e with e
  subst e
  have h := Keeps.refl t
  try dsimp only
  repeat' (first
    | (with_reducible assumption) | (with_reducible apply State.flr_keeps)
    | (with_reducible apply State.when_keeps))

theorem execFlrDone_keeps (f : FnId) {u : State} (e : execFlrDone f t = .next u) : Keeps t u := by
  unfold execFlrDone at e
  injection e with e
  subst e
  have h := Keeps.refl t
  try dsimp only
  repeat' (first
    | (with_reducible assumption) | (with_reducible apply State.flrEnd_keeps)
    | (with_reducible apply State.when_keeps))

theorem execPerstNAssert_keeps (p : HostPort) {u : State} (e : execPerstNAssert p t = .next u) : Keeps t u := by
  unfold execPerstNAssert at e
  injection e with e
  subst e
  have h := Keeps.refl t
  try dsimp only
  repeat' (first
    | (with_reducible assumption) | (with_reducible apply State.flr_keeps)
    | (with_reducible apply State.setPort_keeps) | (with_reducible apply State.when_keeps) | (intro c)
    | (fail_if_no_progress with_reducible apply Keeps.plain))

theorem execPerstNDeassert_keeps (p : HostPort) {u : State} (e : execPerstNDeassert p t = .next u) : Keeps t u := by
  unfold execPerstNDeassert at e
  injection e with e
  subst e
  have h := Keeps.refl t
  try dsimp only
  repeat' (first
    | (with_reducible assumption) | (with_reducible apply State.setPort_keeps)
    | (with_reducible apply State.when_keeps) | (intro c)
    | (fail_if_no_progress with_reducible apply Keeps.plain))

theorem execPcieTrainingStart_keeps {u : State} (e : execPcieTrainingStart t = .next u) : Keeps t u := by
  unfold execPcieTrainingStart at e
  injection e with e
  subst e
  have h := Keeps.refl t
  try dsimp only
  repeat' (first
    | (with_reducible assumption) | (with_reducible apply State.setBoot_keeps)
    | (with_reducible apply State.setPort_keeps) | (with_reducible apply State.when_keeps) | (intro c)
    | (split) | (fail_if_no_progress with_reducible apply Keeps.plain))

theorem execPcieLinkUp_keeps (p : HostPort) {u : State} (e : execPcieLinkUp p t = .next u) : Keeps t u := by
  unfold execPcieLinkUp at e
  injection e with e
  subst e
  have h := Keeps.refl t
  try dsimp only
  repeat' (first
    | (with_reducible assumption) | (with_reducible apply State.setPort_keeps)
    | (with_reducible apply State.when_keeps) | (intro c)
    | (fail_if_no_progress with_reducible apply Keeps.plain))

theorem execPcieConfigRequest_keeps (p : HostPort) (req : ConfigReq) {u : State} (e : execPcieConfigRequest p req t = .next u) : Keeps t u := by
  unfold execPcieConfigRequest at e
  injection e with e
  subst e
  have h := Keeps.refl t
  try dsimp only
  repeat' (first
    | (with_reducible assumption) | (with_reducible apply State.msixControl_keeps)
    | (with_reducible apply State.send_keeps) | (with_reducible apply State.setPort_keeps)
    | (with_reducible apply State.when_keeps) | (with_reducible apply Keeps.ite) | (intro c) | (split)
    | (fail_if_no_progress with_reducible apply Keeps.plain))

theorem execLoscQualifyCount_keeps (count : Nat) (ran4096 : Bool) {u : State} (e : execLoscQualifyCount count ran4096 t = .next u) : Keeps t u := by
  unfold execLoscQualifyCount at e
  injection e with e
  subst e
  have h := Keeps.refl t
  try dsimp only
  repeat' (first
    | (with_reducible assumption) | (with_reducible apply State.setLamp_keeps _ (by exact fun _ hx => hx))
    | (with_reducible apply State.when_keeps) | (intro c)
    | (fail_if_no_progress with_reducible apply Keeps.plain))

theorem execClockMonitorWindow_keeps (m : Monitor) (count : Nat) {u : State} (e : execClockMonitorWindow m count t = .next u) : Keeps t u := by
  unfold execClockMonitorWindow at e
  injection e with e
  subst e
  have h := Keeps.refl t
  try dsimp only
  repeat' (first
    | (with_reducible assumption) | (with_reducible apply State.trip_keeps)
    | (with_reducible apply State.clearLive_keeps)
    | (with_reducible apply State.setLamp_keeps _ (by exact fun _ hx => hx))
    | (with_reducible apply State.when_keeps) | (with_reducible apply Keeps.ite) | (intro c) | (split)
    | (fail_if_no_progress with_reducible apply Keeps.plain))

theorem execWdogService_keeps (w : WdogId) (tick : Nat) {u : State} (e : execWdogService w tick t = .next u) : Keeps t u := by
  unfold execWdogService at e
  injection e with e
  subst e
  have h := Keeps.refl t
  try dsimp only
  repeat' (first
    | (with_reducible assumption) | (with_reducible apply State.wdogJudge_keeps)
    | (with_reducible apply State.tick_keeps) | (with_reducible apply State.setWdog_keeps)
    | (with_reducible apply State.when_keeps) | (intro c) | (split)
    | (fail_if_no_progress with_reducible apply Keeps.plain))

theorem execWdogPeriodEnd_keeps (w : WdogId) {u : State} (e : execWdogPeriodEnd w t = .next u) : Keeps t u := by
  unfold execWdogPeriodEnd at e
  injection e with e
  subst e
  have h := Keeps.refl t
  try dsimp only
  repeat' (first
    | (with_reducible assumption) | (with_reducible apply State.wdogFailure_keeps)
    | (with_reducible apply State.when_keeps))

theorem execWdogClockStopped_keeps (w : WdogId) {u : State} (e : execWdogClockStopped w t = .next u) : Keeps t u := by
  unfold execWdogClockStopped at e
  injection e with e
  subst e
  have h := Keeps.refl t
  try dsimp only
  repeat' (first
    | (with_reducible assumption) | (with_reducible apply State.raise_keeps)
    | (with_reducible apply State.setWdog_keeps) | (with_reducible apply State.when_keeps) | (intro c)
    | (fail_if_no_progress with_reducible apply Keeps.plain))

theorem execForemanWdogService_keeps (loopPassed : Bool) (f0Answered : Bool) (f1Answered : Bool) (timersReadable : Bool) {u : State} (e : execForemanWdogService loopPassed f0Answered f1Answered timersReadable t = .next u) : Keeps t u := by
  unfold execForemanWdogService at e
  injection e with e
  subst e
  have h := Keeps.refl t
  try dsimp only
  repeat' (first
    | (with_reducible assumption) | (with_reducible apply State.sendService_keeps)
    | (with_reducible apply State.when_keeps))

theorem execWdogConfig_keeps (cmd : Nat) {u : State} (e : execWdogConfig cmd t = .next u) : Keeps t u := by
  unfold execWdogConfig at e
  injection e with e
  subst e
  have h := Keeps.refl t
  try dsimp only
  repeat' (first
    | (with_reducible assumption) | (with_reducible apply State.crosses_keeps)
    | (with_reducible apply State.withCmd_keeps) | (intro c))

theorem execCanConfig_keeps (cmd : Nat) {u : State} (e : execCanConfig cmd t = .next u) : Keeps t u := by
  unfold execCanConfig at e
  injection e with e
  subst e
  have h := Keeps.refl t
  try dsimp only
  repeat' (first
    | (with_reducible assumption) | (with_reducible apply State.crosses_keeps)
    | (with_reducible apply State.withCmd_keeps) | (with_reducible apply State.finish_keeps) | (intro c)
    | (split) | (fail_if_no_progress with_reducible apply Keeps.plain))

theorem execCanSend_keeps (cmd : Nat) {u : State} (e : execCanSend cmd t = .next u) : Keeps t u := by
  unfold execCanSend at e
  injection e with e
  subst e
  have h := Keeps.refl t
  try dsimp only
  repeat' (first
    | (with_reducible assumption) | (with_reducible apply State.crosses_keeps)
    | (with_reducible apply State.withCmd_keeps) | (with_reducible apply State.finish_keeps) | (intro c)
    | (split) | (fail_if_no_progress with_reducible apply Keeps.plain))

theorem execSafeMessageSet_keeps (cmd : Nat) {u : State} (e : execSafeMessageSet cmd t = .next u) : Keeps t u := by
  unfold execSafeMessageSet at e
  injection e with e
  subst e
  have h := Keeps.refl t
  try dsimp only
  repeat' (first
    | (with_reducible assumption) | (with_reducible apply State.crosses_keeps)
    | (with_reducible apply State.withCmd_keeps) | (with_reducible apply State.finish_keeps) | (intro c)
    | (split) | (fail_if_no_progress with_reducible apply Keeps.plain))

theorem execCanFrameEnd_keeps (b : BusId) (o : CanOutcome) {u : State} (e : execCanFrameEnd b o t = .next u) : Keeps t u := by
  unfold execCanFrameEnd at e
  injection e with e
  subst e
  have h := Keeps.refl t
  try dsimp only
  repeat' (first
    | (with_reducible assumption) | (with_reducible apply State.canBusOff_keeps)
    | (with_reducible apply State.canPassive_keeps) | (with_reducible apply State.kick_keeps)
    | (with_reducible apply State.finish_keeps) | (with_reducible apply State.setCan_keeps)
    | (with_reducible apply State.when_keeps) | (intro c) | (split)
    | (fail_if_no_progress with_reducible apply Keeps.plain))

theorem execCanBusOffRecoveryDone_keeps (b : BusId) {u : State} (e : execCanBusOffRecoveryDone b t = .next u) : Keeps t u := by
  unfold execCanBusOffRecoveryDone at e
  injection e with e
  subst e
  have h := Keeps.refl t
  try dsimp only
  repeat' (first
    | (with_reducible assumption) | (with_reducible apply State.kick_keeps)
    | (with_reducible apply State.setCan_keeps) | (with_reducible apply State.when_keeps) | (intro c)
    | (fail_if_no_progress with_reducible apply Keeps.plain))

theorem execCanSendTimeout_keeps (b : BusId) (cmd : Nat) {u : State} (e : execCanSendTimeout b cmd t = .next u) : Keeps t u := by
  unfold execCanSendTimeout at e
  injection e with e
  subst e
  have h := Keeps.refl t
  try dsimp only
  repeat' (first
    | (with_reducible assumption) | (with_reducible apply State.finish_keeps)
    | (with_reducible apply State.setCan_keeps) | (with_reducible apply State.when_keeps) | (intro c)
    | (split) | (fail_if_no_progress with_reducible apply Keeps.plain))

theorem execCanFrameReceived_keeps (b : BusId) (good : Bool) {u : State} (e : execCanFrameReceived b good t = .next u) : Keeps t u := by
  unfold execCanFrameReceived at e
  injection e with e
  subst e
  have h := Keeps.refl t
  try dsimp only
  repeat' (first
    | (with_reducible assumption) | (with_reducible apply State.canPassive_keeps)
    | (with_reducible apply State.setCan_keeps) | (with_reducible apply State.when_keeps)
    | (with_reducible apply Keeps.ite) | (intro c) | (split)
    | (fail_if_no_progress with_reducible apply Keeps.plain))

theorem execSafeMessageRepeat_keeps (b : BusId) {u : State} (e : execSafeMessageRepeat b t = .next u) : Keeps t u := by
  unfold execSafeMessageRepeat at e
  injection e with e
  subst e
  have h := Keeps.refl t
  try dsimp only
  repeat' (first
    | (with_reducible assumption) | (with_reducible apply State.kick_keeps)
    | (with_reducible apply State.setCan_keeps) | (with_reducible apply State.when_keeps) | (intro c)
    | (split) | (fail_if_no_progress with_reducible apply Keeps.plain))

theorem execLampSeamFrame_keeps (dest : Side) (crcOk : Bool) {u : State} (e : execLampSeamFrame dest crcOk t = .next u) : Keeps t u := by
  unfold execLampSeamFrame at e
  injection e with e
  subst e
  have w : ∀ (g : SeamSide → SeamSide) (x : Lamp), x.safe = true → (x.setSide dest g).safe = true := by
    intro g x hx
    cases dest <;> exact hx
  have h := Keeps.refl t
  apply State.when_keeps _ _ h
  split
  · exact State.deliver_keeps _ (State.setLamp_keeps _ (w _) h)
  · have k := State.setLamp_keeps _ (w (fun x => { x with badCrc := x.badCrc + 1, crcErrors := x.crcErrors + 1 }))
      (Keeps.ite (c := nextMsg (t.lamp.inbox dest) = some .heartbeat) (State.dropMsg_keeps dest .heartbeat h) h)
    exact Keeps.ite (State.losesSeam_keeps _ k) k

theorem execLampSeamHeartbeatInterval_keeps (side : Side) {u : State} (e : execLampSeamHeartbeatInterval side t = .next u) : Keeps t u := by
  unfold execLampSeamHeartbeatInterval at e
  injection e with e
  subst e
  have w : ∀ (g : SeamSide → SeamSide) (x : Lamp), x.safe = true → (x.setSide side g).safe = true := by
    intro g x hx
    cases side <;> exact hx
  have h := Keeps.refl t
  have b := State.beat_keeps side h
  refine State.when_keeps _ (Keeps.ite (State.setLamp_keeps _ (w _) b) ?_) h
  exact Keeps.ite (State.losesSeam_keeps _ (State.setLamp_keeps _ (w _) b)) (State.setLamp_keeps _ (w _) b)

/-- A lamp die that resets alone leaves its own safe state (R453), and nothing else is lost. -/
theorem execLampDieReset_keeps {u : State} (e : execLampDieReset t = .next u) :
    Keeps { t with lamp := { t.lamp with safe := false } } u := by
  unfold execLampDieReset at e
  injection e with e
  subst e
  have h : Keeps { t with lamp := { t.lamp with safe := false } } t :=
    ⟨rfl, List.suffix_refl _, fun i => ⟨i.mem, i.yard, i.timers, i.views, i.corr, i.slew, i.log, i.held⟩, id,
      ⟨id, fun a => by simp at a, id, id⟩⟩
  refine State.when_keeps _ (State.setLamp_keeps _ (fun _ hx => hx) ?_) h
  have k : Keeps { t with lamp := { t.lamp with safe := false } } { t with
       lamp := { rootSide := t.lamp.rootSide }
       can := Vector.ofFn (fun b => CanBus.start t.fixed b)
       wdog := Vector.replicate 3 (Wdog.start t.fixed.wdogHwStart false) } :=
    ⟨rfl, List.suffix_refl _, fun i => ⟨i.mem, i.yard, i.timers, i.views, i.corr, i.slew, i.log, i.held⟩, id,
      ⟨id, fun a => by simp at a, id, id⟩⟩
  exact Keeps.ite (State.rootLosesSeam_keeps k) k

theorem execDriftPacket_keeps (p : Port4) (packet : Bytes) {u : State} (e : execDriftPacket p packet t = .next u) : Keeps t u := by
  unfold execDriftPacket at e
  injection e with e
  subst e
  have h := Keeps.refl t
  try dsimp only
  repeat' (first
    | (with_reducible assumption) | (with_reducible apply State.driftAct_keeps)
    | (with_reducible apply State.driftLacked_keeps) | (with_reducible apply State.driftLack_keeps)
    | (with_reducible apply State.setDrift_keeps) | (with_reducible apply State.when_keeps)
    | (with_reducible apply Keeps.ite) | (intro c) | (split)
    | (fail_if_no_progress with_reducible apply Keeps.plain))

theorem execDriftLinkChange_keeps (p : Port4) (up : Bool) {u : State} (e : execDriftLinkChange p up t = .next u) : Keeps t u := by
  unfold execDriftLinkChange at e
  injection e with e
  subst e
  have h := Keeps.refl t
  try dsimp only
  repeat' (first
    | (with_reducible assumption) | (with_reducible apply State.driftSend_keeps)
    | (with_reducible apply State.setDrift_keeps) | (with_reducible apply State.when_keeps)
    | (with_reducible apply Keeps.ite) | (intro c) | (split)
    | (fail_if_no_progress with_reducible apply Keeps.plain))

theorem execDriftTrainingRetry_keeps (p : Port4) {u : State} (e : execDriftTrainingRetry p t = .next u) : Keeps t u := by
  unfold execDriftTrainingRetry at e
  injection e with e
  subst e
  have h := Keeps.refl t
  try dsimp only
  repeat' (first
    | (with_reducible assumption) | (with_reducible apply State.setDrift_keeps)
    | (with_reducible apply State.when_keeps))

theorem execDriftConfig_keeps (cmd : Nat) {u : State} (e : execDriftConfig cmd t = .next u) : Keeps t u := by
  unfold execDriftConfig at e
  injection e with e
  subst e
  have h := Keeps.refl t
  try dsimp only
  repeat' (first
    | (with_reducible assumption) | (with_reducible apply State.withCmd_keeps)
    | (with_reducible apply State.finish_keeps) | (with_reducible apply State.setDrift_keeps)
    | (with_reducible apply Keeps.ite) | (intro c) | (split)
    | (fail_if_no_progress with_reducible apply Keeps.plain))

theorem execCrosscheckConfig_keeps (cmd : Nat) {u : State} (e : execCrosscheckConfig cmd t = .next u) : Keeps t u := by
  unfold execCrosscheckConfig at e
  injection e with e
  subst e
  have h := Keeps.refl t
  refine State.withCmd_keeps _ _ _ (fun c => ?_) h
  have r (a b : BitVec 16) (v : BitVec 64) : Keeps t (t.finish cmd a b v) := State.finish_keeps _ _ _ _ h
  exact Keeps.ite (State.finish_keeps _ _ _ _ (h.cross _ (fun _ => Nat.zero_le _)))
    (Keeps.ite (r _ _ _) (Keeps.ite (r _ _ _) (Keeps.ite (r _ _ _) (State.finish_keeps _ _ _ _ (h.cross _ id)))))

theorem execXcUnmatchedTimeout_keeps (c : CtxId) (counter : BitVec 32) {u : State} (e : execXcUnmatchedTimeout c counter t = .next u) : Keeps t u := by
  unfold execXcUnmatchedTimeout at e
  injection e with e
  subst e
  have h := Keeps.refl t
  refine State.when_keeps _ ?_ h
  split
  · exact h
  · exact State.xcMissing_keeps _ (h.cross _ (fun w => (List.length_erase_le ..).trans w))

theorem execShiftBoundary_keeps {u : State} (e : execShiftBoundary t = .next u) : Keeps t u := by
  unfold execShiftBoundary at e
  injection e with e
  subst e
  have h := Keeps.refl t
  try dsimp only
  repeat' (first
    | (with_reducible assumption) | (with_reducible apply State.beginShift_keeps)
    | (with_reducible apply State.when_keeps))

theorem execSeamTransfer_keeps (n : ScionId) (toRootstock : Bool) (crcOk : Bool) {u : State} (e : execSeamTransfer n toRootstock crcOk t = .next u) : Keeps t u := by
  unfold execSeamTransfer at e
  injection e with e
  subst e
  have h := Keeps.refl t
  try dsimp only
  repeat' (first
    | (with_reducible assumption) | (with_reducible apply State.loseScion_keeps)
    | (with_reducible apply State.raiseWide_keeps) | (with_reducible apply State.setScion_keeps)
    | (with_reducible apply State.when_keeps) | (with_reducible apply Keeps.ite) | (intro c) | (split)
    | (fail_if_no_progress with_reducible apply Keeps.plain))

theorem execSeamHeartbeatInterval_keeps (n : ScionId) (heard : Bool) {u : State} (e : execSeamHeartbeatInterval n heard t = .next u) : Keeps t u := by
  unfold execSeamHeartbeatInterval at e
  injection e with e
  subst e
  have h := Keeps.refl t
  try dsimp only
  repeat' (first
    | (with_reducible assumption) | (with_reducible apply State.loseScion_keeps)
    | (with_reducible apply State.setScion_keeps) | (with_reducible apply State.when_keeps)
    | (with_reducible apply Keeps.ite) | (intro c) | (split)
    | (fail_if_no_progress with_reducible apply Keeps.plain))

theorem execScionClockLockLoss_keeps (n : ScionId) {u : State} (e : execScionClockLockLoss n t = .next u) : Keeps t u := by
  unfold execScionClockLockLoss at e
  injection e with e
  subst e
  have h := Keeps.refl t
  try dsimp only
  repeat' (first
    | (with_reducible assumption) | (with_reducible apply State.loseScion_keeps)
    | (with_reducible apply State.when_keeps))

theorem execScionResetAssert_keeps (n : ScionId) {u : State} (e : execScionResetAssert n t = .next u) : Keeps t u := by
  unfold execScionResetAssert at e
  injection e with e
  subst e
  have h := Keeps.refl t
  try dsimp only
  repeat' (first
    | (with_reducible assumption) | (with_reducible apply State.loseScion_keeps)
    | (with_reducible apply State.when_keeps))

theorem execTileStart_keeps {u : State} (e : execTileStart t = .next u) : Keeps t u := by
  unfold execTileStart at e
  injection e with e
  subst e
  have h := Keeps.refl t
  try dsimp only
  repeat' (first
    | (with_reducible assumption) | (with_reducible apply State.startTile_keeps)
    | (with_reducible apply State.when_keeps) | (split)
    | (fail_if_no_progress with_reducible apply Keeps.plain))

theorem execTileEnd_keeps (e' : EngineId) (events : List TileEvent) (measuredUs : Nat) {u : State} (e : execTileEnd e' events measuredUs t = .next u) : Keeps t u := by
  unfold execTileEnd at e
  injection e with e
  subst e
  have h := Keeps.refl t
  try dsimp only
  repeat' (first
    | (with_reducible assumption) | (with_reducible apply State.endTile_keeps)
    | (with_reducible apply State.settleWithdrawal_keeps) | (with_reducible apply State.setEngine_keeps)
    | (with_reducible apply State.when_keeps) | (intro c) | (split)
    | (fail_if_no_progress with_reducible apply Keeps.plain))

theorem execGraphLoad_keeps (cmd : Nat) (img : ImageRead GraphImage) {u : State} (e : execGraphLoad cmd img t = .next u) : Keeps t u := by
  unfold execGraphLoad at e
  injection e with e
  subst e
  have h := Keeps.refl t
  try dsimp only
  repeat' (first
    | (with_reducible assumption) | (with_reducible apply State.loadGraph_keeps)
    | (with_reducible apply State.imageFails_keeps) | (with_reducible apply State.access_keeps)
    | (with_reducible apply State.withCmd_keeps) | (with_reducible apply State.finish_keeps)
    | (with_reducible apply Keeps.ite) | (intro c) | (split)
    | (fail_if_no_progress with_reducible apply Keeps.plain))

theorem execGraphUnload_keeps (cmd : Nat) {u : State} (e : execGraphUnload cmd t = .next u) : Keeps t u := by
  unfold execGraphUnload at e
  injection e with e
  subst e
  have h := Keeps.refl t
  try dsimp only
  repeat' (first
    | (with_reducible assumption) | (with_reducible apply State.zeroGraph_keeps)
    | (with_reducible apply State.release_keeps) | (with_reducible apply State.withCmd_keeps)
    | (with_reducible apply State.finish_keeps)
    | (with_reducible apply State.setFn_keeps _ _ (by exact fun _ hx => hx))
    | (with_reducible apply Keeps.ite) | (intro c) | (split)
    | (fail_if_no_progress with_reducible apply Keeps.plain))

theorem execJobSubmit_keeps (cmd : Nat) {u : State} (e : execJobSubmit cmd t = .next u) : Keeps t u := by
  unfold execJobSubmit at e
  injection e with e
  subst e
  have h := Keeps.refl t
  try dsimp only
  repeat' (first
    | (with_reducible assumption) | (with_reducible apply State.submitRun_keeps)
    | (with_reducible apply State.withJob_keeps) | (with_reducible apply State.finish_keeps)
    | (with_reducible apply Keeps.ite) | (intro c) | (split)
    | (fail_if_no_progress with_reducible apply Keeps.plain))

theorem execJobCancel_keeps (cmd : Nat) {u : State} (e : execJobCancel cmd t = .next u) : Keeps t u := by
  unfold execJobCancel at e
  injection e with e
  subst e
  have h := Keeps.refl t
  try dsimp only
  repeat' (first
    | (with_reducible assumption) | (with_reducible apply State.cancelTarget_keeps)
    | (with_reducible apply State.withCmd_keeps) | (with_reducible apply State.finish_keeps)
    | (with_reducible apply Keeps.foldl) | (with_reducible apply Keeps.ite) | (intro u a hu) | (intro c)
    | (split))

theorem execBindStream_keeps (cmd : Nat) {u : State} (e : execBindStream cmd t = .next u) : Keeps t u := by
  unfold execBindStream at e
  injection e with e
  subst e
  have h := Keeps.refl t
  try dsimp only
  repeat' (first
    | (with_reducible assumption) | (with_reducible apply State.cancelUnbegun_keeps)
    | (with_reducible apply State.flush_keeps) | (with_reducible apply State.withCmd_keeps)
    | (with_reducible apply State.finish_keeps) | (with_reducible apply State.setStream_keeps)
    | (with_reducible apply Keeps.ite) | (intro c) | (split)
    | (fail_if_no_progress with_reducible apply Keeps.plain))

theorem execReserve_keeps (cmd : Nat) {u : State} (e : execReserve cmd t = .next u) : Keeps t u := by
  unfold execReserve at e
  injection e with e
  subst e
  have h := Keeps.refl t
  try dsimp only
  repeat' (first
    | (with_reducible assumption) | (with_reducible apply State.setReservation_keeps)
    | (with_reducible apply State.withCmd_keeps) | (with_reducible apply State.finish_keeps)
    | (with_reducible apply State.setFore_keeps _ (by exact fun _ hx => hx))
    | (with_reducible apply State.drawn_keeps) | (with_reducible apply Keeps.ite) | (intro c) | (split)
    | (fail_if_no_progress with_reducible apply Keeps.plain))

theorem execKvOpen_keeps (cmd : Nat) {u : State} (e : execKvOpen cmd t = .next u) : Keeps t u := by
  unfold execKvOpen at e
  injection e with e
  subst e
  have h := Keeps.refl t
  try dsimp only
  repeat' (first
    | (with_reducible assumption) | (with_reducible apply State.withCmd_keeps)
    | (with_reducible apply State.finish_keeps)
    | (with_reducible apply State.setFn_keeps _ _ (by exact fun _ hx => hx))
    | (with_reducible apply State.drawn_keeps) | (with_reducible apply Keeps.ite) | (intro c) | (split)
    | (fail_if_no_progress with_reducible apply Keeps.plain))

theorem execKvTrim_keeps (cmd : Nat) {u : State} (e : execKvTrim cmd t = .next u) : Keeps t u := by
  unfold execKvTrim at e
  injection e with e
  subst e
  have h := Keeps.refl t
  try dsimp only
  repeat' (first
    | (with_reducible assumption) | (with_reducible apply State.dropPage_keeps)
    | (with_reducible apply State.setSeq_keeps) | (with_reducible apply State.withCmd_keeps)
    | (with_reducible apply State.finish_keeps) | (with_reducible apply Keeps.foldl)
    | (with_reducible apply Keeps.ite) | (intro u a hu) | (intro c) | (split)
    | (fail_if_no_progress with_reducible apply Keeps.plain))

theorem execKvClose_keeps (cmd : Nat) {u : State} (e : execKvClose cmd t = .next u) : Keeps t u := by
  unfold execKvClose at e
  injection e with e
  subst e
  have h := Keeps.refl t
  try dsimp only
  repeat' (first
    | (with_reducible assumption) | (with_reducible apply State.dropPage_keeps)
    | (with_reducible apply State.withCmd_keeps) | (with_reducible apply State.finish_keeps)
    | (with_reducible apply State.setFn_keeps _ _ (by exact fun _ hx => hx))
    | (with_reducible apply Keeps.foldl) | (with_reducible apply Keeps.ite) | (intro u a hu) | (intro c)
    | (split) | (fail_if_no_progress with_reducible apply Keeps.plain))

theorem execKvQuery_keeps (cmd : Nat) {u : State} (e : execKvQuery cmd t = .next u) : Keeps t u := by
  unfold execKvQuery at e
  injection e with e
  subst e
  have h := Keeps.refl t
  try dsimp only
  repeat' (first
    | (with_reducible assumption) | (with_reducible apply State.withCmd_keeps)
    | (with_reducible apply State.finish_keeps) | (intro c) | (split)
    | (fail_if_no_progress with_reducible apply Keeps.plain))

theorem execKvScatter_keeps (cmd : Nat) (graft2 : Option WriteFault) {u : State} (e : execKvScatter cmd graft2 t = .next u) : Keeps t u := by
  unfold execKvScatter at e
  injection e with e
  subst e
  have h := Keeps.refl t
  try dsimp only
  repeat' (first
    | (with_reducible assumption) | (with_reducible apply State.replayAppend_keeps)
    | (with_reducible apply State.consume_keeps) | (with_reducible apply State.append_keeps)
    | (with_reducible apply State.scatterEnd_keeps) | (with_reducible apply State.withCmd_keeps)
    | (with_reducible apply Keeps.ite) | (intro c) | (split)
    | (fail_if_no_progress with_reducible apply Keeps.plain))

theorem execAttend_keeps (cmd : Nat) {u : State} (e : execAttend cmd t = .next u) : Keeps t u := by
  unfold execAttend at e
  injection e with e
  subst e
  have h := Keeps.refl t
  try dsimp only
  repeat' (first
    | (with_reducible assumption) | (with_reducible apply State.submitRun_keeps)
    | (with_reducible apply State.withJob_keeps) | (with_reducible apply State.finish_keeps)
    | (with_reducible apply Keeps.ite) | (intro c) | (split)
    | (fail_if_no_progress with_reducible apply Keeps.plain))

theorem execChroylinkGroupStart_keeps (g : Fin 6) {u : State} (e : execChroylinkGroupStart g t = .next u) : Keeps t u := by
  unfold execChroylinkGroupStart at e
  injection e with e
  subst e
  have h := Keeps.refl t
  try dsimp only
  repeat' (first
    | (with_reducible assumption) | (with_reducible apply State.when_keeps)
    | (with_reducible apply Keeps.ite) | (intro c) | (split)
    | (fail_if_no_progress with_reducible apply Keeps.plain))

theorem execChroylinkGroupWindowClose_keeps (g : Fin 6) {u : State} (e : execChroylinkGroupWindowClose g t = .next u) : Keeps t u := by
  unfold execChroylinkGroupWindowClose at e
  injection e with e
  subst e
  have h := Keeps.refl t
  try dsimp only
  repeat' (first
    | (with_reducible assumption) | (with_reducible apply State.setBoot_keeps)
    | (with_reducible apply State.when_keeps) | (with_reducible apply Keeps.ite) | (intro c) | (split)
    | (fail_if_no_progress with_reducible apply Keeps.plain))

theorem execClTrainingAttemptStart_keeps (p : ClPortId) {u : State} (e : execClTrainingAttemptStart p t = .next u) : Keeps t u := by
  unfold execClTrainingAttemptStart at e
  injection e with e
  subst e
  have h := Keeps.refl t
  try dsimp only
  repeat' (first
    | (with_reducible assumption) | (with_reducible apply State.bcSend_keeps)
    | (with_reducible apply State.setCl_keeps) | (with_reducible apply State.when_keeps) | (intro c)
    | (fail_if_no_progress with_reducible apply Keeps.plain))

theorem execClPreambleFound_keeps (p : ClPortId) (agc : BitVec 7) {u : State} (e : execClPreambleFound p agc t = .next u) : Keeps t u := by
  unfold execClPreambleFound at e
  injection e with e
  subst e
  have h := Keeps.refl t
  try dsimp only
  repeat' (first
    | (with_reducible assumption) | (with_reducible apply State.setCl_keeps)
    | (with_reducible apply State.when_keeps) | (with_reducible apply Keeps.ite) | (intro c) | (split)
    | (fail_if_no_progress with_reducible apply Keeps.plain))

theorem execClCtlePresetDone_keeps (p : ClPortId) (error : Nat) (agc : BitVec 7) (x : Preamble) {u : State} (e : execClCtlePresetDone p error agc x t = .next u) : Keeps t u := by
  unfold execClCtlePresetDone at e
  injection e with e
  subst e
  have h := Keeps.refl t
  try dsimp only
  repeat' (first
    | (with_reducible assumption) | (with_reducible apply State.setCl_keeps)
    | (with_reducible apply State.when_keeps) | (intro c))

theorem execClDfePreambleDone_keeps (p : ClPortId) (x : Preamble) {u : State} (e : execClDfePreambleDone p x t = .next u) : Keeps t u := by
  unfold execClDfePreambleDone at e
  injection e with e
  subst e
  have h := Keeps.refl t
  try dsimp only
  repeat' (first
    | (with_reducible assumption) | (with_reducible apply State.bcSend_keeps)
    | (with_reducible apply State.setCl_keeps) | (with_reducible apply State.when_keeps) | (intro c)
    | (fail_if_no_progress with_reducible apply Keeps.plain))

theorem execClTrainingBoundExpired_keeps (p : ClPortId) {u : State} (e : execClTrainingBoundExpired p t = .next u) : Keeps t u := by
  unfold execClTrainingBoundExpired at e
  injection e with e
  subst e
  have h := Keeps.refl t
  try dsimp only
  repeat' (first
    | (with_reducible assumption) | (with_reducible apply State.clDown_keeps)
    | (with_reducible apply State.when_keeps))

theorem execBackchannelAckTimeout_keeps (p : ClPortId) (msgNo : Fin 16) {u : State} (e : execBackchannelAckTimeout p msgNo t = .next u) : Keeps t u := by
  unfold execBackchannelAckTimeout at e
  injection e with e
  subst e
  have h := Keeps.refl t
  try dsimp only
  repeat' (first
    | (with_reducible assumption) | (with_reducible apply State.retrain_keeps)
    | (with_reducible apply State.send_keeps) | (with_reducible apply State.setCl_keeps)
    | (with_reducible apply State.when_keeps) | (with_reducible apply Keeps.ite) | (intro c) | (split)
    | (fail_if_no_progress with_reducible apply Keeps.plain))

theorem execLinkBlock_keeps (p : ClPortId) (b : LinkBlock) {u : State} (e : execLinkBlock p b t = .next u) : Keeps t u := by
  unfold execLinkBlock at e
  injection e with e
  subst e
  have h := Keeps.refl t
  try dsimp only
  repeat' (first
    | (with_reducible assumption) | (with_reducible apply State.hunt_keeps)
    | (with_reducible apply State.syncLoss_keeps) | (with_reducible apply State.takeBlock_keeps)
    | (with_reducible apply State.setCl_keeps) | (with_reducible apply State.when_keeps)
    | (with_reducible apply Keeps.ite) | (intro c) | (split)
    | (fail_if_no_progress with_reducible apply Keeps.plain))

theorem execClResyncTimeout_keeps (p : ClPortId) {u : State} (e : execClResyncTimeout p t = .next u) : Keeps t u := by
  unfold execClResyncTimeout at e
  injection e with e
  subst e
  have h := Keeps.refl t
  try dsimp only
  repeat' (first
    | (with_reducible assumption) | (with_reducible apply State.retrain_keeps)
    | (with_reducible apply State.when_keeps))

theorem execLinkSettingsRetrainTimeout_keeps (p : ClPortId) {u : State} (e : execLinkSettingsRetrainTimeout p t = .next u) : Keeps t u := by
  unfold execLinkSettingsRetrainTimeout at e
  injection e with e
  subst e
  have h := Keeps.refl t
  try dsimp only
  repeat' (first
    | (with_reducible assumption) | (with_reducible apply State.failOpen_keeps)
    | (with_reducible apply State.finish_keeps) | (with_reducible apply State.setCl_keeps)
    | (with_reducible apply State.when_keeps) | (intro c) | (split)
    | (fail_if_no_progress with_reducible apply Keeps.plain))

theorem execTrigger_keeps (c : CtxId) {u : State} (e : execTrigger c t = .next u) : Keeps t u := by
  unfold execTrigger at e
  injection e with e
  subst e
  have h := Keeps.refl t
  try dsimp only
  repeat' (first
    | (with_reducible assumption) | (with_reducible apply State.bcSend_keeps)
    | (with_reducible apply State.when_keeps) | (split))

theorem execFrameLateTimeout_keeps (c : CtxId) {u : State} (e : execFrameLateTimeout c t = .next u) : Keeps t u := by
  unfold execFrameLateTimeout at e
  injection e with e
  subst e
  have h := Keeps.refl t
  try dsimp only
  repeat' (first
    | (with_reducible assumption) | (with_reducible apply State.raise_keeps)
    | (with_reducible apply State.setStream_keeps) | (with_reducible apply State.when_keeps) | (intro c)
    | (split) | (fail_if_no_progress with_reducible apply Keeps.plain))

theorem execStreamOpen_keeps (cmd : Nat) {u : State} (e : execStreamOpen cmd t = .next u) : Keeps t u := by
  unfold execStreamOpen at e
  injection e with e
  subst e
  have h := Keeps.refl t
  try dsimp only
  repeat' (first
    | (with_reducible assumption) | (with_reducible apply State.withSettings_keeps)
    | (with_reducible apply State.drawSeed_keeps) | (with_reducible apply State.hold_keeps)
    | (with_reducible apply State.withCmd_keeps) | (with_reducible apply State.finish_keeps)
    | (with_reducible apply State.setStream_keeps) | (with_reducible apply Keeps.ite) | (intro c) | (split)
    | (fail_if_no_progress with_reducible apply Keeps.plain))

theorem execStreamClose_keeps (cmd : Nat) {u : State} (e : execStreamClose cmd t = .next u) : Keeps t u := by
  unfold execStreamClose at e
  injection e with e
  subst e
  have h := Keeps.refl t
  try dsimp only
  repeat' (first
    | (with_reducible assumption) | (with_reducible apply State.breakFrame_keeps)
    | (with_reducible apply State.cancelUnbegun_keeps) | (with_reducible apply State.flush_keeps)
    | (with_reducible apply State.hold_keeps) | (with_reducible apply State.withCmd_keeps)
    | (with_reducible apply State.finish_keeps) | (with_reducible apply State.setStream_keeps)
    | (with_reducible apply Keeps.ite) | (intro c) | (split)
    | (fail_if_no_progress with_reducible apply Keeps.plain))

theorem execStreamCloseDone_keeps (c : CtxId) {u : State} (e : execStreamCloseDone c t = .next u) : Keeps t u := by
  unfold execStreamCloseDone at e
  injection e with e
  subst e
  have h := Keeps.refl t
  try dsimp only
  repeat' (first
    | (with_reducible assumption) | (with_reducible apply State.closeIdle_keeps)
    | (with_reducible apply State.finish_keeps) | (with_reducible apply State.setStream_keeps)
    | (with_reducible apply State.when_keeps) | (with_reducible apply Keeps.ite) | (intro c) | (split)
    | (fail_if_no_progress with_reducible apply Keeps.plain))

theorem execStreamConfig_keeps (cmd : Nat) {u : State} (e : execStreamConfig cmd t = .next u) : Keeps t u := by
  unfold execStreamConfig at e
  injection e with e
  subst e
  have h := Keeps.refl t
  refine State.withCmd_keeps _ _ _ (fun c => Keeps.ite (State.finish_keeps _ _ _ _ h) ?_) h
  split
  · exact State.finish_keeps _ _ _ _ h
  · dsimp only
    split
    · exact State.finish_keeps _ _ _ _ h
    · exact Keeps.ite (State.withSettings_keeps _ _ _ _ _ _ (fun _ k => k) (fun _ k => State.configured_keeps _ k) h)
        (State.configured_keeps _ h)

theorem execGuardConfig_keeps (cmd : Nat) {u : State} (e : execGuardConfig cmd t = .next u) : Keeps t u := by
  unfold execGuardConfig at e
  injection e with e
  subst e
  have h := Keeps.refl t
  try dsimp only
  repeat' (first
    | (with_reducible assumption) | (with_reducible apply State.badBlock_keeps)
    | (with_reducible apply State.withCmd_keeps) | (with_reducible apply State.finish_keeps)
    | (with_reducible apply State.setStream_keeps) | (with_reducible apply Keeps.ite) | (intro c) | (split)
    | (fail_if_no_progress with_reducible apply Keeps.plain))

theorem execStreamStats_keeps (cmd : Nat) (io : HostIo) {u : State} (e : execStreamStats cmd io t = .next u) : Keeps t u := by
  unfold execStreamStats at e
  injection e with e
  subst e
  have h := Keeps.refl t
  try dsimp only
  repeat' (first
    | (with_reducible assumption) | (with_reducible apply State.answer_keeps)
    | (with_reducible apply State.withCmd_keeps) | (with_reducible apply State.finish_keeps)
    | (with_reducible apply Keeps.ite) | (intro c) | (split))

theorem execLinkStatus_keeps (cmd : Nat) (io : HostIo) {u : State} (e : execLinkStatus cmd io t = .next u) : Keeps t u := by
  unfold execLinkStatus at e
  injection e with e
  subst e
  have h := Keeps.refl t
  try dsimp only
  repeat' (first
    | (with_reducible assumption) | (with_reducible apply State.answer_keeps)
    | (with_reducible apply State.withCmd_keeps) | (intro c))

theorem execEthFrame_keeps (p : Port4) (fcsOk : Bool) (frame : Bytes) (graft2 : Option ClPortId) {u : State} (e : execEthFrame p fcsOk frame graft2 t = .next u) : Keeps t u := by
  unfold execEthFrame at e
  injection e with e
  subst e
  have h := Keeps.refl t
  try dsimp only
  repeat' (first
    | (with_reducible assumption) | (with_reducible apply State.ethFrame_keeps)
    | (with_reducible apply State.when_keeps))

theorem execEthLinkChange_keeps (p : Port4) (up : Bool) (speed : Fin 4) {u : State} (e : execEthLinkChange p up speed t = .next u) : Keeps t u := by
  unfold execEthLinkChange at e
  injection e with e
  subst e
  have h := Keeps.refl t
  try dsimp only
  repeat' (first
    | (with_reducible assumption) | (with_reducible apply State.portUp_keeps)
    | (with_reducible apply State.portDown_keeps) | (with_reducible apply State.setEth_keeps)
    | (with_reducible apply State.when_keeps) | (with_reducible apply Keeps.ite) | (intro c) | (split)
    | (fail_if_no_progress with_reducible apply Keeps.plain))

theorem execUartConfig_keeps (cmd : Nat) {u : State} (e : execUartConfig cmd t = .next u) : Keeps t u := by
  unfold execUartConfig at e
  injection e with e
  subst e
  have h := Keeps.refl t
  try dsimp only
  repeat' (first
    | (with_reducible assumption) | (with_reducible apply State.withCmd_keeps)
    | (with_reducible apply State.finish_keeps) | (with_reducible apply State.setUart_keeps)
    | (with_reducible apply Keeps.ite) | (intro c) | (split)
    | (fail_if_no_progress with_reducible apply Keeps.plain))

theorem execUartCharacter_keeps (p : Port4) (samples : List Bool) (graft2 : Option ClPortId) {u : State} (e : execUartCharacter p samples graft2 t = .next u) : Keeps t u := by
  unfold execUartCharacter at e
  injection e with e
  subst e
  have h := Keeps.refl t
  try dsimp only
  repeat' (first
    | (with_reducible assumption) | (with_reducible apply State.uartLoose_keeps)
    | (with_reducible apply State.uartTake_keeps) | (with_reducible apply State.setUart_keeps)
    | (with_reducible apply State.when_keeps) | (with_reducible apply Keeps.ite) | (intro c) | (split)
    | (fail_if_no_progress with_reducible apply Keeps.plain))

theorem execUartIdleGap_keeps (p : Port4) {u : State} (e : execUartIdleGap p t = .next u) : Keeps t u := by
  unfold execUartIdleGap at e
  injection e with e
  subst e
  have h := Keeps.refl t
  try dsimp only
  repeat' (first
    | (with_reducible assumption) | (with_reducible apply State.uartEnd_keeps)
    | (with_reducible apply State.setUart_keeps) | (with_reducible apply State.setStream_keeps)
    | (with_reducible apply State.when_keeps) | (with_reducible apply Keeps.ite) | (intro c) | (split)
    | (fail_if_no_progress with_reducible apply Keeps.plain))

theorem execReplayBreak_keeps {u : State} (e : execReplayBreak t = .next u) : Keeps t u := by
  unfold execReplayBreak at e
  injection e with e
  subst e
  have h := Keeps.refl t
  try dsimp only
  repeat' (first
    | (with_reducible assumption) | (with_reducible apply State.disarm_keeps)
    | (with_reducible apply State.when_keeps))

theorem execReplayArm_keeps (cmd : Nat) {u : State} (e : execReplayArm cmd t = .next u) : Keeps t u := by
  unfold execReplayArm at e
  injection e with e
  subst e
  have h := Keeps.refl t
  try dsimp only
  repeat' (first
    | (with_reducible assumption) | (with_reducible apply State.arm1_keeps)
    | (with_reducible apply State.disarm_keeps) | (with_reducible apply State.graftIf_keeps)
    | (with_reducible apply State.access_keeps) | (with_reducible apply State.withCmd_keeps)
    | (with_reducible apply State.finish_keeps)
    | (with_reducible apply State.setFore_keeps _ (by exact fun _ hx => hx))
    | (with_reducible apply Keeps.ite) | (intro c) | (split)
    | (fail_if_no_progress with_reducible apply Keeps.plain))

theorem execReplayRecordApply_keeps {u : State} (e : execReplayRecordApply t = .next u) : Keeps t u := by
  unfold execReplayRecordApply at e
  injection e with e
  subst e
  have h := Keeps.refl t
  refine State.when_keeps _ ?_ h
  split
  · exact h
  · split
    · exact h
    · rename_i k
      exact State.consume_keeps (State.applyRecord_keeps _ k h)

theorem execReplayFeed_keeps (cmd : Nat) {u : State} (e : execReplayFeed cmd t = .next u) : Keeps t u := by
  unfold execReplayFeed at e
  injection e with e
  subst e
  have h := Keeps.refl t
  try dsimp only
  repeat' (first
    | (with_reducible assumption) | (with_reducible apply State.feedFailed_keeps)
    | (with_reducible apply State.feed_keeps) | (with_reducible apply State.graftIf_keeps)
    | (with_reducible apply State.access_keeps) | (with_reducible apply State.withCmd_keeps)
    | (with_reducible apply State.finish_keeps) | (with_reducible apply State.setStream_keeps)
    | (with_reducible apply Keeps.ite) | (intro c) | (split)
    | (fail_if_no_progress with_reducible apply Keeps.plain))

theorem execRootPllLock_keeps {u : State} (e : execRootPllLock t = .next u) : Keeps t u := by
  unfold execRootPllLock at e
  injection e with e
  subst e
  have h := Keeps.refl t
  try dsimp only
  repeat' (first
    | (with_reducible assumption)
    | (with_reducible apply State.setClk_keeps _ (by exact fun _ hx hy => ⟨hx, hy⟩))
    | (with_reducible apply State.when_keeps) | (intro c)
    | (with_reducible apply Keeps.powered (by first | exact id | exact fun _ hx => by cases hx))
    | (fail_if_no_progress with_reducible apply Keeps.plain))

theorem execRootPllLockLoss_keeps {u : State} (e : execRootPllLockLoss t = .next u) : Keeps t u := by
  unfold execRootPllLockLoss at e
  injection e with e
  subst e
  have h := Keeps.refl t
  refine State.when_keeps _ ?_ h
  exact ⟨rfl, List.suffix_refl _, fun i => ⟨i.mem, i.yard, i.timers, i.views, i.corr, i.slew, i.log, i.held⟩, id,
    ⟨id, id, fun _ => rfl, id⟩⟩

theorem execLampBootDone_keeps (configValid : Bool) {u : State} (e : execLampBootDone configValid t = .next u) : Keeps t u := by
  unfold execLampBootDone at e
  injection e with e
  subst e
  have h := Keeps.refl t
  try dsimp only
  repeat' (first
    | (with_reducible assumption) | (with_reducible apply State.raiseWide_keeps)
    | (with_reducible apply State.setLamp_keeps _ (by exact fun _ hx => hx))
    | (with_reducible apply State.when_keeps) | (with_reducible apply Keeps.ite) | (intro c) | (split)
    | (fail_if_no_progress with_reducible apply Keeps.plain))

theorem execStartupInjection_keeps (checker : Checker) (raised : Option Nat) (silentOnClean : Bool) {u : State} (e : execStartupInjection checker raised silentOnClean t = .next u) : Keeps t u := by
  unfold execStartupInjection at e
  injection e with e
  subst e
  have h := Keeps.refl t
  try dsimp only
  repeat' (first
    | (with_reducible assumption) | (with_reducible apply State.raise_keeps)
    | (with_reducible apply State.setBoot_keeps) | (with_reducible apply State.when_keeps)
    | (with_reducible apply Keeps.ite) | (intro c) | (split)
    | (fail_if_no_progress with_reducible apply Keeps.plain))

theorem execFirmwareAuthentication_keeps {u : State} (e : execFirmwareAuthentication t = .next u) : Keeps t u := by
  unfold execFirmwareAuthentication at e
  injection e with e
  subst e
  have h := Keeps.refl t
  try dsimp only
  repeat' (first
    | (with_reducible assumption) | (with_reducible apply State.bootFails_keeps)
    | (with_reducible apply State.setBoot_keeps) | (with_reducible apply State.when_keeps)
    | (with_reducible apply Keeps.ite) | (intro c) | (split)
    | (fail_if_no_progress with_reducible apply Keeps.plain))

theorem execMemoryTrainingDone_keeps (gibPerChannel : List Nat) {u : State} (e : execMemoryTrainingDone gibPerChannel t = .next u) : Keeps t u := by
  unfold execMemoryTrainingDone at e
  injection e with e
  subst e
  have h := Keeps.refl t
  try dsimp only
  repeat' (first
    | (with_reducible assumption) | (with_reducible apply State.bootFails_keeps)
    | (with_reducible apply State.setBoot_keeps) | (with_reducible apply State.when_keeps)
    | (with_reducible apply Keeps.ite) | (intro c) | (split)
    | (fail_if_no_progress with_reducible apply Keeps.plain))

theorem execScionStartupTestDone_keeps (n : ScionId) (bistFailed : Option (Fin 16)) {u : State} (e : execScionStartupTestDone n bistFailed t = .next u) : Keeps t u := by
  unfold execScionStartupTestDone at e
  injection e with e
  subst e
  have h := Keeps.refl t
  try dsimp only
  repeat' (first
    | (with_reducible assumption) | (with_reducible apply State.scionTestFails_keeps)
    | (with_reducible apply State.scionFailed_keeps) | (with_reducible apply State.joinScion_keeps)
    | (with_reducible apply State.when_keeps) | (with_reducible apply Keeps.ite) | (intro c) | (split)
    | (fail_if_no_progress with_reducible apply Keeps.plain))

theorem execScionJoinDeadline_keeps {u : State} (e : execScionJoinDeadline t = .next u) : Keeps t u := by
  unfold execScionJoinDeadline at e
  injection e with e
  subst e
  have h := Keeps.refl t
  try dsimp only
  repeat' (first
    | (with_reducible assumption) | (with_reducible apply State.noScion_keeps)
    | (with_reducible apply State.when_keeps) | (with_reducible apply Keeps.ite) | (intro c) | (split)
    | (fail_if_no_progress with_reducible apply Keeps.plain))

theorem execConfigReady_keeps {u : State} (e : execConfigReady t = .next u) : Keeps t u := by
  unfold execConfigReady at e
  injection e with e
  subst e
  have h := Keeps.refl t
  try dsimp only
  repeat' (first
    | (with_reducible assumption) | (with_reducible apply State.setBoot_keeps)
    | (with_reducible apply State.when_keeps) | (intro c)
    | (fail_if_no_progress with_reducible apply Keeps.plain))

theorem execEthernetMacsUp_keeps {u : State} (e : execEthernetMacsUp t = .next u) : Keeps t u := by
  unfold execEthernetMacsUp at e
  injection e with e
  subst e
  have h := Keeps.refl t
  try dsimp only
  repeat' (first
    | (with_reducible assumption) | (with_reducible apply State.setBoot_keeps)
    | (with_reducible apply State.when_keeps) | (intro c)
    | (fail_if_no_progress with_reducible apply Keeps.plain))

theorem execCanNormalMode_keeps {u : State} (e : execCanNormalMode t = .next u) : Keeps t u := by
  unfold execCanNormalMode at e
  injection e with e
  subst e
  have h := Keeps.refl t
  try dsimp only
  repeat' (first
    | (with_reducible assumption) | (with_reducible apply State.kick_keeps)
    | (with_reducible apply State.setBoot_keeps) | (with_reducible apply State.when_keeps) | (intro c)
    | (split) | (fail_if_no_progress with_reducible apply Keeps.plain))

theorem execBootComplete_keeps {u : State} (e : execBootComplete t = .next u) : Keeps t u := by
  unfold execBootComplete at e
  injection e with e
  subst e
  have h := Keeps.refl t
  try dsimp only
  repeat' (first
    | (with_reducible assumption) | (with_reducible apply State.completeBoot_keeps)
    | (with_reducible apply State.when_keeps))

theorem execBootTimeout_keeps {u : State} (e : execBootTimeout t = .next u) : Keeps t u := by
  unfold execBootTimeout at e
  injection e with e
  subst e
  have h := Keeps.refl t
  try dsimp only
  repeat' (first
    | (with_reducible assumption) | (with_reducible apply State.raiseWide_keeps)
    | (with_reducible apply State.setLamp_keeps _ (by exact fun _ hx => hx))
    | (with_reducible apply State.when_keeps) | (intro c)
    | (fail_if_no_progress with_reducible apply Keeps.plain))

theorem execPowerState_keeps (cmd : Nat) {u : State} (e : execPowerState cmd t = .next u) : Keeps t u := by
  unfold execPowerState at e
  injection e with e
  subst e
  have h := Keeps.refl t
  try dsimp only
  repeat' (first
    | (with_reducible assumption) | (with_reducible apply State.wakeRun_keeps)
    | (with_reducible apply State.withCmd_keeps) | (with_reducible apply State.finish_keeps)
    | (with_reducible apply Keeps.ite) | (intro c) | (split)
    | (with_reducible apply Keeps.powered (by first | exact id | exact fun _ hx => by cases hx))
    | (fail_if_no_progress with_reducible apply Keeps.plain))

theorem execDozeEntry_keeps {u : State} (e : execDozeEntry t = .next u) : Keeps t u := by
  unfold execDozeEntry at e
  injection e with e
  subst e
  have h := Keeps.refl t
  refine State.when_keeps _ ?_ h
  exact h.powered (fun _ => by simp)

theorem execNightRailCrossing_keeps (rail : Fin 10) {u : State} (e : execNightRailCrossing rail t = .next u) : Keeps t u := by
  unfold execNightRailCrossing at e
  injection e with e
  subst e
  have h := Keeps.refl t
  refine State.when_keeps _ ?_ h
  exact ⟨rfl, List.suffix_refl _, fun i => ⟨i.mem, i.yard, i.timers, i.views, i.corr, i.slew, i.log, i.held⟩, id,
    ⟨id, id, id, fun _ => rfl⟩⟩

theorem execBudgetSet_keeps (cmd : Nat) {u : State} (e : execBudgetSet cmd t = .next u) : Keeps t u := by
  unfold execBudgetSet at e
  injection e with e
  subst e
  have h := Keeps.refl t
  try dsimp only
  repeat' (first
    | (with_reducible assumption) | (with_reducible apply State.withCmd_keeps)
    | (with_reducible apply State.finish_keeps) | (with_reducible apply State.setPort_keeps)
    | (with_reducible apply Keeps.ite) | (intro c) | (split)
    | (fail_if_no_progress with_reducible apply Keeps.plain))

theorem execBudgetInterval_keeps (packageMw : Nat) (baseMw : Nat) (requests : List (Option PowerRequest)) (acked : List Bool)
    {u : State} (e : execBudgetInterval packageMw baseMw requests acked t = .next u) : Keeps t u := by
  unfold execBudgetInterval at e
  injection e with e
  subst e
  have h := Keeps.refl t
  refine State.when_keeps _ ?_ h
  refine h.trans ⟨rfl, List.suffix_append _ _, fun i => ⟨i.mem, i.yard, i.timers, i.views, i.corr, i.slew, i.log, i.held⟩,
    fun a => ?_, ⟨id, id, id, id⟩⟩
  have n : t.power.state ≠ .night := by simpa [State.awake] using a
  simp only [State.awake, decide_eq_true_eq]
  unfold PowerMgr.account
  dsimp only
  repeat' split
  all_goals exact n

theorem execStewardNoGrant_keeps (n : ScionId) {u : State} (e : execStewardNoGrant n t = .next u) : Keeps t u := by
  unfold execStewardNoGrant at e
  injection e with e
  subst e
  have h := Keeps.refl t
  try dsimp only
  repeat' (first
    | (with_reducible assumption) | (with_reducible apply State.setScion_keeps)
    | (with_reducible apply State.when_keeps) | (with_reducible apply Keeps.ite) | (intro c) | (split)
    | (fail_if_no_progress with_reducible apply Keeps.plain))

theorem execEclkDividerChange_keeps (n : ScionId) {u : State} (e : execEclkDividerChange n t = .next u) : Keeps t u := by
  unfold execEclkDividerChange at e
  injection e with e
  subst e
  have h := Keeps.refl t
  try dsimp only
  repeat' (first
    | (with_reducible assumption) | (with_reducible apply State.setScion_keeps)
    | (with_reducible apply State.when_keeps) | (with_reducible apply Keeps.ite) | (intro c) | (split)
    | (fail_if_no_progress with_reducible apply Keeps.plain))

theorem execFootprintSample_keeps (footprint : List Int) (die : List Int) {u : State} (e : execFootprintSample footprint die t = .next u) : Keeps t u := by
  unfold execFootprintSample at e
  injection e with e
  subst e
  have h := Keeps.refl t
  try dsimp only
  repeat' (first
    | (with_reducible assumption) | (with_reducible apply State.sense_keeps)
    | (with_reducible apply State.when_keeps) | (with_reducible apply Keeps.foldl)
    | (with_reducible apply Keeps.ite) | (intro u a hu) | (intro c) | (split)
    | (fail_if_no_progress with_reducible apply Keeps.plain))

theorem execFootprintCoolStep_keeps (n : ScionId) {u : State} (e : execFootprintCoolStep n t = .next u) : Keeps t u := by
  unfold execFootprintCoolStep at e
  injection e with e
  subst e
  have h := Keeps.refl t
  try dsimp only
  repeat' (first
    | (with_reducible assumption) | (with_reducible apply State.setScion_keeps)
    | (with_reducible apply State.when_keeps) | (intro c) | (split)
    | (fail_if_no_progress with_reducible apply Keeps.plain))

theorem execThermalQuery_keeps (cmd : Nat) (io : HostIo) {u : State} (e : execThermalQuery cmd io t = .next u) : Keeps t u := by
  unfold execThermalQuery at e
  injection e with e
  subst e
  have h := Keeps.refl t
  try dsimp only
  repeat' (first
    | (with_reducible assumption) | (with_reducible apply State.answer_keeps)
    | (with_reducible apply State.withCmd_keeps) | (intro c))

theorem execDieRestore_keeps (cmd : Nat) {u : State} (e : execDieRestore cmd t = .next u) : Keeps t u := by
  unfold execDieRestore at e
  injection e with e
  subst e
  have h := Keeps.refl t
  try dsimp only
  repeat' (first
    | (with_reducible assumption) | (with_reducible apply State.settleWithdrawal_keeps)
    | (with_reducible apply State.hold_keeps) | (with_reducible apply State.withCmd_keeps)
    | (with_reducible apply State.finish_keeps)
    | (with_reducible apply State.setFore_keeps _ (by exact fun _ hx => hx))
    | (with_reducible apply State.setScion_keeps) | (with_reducible apply Keeps.ite) | (intro c) | (split)
    | (fail_if_no_progress with_reducible apply Keeps.plain))

theorem execDieRestoreDone_keeps (result : ScionTest) {u : State} (e : execDieRestoreDone result t = .next u) : Keeps t u := by
  unfold execDieRestoreDone at e
  injection e with e
  subst e
  have h := Keeps.refl t
  try dsimp only
  repeat' (first
    | (with_reducible assumption) | (with_reducible apply State.scionFailed_keeps)
    | (with_reducible apply State.joinScion_keeps) | (with_reducible apply State.settleWithdrawal_keeps)
    | (with_reducible apply State.fence_keeps) | (with_reducible apply State.repartitionNow_keeps)
    | (with_reducible apply State.finish_keeps)
    | (with_reducible apply State.setFore_keeps _ (by exact fun _ hx => hx))
    | (with_reducible apply State.when_keeps) | (with_reducible apply Keeps.ite) | (intro c) | (split)
    | (fail_if_no_progress with_reducible apply Keeps.plain))

theorem execNop_keeps (cmd : Nat) {u : State} (e : execNop cmd t = .next u) : Keeps t u := by
  unfold execNop at e
  injection e with e
  subst e
  have h := Keeps.refl t
  try dsimp only
  repeat' (first
    | (with_reducible assumption) | (with_reducible apply State.withCmd_keeps)
    | (with_reducible apply State.finish_keeps) | (intro c))

theorem execHello_keeps (cmd : Nat) {u : State} (e : execHello cmd t = .next u) : Keeps t u := by
  unfold execHello at e
  injection e with e
  subst e
  have h := Keeps.refl t
  try dsimp only
  repeat' (first
    | (with_reducible assumption) | (with_reducible apply State.withCmd_keeps)
    | (with_reducible apply State.finish_keeps) | (with_reducible apply Keeps.ite) | (intro c) | (split))

theorem execDeviceQuery_keeps (cmd : Nat) (io : HostIo) {u : State} (e : execDeviceQuery cmd io t = .next u) : Keeps t u := by
  unfold execDeviceQuery at e
  injection e with e
  subst e
  have h := Keeps.refl t
  try dsimp only
  repeat' (first
    | (with_reducible assumption) | (with_reducible apply State.answer_keeps)
    | (with_reducible apply State.withCmd_keeps) | (intro c))

theorem execFunctionQuery_keeps (cmd : Nat) (io : HostIo) {u : State} (e : execFunctionQuery cmd io t = .next u) : Keeps t u := by
  unfold execFunctionQuery at e
  injection e with e
  subst e
  have h := Keeps.refl t
  try dsimp only
  repeat' (first
    | (with_reducible assumption) | (with_reducible apply State.answer_keeps)
    | (with_reducible apply State.withCmd_keeps) | (intro c))

theorem execShareSet_keeps (cmd : Nat) {u : State} (e : execShareSet cmd t = .next u) : Keeps t u := by
  unfold execShareSet at e
  injection e with e
  subst e
  have h := Keeps.refl t
  try dsimp only
  repeat' (first
    | (with_reducible assumption) | (with_reducible apply State.withCmd_keeps)
    | (with_reducible apply State.finish_keeps) | (with_reducible apply State.setEvent_keeps)
    | (with_reducible apply State.setFore_keeps _ (by exact fun _ hx => hx))
    | (with_reducible apply State.setPort_keeps) | (with_reducible apply Keeps.ite) | (intro c) | (split)
    | (fail_if_no_progress with_reducible apply Keeps.plain))

theorem execProvision_keeps (cmd : Nat) {u : State} (e : execProvision cmd t = .next u) : Keeps t u := by
  unfold execProvision at e
  injection e with e
  subst e
  have h := Keeps.refl t
  try dsimp only
  repeat' (first
    | (with_reducible assumption) | (with_reducible apply State.releaseReservations_keeps)
    | (with_reducible apply State.withCmd_keeps) | (with_reducible apply State.finish_keeps)
    | (with_reducible apply State.setEvent_keeps)
    | (with_reducible apply State.setFn_keeps _ _ (by exact fun _ hx => hx))
    | (with_reducible apply Keeps.ite) | (intro c) | (split)
    | (fail_if_no_progress with_reducible apply Keeps.plain))

theorem execSafetyConfig_keeps (cmd : Nat) {u : State} (e : execSafetyConfig cmd t = .next u) : Keeps t u := by
  unfold execSafetyConfig at e
  injection e with e
  subst e
  have h := Keeps.refl t
  try dsimp only
  repeat' (first
    | (with_reducible assumption) | (with_reducible apply State.withCmd_keeps)
    | (with_reducible apply State.finish_keeps)
    | (with_reducible apply State.setFore_keeps _ (by exact fun _ hx => hx))
    | (with_reducible apply Keeps.ite) | (intro c) | (split)
    | (fail_if_no_progress with_reducible apply Keeps.plain))

theorem execFirmwareStage_keeps (cmd : Nat) (img : ImageRead FwImage) {u : State} (e : execFirmwareStage cmd img t = .next u) : Keeps t u := by
  unfold execFirmwareStage at e
  injection e with e
  subst e
  have h := Keeps.refl t
  try dsimp only
  repeat' (first
    | (with_reducible assumption) | (with_reducible apply State.setSlot_keeps)
    | (with_reducible apply State.imageFails_keeps) | (with_reducible apply State.access_keeps)
    | (with_reducible apply State.withCmd_keeps) | (with_reducible apply State.finish_keeps)
    | (with_reducible apply Keeps.ite) | (intro c) | (split)
    | (fail_if_no_progress with_reducible apply Keeps.plain))

theorem execFirmwareCommit_keeps (cmd : Nat) {u : State} (e : execFirmwareCommit cmd t = .next u) : Keeps t u := by
  unfold execFirmwareCommit at e
  injection e with e
  subst e
  have h := Keeps.refl t
  try dsimp only
  repeat' (first
    | (with_reducible assumption) | (with_reducible apply State.withCmd_keeps)
    | (with_reducible apply State.finish_keeps) | (with_reducible apply Keeps.ite) | (intro c) | (split)
    | (fail_if_no_progress with_reducible apply Keeps.plain))

theorem execDebugUnlock_keeps (cmd : Nat) {u : State} (e : execDebugUnlock cmd t = .next u) : Keeps t u := by
  unfold execDebugUnlock at e
  injection e with e
  subst e
  have h := Keeps.refl t
  try dsimp only
  repeat' (first
    | (with_reducible assumption) | (with_reducible apply State.withCmd_keeps)
    | (with_reducible apply State.finish_keeps)
    | (with_reducible apply State.setFore_keeps _ (by exact fun _ hx => hx))
    | (with_reducible apply Keeps.ite) | (intro c) | (split)
    | (fail_if_no_progress with_reducible apply Keeps.plain))

theorem execInject_keeps (cmd : Nat) {u : State} (e : execInject cmd t = .next u) : Keeps t u := by
  unfold execInject at e
  injection e with e
  subst e
  have h := Keeps.refl t
  try dsimp only
  repeat' (first
    | (with_reducible assumption) | (with_reducible apply State.raise_keeps)
    | (with_reducible apply State.hold_keeps) | (with_reducible apply State.withCmd_keeps)
    | (with_reducible apply State.finish_keeps) | (with_reducible apply Keeps.ite) | (intro c) | (split)
    | (with_reducible apply Keeps.collect _ (by first | exact id | exact fun w => (List.length_filter_le _ _).trans w))
    | (fail_if_no_progress with_reducible apply Keeps.plain))

theorem execFaultEdgeCapture_keeps (source : Nat) (event : Ev) (owner : Option FnId) (class2 : Bool) (stays : Bool) {u : State} (e : execFaultEdgeCapture source event owner class2 stays t = .next u) : Keeps t u := by
  unfold execFaultEdgeCapture at e
  injection e with e
  subst e
  have h := Keeps.refl t
  try dsimp only
  repeat' (first
    | (with_reducible assumption) | (with_reducible apply State.clearLive_keeps)
    | (with_reducible apply State.raise_keeps) | (with_reducible apply State.when_keeps)
    | (with_reducible apply Keeps.ite) | (split))

theorem execMemMap_keeps (cmd : Nat) {u : State} (e : execMemMap cmd t = .next u) : Keeps t u := by
  unfold execMemMap at e
  injection e with e
  subst e
  have h := Keeps.refl t
  refine State.withCmd_keeps _ _ _ (fun c => ?_) h
  have r (a b : BitVec 16) (v : BitVec 64) : Keeps t (t.finish cmd a b v) := State.finish_keeps _ _ _ _ h
  refine Keeps.ite (r _ _ _) (Keeps.ite (r _ _ _) (Keeps.ite (State.finish_keeps _ _ _ _ (State.addMapping_keeps _ _ h))
    (Keeps.ite (r _ _ _) ?_)))
  split
  · exact r _ _ _
  · rename_i k
    exact State.finish_keeps _ _ _ _ (State.addMapping_keeps _ _ (State.allocMapping_keeps _ _ k h))

theorem execMemUnmap_keeps (cmd : Nat) {u : State} (e : execMemUnmap cmd t = .next u) : Keeps t u := by
  unfold execMemUnmap at e
  injection e with e
  subst e
  have h := Keeps.refl t
  try dsimp only
  repeat' (first
    | (with_reducible assumption) | (with_reducible apply State.dropMapping_keeps)
    | (with_reducible apply State.withCmd_keeps) | (with_reducible apply State.finish_keeps)
    | (with_reducible apply Keeps.foldl) | (with_reducible apply Keeps.ite) | (intro u a hu) | (intro c)
    | (split))

theorem execMemCopy_keeps (cmd : Nat) (host : HostRead) (graft2 : Option WriteFault) {u : State} (e : execMemCopy cmd host graft2 t = .next u) : Keeps t u := by
  unfold execMemCopy at e
  injection e with e
  subst e
  have h := Keeps.refl t
  try dsimp only
  repeat' (first
    | (with_reducible assumption) | (with_reducible apply State.graft2Fails_keeps)
    | (with_reducible apply State.moved_keeps) | (with_reducible apply State.writeSegs_keeps)
    | (with_reducible apply State.access_keeps) | (with_reducible apply State.withCmd_keeps)
    | (refine Keeps.ofFst (by assumption) ?_) | (intro c) | (split)
    | (fail_if_no_progress with_reducible apply Keeps.plain))

theorem execMemFill_keeps (cmd : Nat) (io : HostIo) (graft2 : Option WriteFault) {u : State} (e : execMemFill cmd io graft2 t = .next u) : Keeps t u := by
  unfold execMemFill at e
  injection e with e
  subst e
  have h := Keeps.refl t
  try dsimp only
  repeat' (first
    | (with_reducible assumption) | (with_reducible apply State.graft2Fails_keeps)
    | (with_reducible apply State.writeVa_keeps) | (with_reducible apply State.withCmd_keeps)
    | (with_reducible apply State.finish_keeps) | (refine Keeps.ofFst (by assumption) ?_) | (intro c)
    | (split) | (fail_if_no_progress with_reducible apply Keeps.plain))

theorem execMemTagCheck_keeps (cmd : Nat) {u : State} (e : execMemTagCheck cmd t = .next u) : Keeps t u := by
  unfold execMemTagCheck at e
  injection e with e
  subst e
  have h := Keeps.refl t
  try dsimp only
  repeat' (first
    | (with_reducible assumption) | (with_reducible apply State.graftCopy_keeps)
    | (with_reducible apply State.access_keeps) | (with_reducible apply State.withCmd_keeps)
    | (with_reducible apply State.finish_keeps) | (with_reducible apply Keeps.ite) | (intro c) | (split)
    | (fail_if_no_progress with_reducible apply Keeps.plain))

theorem execPatrolScrubRead_keeps (upsets : List Upset) (met : List ClPortId) {u : State} (e : execPatrolScrubRead upsets met t = .next u) : Keeps t u := by
  unfold execPatrolScrubRead at e
  injection e with e
  subst e
  have h := Keeps.refl t
  refine State.when_keeps _ (State.setBoot_keeps _ ?_) h
  exact Keeps.foldl _ (fun _ x k => State.readUnit_keeps x k) (Keeps.foldl _ (fun _ x k => State.upset_keeps x k) h)

theorem execCommandTake_keeps (read : EntryRead) {u : State} (e : execCommandTake read t = .next u) : Keeps t u := by
  unfold execCommandTake at e
  have h := Keeps.refl t
  split at e
  · split at e
    · injection e with e
      subst e
      refine State.when_keeps _ ?_ h
      split
      · exact h
      · exact State.takeEntry_keeps _ _ _ (State.advanceTurn_keeps _ _ h)
    · simp at e
  · injection e with e
    subst e
    refine State.when_keeps _ ?_ h
    split
    · exact h
    · exact State.send_keeps _ (State.setError_keeps _ _ _ (State.setSq_keeps _ _ _ (State.advanceTurn_keeps _ _ h)))

theorem execCommandDeferredBegin_keeps (cmd : Nat) {u : State} (e : execCommandDeferredBegin cmd t = .next u) : Keeps t u := by
  unfold execCommandDeferredBegin at e
  injection e with e
  subst e
  have h := Keeps.refl t
  try dsimp only
  repeat' (first
    | (with_reducible assumption) | (with_reducible apply State.correctCharge_keeps)
    | (with_reducible apply State.finish_keeps) | (with_reducible apply State.setCmd_keeps)
    | (with_reducible apply State.setFore_keeps _ (by exact fun _ hx => hx))
    | (with_reducible apply Keeps.ite) | (intro c) | (split)
    | (fail_if_no_progress with_reducible apply Keeps.plain))

theorem execSliceStart_keeps {u : State} (e : execSliceStart t = .next u) : Keeps t u := by
  unfold execSliceStart at e
  injection e with e
  subst e
  have h := Keeps.refl t
  refine State.when_keeps _ ?_ h
  split
  · exact h
  · exact State.setEngine_keeps _ _ h


theorem execSliceEnd_keeps (passed : Bool) {u : State} (e : execSliceEnd passed t = .next u) : Keeps t u := by
  unfold execSliceEnd at e
  injection e with e
  subst e
  have h := Keeps.refl t
  try dsimp only
  repeat' (first
    | (with_reducible assumption) | (with_reducible apply State.retireEngine_keeps)
    | (with_reducible apply State.setFore_keeps _ (by exact fun _ hx => hx))
    | (with_reducible apply State.setEngine_keeps) | (with_reducible apply State.when_keeps)
    | (with_reducible apply Keeps.ite) | (intro c) | (split)
    | (fail_if_no_progress with_reducible apply Keeps.plain))

theorem execSliceGuardExpired_keeps {u : State} (e : execSliceGuardExpired t = .next u) : Keeps t u := by
  unfold execSliceGuardExpired at e
  injection e with e
  subst e
  have h := Keeps.refl t
  try dsimp only
  repeat' (first
    | (with_reducible assumption) | (with_reducible apply State.abortSlice_keeps)
    | (with_reducible apply State.when_keeps) | (split)
    | (fail_if_no_progress with_reducible apply Keeps.plain))

theorem execDiagAgeLimit_keeps (e' : EngineId) {u : State} (e : execDiagAgeLimit e' t = .next u) : Keeps t u := by
  unfold execDiagAgeLimit at e
  injection e with e
  subst e
  have h := Keeps.refl t
  try dsimp only
  repeat' (first
    | (with_reducible assumption) | (with_reducible apply State.starve_keeps)
    | (with_reducible apply State.setEngine_keeps) | (with_reducible apply State.when_keeps) | (intro c)
    | (split) | (with_reducible apply Keeps.powered (by first | exact id | exact fun _ hx => by cases hx))
    | (fail_if_no_progress with_reducible apply Keeps.plain))

theorem execSelftestStatus_keeps (cmd : Nat) (io : HostIo) {u : State} (e : execSelftestStatus cmd io t = .next u) : Keeps t u := by
  unfold execSelftestStatus at e
  injection e with e
  subst e
  have h := Keeps.refl t
  try dsimp only
  repeat' (first
    | (with_reducible assumption) | (with_reducible apply State.answer_keeps)
    | (with_reducible apply State.withCmd_keeps) | (intro c))

theorem State.blank_tracks (t : State) : Tracks t t.blank :=
  ⟨rfl, List.suffix_refl _, fun _ => ⟨rfl, rfl, Nat.zero_le _, fun f => by simp [State.fn, State.blank], Nat.zero_le _,
    fun c h => by simp [State.blank] at h, Nat.zero_le _, Nat.zero_le _⟩⟩

theorem Tracks.refl (t : State) : Tracks t t := (Keeps.refl t).tracks

theorem Tracks.trans {u : State} (a : Tracks s t) (b : Tracks t u) : Tracks s u :=
  ⟨b.pending.trans a.pending, a.sent.trans b.sent, b.inv ∘ a.inv⟩

/-- A change of the fields that a reset sets beside the blank state. -/
theorem Tracks.fresh {u : State} (h : Tracks s t) (p : u.pending = t.pending) (k : u.sent = t.sent)
    (m : u.mem = t.mem) (y : u.yard = t.yard) (r : u.fcu = t.fcu) (v : u.fns = t.fns) (c : u.clk = t.clk) (l : u.fore = t.fore)
    (x : u.xc = t.xc) : Tracks s u :=
  h.trans ⟨p, k ▸ List.suffix_refl _, fun i => ⟨m ▸ i.mem, y ▸ i.yard, r ▸ i.timers,
    fun f => by simpa only [State.fn, v] using i.views f, c ▸ i.corr, c ▸ i.slew, l ▸ i.log, x ▸ i.held⟩⟩

theorem State.startUp_tracks (t : State) (cause : ResetCause) (test : Bool) : Tracks t (t.startUp cause test) := by
  unfold State.startUp
  dsimp only
  have k := t.blank_tracks.fresh (u := { t.blank with
    boot := { cause := cause, testMode := test }
    wdog := Vector.replicate 3 (Wdog.start t.fixed.wdogHwStart false)
    can := Vector.ofFn (fun b => CanBus.start t.fixed b) }) rfl rfl rfl rfl rfl rfl rfl rfl rfl
  split
  · exact k.trans (State.lampSafe_keeps _ (Keeps.refl _)).tracks
  · exact k

theorem State.when_tracks (c : Bool) {u : State} (k : Tracks s u) (h : Tracks s t) : Tracks s (t.when c u) := by
  unfold State.when
  split <;> assumption

theorem execPorstNAssert_tracks {u : State} (e : execPorstNAssert t = .next u) : Tracks t u := by
  injection e with e
  subst e
  exact t.blank_tracks.fresh rfl rfl rfl rfl rfl rfl rfl rfl rfl

theorem execPorstNDeassert_tracks (h : Bool) {u : State} (e : execPorstNDeassert h t = .next u) : Tracks t u := by
  injection e with e
  subst e
  exact State.when_tracks _ (t.startUp_tracks _ _) (Tracks.refl t)

theorem execSysresetNAssert_tracks {u : State} (e : execSysresetNAssert t = .next u) : Tracks t u := by
  injection e with e
  subst e
  exact State.when_tracks _ (t.blank_tracks.fresh rfl rfl rfl rfl rfl rfl rfl rfl rfl) (Tracks.refl t)

theorem execSysresetNDeassert_tracks {u : State} (e : execSysresetNDeassert t = .next u) : Tracks t u := by
  injection e with e
  subst e
  exact State.when_tracks _ (t.startUp_tracks _ _) (Tracks.refl t)

theorem execLampWatchdogReset_tracks {u : State} (e : execLampWatchdogReset t = .next u) : Tracks t u := by
  injection e with e
  subst e
  exact State.when_tracks _ (t.startUp_tracks _ _) (Tracks.refl t)

theorem State.asleep_tracks (t : State) : Tracks t t.asleep :=
  t.blank_tracks.fresh rfl rfl rfl rfl rfl rfl rfl rfl rfl

theorem State.wake_tracks (t : State) (c : WakeCause) : Tracks t (t.wake c) := by
  cases c with
  | faultIn => exact t.startUp_tracks _ _
  | watchdog w =>
    exact (t.startUp_tracks .night t.boot.testMode).trans
      (State.setWdog_keeps w (fun x => { x with woke := true }) (Keeps.refl _)).tracks

theorem execNightEntry_tracks {u : State} (e : execNightEntry t = .next u) : Tracks t u := by
  injection e with e
  subst e
  refine State.when_tracks _ ?_ (Tracks.refl t)
  split
  · exact t.asleep_tracks
  · exact t.asleep_tracks.trans (State.wake_tracks _ _)

/-- Night is not entered from the safe state of either die (R399). -/
theorem execNightEntry_safe (w : t.safe = true ∨ t.lamp.safe = true) : execNightEntry t = .next t := by
  unfold execNightEntry State.when State.entersNight
  rcases w with w | w <;> simp [w]

theorem execNightWake_tracks (c : WakeCause) {u : State} (e : execNightWake c t = .next u) : Tracks t u := by
  injection e with e
  subst e
  exact State.when_tracks _ (t.wake_tracks c) (Tracks.refl t)

/-- Nothing wakes a device that is awake. -/
theorem execNightWake_awake (c : WakeCause) (w : t.awake = true) : execNightWake c t = .next t := by
  have n : t.sleeps = false := by
    simp only [State.awake, decide_eq_true_eq] at w
    simp [State.sleeps, w]
  unfold execNightWake State.when
  cases c <;> simp [n]

theorem execNoscMissingEdge_tracks {u : State} (e : execNoscMissingEdge t = .next u) : Tracks t u := by
  injection e with e
  subst e
  exact State.when_tracks _
    ((t.startUp_tracks _ _).trans
      (State.setLamp_keeps (fun l => { l with noscStopped := true }) (fun _ hx => hx) (Keeps.refl _)).tracks)
    (Tracks.refl t)

theorem execNoscMissingEdge_awake (w : t.awake = true) : execNoscMissingEdge t = .next t := by
  have n : t.sleeps = false := by
    simp only [State.awake, decide_eq_true_eq] at w
    simp [State.sleeps, w]
  unfold execNoscMissingEdge State.when
  simp [n]

/-- The lamp die's own reset ends its safe state and keeps the queue, what was sent and the bounds. -/
theorem execLampDieReset_tracks {u : State} (e : execLampDieReset t = .next u) : Tracks t u := by
  have h := execLampDieReset_keeps e
  exact ⟨h.pending, h.sent, fun i => h.inv ⟨i.mem, i.yard, i.timers, i.views, i.corr, i.slew, i.log, i.held⟩⟩

theorem execNightWake_keeps (c : WakeCause) {u : State} (w : t.awake = true) (e : execNightWake c t = .next u) :
    Keeps t u := by
  rw [execNightWake_awake c w] at e
  injection e with e
  exact e ▸ Keeps.refl t

theorem execNoscMissingEdge_keeps {u : State} (w : t.awake = true) (e : execNoscMissingEdge t = .next u) :
    Keeps t u := by
  rw [execNoscMissingEdge_awake w] at e
  injection e with e
  exact e ▸ Keeps.refl t

theorem State.tick_tracks (t : State) : Tracks t t.tick := (State.tick_keeps (Keeps.refl t)).tracks

end Sys2Proof.Machine
end

