-- ==== Sys2Proof/WellFormed.lean ====
section
/-!
DEFINITION. Which commands are well formed: an operand has the size that the event brings (R123, R154, R161,
R162, R203, R439, R442). Every other operand is of a type that holds exactly what the event can bring.
-/

namespace Sys2Proof

/-- A submission entry is 64 bytes (R108). -/
def EntryRead.wf : EntryRead → Bool
  | .entry b => b.length == 64
  | .failed => true

/-- A link block has 1,024 bytes, 4,096 symbols, each with its slicer error (R154, R162). -/
def LinkBlock.wf (b : LinkBlock) : Bool := b.symbols.length == 4096 && b.errors.length == 4096

/-- Updates of the DFE in 100 µs and in 500 µs of preamble: one in 16 symbols at 4.0 GBd (R154, R161,
R181). -/
def Preamble.wf (x : Preamble) (us : Nat) : Bool := x.errors.length == us * 250

/-- Operands of a size that the event can bring. -/
def Instr.wf : Instr → Bool
  | .memoryTrainingDone g => g.length == 24
  | .commandTake r => r.wf
  | .footprintSample f d => f.length == 16 && d.length == 64
  | .budgetInterval _ _ r a => r.length == 4 && a.length == 4
  | .clCtlePresetDone _ _ _ x => x.wf 100
  | .clDfePreambleDone _ x => x.wf 500
  | .linkBlock _ b => b.wf
  | _ => true

end Sys2Proof
end

