-- ==== Sys2Proof/Laws/PerInstr.lean ====
section
/-!
SUPPORT. Well-formedness, command by command: which operands a command must have to be well formed.
-/

namespace Sys2Proof.Laws.WellFormed

/-- A command is well formed exactly if its sized operands have their sizes; a command without a sized
operand always is. -/
def Statement (i : Instr) : Prop :=
  match i with
  | .memoryTrainingDone g => i.wf = true ↔ g.length = 24
  | .commandTake .failed => i.wf = true
  | .commandTake (.entry b) => i.wf = true ↔ b.length = 64
  | .footprintSample f d => i.wf = true ↔ f.length = 16 ∧ d.length = 64
  | .budgetInterval _ _ r a => i.wf = true ↔ r.length = 4 ∧ a.length = 4
  | .clCtlePresetDone _ _ _ x => i.wf = true ↔ x.errors.length = 25000
  | .clDfePreambleDone _ x => i.wf = true ↔ x.errors.length = 125000
  | .linkBlock _ b => i.wf = true ↔ b.symbols.length = 4096 ∧ b.errors.length = 4096
  | _ => i.wf = true

theorem porstNAssert : Statement .porstNAssert := rfl
theorem porstNDeassert (trstHigh : Bool) : Statement (.porstNDeassert trstHigh) := rfl
theorem sysresetNAssert : Statement .sysresetNAssert := rfl
theorem sysresetNDeassert : Statement .sysresetNDeassert := rfl
theorem lampWatchdogReset : Statement .lampWatchdogReset := rfl
theorem perstNAssert (p : HostPort) : Statement (.perstNAssert p) := rfl
theorem perstNDeassert (p : HostPort) : Statement (.perstNDeassert p) := rfl
theorem rootPllLock : Statement .rootPllLock := rfl
theorem rootPllLockLoss : Statement .rootPllLockLoss := rfl
theorem loscQualifyCount (count : Nat) (ran4096 : Bool) : Statement (.loscQualifyCount count ran4096) := rfl
theorem lampBootDone (configValid : Bool) : Statement (.lampBootDone configValid) := rfl
theorem pcieTrainingStart : Statement .pcieTrainingStart := rfl
theorem pcieLinkUp (p : HostPort) : Statement (.pcieLinkUp p) := rfl
theorem pcieConfigRequest (p : HostPort) (req : ConfigReq) : Statement (.pcieConfigRequest p req) := rfl
theorem startupInjection (checker : Checker) (raised : Option Nat) (silentOnClean : Bool) :
    Statement (.startupInjection checker raised silentOnClean) := rfl
theorem firmwareAuthentication : Statement .firmwareAuthentication := rfl
theorem memoryTrainingDone (gibPerChannel : List Nat) : Statement (.memoryTrainingDone gibPerChannel) := by
  simp [Statement, Instr.wf]
theorem scionStartupTestDone (n : ScionId) (bistFailed : Option (Fin 16)) :
    Statement (.scionStartupTestDone n bistFailed) := rfl
theorem scionJoinDeadline : Statement .scionJoinDeadline := rfl
theorem configReady : Statement .configReady := rfl
theorem ethernetMacsUp : Statement .ethernetMacsUp := rfl
theorem canNormalMode : Statement .canNormalMode := rfl
theorem chroylinkGroupStart (g : Fin 6) : Statement (.chroylinkGroupStart g) := rfl
theorem chroylinkGroupWindowClose (g : Fin 6) : Statement (.chroylinkGroupWindowClose g) := rfl
theorem bootComplete : Statement .bootComplete := rfl
theorem bootTimeout : Statement .bootTimeout := rfl
theorem sqTailDb (f : FnId) (ring : RingId) (value : BitVec 32) : Statement (.sqTailDb f ring value) := rfl
theorem cqHeadDb (f : FnId) (ring : RingId) (value : BitVec 32) : Statement (.cqHeadDb f ring value) := rfl
theorem sqRingControlWrite (f : FnId) (ring : RingId) (value : BitVec 32) :
    Statement (.sqRingControlWrite f ring value) := rfl
theorem cqRingControlWrite (f : FnId) (ring : RingId) (value : BitVec 32) :
    Statement (.cqRingControlWrite f ring value) := rfl
theorem hwdogServiceKey1 (f : FnId) : Statement (.hwdogServiceKey1 f) := rfl
theorem hwdogServiceKey2 (f : FnId) : Statement (.hwdogServiceKey2 f) := rfl
theorem hwdogServiceOther (f : FnId) : Statement (.hwdogServiceOther f) := rfl
theorem hwdogKeyTimeout (p : HostPort) : Statement (.hwdogKeyTimeout p) := rfl
theorem msixVectorUnmask (f : FnId) (vector : Fin 32) : Statement (.msixVectorUnmask f vector) := rfl
theorem registerWrite (f : FnId) (offset : Nat) (size : Nat) (value : BitVec 64) :
    Statement (.registerWrite f offset size value) := rfl
theorem functionLevelReset (f : FnId) : Statement (.functionLevelReset f) := rfl
theorem flrDone (f : FnId) : Statement (.flrDone f) := rfl
theorem commandTake (read : EntryRead) : Statement (.commandTake read) := by
  cases read <;> simp [Statement, Instr.wf, EntryRead.wf]
theorem commandDeferredBegin (cmd : Nat) : Statement (.commandDeferredBegin cmd) := rfl
theorem completionWrite (cmd : Nat) (ok : Bool) : Statement (.completionWrite cmd ok) := rfl
theorem cqModerationTimer (f : FnId) (ring : RingId) : Statement (.cqModerationTimer f ring) := rfl
theorem nop (cmd : Nat) : Statement (.nop cmd) := rfl
theorem deviceQuery (cmd : Nat) (io : HostIo) : Statement (.deviceQuery cmd io) := rfl
theorem hello (cmd : Nat) : Statement (.hello cmd) := rfl
theorem functionQuery (cmd : Nat) (io : HostIo) : Statement (.functionQuery cmd io) := rfl
theorem timeGet (cmd : Nat) (io : HostIo) : Statement (.timeGet cmd io) := rfl
theorem timeSet (cmd : Nat) : Statement (.timeSet cmd) := rfl
theorem shareSet (cmd : Nat) : Statement (.shareSet cmd) := rfl
theorem provision (cmd : Nat) : Statement (.provision cmd) := rfl
theorem memMap (cmd : Nat) : Statement (.memMap cmd) := rfl
theorem memUnmap (cmd : Nat) : Statement (.memUnmap cmd) := rfl
theorem memCopy (cmd : Nat) (host : HostRead) (graft2 : Option WriteFault) :
    Statement (.memCopy cmd host graft2) := rfl
theorem memFill (cmd : Nat) (io : HostIo) (graft2 : Option WriteFault) :
    Statement (.memFill cmd io graft2) := rfl
theorem memTagCheck (cmd : Nat) : Statement (.memTagCheck cmd) := rfl
theorem streamOpen (cmd : Nat) : Statement (.streamOpen cmd) := rfl
theorem streamClose (cmd : Nat) : Statement (.streamClose cmd) := rfl
theorem streamCloseDone (c : CtxId) : Statement (.streamCloseDone c) := rfl
theorem streamConfig (cmd : Nat) : Statement (.streamConfig cmd) := rfl
theorem streamStats (cmd : Nat) (io : HostIo) : Statement (.streamStats cmd io) := rfl
theorem linkStatus (cmd : Nat) (io : HostIo) : Statement (.linkStatus cmd io) := rfl
theorem guardConfig (cmd : Nat) : Statement (.guardConfig cmd) := rfl
theorem graphLoad (cmd : Nat) (img : ImageRead GraphImage) : Statement (.graphLoad cmd img) := rfl
theorem graphUnload (cmd : Nat) : Statement (.graphUnload cmd) := rfl
theorem jobSubmit (cmd : Nat) : Statement (.jobSubmit cmd) := rfl
theorem jobCancel (cmd : Nat) : Statement (.jobCancel cmd) := rfl
theorem bindStream (cmd : Nat) : Statement (.bindStream cmd) := rfl
theorem reserve (cmd : Nat) : Statement (.reserve cmd) := rfl
theorem kvOpen (cmd : Nat) : Statement (.kvOpen cmd) := rfl
theorem kvScatter (cmd : Nat) (graft2 : Option WriteFault) : Statement (.kvScatter cmd graft2) := rfl
theorem kvTrim (cmd : Nat) : Statement (.kvTrim cmd) := rfl
theorem kvClose (cmd : Nat) : Statement (.kvClose cmd) := rfl
theorem kvQuery (cmd : Nat) : Statement (.kvQuery cmd) := rfl
theorem attend (cmd : Nat) : Statement (.attend cmd) := rfl
theorem safetyConfig (cmd : Nat) : Statement (.safetyConfig cmd) := rfl
theorem faultAck (cmd : Nat) : Statement (.faultAck cmd) := rfl
theorem faultHistory (cmd : Nat) (io : HostIo) : Statement (.faultHistory cmd io) := rfl
theorem selftestStatus (cmd : Nat) (io : HostIo) : Statement (.selftestStatus cmd io) := rfl
theorem inject (cmd : Nat) : Statement (.inject cmd) := rfl
theorem thresholdSet (cmd : Nat) : Statement (.thresholdSet cmd) := rfl
theorem powerState (cmd : Nat) : Statement (.powerState cmd) := rfl
theorem budgetSet (cmd : Nat) : Statement (.budgetSet cmd) := rfl
theorem thermalQuery (cmd : Nat) (io : HostIo) : Statement (.thermalQuery cmd io) := rfl
theorem dieRestore (cmd : Nat) : Statement (.dieRestore cmd) := rfl
theorem dieRestoreDone (result : ScionTest) : Statement (.dieRestoreDone result) := rfl
theorem canConfig (cmd : Nat) : Statement (.canConfig cmd) := rfl
theorem canSend (cmd : Nat) : Statement (.canSend cmd) := rfl
theorem safeMessageSet (cmd : Nat) : Statement (.safeMessageSet cmd) := rfl
theorem uartConfig (cmd : Nat) : Statement (.uartConfig cmd) := rfl
theorem driftConfig (cmd : Nat) : Statement (.driftConfig cmd) := rfl
theorem replayArm (cmd : Nat) : Statement (.replayArm cmd) := rfl
theorem replayFeed (cmd : Nat) : Statement (.replayFeed cmd) := rfl
theorem crosscheckConfig (cmd : Nat) : Statement (.crosscheckConfig cmd) := rfl
theorem wdogConfig (cmd : Nat) : Statement (.wdogConfig cmd) := rfl
theorem firmwareStage (cmd : Nat) (img : ImageRead FwImage) : Statement (.firmwareStage cmd img) := rfl
theorem firmwareCommit (cmd : Nat) : Statement (.firmwareCommit cmd) := rfl
theorem debugUnlock (cmd : Nat) : Statement (.debugUnlock cmd) := rfl
theorem timeSlewEnd : Statement .timeSlewEnd := rfl
theorem gptpSync (p : Port4) (m : SyncMeasure) : Statement (.gptpSync p m) := rfl
theorem gptpPeerDelay (p : Port4) (m : PeerDelay) : Statement (.gptpPeerDelay p m) := rfl
theorem gptpHoldover : Statement .gptpHoldover := rfl
theorem clockMonitorWindow (m : Monitor) (count : Nat) : Statement (.clockMonitorWindow m count) := rfl
theorem wdogClockStopped (w : WdogId) : Statement (.wdogClockStopped w) := rfl
theorem seamTransfer (n : ScionId) (toRootstock : Bool) (crcOk : Bool) :
    Statement (.seamTransfer n toRootstock crcOk) := rfl
theorem seamHeartbeatInterval (n : ScionId) (heard : Bool) : Statement (.seamHeartbeatInterval n heard) := rfl
theorem scionClockLockLoss (n : ScionId) : Statement (.scionClockLockLoss n) := rfl
theorem scionResetAssert (n : ScionId) : Statement (.scionResetAssert n) := rfl
theorem lampSeamFrame (dest : Side) (crcOk : Bool) : Statement (.lampSeamFrame dest crcOk) := rfl
theorem lampSeamHeartbeatInterval (side : Side) : Statement (.lampSeamHeartbeatInterval side) := rfl
theorem lockstepMismatch (p : Pair) : Statement (.lockstepMismatch p) := rfl
theorem faultEdgeCapture (source : Nat) (event : Ev) (owner : Option FnId) (class2 : Bool) (stays : Bool) :
    Statement (.faultEdgeCapture source event owner class2 stays) := rfl
theorem faultHoldoffEnd (source : Nat) (event : Ev) : Statement (.faultHoldoffEnd source event) := rfl
theorem reactionExpired (source : Nat) : Statement (.reactionExpired source) := rfl
theorem shadowTimerExpired (source : Nat) : Statement (.shadowTimerExpired source) := rfl
theorem faultInNLow : Statement .faultInNLow := rfl
theorem voltageMonitor (rail : Fin 10) : Statement (.voltageMonitor rail) := rfl
theorem wdogService (w : WdogId) (tick : Nat) : Statement (.wdogService w tick) := rfl
theorem wdogPeriodEnd (w : WdogId) : Statement (.wdogPeriodEnd w) := rfl
theorem foremanWdogService (loopPassed f0Answered f1Answered timersReadable : Bool) :
    Statement (.foremanWdogService loopPassed f0Answered f1Answered timersReadable) := rfl
theorem shiftBoundary : Statement .shiftBoundary := rfl
theorem tileStart : Statement .tileStart := rfl
theorem tileEnd (e : EngineId) (events : List TileEvent) (measuredUs : Nat) :
    Statement (.tileEnd e events measuredUs) := rfl
theorem sliceStart : Statement .sliceStart := rfl
theorem sliceEnd (passed : Bool) : Statement (.sliceEnd passed) := rfl
theorem sliceGuardExpired : Statement .sliceGuardExpired := rfl
theorem diagAgeLimit (e : EngineId) : Statement (.diagAgeLimit e) := rfl
theorem patrolScrubRead (upsets : List Upset) (met : List ClPortId) :
    Statement (.patrolScrubRead upsets met) := rfl
theorem footprintSample (footprint : List Int) (die : List Int) :
    Statement (.footprintSample footprint die) := by
  simp [Statement, Instr.wf]
theorem footprintCoolStep (n : ScionId) : Statement (.footprintCoolStep n) := rfl
theorem eclkDividerChange (n : ScionId) : Statement (.eclkDividerChange n) := rfl
theorem budgetInterval (packageMw baseMw : Nat) (requests : List (Option PowerRequest)) (acked : List Bool) :
    Statement (.budgetInterval packageMw baseMw requests acked) := by
  simp [Statement, Instr.wf]
theorem stewardNoGrant (n : ScionId) : Statement (.stewardNoGrant n) := rfl
theorem dozeEntry : Statement .dozeEntry := rfl
theorem nightEntry : Statement .nightEntry := rfl
theorem nightWake (cause : WakeCause) : Statement (.nightWake cause) := rfl
theorem noscMissingEdge : Statement .noscMissingEdge := rfl
theorem nightRailCrossing (rail : Fin 10) : Statement (.nightRailCrossing rail) := rfl
theorem clTrainingAttemptStart (p : ClPortId) : Statement (.clTrainingAttemptStart p) := rfl
theorem clPreambleFound (p : ClPortId) (agc : BitVec 7) : Statement (.clPreambleFound p agc) := rfl
theorem clCtlePresetDone (p : ClPortId) (error : Nat) (agc : BitVec 7) (x : Preamble) :
    Statement (.clCtlePresetDone p error agc x) := by
  simp [Statement, Instr.wf, Preamble.wf]
theorem clDfePreambleDone (p : ClPortId) (x : Preamble) : Statement (.clDfePreambleDone p x) := by
  simp [Statement, Instr.wf, Preamble.wf]
theorem clTrainingBoundExpired (p : ClPortId) : Statement (.clTrainingBoundExpired p) := rfl
theorem linkBlock (p : ClPortId) (b : LinkBlock) : Statement (.linkBlock p b) := by
  simp [Statement, Instr.wf, LinkBlock.wf]
theorem clResyncTimeout (p : ClPortId) : Statement (.clResyncTimeout p) := rfl
theorem backchannelAckTimeout (p : ClPortId) (msgNo : Fin 16) :
    Statement (.backchannelAckTimeout p msgNo) := rfl
theorem trigger (c : CtxId) : Statement (.trigger c) := rfl
theorem frameLateTimeout (c : CtxId) : Statement (.frameLateTimeout c) := rfl
theorem ethFrame (p : Port4) (fcsOk : Bool) (frame : Bytes) (graft2 : Option ClPortId) :
    Statement (.ethFrame p fcsOk frame graft2) := rfl
theorem ethLinkChange (p : Port4) (up : Bool) (speed : Fin 4) : Statement (.ethLinkChange p up speed) := rfl
theorem uartCharacter (p : Port4) (samples : List Bool) (graft2 : Option ClPortId) :
    Statement (.uartCharacter p samples graft2) := rfl
theorem uartIdleGap (p : Port4) : Statement (.uartIdleGap p) := rfl
theorem canFrameEnd (b : BusId) (o : CanOutcome) : Statement (.canFrameEnd b o) := rfl
theorem canBusOffRecoveryDone (b : BusId) : Statement (.canBusOffRecoveryDone b) := rfl
theorem canSendTimeout (b : BusId) (cmd : Nat) : Statement (.canSendTimeout b cmd) := rfl
theorem canFrameReceived (b : BusId) (good : Bool) : Statement (.canFrameReceived b good) := rfl
theorem safeMessageRepeat (b : BusId) : Statement (.safeMessageRepeat b) := rfl
theorem driftPacket (p : Port4) (packet : Bytes) : Statement (.driftPacket p packet) := rfl
theorem driftTrainingRetry (p : Port4) : Statement (.driftTrainingRetry p) := rfl
theorem xcUnmatchedTimeout (c : CtxId) (counter : BitVec 32) :
    Statement (.xcUnmatchedTimeout c counter) := rfl
theorem replayRecordApply : Statement .replayRecordApply := rfl
theorem replayBreak : Statement .replayBreak := rfl
theorem lampDieReset : Statement .lampDieReset := rfl
theorem driftLinkChange (p : Port4) (up : Bool) : Statement (.driftLinkChange p up) := rfl
theorem linkSettingsRetrainTimeout (p : ClPortId) : Statement (.linkSettingsRetrainTimeout p) := rfl

end Sys2Proof.Laws.WellFormed
end

