-- ==== Sys2Proof/Tests/Slice0.lean ====
section
/-!
SUPPORT. Tests of the model, each on one step or one operation: the ill-formed commands, the manual's worked
examples, and for every statement with hypotheses a concrete state and operands that meet them, clause by clause.
-/

namespace Sys2Proof.Tests

-- One theorem at a time: elaborated side by side, each waits in a thread with its own large stack.
set_option Elab.async false

open Sys2Proof.Machine

/-! ## Builders -/

/-- A booted T64 with both ports up, HELLO done everywhere and its four scions joined. -/
def live : State :=
  { clk := { rootLocked := true }
    boot := { complete := true, configReady := true, firmware := some 0, memTrained := true, memMib := 98304,
              macsUp := true, canNormal := true }
    portA := { linkUp := true, training := true }, portB := { linkUp := true, training := true }
    fns := Vector.replicate 128 { helloDone := true }
    lamp := { onLosc := true, booted := true, seamUp := true, armed := true, gotBoot := true }
    scions := Vector.replicate 4 { state := .joined } }

/-- The same device before its firmware has been read. -/
def cold : State := { clk := { rootLocked := true } }

/-- The same device in the safe state on both dies. -/
def halted : State :=
  { live with safe := true, rootDrivesLow := true, lampDrivesLow := true, lamp := { live.lamp with safe := true } }

def put (b : Bytes) (o n v : Nat) : Bytes := b.take o ++ leBytes n v ++ b.drop (o + n)

/-- `n` bytes with the fields at offset, length and value. -/
def bytesOf (n : Nat) (fs : List (Nat × Nat × Nat)) : Bytes := fs.foldl (fun b x => put b x.1 x.2.1 x.2.2) (zeros n)

/-- A begun command of function 0 with the descriptor's fields, its class and its block. -/
def cmd (code : Nat) (fs : List (Nat × Nat × Nat)) (cls : BitVec 8 := 0) (block : Bytes := []) : Cmd :=
  { id := 1, fn := 0, sq := 0, cq := 0, opcode := BitVec.ofNat 16 code, flags := 0, cls := cls, seq := 0
    deadline := 0, desc := bytesOf 64 fs, block := block, phase := .begun, badBlock := false }

/-- The state in which the command has been taken. -/
def given (s : State) (c : Cmd) : State := { s with fore := { s.fore with taken := [c] } }

/-- The command has begun on this state, and meets a further condition. -/
def meets (s : State) (o : Opcode) (c : Cmd) (p : State → Bool) : Bool :=
  let s := given s c
  decide (s.cmd 1 = some c) && s.rootRuns && decide (c.phase = .begun) && decide (opcodeOf c.opcode = some o) && p s

/-- What `meets` says is the hypothesis of the statements about commands. -/
theorem begins_of_meets {s : State} {o : Opcode} {c : Cmd} {p : State → Bool} (h : meets s o c p = true) :
    (given s c).Begins 1 o c ∧ p (given s c) = true := by
  simp only [meets, Bool.and_eq_true, decide_eq_true_eq] at h
  exact ⟨⟨h.1.1.1.1, h.1.1.1.2, h.1.1.2, h.1.2⟩, h.2⟩

/-- The row answers a next state. -/
def runs (c : Instr) (s : State) : Bool :=
  match exec c s with
  | .next _ => true
  | _ => false

/-! ## Ill-formed commands are refused -/

def quietBlock : LinkBlock :=
  { symbols := List.replicate 4096 .m3, errors := List.replicate 4096 0, agc := 0, graft2 := none }

theorem test_ill_formed_is_refused :
    Instr.wf (.memoryTrainingDone (List.replicate 23 1)) = false ∧ Instr.wf (.memoryTrainingDone (List.replicate 24 1)) = true
    ∧ Instr.wf (.commandTake (.entry (zeros 63))) = false ∧ Instr.wf (.commandTake (.entry (zeros 64))) = true
    ∧ Instr.wf (.footprintSample (List.replicate 16 0) (List.replicate 63 0)) = false
    ∧ Instr.wf (.footprintSample (List.replicate 15 0) (List.replicate 64 0)) = false
    ∧ Instr.wf (.budgetInterval 0 0 [none, none, none] [true, true, true, true]) = false
    ∧ Instr.wf (.budgetInterval 0 0 [none, none, none, none] [true, true, true]) = false
    ∧ Instr.wf (.clCtlePresetDone 0 0 0 { phase := 0, errors := [] }) = false := by decide +kernel

theorem test_ill_formed_link_data_is_refused :
    Instr.wf (.clCtlePresetDone 0 0 0 { phase := 0, errors := List.replicate 25000 0 }) = true
    ∧ Instr.wf (.clDfePreambleDone 0 { phase := 0, errors := List.replicate 25000 0 }) = false
    ∧ Instr.wf (.linkBlock 0 quietBlock) = true
    ∧ Instr.wf (.linkBlock 0 { quietBlock with symbols := List.replicate 4095 .m3 }) = false
    ∧ Instr.wf (.linkBlock 0 { quietBlock with errors := List.replicate 4095 0 }) = false := by decide +kernel

/-- The table gives no row any bits, so no word spells a command. -/
theorem test_no_word_spells_a_command : decodeTableWord 16 0 = none ∧ decodeTableWord 0 0 = none := by decide +kernel

/-! ## Worked examples of the manual -/

/-- The example of R221: PA 0x12D6_8740 lies on channel 11 at 0x00C8_F040, and the next line on channel 12. -/
theorem test_interleave_example :
    chanOf 0x12D68740 = 11 ∧ coffOf 0x12D68740 = 0xC8F040 ∧ chanOf (0x12D68740 + 256) = 12
    ∧ quadrantOf 11 = 1 ∧ quadrantOf 0 = 0 ∧ quadrantOf 23 = 3 := by decide +kernel

/-- The lidar-fusion head of R272. -/
def lidarHead (mode : RMode) : Requant :=
  { grain := .tensor, m := [2 ^ 30], s := [36], mode := mode, bias := [0], lo := [-118], hi := [137], zp := -10, outlier := .none }

/-- The table of R272: the quotients of every mode, and what HALF_EVEN stores. -/
theorem test_requantising_example :
    [96, 160, -96, 10000].map (fun a : Int => roundShift .halfAway (a * 2 ^ 30) 36) = [2, 3, -2, 156]
    ∧ [96, 160, -96, 10000].map (fun a : Int => roundShift .halfEven (a * 2 ^ 30) 36) = [2, 2, -2, 156]
    ∧ [96, 160, -96, 10000].map (fun a : Int => roundShift .towardZero (a * 2 ^ 30) 36) = [1, 2, -1, 156]
    ∧ [96, 160, -96, 10000].map (fun a : Int => Machine.Requant.out (lidarHead .halfEven) 0 [a]) = [-8, -8, -12, 127] := by
  decide +kernel

/-- The two groups of R275 give −25. -/
theorem test_group_scale_example :
    Machine.Requant.out { grain := .group 32, m := [1073741824, 1610612736], s := [31], mode := .halfEven, bias := [0],
                          lo := [-128], hi := [127], zp := 0, outlier := .none } 0 [1000, -700] = -25 := by decide +kernel

/-- The check value of R14. -/
theorem test_crc32c_check_value :
    crc32c [0x31, 0x32, 0x33, 0x34, 0x35, 0x36, 0x37, 0x38, 0x39] = 0xE3069283 := by decide +kernel

/-- The Severe record of chapter 15: STATE 0x0240_0417, ORIGIN 0x0060_32C6, bytes 8 to 11 17 04 40 02. -/
theorem test_history_record_example :
    let r : Rec := { time := 10066678000, count := 2, latched := true, injected := false, seq := 0x417, context := 0
                     source := 0x603, event := .frameRepeated, die := 0, timer := true, tier := 2, owner := some 0
                     class2 := false, episode := some 0x417 }
    r.stateWord false = 0x02400417 ∧ r.originWord = 0x006032C6 ∧ ((r.bytes false).drop 8).take 4 = [0x17, 0x04, 0x40, 0x02] := by
  decide +kernel

/-- The quantities of R305 with four scions, 33,333 µs and 40 of 64 parts for Port A. -/
theorem test_shift_quantities_example :
    usableOf 4 33333 = 2026646 ∧ partOf 2026646 40 .a = 1266653 ∧ resCapOf 2026646 40 .a = 949989 := by decide +kernel

/-- The thinning of R322: 256, 229 and 114 of 256, and stream C's first frames. -/
theorem test_thinning_example :
    let l := lambdaOf [(4, 200000), (2, 200000), (1, 150000)] 446646
    [4, 2, 1].map (keepCount l) = [256, 229, 114]
    ∧ ((List.range 9).filter (fun n => ({ keep := 114, thinPhase := n } : Stream).keeps)) = [2, 4, 6, 8] := by decide +kernel

/-- The crop of R263: the rows of the pedestrian box. -/
theorem test_crop_coordinates_example :
    sampleCoord 0xA0000 0x118000 7 0 = 657700 ∧ sampleCoord 0xA0000 0x118000 7 6 = 1079002 := by decide +kernel

/-! ## The statements' hypotheses are met -/

/-- Two waiting commands. -/
theorem test_StepRunsTheFrontCommand_met :
    ({ live with pending := [.configReady, .scionJoinDeadline] } : State).pending = .configReady :: [.scionJoinDeadline] := rfl

theorem test_CommandsLeaveTheQueue_met : runs .configReady live = true ∧ runs (.nop 1) live = true := by decide +kernel

/-- A record of a frame event. -/
def note (q : BitVec 21) : Rec :=
  { time := 5, count := 1, latched := true, injected := false, seq := q, context := 0, source := 0x603
    event := .frameRepeated, die := 0, timer := false, tier := 1, owner := some 0, class2 := false, episode := none }

def timer (src : Nat) (q : BitVec 21) : ReactionTimer :=
  { source := src, startSeq := q, members := [{ seq := q, event := .frameRepeated, class2 := false, context := 0 }]
    lengthUs := 5000, owner := none, context := 0xFF, class2 := false }

/-- Every bound but the decision-log ring's is reached: 32 timers, 32 records in a view, +500 ppm within a slew from
−500 ppm, 1,024 digest records; memory and the yard hold something. -/
def brim : State :=
  { live with
    clk := { live.clk with corr := 5368709, slew := some { prev := -5368709, left := 9 } }
    fcu := { timers := List.replicate 32 (timer 0x603 1) }
    fns := Vector.replicate 128 { helloDone := true, view := List.replicate 32 (note 7) }
    xc := { held := List.replicate 1024 { mine := true, ctx := 0, counter := 0, valid := true, digest := 0 } }
    mem := { cells := [(0, 1), (2 ^ 55 - 1, 255)], tags := [(0, 5)] }
    yard := { mem := { cells := [(0, 7)] } }
    pending := [.configReady] }

theorem test_EveryStepKeepsTheBounds_met :
    brim.Inv ∧ ∃ t, step brim = .next t :=
  ⟨{ mem := by decide +kernel, yard := by decide +kernel, timers := by decide +kernel, views := by decide +kernel, corr := by decide +kernel
     slew := by
       intro c h
       have h : c = { prev := -5368709, left := 9 } := (Option.some.inj h).symm
       subst h; decide +kernel
     log := by decide +kernel, held := (List.length_replicate (n := 1024)).le }, ⟨_, rfl⟩⟩

theorem test_IdleStepIsOneCycle_met :
    live.pending = [] ∧ live.rootRuns = true ∧ State.reset.pending = [] ∧ State.reset.rootRuns = false := by decide +kernel

/-- One below the wrap of device time. -/
theorem test_DeviceTimeIsStrictlyIncreasing_met :
    let c : Clocks := { time := 2 ^ 64 - 3, frac := 2 ^ 31 - 1 }
    c.total + c.increment = 2 ^ 96 - 1 ∧ c.cycle.total = 2 ^ 96 - 1 := by decide +kernel

def porstLow : State := { live with boot := { live.boot with porstLow := true } }
def sysresetLow : State := { live with boot := { live.boot with sysresetLow := true, testMode := true } }
def failedLamp : State := { halted with lamp := { halted.lamp with resetDue := true } }

theorem test_WholeDeviceResets_met :
    porstLow.boot.porstLow = true ∧ live.boot.porstLow = false ∧ sysresetLow.boot.sysresetLow = true
    ∧ sysresetLow.boot.porstLow = false ∧ failedLamp.lampRuns = true ∧ failedLamp.lamp.resetDue = true
    ∧ live.boot.sysresetLow = false ∧ live.lamp.resetDue = false := by decide +kernel

/-- Both dies safe and both driving the pins; Night refuses, the other commands act. -/
theorem test_SafeStateIsLatched_met :
    halted.awake = true ∧ resets .nightEntry = false ∧ resets .rootPllLockLoss = false ∧ runs .nightEntry halted = true
    ∧ runs .rootPllLockLoss halted = true ∧ halted.safe = true ∧ halted.lamp.safe = true
    ∧ halted.rootDrivesLow = true ∧ halted.lampDrivesLow = true ∧ halted.pinsHigh = false := by decide +kernel

theorem test_SafePinsStayLow_met :
    halted.awake = true ∧ resets .lampDieReset = false ∧ (Instr.lampDieReset ≠ .nightEntry) ∧ runs .lampDieReset halted = true
    ∧ halted.rootDrivesLow = true ∧ halted.lampDrivesLow = true ∧ halted.pinsHigh = false := by decide +kernel

/-- A query at CLASS 0, one at CLASS 1, and a command without the mark S. -/
def three : State :=
  { live with fore := { live.fore with
      taken := [{ cmd 0x0001 [] with id := 3 }, { cmd 0x0001 [] 1 with id := 4 }, { cmd 0x0005 [] with id := 5 }] } }

theorem test_EnteringTheSafeState_met :
    three.safe = false ∧ (∀ c ∈ three.fore.taken, c.live = true)
    ∧ (three.fore.taken.map (fun c => (opcodeOf c.opcode).map Opcode.safeMark)) = [some true, some true, some false] := by
  decide +kernel

theorem test_NightAndTheSafeState_met :
    { live with safe := true }.safe = true ∧ { live with lamp := { live.lamp with safe := true } }.lamp.safe = true
    ∧ live.awake = true := by decide +kernel

theorem test_RootPll_met :
    State.reset.held = false ∧ State.reset.clk.lost = false ∧ State.reset.clk.rootLocked = false ∧ State.reset.awake = true
    ∧ live.rootRuns = true := by decide +kernel

/-- Slot 0 unsigned; both unsigned; slot 1 below the fuse counter. -/
def flash1 : State := { cold with flash := { slots := #v[{}, { signed := true }] } }
def flash0 : State := { cold with flash := { slots := #v[{}, { signed := true, rollback := 3 }] }, fixed := { rollback := 4 } }

/-- Scion 3's checkers have all passed; one of them has failed, after an earlier failure or none. -/
def injected : State := { cold with boot := { cold.boot with passed := scionCheckers 3 } }
def stuckScion (before : Nat) : State :=
  { cold with boot := { cold.boot with failing := [.abft 63] }, scions := cold.scions.set 3 { failures := before } }

theorem test_StartUpOnTheRootstock_met :
    cold.rootRuns = true ∧ cold.boot.testMode = false ∧ cold.boot.firmware = none ∧ cold.boot.recovery = false
    ∧ cold.slotOk cold.flash.selected = true
    ∧ flash1.slotOk flash1.flash.selected = false ∧ flash1.slotOk (otherSlot flash1.flash.selected) = true
    ∧ flash0.slotOk 0 = false ∧ flash0.slotOk 1 = false
    ∧ cold.boot.memTrained = false ∧ (List.replicate 24 2).min? = some (1 + 1) ∧ (0 :: List.replicate 23 2).min? = some 0
    ∧ cold.boot.complete = false ∧ (cold.scions[3].state = .untested) ∧ (live.scions[0].state = .joined)
    ∧ injected.rootRuns = true ∧ injected.boot.complete = false ∧ (injected.scions[3]).state = .untested
    ∧ injected.boot.failing.any (fun k => decide (checkerDie k = .scion 3)) = false
    ∧ (∀ k ∈ scionCheckers 3, k ∈ injected.boot.passed) ∧ (some 15 : Option (Fin 16)).isSome = true
    ∧ (stuckScion 1).boot.failing.any (fun k => decide (checkerDie k = .scion 3)) = true
    ∧ ((stuckScion 0).scions[3]).failures = 0 ∧ 1 ≤ ((stuckScion 1).scions[3]).failures
    ∧ (∀ n : ScionId, (cold.scions[n.val]).state = .untested ∨ (cold.scions[n.val]).state = .excluded) := by decide +kernel

/-- Port A held by PERST_N. -/
def perst : State := { cold with portA := { perstLow := true }, boot := { cold.boot with trainingOpen := true } }

theorem test_PciePorts_met :
    perst.rootRuns = true ∧ (live.port .b).training = true ∧ perst.held = false ∧ perst.boot.trainingOpen = true
    ∧ (live.port .a).linkUp = true ∧ live.boot.configReady = true ∧ (live.fn (pfOf .a)).resetting = false
    ∧ ({ live with boot := { live.boot with configReady := false } } : State).boot.configReady = false
    ∧ portOf 127 = .b ∧ portOf 64 = .b ∧ portOf 63 = .a
    ∧ (let s := live.setFn (pfOf .a) (fun x => { x with resetting := true })
       (s.port .a).linkUp = true ∧ (s.fn (pfOf .a)).resetting = true)
    ∧ (let s := live.setFn 63 (fun x => { x with msix := x.msix.set 31 { masked := false, pba := true } })
       (s.port .a).linkUp = true ∧ (s.fn (pfOf .a)).resetting = false ∧ (s.fn 63).resetting = false
       ∧ ((s.fn 63).msix[31]).pba = true ∧ ((s.fn 63).msix[31]).masked = false) := by decide +kernel

/-- One VF of each port enabled. -/
def virtual : State := { live with portA := { live.portA with vfs := 63 }, portB := { live.portB with vfs := 1 } }
def inReset (f : FnId) : State := live.setFn f (fun x => { x with resetting := true })

theorem test_FunctionLevelReset_met :
    virtual.reaches 63 = true ∧ (virtual.fn 63).resetting = false ∧ isVf 63 = true ∧ isVf 64 = false ∧ virtual.reaches 64 = true
    ∧ (inReset 0).rootRuns = true ∧ ((inReset 0).fn 0).resetting = true ∧ (inReset 0).mem.wf = true
    ∧ (0 : Nat) < 2 ^ 48 ∧ 2 ^ 48 - 1 < 2 ^ 48 := by decide +kernel

/-- Ring 15 of both kinds with four entries, enabled. -/
def ringed : State :=
  (live.setSq 0 15 (fun q => { q with enable := true, log2 := 2, cq := 15 })).setCq 0 15
    (fun q => { q with enable := true, log2 := 2 })

theorem test_DoorbellsAndRings_met :
    ringed.reaches 0 = true ∧ (ringed.fn 0).resetting = false ∧ (ringed.sq 0 15).enable = true ∧ (ringed.cq 0 15).enable = true
    ∧ (3 : BitVec 32).toNat % 4096 < 2 ^ (ringed.sq 0 15).log2.toNat ∧ 2 ^ (ringed.sq 0 15).log2.toNat ≤ (4 : BitVec 32).toNat % 4096
    ∧ (3 : BitVec 32).toNat % 4096 < 2 ^ (ringed.cq 0 15).log2.toNat ∧ 2 ^ (ringed.cq 0 15).log2.toNat ≤ (4 : BitVec 32).toNat % 4096
    ∧ ringed.sqRefused 0 15 0x800F0003 = true ∧ ringed.sqRefused 0 15 0x000F0002 = false
    ∧ ringed.sqRefused 0 1 0x800F0004 = false ∧ (0x800F0004 : BitVec 32).getLsbD 31 = true ∧ (ringed.sq 0 1).enable = false
    ∧ ringed.cqRefused 0 15 0x80010003 = true ∧ ringed.cqRefused 0 1 0x80010004 = false ∧ (ringed.cq 0 1).enable = false := by
  decide +kernel

/-- A pending vector, masked and unmasked; a function that may signal. -/
def signals : State :=
  live.setFn 0 (fun x => { x with msixEnable := true, msix := (x.msix.set 31 { masked := true, pba := true }).set 0 { masked := false } })
def quietFn : State := live.setFn 0 (fun x => { x with msixEnable := true, mask := 1 })
def maskedFn : State := live.setFn 0 (fun x => { x with msixEnable := true })
/-- The function is masked as a whole; and in reset. -/
def hushed (f : Fn → Fn) : State := signals.setFn 0 f

theorem test_RegisterWrites_met :
    live.reaches 0 = true ∧ 0x000D % 4 ≠ 0 ∧ 0x0104 % 8 ≠ 0 ∧ (2 ≠ 4 ∧ 2 ≠ 8) ∧ 0x0108 % 8 = 0
    ∧ ((signals.fn 0).msix[31]).pba = true ∧ (signals.fn 0).msixEnable = true ∧ ((signals.fn 0).msix[30]).pba = false
    ∧ (1 : BitVec 7) &&& ~~~(quietFn.fn 0).event &&& ~~~(quietFn.fn 0).mask = 0
    ∧ (1 : BitVec 7) &&& ~~~(signals.fn 0).event &&& ~~~(signals.fn 0).mask ≠ 0 ∧ ((signals.fn 0).msix[0]).masked = false
    ∧ (1 : BitVec 7) &&& ~~~(maskedFn.fn 0).event &&& ~~~(maskedFn.fn 0).mask ≠ 0 ∧ (maskedFn.fn 0).msixEnable = true
    ∧ ((maskedFn.fn 0).msix[0]).masked = true ∧ (signals.fn 0).msixMask = false ∧ (signals.fn 0).resetting = false
    ∧ (let s := hushed (fun x => { x with msixMask := true })
       s.reaches 0 = true ∧ (s.fn 0).msixMask = true ∧ (s.fn 0).msixEnable = true ∧ (s.fn 0).resetting = false
       ∧ (1 : BitVec 7) &&& ~~~(s.fn 0).event &&& ~~~(s.fn 0).mask ≠ 0 ∧ ((s.fn 0).msix[31]).pba = true)
    ∧ ((hushed (fun x => { x with resetting := true })).fn 0).resetting = true
    ∧ (hushed (fun x => { x with resetting := true })).reaches 0 = true := by decide +kernel

/-- The host watchdogs run; on the second state the lamp seam is lost. -/
def guarded : State := { live with wdog := Vector.replicate 3 { state := .running } }
def cutOff : State := { guarded with lamp := { guarded.lamp with rootSide := { lost := true } } }

theorem test_HostWatchdogKeys_met :
    guarded.takesKeys 0 = true ∧ guarded.takesKeys 64 = true ∧ guarded.lamp.seamLost = false ∧ cutOff.takesKeys 64 = true
    ∧ cutOff.lamp.seamLost = true ∧ guarded.rootRuns = true := by decide +kernel

/-! ### Commands -/

/-- A submission entry with its GRAFT. -/
def sealed (fs : List (Nat × Nat × Nat)) : Bytes :=
  let d := bytesOf 60 fs
  d ++ leBytes 4 (crc32c d).toNat

theorem test_ChecksInOrder_met :
    (cold.fn 0).helloDone = false ∧ BitVec.ofNat 16 (leNat (sealed [(0, 2, 1)]) 0 2) ≠ 0x0002
    ∧ (live.fn 0).helloDone = true ∧ leNat (zeros 64) 60 4 ≠ (crc32c ((zeros 64).take 60)).toNat
    ∧ leNat (sealed [(0, 2, 5)]) 60 4 = (crc32c ((sealed [(0, 2, 5)]).take 60)).toNat ∧ halted.safe = true
    ∧ halted.boot.recovery = false ∧ leNat (sealed [(0, 2, 1), (3, 1, 1)]) 3 1 ≠ 0
    ∧ (opcodeOf (BitVec.ofNat 16 (leNat (sealed [(0, 2, 5)]) 0 2))).map Opcode.safeMark = some false
    ∧ live.check 0 (sealed [(0, 2, 0)]) = ([], none) ∧ halted.check 0 (sealed [(0, 2, 1), (16, 8, 0)]) ≠ ([], none)
    ∧ cold.check 0 (sealed [(0, 2, 2), (16, 4, 64)]) = ([], none) := by decide +kernel

/-- Ring 0 of function 0 with one entry to take: HEAD 3 of 4, TAIL 0. -/
def offered : State :=
  (live.setSq 0 0 (fun q => { q with enable := true, log2 := 2, head := 3, tail := 0 })).setCq 0 0
    (fun q => { q with enable := true, log2 := 2 })
def waiting (r : List Run) : State :=
  { live with fore := { live.fore with taken := [{ cmd 0x0405 [] with phase := .waiting }], runs := r } }

/-- A run of no tiles. -/
def idleRun (k : RunKind) : Run :=
  { id := 1, kind := k, fn := 0, cls := 0, deadline := 0, reservation := 0, replayable := false, handle := 1
    image := { tensors := [], descs := [], ops := [], groups := [], tiles := [], key := 0 }
    reqs := [], binds := [], values := [], tiles := [], done := [], working := [], begun := false, admitted := true
    cleared := true, failed := none, lost := 0, dieLost := none, cancelled := none, entry := 0, raised := [], base := 0
    predictedUs := 0, usedUs := 0, shift := 0, subject := 0 }

/-- An ATTEND request over 2 positions of sequence 1. -/
def request : AttendReq :=
  { handle := 1, endPos := 2, kvLen := 2, qlen := 1, qPerKv := 1, causal := true, outFmt := .fp16, outMode := .halfEven
    qpos := 1, scoreScale := 0, vScale := 0, outInv := 0, qVa := 0, outVa := 0, outZp := 0 }

def attending : Run := { idleRun (.attend 1) with reqs := [request] }

theorem test_TakingACommand_met :
    offered.taking = true ∧ offered.unmapping = false ∧ offered.nextTake = some (0, 0) ∧ (sealed []).length = 64
    ∧ ((offered.advanceTurn 0 0).wakeFor (sealed [])).check 0 (sealed []) = ([], none)
    ∧ (((offered.advanceTurn 0 0).wakeFor (zeros 64)).check 0 (zeros 64)).2.isSome = true ∧ (zeros 63).length ≠ 64
    ∧ (waiting []).cmd 1 = some { cmd 0x0405 [] with phase := .waiting } ∧ (waiting []).rootRuns = true
    ∧ (waiting []).blockers { cmd 0x0405 [] with phase := .waiting } = []
    ∧ (waiting []).fore.runs.find? (fun r => r.cmd == some 1) = none
    ∧ (waiting [attending]).fore.runs.find? (fun r => r.cmd == some 1) = some attending
    ∧ (waiting [attending]).attendShort 0 attending.reqs = true ∧ (waiting [idleRun (.attend 1)]).attendShort 0 [] = false := by
  decide +kernel

/-- A JOB_SUBMIT that names no graph, with its block of two bindings in device memory, passes the checks of R134 and is
stopped by its parameters; a NOP passes both. -/
def jobEntry : Bytes :=
  sealed [(0, 2, 0x0302), (2, 1, 8), (16, 4, 1), (20, 2, 2), (44, 8, 0x200000), (52, 4, 64), (56, 4, (crc32c (zeros 64)).toNat)]
def offeredMapped : State :=
  offered.setFn 0 (fun x => { x with maps := [{ va := 0x200000, size := 0x200000, host := false, big := true, rd := true, wr := true, hostAddr := 0 }] })

set_option maxRecDepth 20000 in
theorem test_TakingACommand_params_met :
    jobEntry.length = 64 ∧ offeredMapped.taking = true ∧ offeredMapped.nextTake = some (0, 0)
    ∧ (let a := offeredMapped.advanceTurn 0 0
       let u := (a.wakeFor jobEntry).readBlock 0 jobEntry
       u.check 0 jobEntry = (zeros 64, none)
       ∧ (u.setSq 0 0 SubRing.advance).paramsBad { a.newCmd 0 0 jobEntry with block := zeros 64 } = some 16)
    ∧ (let a := offered.advanceTurn 0 0
       let u := (a.wakeFor (sealed [])).readBlock 0 (sealed [])
       u.check 0 (sealed []) = ([], none)
       ∧ (u.setSq 0 0 SubRing.advance).paramsBad { a.newCmd 0 0 (sealed []) with block := [] } = none) := by decide +kernel

theorem test_CompletionsFormOnce_met :
    (given live (cmd 0 [])).cmd 1 = some (cmd 0 []) ∧ (cmd 0 []).live = true
    ∧ ({ cmd 0 [] with phase := .formed stOk 0 0 0 } : Cmd).live = false
    ∧ (∀ x ∈ (given live (cmd 0 [])).fore.taken, x.id = 1 → x = cmd 0 []) := by decide +kernel

def formed : Cmd := { cmd 2 [] with phase := .formed stOk 0 64 7 }
def deadRing : State := (given live formed).setCq 0 0 (fun q => { q with dead := true })
def moderated : State :=
  (live.setCq 0 15 (fun q => { q with modTime := 1, unsignalled := 1, vector := 0 })).setFn 0
    (fun x => { x with msixEnable := true, msix := x.msix.set 0 { masked := false } })

theorem test_WritingACompletion_met :
    (given live formed).cmd 1 = some formed ∧ formed.phase = .formed stOk 0 64 7 ∧ (given live formed).rootRuns = true
    ∧ (∀ x ∈ (given live formed).fore.taken, x.id = 1 → x = formed) ∧ ((given live formed).cq 0 0).dead = false
    ∧ (deadRing.cq 0 0).dead = true ∧ formed.opcode = 0x0002 ∧ deadRing.cmd 1 = some formed
    ∧ moderated.rootRuns = true ∧ (moderated.cq 0 15).modTime ≠ 0 ∧ 0 < (moderated.cq 0 15).unsignalled
    ∧ (moderated.fn 0).msixEnable = true ∧ ((moderated.fn 0).msix[(moderated.cq 0 15).vector.toNat]).masked = false := by
  decide +kernel

/-- A device mapping of 2 MiB at 2 MiB, granting both rights; and a stream of function 1 in context 47. -/
def window : Mapping := { va := 0x200000, size := 0x200000, host := false, big := true, rd := true, wr := true, hostAddr := 0 }
def mapped : State := live.setFn 0 (fun x => { x with maps := [window] })
def streamed (c : CtxId) (x : Stream) : State := mapped.setStream c (fun _ => x)

theorem test_QueriesAnswer_met :
    meets mapped .deviceQuery (cmd 0x0001 [(16, 8, 0x200000)]) (fun _ => true) = true
    ∧ meets mapped .functionQuery (cmd 0x0003 [(16, 8, 0x200000)]) (fun _ => true) = true
    ∧ meets mapped .timeGet (cmd 0x0004 [(16, 8, 0x200000)]) (fun _ => true) = true ∧ (cmd 0x0004 [(16, 8, 0x200000)]).arg 16 8 ≠ 0
    ∧ meets mapped .timeGet (cmd 0x0004 []) (fun _ => true) = true ∧ (cmd 0x0004 []).arg 16 8 = 0
    ∧ meets mapped .linkStatus (cmd 0x0204 [(16, 1, 3), (17, 1, 3), (24, 8, 0x200000)]) (fun _ => true) = true
    ∧ meets mapped .faultHistory (cmd 0x0502 [(16, 8, 0x200000), (24, 1, 32)]) (fun _ => true) = true
    ∧ meets mapped .selftestStatus (cmd 0x0503 [(16, 8, 0x200000)]) (fun _ => true) = true
    ∧ meets mapped .thermalQuery (cmd 0x0602 [(16, 8, 0x200000)]) (fun _ => true) = true
    ∧ meets (streamed 47 { isOpen := true, owner := 1 }) .streamStats (cmd 0x0203 [(16, 1, 47), (24, 8, 0x200000)])
        (fun s => (s.streams[47]).isOpen && decide ((s.streams[47]).owner ≠ 0)) = true
    ∧ meets (streamed 47 { isOpen := true }) .streamStats (cmd 0x0203 [(16, 1, 47), (24, 8, 0x200000)])
        (fun s => decide ((s.streams[47]).owner = 0)) = true
    ∧ meets (streamed 0 { owner := 64 }) .streamStats (cmd 0x0203 [(24, 8, 0x200000)])
        (fun s => !(s.streams[0]).isOpen && decide ((s.streams[0]).owner ≠ 0)) = true
    ∧ (cmd 0x0203 [(16, 1, 47), (24, 8, 0x200000)]).arg 16 1 = 47 := by decide +kernel

set_option maxRecDepth 20000 in
/-- Where the record can be written, and where its line is poisoned. -/
theorem test_QueriesAnswer_writes :
    (mapped.writeVa 0 false 0x200000 (zeros 64) .ok).2 = (64, none)
    ∧ (({ mapped with mem := mapped.mem.poisonUnit (memKey 0 0x200000 / 64) } : State).writeVa 0 false 0x200000 (zeros 64) .ok).2
        = (0, some 0x0200) := by decide +kernel

def proposed (p : Nat × Nat × Nat) : State := { live with portB := { live.portB with proposal := some p } }
def challenged : State := { live with fore := { live.fore with debugChallenge := some 9 } }
def degraded : State := { live with scions := live.scions.set 3 { state := .excluded, excluded := true } }

theorem test_AdministrativeCommands_met :
    meets live .nop (cmd 0 []) (fun _ => true) = true
    ∧ meets live .hello (cmd 2 [(16, 4, 256)]) (fun s => !s.safe && s.degradation == 0) = true
    ∧ meets degraded .hello (cmd 2 [(16, 4, 1)]) (fun s => !s.safe && s.degradation != 0) = true
    ∧ meets halted .hello (cmd 2 []) (fun s => s.safe) = true
    ∧ meets live .shareSet (cmd 6 [(16, 1, 40), (17, 1, 32), (18, 1, 24)])
        (fun s => (s.port (otherPort .a)).proposal != some (40, 32, 24)) = true
    ∧ meets (proposed (40, 32, 24)) .shareSet (cmd 6 [(16, 1, 40), (17, 1, 32), (18, 1, 24)])
        (fun s => (s.port (otherPort .a)).proposal == some (40, 32, 24) && s.portFits (40, 32, 24) .a
          && s.portFits (40, 32, 24) .b) = true
    ∧ meets ((proposed (40, 32, 0)).setStream 0 (fun _ => { isOpen := true })) .shareSet
        (cmd 6 [(16, 1, 40), (17, 1, 32), (18, 1, 0)])
        (fun s => (s.port (otherPort .a)).proposal == some (40, 32, 0) && !(s.portFits (40, 32, 0) .a && s.portFits (40, 32, 0) .b)) = true
    ∧ meets live .debugUnlock (cmd 0x0F02 []) (fun _ => true) = true ∧ (cmd 0x0F02 []).arg 16 1 = 0
    ∧ meets challenged .debugUnlock (cmd 0x0F02 [(16, 1, 1)]) (fun s => s.fore.debugChallenge == some 9) = true
    ∧ meets live .debugUnlock (cmd 0x0F02 [(16, 1, 1)]) (fun s => s.fore.debugChallenge == none) = true := by decide +kernel

/-- Device time 1,000 with a stream open; and with none, slewing. -/
def atThousand : State := { live with clk := { live.clk with time := 1000, slew := some { prev := -7, left := 1 }, corr := 3 } }
def openAtThousand : State := atThousand.setStream 0 (fun _ => { isOpen := true })

def servo (x : Servo) (acq : Bool) (good : Nat) : State :=
  { live with clk := { live.clk with source := .gptp 3, servo := x, acquired := acq, goodSyncs := good } }

theorem test_TimeSetting_met :
    meets atThousand .timeSet (cmd 5 []) (fun _ => true) = true ∧ (cmd 5 []).arg 16 1 = 0
    ∧ meets atThousand .timeSet (cmd 5 [(16, 1, 5)]) (fun _ => true) = true ∧ (cmd 5 [(16, 1, 5)]).arg 16 1 = 2 + (3 : Port4).val
    ∧ meets openAtThousand .timeSet (cmd 5 [(16, 1, 1), (17, 1, 1), (24, 8, 1000)]) (fun s => decide (s.now.toNat ≤ 1000)) = true
    ∧ meets atThousand .timeSet (cmd 5 [(16, 1, 1), (17, 1, 1), (24, 8, 999)]) (fun s => !s.anyOpen) = true
    ∧ meets openAtThousand .timeSet (cmd 5 [(16, 1, 1), (17, 1, 1), (24, 8, 999)]) (fun s => decide (999 < s.now.toNat) && s.anyOpen) = true
    ∧ meets openAtThousand .timeSet (cmd 5 [(16, 1, 1), (17, 1, 1), (24, 8, 1001)]) (fun s => decide (s.now.toNat < 1001)) = true
    ∧ [999, 1000, 1001].all (fun t => meets openAtThousand .timeSet (cmd 5 [(16, 1, 1), (17, 1, 2), (24, 8, t)])
        (fun _ => (cmd 5 [(16, 1, 1), (17, 1, 2), (24, 8, t)]).arg 24 8 == t)) = true
    ∧ atThousand.rootRuns = true ∧ atThousand.clk.slew = some { prev := -7, left := 1 } ∧ (1 : Nat) ≠ 0
    ∧ ({ live.clk with slew := some { prev := 0, left := 0 } } : Clocks).slew = some { prev := 0, left := 0 }
    ∧ live.clk.slew = none ∧ atThousand.clk.corr ≠ -7 ∧ (0 : Int).natAbs ≤ Config.maxCorrection
    ∧ meets (servo .locked true 8) .timeSet (cmd 5 [(16, 1, 1), (17, 1, 1), (24, 8, 1000)]) (fun s => s.clk.onGptp) = true
    ∧ atThousand.clk.onGptp = false := by decide +kernel

theorem test_GptpServo_met :
    (servo .acquiring false 0).rootRuns = true ∧ (servo .acquiring false 0).clk.source = .gptp 3
    ∧ (servo .locked true 8).clk.acquired = true ∧ ((1000000 : Int).natAbs ≤ 1000000) ∧ (1000000 < (1000001 : Int).natAbs)
    ∧ (servo .acquiring false 0).clk.acquired = false ∧ (-1 : Int) < 0 ∧ (0 : Int) < 1
    ∧ ((servo .acquiring false 0).setStream 0 (fun _ => { isOpen := true })).anyOpen = true
    ∧ ((5368709 : Int).natAbs ≤ Config.maxCorrection) ∧ (servo .acquiring true 7).clk.servo = .acquiring
    ∧ 8 ≤ (servo .acquiring true 7).clk.goodSyncs + 1 ∧ (servo .locked true 8).clk.servo = .locked
    ∧ (servo .locked true 8).clk.servo ≠ .free
    ∧ syncValid { domain := 1, logInterval := 0, offset := 0, rate := 0, slewBy := 0 } = false
    ∧ syncValid { domain := 0, logInterval := -6, offset := 0, rate := 0, slewBy := 0 } = false := by decide +kernel

/-- Function 1 provisioned with safety authority. -/
def provisioned : State :=
  virtual.setFn 1 (fun x => { x with provision := some { vengines := 4, maxTally := 8, memMib := 2, kvPages := 0, streamMask := 0, safetyAuth := true } })
def holding : State := provisioned.setStream 0 (fun _ => { isOpen := true, owner := 1 })
def provisionOne (mem : Nat) : Cmd := cmd 7 [(16, 2, 1), (18, 1, 4), (20, 4, mem)]

theorem test_ProvisionAndSafetyConfig_met :
    meets provisioned .provision (provisionOne 0xFFFFFFFF)
        (fun s => (s.provisionOver .a (provisionOne 0xFFFFFFFF).vf (provisionOne 0xFFFFFFFF).provision) == some 2) = true
    ∧ meets holding .provision (provisionOne 2)
        (fun s => (s.provisionOver .a (provisionOne 2).vf (provisionOne 2).provision).isNone
          && (s.provisionUnder (provisionOne 2).vf (provisionOne 2).provision) == some 4) = true
    ∧ meets provisioned .provision (provisionOne 2)
        (fun s => (s.provisionOver .a (provisionOne 2).vf (provisionOne 2).provision).isNone
          && (s.provisionUnder (provisionOne 2).vf (provisionOne 2).provision).isNone && s.hasAuth (provisionOne 2).vf
          && !(provisionOne 2).provision.safetyAuth) = true
    ∧ meets live .safetyConfig (cmd 0x0500 [(16, 4, 5999)]) (fun s => decide (5999 < s.fore.safety.reactionUs + 1000)) = true
    ∧ meets live .safetyConfig (cmd 0x0500 [(16, 4, 6000)]) (fun s => decide (s.fore.safety.reactionUs + 1000 ≤ 6000)
        && !s.frameShort 6000) = true
    ∧ meets live .safetyConfig (cmd 0x0500 []) (fun s => decide (s.fore.safety.reactionUs + 1000 ≤ s.fore.safety.frameUs)
        && !(1 == 1 && s.maintenanceHeld)) = true
    ∧ meets { live with fore := { live.fore with reservations := [{ num := 1, fn := 0, amount := 1, inForce := 1, spent := 0, raised := false }] } }
        .safetyConfig (cmd 0x0500 [(28, 1, 1)]) (fun s => s.maintenanceHeld && decide (s.fore.safety.reactionUs + 1000 ≤ s.fore.safety.frameUs)) = true
    ∧ meets { live with fore := { live.fore with reservations := [{ num := 1, fn := 0, amount := 2000000, inForce := 1, spent := 0, raised := false }] } }
        .safetyConfig (cmd 0x0500 [(16, 4, 10000)]) (fun s => s.frameShort 10000 && decide (s.fore.safety.reactionUs + 1000 ≤ 10000)) = true := by
  decide +kernel

def stage (slot : Nat) : Cmd := cmd 0x0F00 [(16, 1, slot), (24, 8, 0x200000), (32, 4, 256)]
def fused : State := { mapped with fixed := { live.fixed with rollback := 4 } }
def staged : State := { live with flash := { slots := #v[{ signed := true }, { signed := true, staged := true }] } }

set_option maxRecDepth 20000 in
theorem test_FirmwareSlots_met :
    meets fused .firmwareStage (stage 1) (fun s => (s.fn 0).spans ((stage 1).arg 24 8) ((stage 1).arg 32 4) .rd false
      && s.stageSlot ((stage 1).arg 16 1) == some 1 && !s.staging 1 && (s.imageRead 0 0x200000 256 false).isNone) = true
    ∧ meets fused .firmwareStage (stage 255) (fun s => s.stageSlot ((stage 255).arg 16 1) == some 1) = true
    ∧ fused.fixed.rollback ≤ 4 ∧ 3 < fused.fixed.rollback
    ∧ meets staged .firmwareCommit (cmd 0x0F01 [(16, 1, 1)]) (fun s => (s.flash.slots[1]).staged) = true
    ∧ meets staged .firmwareCommit (cmd 0x0F01 []) (fun s => !(s.flash.slots[0]).staged) = true
    ∧ (cmd 0x0F01 [(16, 1, 1)]).arg 16 1 = 1 := by decide +kernel

/-! ### Memory -/

/-- A byte whose line carries the tag of 256 zero bytes: a store of a part of that line fails with 4. -/
def staleTag : Memory := { cells := [(300, 1)] }

set_option maxRecDepth 20000 in
theorem test_StoresWriteTheirBytes_met :
    ({} : Memory).wf = true ∧ staleTag.wf = true ∧ (staleTag.store 255 [1, 2]).2 = (1, some 4)
    ∧ (({} : Memory).store 255 [1, 2]).2 = (2, none) ∧ ((({} : Memory).poisonUnit 7).store 255 [1, 2]).2 = (1, some 0x0200) := by
  decide +kernel

set_option maxRecDepth 20000 in
theorem test_WritesStayInTheirRange_met :
    mapped.mem.wf = true ∧ mapped.mem.upsets = [] ∧ 0x3FFFFE + [1, 2].length ≤ 2 ^ 48 ∧ (mapped.writeVa 0 false 0x3FFFFE [1, 2] .ok).2 = (2, none)
    ∧ 0x3FFFFD < 0x3FFFFE ∧ 0x3FFFFE + 2 ≤ 0x400000 := by decide +kernel

theorem test_InterleaveIsABijection_met :
    chanOf 0x12D68740 = chanOf 0x12D68740 ∧ coffOf 0x12D68740 = coffOf 0x12D68740 ∧ 23 < 24 ∧ yardSlice 3 = yardSlice 3 := by
  decide +kernel

def map (va size kind page rights : Nat) : Cmd := cmd 0x0100 [(16, 8, va), (24, 8, size), (32, 1, kind), (33, 1, page), (34, 1, rights)]
def unmap (va size : Nat) : Cmd := cmd 0x0101 [(16, 8, va), (24, 8, size)]

theorem test_Mapping_met :
    meets mapped .memMap (map 0x3F0000 0x20000 0 0 3)
        (fun s => s.mem.wf && !s.boot.recovery && (s.fn 0).taken 0x3F0000 0x20000) = true
    ∧ meets mapped .memMap (map 0x400000 0x10000 1 0 3)
        (fun s => !(s.fn 0).taken 0x400000 0x10000 && (map 0x400000 0x10000 1 0 3).mapping.host) = true
    ∧ meets mapped .memMap (map 0x400000 0x10000000000 0 1 3) (fun s =>
          !(s.fn 0).taken 0x400000 0x10000000000 && decide (s.quotaMib 0 * 1024 < (s.fn 0).chargedKib + 0x10000000000 / 1024)) = true
    ∧ meets mapped .memMap (map 0x400000 0x10000 0 0 1) (fun s =>
          !(s.fn 0).taken 0x400000 0x10000 && decide ((s.fn 0).chargedKib + 0x10000 / 1024 ≤ s.quotaMib 0 * 1024)
          && (s.allocMapping 0 (map 0x400000 0x10000 0 0 1).mapping).isSome) = true
    ∧ meets mapped .memUnmap (unmap 0x200000 0x100000) (fun s => !(s.fn 0).wholeMappings 0x200000 0x100000) = true
    ∧ meets (streamed 0 { isOpen := true, cfg := { ringVa := 0x200000, frameBytes := 256 } }) .memUnmap (unmap 0x200000 0x200000)
        (fun s => (s.fn 0).wholeMappings 0x200000 0x200000 && s.rangeUsed 1 0 0x200000 0x200000) = true
    ∧ meets mapped .memUnmap (unmap 0x200000 0x200000)
        (fun s => (s.fn 0).wholeMappings 0x200000 0x200000 && !s.rangeUsed 1 0 0x200000 0x200000) = true := by decide +kernel

/-- The recovery service, with `n` windows mapped. -/
def recovering (n : Nat) : State :=
  let s : State := { halted with boot := { halted.boot with recovery := true, firmware := none } }
  s.setFn 0 (fun x => { x with maps := List.replicate n { window with host := true } })

theorem test_Mapping_recovery_met :
    meets (recovering 1) .memMap (map 0x3F0000 0x20000 1 0 3) (fun s => s.boot.recovery && (s.fn 0).taken 0x3F0000 0x20000) = true
    ∧ meets (recovering 15) .memMap (map 0x400000 0x10000 0 0 3) (fun s => s.boot.recovery && !(s.fn 0).taken 0x400000 0x10000
        && !(map 0x400000 0x10000 0 0 3).mapping.host) = true
    ∧ meets (recovering 16) .memMap (map 0x400000 0x10000 1 0 3) (fun s => s.boot.recovery && !(s.fn 0).taken 0x400000 0x10000
        && decide (16 ≤ ((s.fn 0).maps.filter (·.host)).length)) = true
    ∧ meets (recovering 15) .memMap (map 0x400000 0x10000 1 0 3) (fun s => s.boot.recovery && !(s.fn 0).taken 0x400000 0x10000
        && (map 0x400000 0x10000 1 0 3).mapping.host && decide (((s.fn 0).maps.filter (·.host)).length < 16)) = true := by
  decide +kernel

def copy : Cmd := cmd 0x0102 [(16, 8, 0x200000), (24, 8, 0x300000), (32, 8, 2)]
def fill : Cmd := cmd 0x0103 [(16, 8, 0x2000FF), (24, 8, 2), (32, 8, 0x0102030405060708)]
def tags (n : Nat) : Cmd := cmd 0x0104 [(16, 8, 0x200000), (24, 8, n)]
def poisoned : State := { mapped with mem := mapped.mem.poisonUnit (memKey 0 0x200100 / 64) }

set_option maxRecDepth 20000 in
theorem test_CopyFillCheckAndScrub_met :
    meets mapped .memCopy copy (fun s => s.copySource 0 0x200000 0x300000 2 { data := [], io := .ok } == ([0, 0], none)
      && (s.writeSegs 0 (((s.fn 0).segs 0x300000 2).getD []) [0, 0]).2 == (2, none)) = true
    ∧ meets mapped .memFill fill (fun s => (s.writeVa 0 false 0x2000FF (fillBytes 0x0102030405060708 2) .ok).2 == (2, none)) = true
    ∧ meets poisoned .memFill fill (fun s =>
        (s.writeVa 0 false 0x2000FF (fillBytes 0x0102030405060708 2) .ok).2 == (1, some 0x0200)) = true
    ∧ meets mapped .memTagCheck (tags 256) (fun s => s.mem.lineFault (memKey 0 0x200000 / 256) == none) = true
    ∧ meets poisoned .memTagCheck (tags 512) (fun s => s.mem.lineFault (memKey 0 0x200000 / 256 + 1) == some 0x0200
        && s.mem.lineFault (memKey 0 0x200000 / 256) == none) = true
    ∧ mapped.rootRuns = true ∧ mapped.boot.memTrained = true ∧ (memKey 0 0x200100 / 64) ∈ poisoned.mem.poison
    ∧ 7 ∉ poisoned.mem.poison ∧ 1 < 2 ∧ mapped.mem.upsets = [] ∧ poisoned.mem.upsets = []
    ∧ (∀ j, j < 2 → poisoned.mem.lineFault (memKey 0 0x200000 / 256 + j) ≠ some 4) := by decide +kernel

/-- A source line that is poisoned; and a line that fails at the write path. -/
def spoiltSource : State := { mapped with mem := mapped.mem.poisonUnit (memKey 0 0x200000 / 64) }
def badLine : WriteFault := { line := 0, channel := 23 }

set_option maxRecDepth 20000 in
theorem test_CopyFillCheckAndScrub_faults_met :
    meets spoiltSource .memCopy copy (fun s => s.copySource 0 0x200000 0x300000 2 { data := [], io := .ok } == ([], some 0x0200)
      && (s.beforeFault 0 0x300000 [] none) == ([], none) && (s.writeSegs 0 (((s.fn 0).segs 0x300000 2).getD []) []).2 == (0, none)) = true
    ∧ meets mapped .memCopy copy (fun s => (s.beforeFault 0 0x300000 [0, 0] (some badLine)) == ([], some 23)
      && (s.writeSegs 0 (((s.fn 0).segs 0x300000 2).getD []) []).2 == (0, none)) = true
    ∧ meets mapped .memFill fill (fun s => (s.beforeFault 0 0x2000FF (fillBytes 0x0102030405060708 2) (some { badLine with line := 1 })).2 == some 23
      && (s.writeVa 0 false 0x2000FF (s.beforeFault 0 0x2000FF (fillBytes 0x0102030405060708 2) (some { badLine with line := 1 })).1 .ok).2
          == (1, none)) = true := by decide +kernel

/-- A unit with a flipped bit, and the patrol read that comes to its place. -/
def scrubbed : State :=
  let s : State := { mapped with mem := { upsets := [(9, [3])] } }
  { s with boot := { s.boot with scrub := coffOf (s.unitPlace 9) / 64 } }

theorem test_CopyFillCheckAndScrub_scrub_met :
    scrubbed.rootRuns = true ∧ scrubbed.boot.memTrained = true ∧ scrubbed.mem.upsets = [(9, [3])]
    ∧ coffOf (scrubbed.unitPlace 9) / 64 = scrubbed.boot.scrub ∧ (∀ ch ∈ ([] : List ClPortId), ch.val ≠ chanOf (scrubbed.unitPlace 9)) :=
  ⟨by decide +kernel, by decide +kernel, by decide +kernel, by simp only [scrubbed, State.unitPlace], fun _ h => by simp at h⟩

/-! ### The lamp die and the vehicle buses -/

def seam (l : List SeamMsg) : State := { live with lamp := { live.lamp with toLamp := l, toRoot := l } }
def tired (n : Nat) : State :=
  { live with lamp := { live.lamp with lampSide := { badCrc := n, missed := n }, rootSide := { badCrc := n, missed := n } } }

/-- A command at work whose message is the one that reaches the lamp die next. -/
def crossing (s : State) (m : SeamMsg) (c : Cmd) : State :=
  given { s with lamp := { s.lamp with toLamp := [m] } } { c with phase := .running }

/-- What the statements about such a command ask of the state, and a further condition. -/
def crosses (s : State) (m : SeamMsg) (o : Opcode) (c : Cmd) (p : State → Bool) : Bool :=
  let s := crossing s m c
  s.lampRuns && s.lamp.seamUp && !s.lamp.lampSide.lost && decide (nextMsg s.lamp.toLamp = some m)
    && decide (s.cmd 1 = some { c with phase := .running }) && decide (opcodeOf c.opcode = some o) && p s

theorem crosses_met {s : State} {m : SeamMsg} {o : Opcode} {c : Cmd} {p : State → Bool} (h : crosses s m o c p = true) :
    (crossing s m c).Crosses m 1 o { c with phase := .running } ∧ p (crossing s m c) = true := by
  simp only [crosses, Bool.and_eq_true, Bool.not_eq_true', decide_eq_true_eq] at h
  exact ⟨⟨h.1.1.1.1.1.1, h.1.1.1.1.1.2, h.1.1.1.1.2, h.1.1.1.2, h.1.1.2, rfl, h.1.2⟩, h.2⟩

theorem test_LampSeam_met :
    State.reset.lampRuns = true ∧ State.reset.lamp.onLosc = false ∧ 3564 ≤ 3564 ∧ 4533 ≤ 4533
    ∧ (let s : State := { State.reset with lamp := { onLosc := true } }
       s.lampRuns = true ∧ s.lamp.onLosc = true ∧ s.lamp.booted = false)
    ∧ live.lampRuns = true ∧ live.lamp.seamUp = true ∧ live.lamp.lampSide.lost = false ∧ live.lamp.rootSide.lost = false
    ∧ nextMsg (seam [.timerStop 3]).lamp.toLamp = some (.timerStop 3)
    ∧ nextMsg (seam [.timerStart 0x603]).lamp.toLamp = some (.timerStart 0x603)
    ∧ nextMsg (seam [.bootComplete, .safeRequest 0x1E]).lamp.toLamp = some (.safeRequest 0x1E)
    ∧ nextMsg (seam [.bootComplete]).lamp.toLamp = some .bootComplete ∧ live.lamp.safe = false
    ∧ nextMsg (seam [.channelReset .b]).lamp.toRoot = some (.channelReset .b) ∧ portOf 64 = .b
    ∧ nextMsg (seam [.wdogConfig 1, .heartbeat, .record 0x506 .externalFault none 0 false false]).lamp.toLamp
        = some (.record 0x506 .externalFault none 0 false false)
    ∧ nextMsg (seam [.canSend 1, .heartbeat]).lamp.toLamp = some .heartbeat
    ∧ nextMsg (seam [.bootComplete, .service 0 .keyError]).lamp.toLamp = some (.service 0 .keyError)
    ∧ live.fcu.isEdge 0x506 .externalFault = true ∧ SeamMsg.heartbeat ∈ [SeamMsg.canSend 1, .heartbeat]
    ∧ (let s : State := { live with lamp := { live.lamp with lampSide := { heard := true } } }
       (s.lamp.side .lamp).heard = true ∧ (live.lamp.side .lamp).heard = false)
    ∧ (live.sideRuns .lamp = true ∧ live.sideRuns .rootstock = true)
    ∧ ((tired 1).lamp.side .lamp).badCrc < 2 ∧ 2 ≤ ((tired 2).lamp.side .lamp).badCrc
    ∧ ((tired 1).lamp.side .lamp).missed < 2 ∧ 2 ≤ ((tired 2).lamp.side .lamp).missed ∧ live.lamp.booted = true := by decide +kernel

theorem test_ClockMonitors_met :
    [Monitor.pclkByLosc, .loscByPclk, .noscByLosc, .loscByNosc].all (fun m => live.monitors m && State.reset.monitors .loscByNosc
      && decide ((Monitor.limits m).1 ≤ (Monitor.limits m).1) && decide ((Monitor.limits m).1 - 1 < (Monitor.limits m).1)
      && decide ((Monitor.limits m).2 < (Monitor.limits m).2 + 1)) = true
    ∧ (guarded.wdog[2]).cfg.clock = 0 ∧ (guarded.wdog[2]).state ≠ .stopped ∧ guarded.lampRuns = true
    ∧ guarded.lamp.seamLost = false := by decide +kernel

/-- The three watchdogs in one state, each with a service on its way, over a period of 2 s with the window 50 %. -/
def dogs (x : WdogState) (r : List Service) : State := { live with wdog := Vector.replicate 3 { state := x, inbound := r } }
def fusedDogs : State := { dogs .running [] with fixed := { wdogHwStart := true } }
def wdogCmd (w on : Nat) : Cmd := cmd 0x0900 [(16, 1, w), (18, 1, 1), (19, 1, on), (20, 4, 2000000)]

theorem test_Watchdogs_met :
    (dogs .running [.service]).lampRuns = true ∧ ((dogs .running [.service]).wdog[2]).runs = true
    ∧ ((dogs .running [.service]).wdog[2]).inbound = .service :: []
    ∧ ((dogs .running [.service]).wdog[2]).cfg.opens ≤ ((dogs .running [.service]).wdog[2]).cfg.opens
    ∧ 0 < ((dogs .running [.service]).wdog[2]).cfg.opens
    ∧ ((dogs .warned []).wdog[0]).runs = true ∧ ((dogs .warned []).wdog[0]).state = .warned ∧ (0 : WdogId).val = 0
    ∧ (2 : WdogId).val ≠ 0 ∧ (dogs .warned []).lamp.seamLost = false
    ∧ meets (dogs .warned []) .wdogConfig (wdogCmd 2 1) (fun s => !s.lamp.seamLost) = true
    ∧ crosses (dogs .warned []) (.wdogConfig 1) .wdogConfig (wdogCmd 2 1) (fun s => (s.wdog[2]).state == .warned) = true
    ∧ crosses (dogs .stopped []) (.wdogConfig 1) .wdogConfig (wdogCmd 2 1) (fun s => (s.wdog[2]).state == .stopped) = true
    ∧ crosses (dogs .running []) (.wdogConfig 1) .wdogConfig (wdogCmd 0 1) (fun s => (s.wdog[0]).state == .running) = true
    ∧ crosses fusedDogs (.wdogConfig 1) .wdogConfig (wdogCmd 0 0) (fun s => (s.wdog[0]).state != .warned && s.fixed.wdogHwStart) = true
    ∧ crosses { dogs .running [] with fore := { live.fore with reservations :=
          [{ num := 1, fn := 0, amount := 1, inForce := 1, spent := 0, raised := false }] } } (.wdogConfig 1) .wdogConfig (wdogCmd 0 0)
        (fun s => (s.wdog[0]).state != .warned && !s.fixed.wdogHwStart && !s.fore.reservations.isEmpty) = true
    ∧ crosses (dogs .running []) (.wdogConfig 1) .wdogConfig (wdogCmd 0 0) (fun s => (s.wdog[0]).state != .warned && !s.fixed.wdogHwStart
        && s.fore.reservations.isEmpty) = true
    ∧ (wdogCmd 0 0).arg 16 1 = 0 ∧ (wdogCmd 0 0).arg 19 1 = 0 ∧ (wdogCmd 2 1).arg 19 1 = 1
    ∧ ((dogs .running [.keyError]).wdog[2]).inbound = .keyError :: [] ∧ live.lamp.seamLost = false
    ∧ live.rootRuns = true ∧ live.boot.firmware.isSome = true ∧ live.fore.f0Halted = false ∧ live.fore.f1Halted = false
    ∧ (true && true && true && false) = false := by decide +kernel

/-- 500 kb/s with the bit times of chapter 17, and CAN FD at 2 Mb/s. -/
def canBlock (fd : Nat) (nbrp : Nat) : Bytes :=
  bytesOf 64 ([(0, 1, fd), (1, 1, nbrp), (2, 2, 63), (4, 1, 16), (5, 1, 16)]
    ++ if fd = 1 then [(6, 1, 1), (7, 1, 15), (8, 1, 4), (9, 1, 4)] else [])
def canCmd (bus : Nat) (b : Bytes) : Cmd := cmd 0x0700 [(16, 1, bus)] 0 b
def frameBlock (dlc : Nat) : Bytes := bytesOf 80 [(0, 4, 0xA0), (4, 1, dlc)]
def sendCmd (b : Bytes) : Cmd := cmd 0x0701 [(16, 1, 1)] 0 b
/-- A frame of CAN FD. -/
def fdBlock : Bytes := bytesOf 80 [(0, 4, 0xA0), (4, 1, 8), (5, 1, 1)]
def bus1 (x : CanBus) : State := { live with can := live.can.set 1 x }

theorem test_CanCommands_met :
    meets live .canConfig (canCmd 1 (canBlock 1 0)) (fun _ => canCfgBad (canBlock 1 0) == some 0x8001) = true
    ∧ meets live .canConfig (canCmd 1 (canBlock 1 1)) (fun _ => (canCfgBad (canBlock 1 1)).isNone) = true
    ∧ crosses (bus1 { recovering := true }) (.canConfig 1) .canConfig (canCmd 1 (canBlock 1 1)) (fun s => (s.can[1]).recovering) = true
    ∧ crosses live (.canConfig 1) .canConfig (canCmd 1 (canBlock 1 1)) (fun s => !(s.can[1]).recovering
        && (parseCanCfg (canBlock 1 1)).fd) = true
    ∧ crosses (bus1 { queue := [(9, parseCanFrame fdBlock)] }) (.canConfig 1) .canConfig (canCmd 1 (canBlock 0 1)) (fun s =>
        !(s.can[1]).recovering && !(parseCanCfg (canBlock 0 1)).fd && (s.can[1]).queue.all (fun y => y.1 != 1)
        && (s.can[1]).queue.any (fun y => y.2.flags.getLsbD 0)) = true
    ∧ (canCmd 1 (canBlock 0 1)).arg 16 1 = 1 ∧ (sendCmd (frameBlock 8)).arg 16 1 = 1
    ∧ meets live .canSend (sendCmd (frameBlock 16)) (fun s => canFrameBad (frameBlock 16) true (!(s.can[1]).cfg.fd) == some 0x8004) = true
    ∧ meets live .canSend (sendCmd (frameBlock 8)) (fun s => (canFrameBad (frameBlock 8) true (!(s.can[1]).cfg.fd)).isNone) = true
    ∧ crosses { bus1 {} with lamp := halted.lamp } (.canSend 1) .canSend (sendCmd (frameBlock 8)) (fun s => s.lamp.safe) = true
    ∧ crosses (bus1 {}) (.canSend 1) .canSend (sendCmd fdBlock) (fun s => !s.lamp.safe
        && (parseCanFrame fdBlock).flags.getLsbD 0 && !(s.can[1]).cfg.fd) = true
    ∧ crosses (bus1 { queue := List.replicate 16 (9, {}) }) (.canSend 1) .canSend (sendCmd (frameBlock 8)) (fun s =>
        !(parseCanFrame (frameBlock 8)).flags.getLsbD 0 && decide (16 ≤ (s.can[1]).queue.length)) = true
    ∧ crosses (bus1 { busOff := true, cfg := { autoRecover := false } }) (.canSend 1) .canSend (sendCmd (frameBlock 8)) (fun s =>
        (s.can[1]).busOff && !(s.can[1]).cfg.autoRecover && !(s.can[1]).recovering) = true
    ∧ crosses (bus1 { queue := List.replicate 15 (9, {}), wire := .safe }) (.canSend 1) .canSend (sendCmd (frameBlock 8)) (fun s =>
        decide ((s.can[1]).queue.length < 16) && !(s.can[1]).busOff && (s.can[1]).wire != .idle && !s.lamp.safe) = true
    ∧ crosses (bus1 { normal := true }) (.canSend 1) .canSend (sendCmd (frameBlock 8)) (fun s =>
        (s.can[1]).queue.isEmpty && !(s.can[1]).busOff
        && (s.can[1]).wire == .idle && (s.can[1]).normal && !(s.can[1]).silenced && !(s.can[1]).safePending && !s.lamp.safe) = true
    ∧ meets live .safeMessageSet (cmd 0x0702 [(16, 1, 2)] 0 (frameBlock 16)) (fun s => (canFrameBad (frameBlock 16) false
        ((List.finRange 2).any (fun b => (2 : Nat).testBit b.val && !(s.can[b.val]).cfg.fd))) == some 0x8004) = true
    ∧ meets live .safeMessageSet (cmd 0x0702 [(16, 1, 2)] 0 (frameBlock 8)) (fun s => (canFrameBad (frameBlock 8) false
        ((List.finRange 2).any (fun b => (2 : Nat).testBit b.val && !(s.can[b.val]).cfg.fd))).isNone) = true
    ∧ crosses live (.safeMessage 1) .safeMessageSet (cmd 0x0702 [(16, 1, 2)] 0 (frameBlock 8)) (fun s => !s.lamp.safe) = true
    ∧ crosses { live with lamp := { live.lamp with safe := true } } (.safeMessage 1) .safeMessageSet
        (cmd 0x0702 [(16, 1, 2)] 0 (frameBlock 8)) (fun s => s.lamp.safe) = true
    ∧ (let c : Cmd := { sendCmd (frameBlock 8) with phase := .running }
       let s := given (bus1 { wire := .frame 1 {} false }) c
       s.rootRuns = true ∧ s.cmd 1 = some c ∧ (s.can[1]).wire.cmd = some 1)
    ∧ (let c : Cmd := { sendCmd (frameBlock 8) with phase := .running }
       let s := given (bus1 { queue := [(1, {})] }) c
       s.rootRuns = true ∧ s.cmd 1 = some c ∧ c.phase = .running ∧ (1, ({} : CanFrame)) ∈ (s.can[1]).queue) := by decide +kernel

theorem test_CanController_met :
    live.lampRuns = true ∧ live.lamp.booted = true
    ∧ (let s := given (bus1 { wire := .frame 1 {} false, tec := 248 }) { sendCmd [] with phase := .running }
       (s.can[1]).wire = .frame 1 {} false ∧ s.cmd 1 = some { sendCmd [] with phase := .running }
       ∧ ({ sendCmd [] with phase := .running } : Cmd).live = true ∧ (s.can[1]).busOff = false ∧ 255 < (s.can[1]).tec + 8)
    ∧ ((bus1 { wire := .safe }).can[1]).wire = .safe ∧ CanOutcome.ackError ≠ .acked
    ∧ ((bus1 { wire := .safe, passive := true }).can[1]).passive = true ∧ halted.lamp.safe = true
    ∧ ((bus1 { busOff := true, recovering := true }).can[1]).recovering = true
    ∧ ((bus1 { rec' := 127 }).can[1]).rec' ≤ 127 ∧ ((bus1 {}).can[1]).busOff = false
    ∧ (let s : State := { halted with can := halted.can.set 1 { wire := .safe, message := { repeatMs := 10 } } }
       s.lampRuns = true ∧ s.lamp.safe = true ∧ (s.can[1]).message.repeatMs ≠ 0 ∧ (s.can[1]).silenced = false
       ∧ (s.can[1]).wire ≠ .idle) := by decide +kernel

theorem test_LampDieReset_met : live.lampRuns = true ∧ live.rootRuns = true ∧ halted.safe = true ∧ halted.lampRuns = true := by
  decide +kernel

/-! ### Faults, boot, power -/

/-- A reaction timer runs for source 0x603 since record 7; and 32 timers of other sources. -/
def reacting : State := { live with fcu := { timers := [timer 0x603 7] } }
def fullTimers : State := { live with fcu := { timers := List.replicate 32 (timer 0x604 1) } }
def repeatRaise : Raise := { source := 0x603, event := .frameRepeated, owner := some 0 }
def twice (x : Fcu) : Fcu := { x with window := [(0x603, 0)] }

theorem test_FaultCapture_met :
    live.rootRuns = true ∧ (sourceEvents 0x603).contains .frameRepeated = true ∧ lampSource 0x603 = false ∧ 0x603 ≠ 1
    ∧ dataSource 0x603 = false ∧ dataSource 0x060 = true ∧ (sourceEvents 0x060).contains .graftMismatch = true
    ∧ lampSource 0x060 = false ∧ (sourceEvents 0x506).contains .externalFault = true ∧ lampSource 0x506 = true
    ∧ baseTier 0x506 .externalFault = 3 ∧ live.lampRuns = true ∧ live.lamp.seamLost = false
    ∧ (let s : State := { live with fcu := { holdoff := [(0x603, .frameRepeated)] } }
       (0x603, Ev.frameRepeated) ∈ s.fcu.holdoff)
    ∧ (let s : State := { live with fcu := { holds := [(0x603, .frameRepeated)] } }
       (0x603, Ev.frameRepeated) ∈ s.fcu.holds)
    ∧ (0x603, Ev.frameRepeated) ∉ live.fcu.holdoff ∧ (0x603, Ev.frameRepeated) ∉ live.fcu.holds
    ∧ live.viewers (note 0) 0 = true ∧ live.viewers (note 0) 1 = false
    ∧ (live.fcu.judge repeatRaise 0).2 ≠ 2 ∧ ((twice live.fcu).judge repeatRaise 0).2 = 2
    ∧ ((twice reacting.fcu).judge repeatRaise 0).2 = 2 ∧ (twice reacting.fcu).timerOf 0x603 = some (timer 0x603 7)
    ∧ live.safe = false ∧ (twice live.fcu).timerOf 0x603 = none ∧ (twice live.fcu).timers.length < 32
    ∧ ((twice fullTimers.fcu).judge repeatRaise 0).2 = 2 ∧ (twice fullTimers.fcu).timerOf 0x603 = none
    ∧ 32 ≤ (twice fullTimers.fcu).timers.length := by decide +kernel

def ack (q remedy : Nat) : Cmd := cmd 0x0501 [(16, 4, q), (20, 2, remedy)]
def inject (src code action : Nat) : Cmd := cmd 0x0504 [(16, 2, src), (18, 1, code + 64 * action)]

/-- A CLASS 2 record of a VF without safety authority. -/
def vfSees : State := virtual.setFn 1 (fun x => { x with view := [{ note 3 with owner := some 1, class2 := true }] })
def namesSevere (s : State) (q : Nat) : Bool := match s.named 0 (BitVec.ofNat 21 q) with
  | some n => n.running == some (timer 0x603 7) && n.accepts 1 && !n.accepts 0
  | none => false
def namesNote (s : State) (f : FnId) : Bool := match s.named f 3 with
  | some n => n.class2
  | none => false

theorem test_FaultCommands_met :
    meets live .faultAck (ack (2 ^ 21) 0) (fun s => (s.named 0 0).isNone) = true
    ∧ meets live .faultAck (ack (2 ^ 21 - 1) 0) (fun s => (s.named 0 (2 ^ 21 - 1)).isNone) = true
    ∧ (let c : Cmd := { ack 3 0 with fn := 1 }
       meets vfSees .faultAck c (fun s => namesNote s 1 && !s.hasAuth 1) = true)
    ∧ meets reacting .faultAck (ack 7 1) (fun s => namesSevere s 7 && s.hasAuth 0 && !s.safe) = true
    ∧ meets reacting .faultAck (ack 7 0) (fun s => namesSevere s 7) = true
    ∧ meets { reacting with safe := true } .faultAck (ack 7 1) (fun s => namesSevere s 7 && s.safe) = true
    ∧ meets live .thresholdSet (cmd 0x0505 [(16, 2, 0x603), (18, 1, 1), (20, 4, 1000)])
        (fun _ => (promotion .frameRepeated).isSome && (0x602 : Nat) != 0x603) = true
    ∧ meets live .inject (inject 0x603 0x1F 0) (fun _ => evOfCode 0x1F == none) = true
    ∧ meets live .inject (inject 0x603 0x0B 2) (fun _ => evOfCode ((inject 0x603 0x0B 2).arg 18 1 % 64) == some .frameRepeated
        && (inject 0x603 0x0B 2).arg 18 1 / 64 == 2) = true
    ∧ [0, 1].all (fun a => meets live .inject (inject 0x603 0x0B a) (fun s => (inject 0x603 0x0B a).arg 18 1 / 64 == a
        && !s.fcu.stands 0x603 .frameRepeated && !s.fcu.holdoff.contains (0x603, .frameRepeated) && !lampSource 0x603)) = true
    ∧ meets { live with fcu := { live := [(0x603, .frameRepeated)] } } .inject (inject 0x603 0x0B 0)
        (fun s => s.fcu.stands 0x603 .frameRepeated) = true := by decide +kernel

theorem test_FatalEvents_met :
    reacting.rootRuns = true ∧ reacting.fcu.timerOf 0x603 = some (timer 0x603 7)
    ∧ reacting.fcu.isEdge 0x603 .reactionExpired = true ∧ reacting.fcu.timerOf 0x604 = none ∧ live.lampRuns = true
    ∧ (let s : State := { live with lamp := { live.lamp with shadows := [5, 0x603] } }
       0x603 ∈ s.lamp.shadows ∧ s.lamp.safe = false)
    ∧ live.lamp.gotBoot = true ∧ live.entersNight = false
    ∧ (let s : State := { live with power := { nightDue := true } }
       s.lampRuns = true ∧ s.lamp.gotBoot = true ∧ s.entersNight = true)
    ∧ State.reset.lamp.gotBoot = false ∧ State.reset.lampRuns = true ∧ live.lamp.armed = true
    ∧ live.lamp.seamLost = false ∧ live.lamp.halted = false ∧ live.fore.f0Halted = false ∧ live.fore.f1Halted = false
    ∧ live.fcu.isEdge 0x010 .lockstepMismatch = true ∧ live.fcu.isEdge 0x011 .lockstepMismatch = true := by decide +kernel

/-- Everything that BOOT_COMPLETE waits for. -/
def readyToBoot : State :=
  { live with boot := { live.boot with complete := false, passed := dieCheckers, groupsClosed := 6, closedMask := 63 } }

theorem test_BootCompletes_met :
    live.rootRuns = true ∧ live.lampRuns = true ∧ readyToBoot.boot.complete = false
    ∧ cold.mayInject .lampLockstep = true ∧ cold.mayInject (.memoryEcc 23) = true ∧ cold.mayInject (.abft 63) = true
    ∧ injected.mayInject (.abft 63) = false ∧ live.mayInject .lampLockstep = false
    ∧ checkerDie .lampLockstep = .lamp ∧ checkerDie (.memoryEcc 23) = .rootstock ∧ checkerDie (.abft 63) = .scion 3
    ∧ (some 0x036 : Option Nat) ≠ some (checkerSource (.memoryEcc 23)) ∧ some 0x037 = some (checkerSource (.memoryEcc 23))
    ∧ cold.fcu.isEdge (checkerSource (.memoryEcc 23)) .bootInjectFail = true
    ∧ cold.fcu.isEdge (checkerSource (.abft 63)) .bootInjectFail = true ∧ cold.lamp.seamLost = false ∧ (23 : ClPortId).val / 4 = (5 : Fin 6).val
    ∧ (19 : ClPortId).val / 4 ≠ (5 : Fin 6).val ∧ readyToBoot.bootReady = true ∧ readyToBoot.fore.replay.state ≠ .collecting
    ∧ readyToBoot.boot.firmware = some 0 ∧ readyToBoot.lamp.seamLost = false
    ∧ (let s : State := { State.reset with lamp := { onLosc := true } }
       s.lampRuns = true ∧ s.lamp.onLosc = true ∧ s.lamp.gotBoot = false)
    ∧ live.lamp.onLosc = true ∧ live.lamp.gotBoot = true ∧ State.reset.lamp.timedOut = false := by decide +kernel

def reserved1 : Reservation := { num := 1, fn := 0, amount := 1, inForce := 1, spent := 0, raised := false }
def withReservation : State := { live with fore := { live.fore with reservations := [reserved1] } }
def aBinding : Binding :=
  { handle := 1, vector := 1, log2 := 0, ringVa := 0, reservation := 0, outVa := 0, outStride := 0, written := 0, ending := false }
def boundStream : State := mapped.setStream 0 (fun _ => { isOpen := true, bound := some aBinding })
def onPclk : State := { live with wdog := live.wdog.set 0 { state := .running, cfg := { clock := 1 } } }
def restore : Cmd := cmd 0x0603 [(16, 1, 3)]
def hot (t : Int) (x : ScionState) : State :=
  { live with footprint := List.replicate 16 t, scions := live.scions.set 3 { state := x } }
def restoringState : State :=
  { hot 0 .restoring with fore := { live.fore with restoring := some (3, 1), taken := [{ restore with phase := .running }] } }

theorem test_PowerCommands_met :
    meets live .powerState (cmd 0x0600 []) (fun _ => true) = true
    ∧ meets onPclk .powerState (cmd 0x0600 [(16, 1, 2)]) (fun s => s.nightBarred) = true
    ∧ meets withReservation .powerState (cmd 0x0600 [(16, 1, 2)]) (fun s => !s.nightBarred && !s.fore.reservations.isEmpty) = true
    ∧ meets boundStream .powerState (cmd 0x0600 [(16, 1, 1)]) (fun s => s.fore.reservations.isEmpty
        && (s.streams[0]).isOpen && (s.streams[0]).bound.isSome) = true
    ∧ meets (streamed 0 { isOpen := true }) .powerState (cmd 0x0600 [(16, 1, 2)]) (fun s => !s.nightBarred && s.anyOpen
        && s.fore.reservations.isEmpty && decide (∀ x : CtxId, (s.streams[x.val]).isOpen = true → (s.streams[x.val]).bound = none)) = true
    ∧ meets live .powerState (cmd 0x0600 [(16, 1, 2)]) (fun s => !s.nightBarred && !s.anyOpen && s.fcu.timers.isEmpty
        && s.fore.taken.all (fun d => d.id == 1)
        && decide (∀ x : CtxId, (s.streams[x.val]).isOpen = true → (s.streams[x.val]).bound = none)) = true
    ∧ [0, 1, 95001].all (fun b => meets live .budgetSet (cmd 0x0601 [(16, 4, b)]) (fun _ => true)) = true
    ∧ meets { live with fore := { live.fore with restoring := some (0, 9) } } .dieRestore restore (fun s => s.fore.restoring.isSome) = true
    ∧ meets live .dieRestore restore (fun s => s.fore.restoring.isNone && (s.scions[3]).state == .joined && !s.hasRetired 3) = true
    ∧ meets (hot 848 .fenced) .dieRestore restore (fun s => s.fore.restoring.isNone && (s.scions[3]).state != .joined
        && decide (848 ≤ s.footprintMax 3)) = true
    ∧ meets (hot 847 .fenced) .dieRestore restore (fun s => s.fore.restoring.isNone && (s.scions[3]).state != .joined
        && decide (s.footprintMax 3 < 848)) = true
    ∧ restoringState.rootRuns = true ∧ restoringState.fore.restoring = some (3, 1) ∧ (restoringState.scions[3]).state = .restoring
    ∧ (restoringState.scions[3]).withdrawing = false ∧ restoringState.cmd 1 = some { restore with phase := .running }
    ∧ ({ restore with phase := .running } : Cmd).live = true ∧ restoringState.fore.replay.state ≠ .collecting
    ∧ restore.arg 16 1 = 3 := by decide +kernel

def asleep : State := { live with power := { state := .night }, wdog := live.wdog.set 2 { state := .running } }
def slowed (div cold : Nat) (t : Int) : State :=
  { live with footprint := List.replicate 16 t, scions := Vector.replicate 4 { state := .joined, footprintDiv := div, eclkDiv := cold } }

def cooled : State := { live with scions := Vector.replicate 4 { state := .joined, footprintDiv := 8, cool := 100 } }
def entering : State := { live with power := { nightDue := true, wakeDue := some (.watchdog 2) } }

theorem test_PowerEvents_met :
    live.rootRuns = true
    ∧ (let rq : List (Option PowerRequest) := List.replicate 4 (some { d4 := 30000, d5 := 24000, d6 := 20000, d8 := 15000 })
       let total := ((List.finRange 4).map (fun n => (((rq[n.val]?).join).map (fun x => x.d4)).getD 0)).sum
       (rq[3]?).join = some { d4 := 30000, d5 := 24000, d6 := 20000, d8 := 15000 } ∧ (live.scions[3]).state = .joined
       ∧ scionPool 10000 live.budget 5000 < total ∧ 15000 ≤ 20000 ∧ 20000 ≤ 24000 ∧ 24000 ≤ 30000)
    ∧ ((List.finRange 4).map (fun _ => 15000)).sum ≤ scionPool 10000 live.budget 5000
    ∧ live.seamLive 3 = true ∧ (live.scions[3]).noGrant < 2
    ∧ (let s : State := { live with scions := Vector.replicate 4 { state := .joined, noGrant := 2 } }
       s.seamLive 3 = true ∧ 2 ≤ (s.scions[3]).noGrant)
    ∧ (∀ x ∈ List.replicate 16 (895 : Int), x < 896) ∧ (∀ x ∈ List.replicate 64 (895 : Int), x < 896)
    ∧ 4 < ((slowed 8 8 0).scions[3]).footprintDiv ∧ ((slowed 8 8 0).scions[3]).cool < 100
    ∧ 100 ≤ ((cooled.scions[3]).cool) ∧ 4 < (cooled.scions[3]).footprintDiv ∧ cooled.rootRuns = true
    ∧ (let s : State := { live with power := { dozeDue := true, nightDue := true } }
       s.rootRuns = true ∧ s.power.dozeDue = true ∧ s.power.nightDue = true ∧ s.fore.taken = [] ∧ s.safe = false ∧ s.lamp.safe = false
       ∧ s.power.wakeDue = none)
    ∧ (entering.rootRuns = true ∧ entering.power.nightDue = true ∧ entering.fore.taken = [] ∧ entering.safe = false
       ∧ entering.lamp.safe = false ∧ entering.power.wakeDue = some (.watchdog 2))
    ∧ (let s : State := { halted with power := { nightDue := true } }
       s.rootRuns = true ∧ s.power.nightDue = true ∧ s.fore.taken = [] ∧ s.safe = true)
    ∧ asleep.sleeps = true ∧ (asleep.wdog[2]).runs = true ∧ asleep.held = false ∧ asleep.power.state = .night
    ∧ ((5 : Fin 10).val = 5 ∧ (9 : Fin 10).val = 9) := by decide +kernel

/-! ### Streams, graphs, jobs, sequences -/

/-- Stream blocks: 4 frames of 256 bytes at 2 MiB, of a UART (source 2) and of a Chroylink port (source 0). -/
def uartBlock (count : Nat) : Bytes :=
  bytesOf 128 [(0, 1, 2), (8, 1, 0x80), (9, 1, count), (10, 1, 1), (16, 4, 256), (20, 4, 1000), (40, 8, 0x200000), (64, 1, 1),
    (66, 1, 0), (67, 1, 2), (68, 4, 256), (100, 4, 1)]
def openCmd (code c : Nat) (b : Bytes) : Cmd := cmd code [(16, 1, c)] 0 b
def uartOn : State := { mapped with uart := Vector.replicate 4 { enabled := true } }
def linkUpAt (cfg : ClPort → ClPort) : State := { mapped with cl := mapped.cl.set 23 (cfg { state := .up }) }
def clBlock (settings : Nat) : Bytes :=
  bytesOf 128 [(1, 1, 23), (4, 4, settings), (8, 1, 0x80), (9, 1, 2), (10, 1, 1), (16, 4, 256), (20, 4, 1000), (40, 8, 0x200000), (100, 4, 1)]
def uartStream : Stream := { isOpen := true, cfg := parseStream (uartBlock 4) }
def boundRun (begun : Bool) : Run := { idleRun (.bound 0 0 0 0) with begun := begun }
def closing : State := streamed 47 { isOpen := true, closing := some 1 }

/-- Context 0, and others, open on virtual channel 0, and on others, of port 23. -/
def clOpen (others : List CtxId) : State :=
  others.foldl (fun s c => s.setStream c (fun _ => { isOpen := true, cfg := { source := 0, port := 23, sub := c.val } }))
    ((linkUpAt id).setStream 0 (fun _ => { isOpen := true, cfg := parseStream (clBlock 0) }))

theorem test_StreamCommands_met :
    meets uartOn .streamOpen (openCmd 0x0200 47 (uartBlock 1)) (fun s => s.streamBlockBad (uartBlock 1) == some 0x8009) = true
    ∧ meets (uartOn.setStream 47 (fun _ => uartStream)) .streamOpen (openCmd 0x0200 47 (uartBlock 4)) (fun s =>
        (s.streamBlockBad (uartBlock 4)).isNone && (s.openBad 0 47 (parseStream (uartBlock 4))).isSome) = true
    ∧ meets uartOn .streamOpen (openCmd 0x0200 0 (uartBlock 4)) (fun s =>
        (s.streamBlockBad (uartBlock 4)).isNone && (s.openBad 0 0 (parseStream (uartBlock 4))).isNone
        && (parseStream (uartBlock 4)).source != 0) = true
    ∧ meets (linkUpAt id) .streamOpen (openCmd 0x0200 0 (clBlock 0)) (fun s =>
        (s.streamBlockBad (clBlock 0)).isNone && (s.openBad 0 0 (parseStream (clBlock 0))).isNone
        && (parseStream (clBlock 0)).source == 0 && (parseStream (clBlock 0)).port == 23
        && (s.cl[23]).settingsDiffer (parseStream (clBlock 0)).linkSettings == (false, false)) = true
    ∧ meets (linkUpAt (fun x => { x with retrainCmd := some 9 })) .streamOpen (openCmd 0x0200 0 (clBlock 0x8008)) (fun s =>
        (s.streamBlockBad (clBlock 0x8008)).isNone && (s.openBad 0 0 (parseStream (clBlock 0x8008))).isNone
        && ((s.cl[23]).settingsDiffer (parseStream (clBlock 0x8008)).linkSettings).1 && s.settingsHeld 23 0) = true
    ∧ meets (linkUpAt id) .streamOpen (openCmd 0x0200 0 (clBlock 0x8100)) (fun s =>
        (s.streamBlockBad (clBlock 0x8100)).isNone && (s.openBad 0 0 (parseStream (clBlock 0x8100))).isNone
        && (s.cl[23]).settingsDiffer (parseStream (clBlock 0x8100)).linkSettings == (true, false) && !s.settingsHeld 23 0) = true
    ∧ meets (linkUpAt id) .streamOpen (openCmd 0x0200 0 (clBlock 0x8008)) (fun s =>
        (s.streamBlockBad (clBlock 0x8008)).isNone && (s.openBad 0 0 (parseStream (clBlock 0x8008))).isNone
        && ((s.cl[23]).settingsDiffer (parseStream (clBlock 0x8008)).linkSettings).2 && !s.settingsHeld 23 0) = true
    ∧ meets live .streamClose (openCmd 0x0201 47 []) (fun s => !s.ownsOpen 0 47) = true
    ∧ meets (streamed 47 uartStream) .streamClose (openCmd 0x0201 47 []) (fun s => s.ownsOpen 0 47
        && s.fore.runs.all (fun r => !r.ofCtx 47) && (s.streams[47]).entries.isEmpty) = true
    ∧ (let s := streamed 0 uartStream
       meets { s with fore := { s.fore with runs := [boundRun true] } } .streamClose (openCmd 0x0201 0 []) (fun s => s.ownsOpen 0 0
         && s.fore.runs.all (fun r => !r.ofCtx 0 || r.begun) && s.fore.runs.any (fun r => r.ofCtx 0)
         && (s.streams[0]).entries.isEmpty) = true)
    ∧ (let c : Cmd := { openCmd 0x0201 47 [] with phase := .running }
       let s := given closing c
       s.rootRuns = true ∧ (s.streams[47]).closing = some 1 ∧ (s.streams[47]).closeDone = false ∧ s.cmd 1 = some c ∧ c.live = true
       ∧ s.fore.runs = [])
    ∧ (let s := streamed 0 { isOpen := true, closing := some 1 }
       let s : State := { s with fore := { s.fore with runs := [boundRun true] } }
       (s.streams[0]).closing = some 1 ∧ ∃ r ∈ s.fore.runs, r.ofCtx 0 = true)
    ∧ meets live .streamConfig (openCmd 0x0202 0 (uartBlock 4)) (fun s => !s.ownsOpen 0 0) = true
    ∧ meets (streamed 0 uartStream) .streamConfig (openCmd 0x0202 0 (uartBlock 1)) (fun s => s.ownsOpen 0 0
        && s.streamBlockBad (uartBlock 1) == some 0x8009) = true
    ∧ meets (streamed 0 uartStream) .streamConfig (openCmd 0x0202 0 (uartBlock 8)) (fun s => s.ownsOpen 0 0
        && (s.streamBlockBad (uartBlock 8)).isNone
        && s.configBad 0 s.streams[0] (parseStream (uartBlock 8)) == some (stBusy, 8)) = true
    ∧ meets (streamed 0 uartStream) .streamConfig (openCmd 0x0202 0 (put (uartBlock 4) 10 1 255)) (fun s => s.ownsOpen 0 0
        && (s.streamBlockBad (put (uartBlock 4) 10 1 255)).isNone
        && (s.configBad 0 s.streams[0] (parseStream (put (uartBlock 4) 10 1 255))).isNone
        && (parseStream (put (uartBlock 4) 10 1 255)).source != 0) = true
    ∧ [clBlock 0, clBlock 0x8100].all (fun b => meets (clOpen []) .streamConfig (openCmd 0x0202 0 b) (fun s => s.ownsOpen 0 0
        && (s.streamBlockBad b).isNone && (s.configBad 0 s.streams[0] (parseStream b)).isNone
        && (parseStream b).source == 0 && (parseStream b).port == 23 && !s.settingsHeld 23 0
        && !((s.cl[23]).settingsDiffer (parseStream b).linkSettings).2)) = true
    ∧ meets (clOpen []) .streamConfig (openCmd 0x0202 0 (clBlock 0x8008)) (fun s => s.ownsOpen 0 0
        && (s.configBad 0 s.streams[0] (parseStream (clBlock 0x8008))).isNone && !s.settingsHeld 23 0
        && ((s.cl[23]).settingsDiffer (parseStream (clBlock 0x8008)).linkSettings).2 && (s.streams[0]).bound.isNone) = true
    ∧ meets (clOpen [1]) .streamConfig (openCmd 0x0202 0 (clBlock 0x8008)) (fun s => s.ownsOpen 0 0
        && (s.streamBlockBad (clBlock 0x8008)).isNone && (s.configBad 0 s.streams[0] (parseStream (clBlock 0x8008))).isNone
        && s.settingsHeld 23 0 && ((s.cl[23]).settingsDiffer (parseStream (clBlock 0x8008)).linkSettings).1) = true := by decide +kernel

theorem test_StreamCommands_guard_met :
    (let strong := bytesOf 32 [(0, 1, 13), (4, 4, 500)]
       let cur := uartStream.cfg
       let bad (b : Bytes) := lowestBad (guardFields b 0 cur.source cur.periodUs cur.frameBytes)
       meets live .guardConfig (openCmd 0x0205 0 strong) (fun s => !s.ownsOpen 0 0) = true
       ∧ meets (streamed 0 uartStream) .guardConfig (openCmd 0x0205 0 (put strong 4 4 501)) (fun s => s.ownsOpen 0 0
           && bad (put strong 4 4 501) == some 4) = true
       ∧ meets (streamed 0 { uartStream with cfg := { cur with cls := 2 } }) .guardConfig (openCmd 0x0205 0 (put strong 0 1 12))
           (fun s => s.ownsOpen 0 0 && (bad (put strong 0 1 12)).isNone && s.guardWeak 2 2 (parseGuard (put strong 0 1 12) 0)) = true
       ∧ meets (streamed 0 uartStream) .guardConfig (openCmd 0x0205 0 strong) (fun s => s.ownsOpen 0 0 && (bad strong).isNone
           && !s.guardWeak 2 0 (parseGuard strong 0)) = true) := by decide +kernel

theorem test_ThinningKeepsItsCount_met :
    ({ keep := 256 } : Stream).keep ≤ 256 ∧ ({ keep := 256 } : Stream).keep = 256 ∧ ({ keep := 0 } : Stream).keep = 0 := by
  decide +kernel

/-- A ReLU over 16 INT8 elements of a frame or of an input, in two tiles; and a sum with 16 constants. -/
def unit8 : Requant :=
  { grain := .tensor, m := [2 ^ 30], s := [30], mode := .halfEven, bias := [0], lo := [-128], hi := [127], zp := 0, outlier := .none }
def relu (role : TensorRole) : GraphImage :=
  { tensors := [{ id := 0, fmt := .int8, dims := [1, 1, 16], role := role, data := [], zp := 0, exportTo := none, slotOff := 0 },
                { id := 1, fmt := .int8, dims := [1, 1, 16], role := .output, data := [], zp := 0, exportTo := none, slotOff := 0 }]
    descs := [], groups := [], key := 0
    ops := [{ op := .elementwise .relu 0 none 0 0, out := 1, epi := .requant unit8, chunk := 0, descs := [] }]
    tiles := [{ op := 0, rows := ⟨0, 1⟩, cols := ⟨0, 1⟩, chans := ⟨0, 8⟩, cycles := 1000 },
              { op := 0, rows := ⟨0, 1⟩, cols := ⟨0, 1⟩, chans := ⟨8, 16⟩, cycles := 1000 }] }
def sum : GraphImage :=
  { relu .frame with
    tensors := (relu .frame).tensors ++ [{ id := 2, fmt := .int8, dims := [1, 1, 16], role := .const, data := List.replicate 16 3
                                           zp := 0, exportTo := none, slotOff := 0 }]
    ops := [{ op := .elementwise .add 0 (some 2) 0 0, out := 1, epi := .requant unit8, chunk := 0, descs := [] }] }
def spoilt : GraphImage := { relu .frame with tiles := [] }

/-- What functions and the Foreman hold, by port, with nothing of the pages that a VF's provision sets aside. -/
def bigMap (n : Nat) : State := mapped.setFn 0 (fun x => { x with maps := [window, { window with va := 2 ^ 46, size := n }] })

/-- Function 0 with `n` graphs, the first of them `g` with handle 1, and its streams. -/
def graphed (n : Nat) (g : GraphImage) : State :=
  mapped.setFn 0 (fun x => { x with graphs := List.replicate n { handle := 1, image := g, ratios := [] } })
def loadCmd (va n : Nat) : Cmd := cmd 0x0300 [(16, 8, va), (24, 4, n)]
def bindCmd (vector stride : Nat) : Cmd :=
  cmd 0x0304 [(16, 1, 47), (17, 1, vector), (19, 1, 1), (20, 4, 1), (24, 8, 0x300000), (40, 8, 0x310000), (48, 4, stride)]
def framed (s : State) (b : Option Binding) : State :=
  s.setStream 47 (fun _ => { isOpen := true, cfg := { source := 2, frameBytes := 256, ringCount := 4 }, bound := b })
def reserveCmd (n : Nat) : Cmd := cmd 0x0305 [(20, 4, n)]
def fullReservations : State :=
  { live with fore := { live.fore with reservations := (List.range 16).map (fun i => { reserved1 with num := i + 1 }) } }

set_option maxRecDepth 20000 in
theorem test_GraphsAndReservations_met :
    meets mapped .graphLoad (loadCmd 0x3FFF00 512) (fun s => !(s.fn 0).spans 0x3FFF00 512 .rd false) = true
    ∧ meets mapped .graphLoad (loadCmd 0x3FFF00 256) (fun s => (s.fn 0).spans 0x3FFF00 256 .rd false
        && (s.imageRead 0 0x3FFF00 256 false).isNone) = true
    ∧ spoilt.ok = false ∧ (relu .frame).ok = true
    ∧ meets (graphed 32 (relu .frame)) .graphLoad (loadCmd 0x200000 256) (fun s => decide (32 ≤ (s.fn 0).graphs.length)) = true
    ∧ meets mapped .graphLoad (loadCmd 0x200000 256) (fun s => decide ((s.fn 0).graphs.length < 32) && decide (s.graphCount < 512)
        && s.quotaMib 0 != 0) = true
    ∧ meets (bigMap (2 ^ 45)) .graphLoad (loadCmd 0x200000 256) (fun s => sum.ok && decide ((s.fn 0).graphs.length < 32)
        && decide (s.graphCount < 512) && (s.fn 0).spans 0x200000 256 .rd false
        && decide (s.quotaMib 0 * 1024 < (s.fn 0).chargedKib + sum.constKib)) = true
    ∧ meets (graphed 31 (relu .frame)) .graphLoad (loadCmd 0x200000 256) (fun s => decide ((s.fn 0).graphs.length < 32)
        && decide (s.graphCount < 512) && decide ((s.fn 0).chargedKib + sum.constKib ≤ s.quotaMib 0 * 1024)
        && (s.alloc 0 64 (graphUser 0 (s.newGraph 0)) (graphPieces sum)).any (State.backed .a) && sum.ok) = true
    ∧ mapped.mem.upsets = [] ∧ mapped.fixed.graphKeys.contains sum.key = true ∧ mapped.fixed.graphKeys.contains 5 = false
    ∧ meets (mapped.setFn 0 (fun x => { x with maps := [{ window with host := true }] })) .graphLoad (loadCmd 0x200000 256) (fun s =>
        (s.fn 0).spans 0x200000 256 .rd false && (s.fn 0).touchesHost 0x200000 256) = true
    ∧ meets mapped .graphUnload (cmd 0x0301 [(16, 4, 1)]) (fun s => ((s.fn 0).graph 1).isNone) = true
    ∧ meets (framed (graphed 1 (relu .frame)) (some aBinding)) .graphUnload (cmd 0x0301 [(16, 4, 1)]) (fun s =>
        ((s.fn 0).graph 1).isSome && s.graphInUse 0 1) = true
    ∧ meets (graphed 1 (relu .frame)) .graphUnload (cmd 0x0301 [(16, 4, 1)]) (fun s => ((s.fn 0).graph 1).isSome
        && !s.graphInUse 0 1) = true
    ∧ meets live .bindStream (bindCmd 1 256) (fun s => !s.ownsOpen 0 47 && s.vengines 0 != 0) = true
    ∧ (let c : Cmd := { bindCmd 1 256 with fn := 1 }
       meets virtual .bindStream c (fun s => s.vengines 1 == 0) = true)
    ∧ meets (framed mapped (some aBinding)) .bindStream (bindCmd 1 256) (fun s => s.ownsOpen 0 47 && (s.streams[47]).bound.isSome) = true
    ∧ meets (framed mapped (some aBinding)) .bindStream (bindCmd 0 256) (fun s => s.ownsOpen 0 47 && s.fore.runs.isEmpty
        && (s.streams[47]).entries.isEmpty) = true
    ∧ meets (framed (graphed 1 (relu .frame)) none) .bindStream (bindCmd 1 256) (fun s => s.ownsOpen 0 47
        && (s.streams[47]).bound.isNone && (s.fn 0).graph 1 == some { handle := 1, image := relu .frame, ratios := [] }
        && bindableGraph (relu .frame) 256 && (s.fn 0).spans 0x300000 (32 * 2 ^ 1) .wr true && !s.reservationBad 0 0 0
        && (s.fn 0).oneMapping 0x310000 (256 * 4) false true && decide (outputSize (relu .frame) ≤ 256) && s.vengines 0 != 0
        && (s.bindPending 47 0).isNone) = true
    ∧ (bindCmd 0 256).arg 17 1 = 0 := by decide +kernel

/-- RESERVE of reservation `n` with an amount and an action. -/
def reserveOf (n amount action : Nat) : Cmd := cmd 0x0305 [(16, 4, n), (20, 4, amount), (24, 1, action)]
def streamOnReservation : State :=
  withReservation.setStream 0 (fun _ => { isOpen := true, bound := some { aBinding with reservation := 1 } })

theorem test_GraphsAndReservations_reserve_met :
    meets live .reserve (reserveOf 1 100 1) (fun s => (s.reservation 1).isNone) = true
    ∧ meets withReservation .reserve { reserveOf 1 100 1 with fn := 64 } (fun s => s.reservation 1 == some reserved1) = true
    ∧ meets streamOnReservation .reserve (reserveOf 1 100 1) (fun s => s.reservation 1 == some reserved1 && s.reservationUsed 1) = true
    ∧ meets withReservation .reserve (reserveOf 1 100 1) (fun s => s.reservation 1 == some reserved1 && !s.reservationUsed 1) = true
    ∧ meets { withReservation with fore := { withReservation.fore with safety := { maintenance := true } } } .reserve (reserveCmd 100)
        (fun s => s.fore.safety.maintenance) = true
    ∧ meets fullReservations .reserve (reserveCmd 100) (fun s => !s.fore.safety.maintenance
        && decide (16 ≤ (s.fore.reservations.filter (fun r => r.fn == 0)).length)) = true
    ∧ meets { live with fore := { live.fore with reservations := (List.range 15).map (fun i => { reserved1 with num := i + 1 }) } }
        .reserve (reserveCmd 100) (fun s => decide ((s.fore.reservations.filter (fun r => r.fn == 0)).length < 16)
        && decide (s.fore.reservations.length < 256) && decide (s.reserved .a + 100 ≤ s.nextCapacity .a)) = true
    ∧ meets live .reserve (reserveCmd 2000000) (fun s => (s.reservation 0).isNone && decide (s.nextCapacity .a < s.reserved .a + 2000000)) = true
    ∧ meets withReservation .reserve (reserveOf 2 100 0) (fun s => (s.reservation 2).isNone) = true
    ∧ meets withReservation .reserve { reserveOf 1 100 0 with fn := 64 } (fun s => s.reservation 1 == some reserved1) = true
    ∧ meets withReservation .reserve (reserveOf 1 2000000 0) (fun s => decide (s.nextCapacity .a < s.reserved .a - 1 + 2000000)) = true
    ∧ meets withReservation .reserve (reserveOf 1 100 0) (fun s => decide (s.reserved .a - 1 + 100 ≤ s.nextCapacity .a)) = true
    ∧ (reserveCmd 100).arg 24 1 = 0 ∧ (reserveCmd 100).arg 16 4 = 0 ∧ (reserveOf 1 100 1).arg 24 1 = 1 := by decide +kernel

def jobBlock (va : Nat) : Bytes := bytesOf 32 [(8, 8, va), (16, 2, 1), (18, 2, 1), (24, 8, 0x300000)]
def job (va reservation deadline : Nat) : Cmd :=
  { cmd 0x0302 [(16, 4, 1), (20, 2, 2), (24, 4, reservation)] 0 (jobBlock va) with deadline := BitVec.ofNat 64 deadline }
def jobGraph : State := graphed 1 (relu .input)

/-- Port A's engines crewed, so that admission can predict an end. -/
def crewed : State := { jobGraph with engines := Vector.replicate 64 { crew := some .a } }
def cancel : Cmd := cmd 0x0303 [(16, 4, 7)]
def withTarget (cls : BitVec 8) (fn : FnId) : State :=
  let c : Cmd := { cancel with fn := fn }
  { virtual with fore := { virtual.fore with taken :=
      [c, { cmd 0x0302 [] cls with id := 2, seq := 7, fn := fn, phase := .running }] } }

/-- A sequence with 63 positions of one page of 64, row 1,024 bytes, and its window twin. -/
def seq (len : Nat) : KvSeq :=
  { handle := 1, va := 0x10000000, maxLen := 128, heads := 8, headDim := 64, fmt := .int8, window := false
    length := len, start := 0, pages := [(0, 0)] }
def sequenced (q : KvSeq) : State := mapped.setFn 0 (fun x => { x with seqs := [q] })
def attendBlock (endPos : Nat) : Bytes :=
  bytesOf 64 [(0, 4, 1), (4, 4, endPos), (8, 2, 1), (10, 2, 1), (12, 1, 1), (14, 1, 4), (32, 8, 0x200000), (40, 8, 0x300000)]
def attendCmd (endPos : Nat) : Cmd := cmd 0x0405 [(16, 2, 1)] 0 (attendBlock endPos)
def offeredTo (s : State) (o : Opcode) (c : Cmd) (p : State → Bool) : Bool :=
  let s := given s c
  decide (s.cmd 1 = some c) && s.rootRuns && (decide (c.phase = .begun) || decide (c.phase = .waiting)) && decide (c.op = some o)
    && s.fore.runs.all (fun r => r.cmd != some 1) && p s

/-- A job of class 2 on reservation 1, which it would overdraw and whose Severe event awaits FAULT_ACK. -/
def job2 : Cmd := { job 0x200000 1 0 with cls := 2 }
def onReservation : State :=
  { crewed with
    fore := { crewed.fore with reservations := [reserved1] }
    fcu := { timers := [{ timer 0x090 7 with members := [{ seq := 7, event := .safetyOverload, class2 := true, context := reservationContext 1 }] }] } }

theorem test_Jobs_met :
    offeredTo mapped .jobSubmit (job 0x200000 0 0) (fun s => ((s.fn 0).graph 1).isNone) = true
    ∧ offeredTo jobGraph .jobSubmit (job 0x200000 1 0) (fun s => ((s.fn 0).graph 1).isSome && s.cmdReservationBad (job 0x200000 1 0)) = true
    ∧ offeredTo jobGraph .jobSubmit (job 0x1FFFF0 0 0) (fun s => !s.cmdReservationBad (job 0x1FFFF0 0 0)
        && s.bindingsBad 0 (relu .input) (jobBlock 0x1FFFF0) 2 == some 0x8008) = true
    ∧ (let s := provisioned.setFn 1 (fun x => { x with maps := [window], provision := x.provision.map (fun p => { p with vengines := 0 })
                                                       graphs := [{ handle := 1, image := relu .input, ratios := [] }] })
       offeredTo s .jobSubmit { job 0x200000 0 0 with fn := 1 } (fun s => !s.cmdReservationBad { job 0x200000 0 0 with fn := 1 }
         && (s.bindingsBad 1 (relu .input) (jobBlock 0x200000) 2).isNone && s.vengines 1 == 0) = true)
    ∧ offeredTo crewed .jobSubmit (job 0x200000 0 0) (fun s => (s.bindingsBad 0 (relu .input) (jobBlock 0x200000) 2).isNone
        && s.vengines 0 != 0 && s.fore.replay.state == .off && (job 0x200000 0 0).deadline == 0) = true
    ∧ offeredTo crewed .jobSubmit (job 0x200000 0 1) (fun s =>
        let c := job 0x200000 0 1
        let r := c.run (.job 1) 0 1 (relu .input) [] (parseBinds c.block 2) ((relu .input).tiles.map (·.cycles))
        s.late { r with id := s.fore.nextRun } (s.plan { r with id := s.fore.nextRun } (s.waits c) none)) = true
    ∧ offeredTo (sequenced (seq 63)) .attend { attendCmd 63 with desc := bytesOf 64 [(16, 2, 1), (24, 4, 1)] } (fun s =>
        s.cmdReservationBad { attendCmd 63 with desc := bytesOf 64 [(16, 2, 1), (24, 4, 1)] }) = true
    ∧ offeredTo (sequenced (seq 63)) .attend (attendCmd 0) (fun s => !s.cmdReservationBad (attendCmd 0)
        && (s.attendBad (attendCmd 0)) == some 0x8008) = true
    ∧ [63, 64].all (fun e => offeredTo (sequenced (seq 63)) .attend (attendCmd e) (fun s => !s.cmdReservationBad (attendCmd e)
        && (s.attendBad (attendCmd e)).isNone && s.vengines 0 != 0 && s.fore.replay.state == .off
        && s.attendShort 0 (attendOrder ((List.range 1).map (attendCmd e).attendReq)) == (e == 64))) = true
    ∧ (let s := withTarget 2 1
       s.cmd 1 = some { cancel with fn := 1 } ∧ (∃ d ∈ s.cancelTargets { cancel with fn := 1 }, d.cls = 2) ∧ s.hasAuth 1 = false)
    ∧ (let s := withTarget 0 0
       let d : Cmd := { cmd 0x0302 [] with id := 2, seq := 7, phase := .running }
       s.cmd 1 = some cancel ∧ s.rootRuns = true ∧ s.cmd d.id = some d ∧ d.id ≠ 1 ∧ s.cancelTargets cancel = [d] ∧ d.cls ≠ 2
       ∧ s.fore.runs = [])
    ∧ offeredTo onReservation .jobSubmit (job2) (fun s =>
        let r := job2.run (.job 1) 1 1 (relu .input) [] (parseBinds job2.block 2) ((relu .input).tiles.map (·.cycles))
        !s.cmdReservationBad job2 && (s.bindingsBad 0 (relu .input) job2.block 2).isNone && s.vengines 0 != 0
        && s.pendingFault 1 (usOf (s.plan { r with id := s.fore.nextRun } (s.waits job2) none).used) == some 7) = true
    ∧ meets live .jobCancel cancel (fun s => (s.cancelTargets cancel).isEmpty) = true := by decide +kernel

def kvOpen (heads : Nat) (va : Nat) : Cmd :=
  cmd 0x0400 [(16, 8, va), (24, 4, 128), (28, 2, heads), (30, 2, 64), (32, 1, 1)]
def kvCmd (code second : Nat) : Cmd := cmd code [(16, 4, 1), (20, 4, second)]
def rows (k : Nat) : Bytes := bytesOf 64 [(0, 8, k), (8, 8, k), (16, 4, 512), (20, 4, 512), (24, 4, 0xFFFFFFFF)]
def scatter (count k : Nat) : Cmd := cmd 0x0401 [(16, 4, 1), (20, 4, count)] 0 (rows k)

set_option maxRecDepth 20000 in
theorem test_KeyValueCommands_met :
    kvFormat ((kvOpen 8 0x10000000).arg 32 1) = some .int8
    ∧ meets mapped .kvOpen (kvOpen 0 0x10000000) (fun _ => kvOpenRow (kvOpen 0 0x10000000).desc == 0) = true
    ∧ meets mapped .kvOpen (kvOpen 8 0x200000) (fun s => (s.fn 0).taken 0x200000 (128 * kvOpenRow (kvOpen 8 0x200000).desc)) = true
    ∧ meets (mapped.setFn 0 (fun x => { x with seqs := List.replicate 256 { seq 0 with va := 0x20000000 } })) .kvOpen (kvOpen 8 0x10000000)
        (fun s => kvOpenRow (kvOpen 8 0x10000000).desc != 0
          && !(s.fn 0).taken 0x10000000 (128 * kvOpenRow (kvOpen 8 0x10000000).desc) && decide (256 ≤ (s.fn 0).seqs.length)) = true
    ∧ meets mapped .kvOpen (kvOpen 8 0x10000000) (fun s => decide ((s.fn 0).seqs.length < 256)
        && decide ((s.fns.toList.map (fun y => y.seqs.length)).sum < 4096)) = true
    ∧ ([0x0404, 0x0402, 0x0403].zip [Opcode.kvQuery, .kvTrim, .kvClose]).all (fun x =>
        meets mapped x.2 (kvCmd x.1 0) (fun s => ((s.fn 0).seq 1).isNone)
        && meets (sequenced (seq 63)) x.2 (kvCmd x.1 63) (fun s => (s.fn 0).seq 1 == some (seq 63))) = true
    ∧ meets (sequenced { seq 63 with start := 1 }) .kvTrim (kvCmd 0x0402 0) (fun _ => (kvCmd 0x0402 0).arg 20 4 == 0) = true
    ∧ meets (sequenced (seq 63)) .kvTrim (kvCmd 0x0402 64) (fun _ => decide ((seq 63).length < (kvCmd 0x0402 64).arg 20 4)) = true
    ∧ [0, 63].all (fun n => meets (sequenced (seq 63)) .kvTrim (kvCmd 0x0402 n) (fun _ => decide ((seq 63).start ≤ n) && decide (n ≤ 63))) = true
    ∧ (let s := sequenced (seq 63)
       let d : Cmd := { attendCmd 63 with id := 2, phase := .running }
       d.live = true ∧ 1 ∈ d.handles ∧ (kvCmd 0x0403 0).naming = false
       ∧ meets s .kvClose { kvCmd 0x0403 0 with naming := true } (fun s => ((s.fn 0).seq 1).isSome) = true ∧ (given s (kvCmd 0x0403 0)).fore.taken.all (fun d => d.id == 1) = true)
    ∧ meets mapped .kvScatter (scatter 1 0x200000) (fun s => ((s.fn 0).seq 1).isNone && s.fore.replay.state == .off) = true
    ∧ meets (sequenced (seq 63)) .kvScatter (scatter 0 0x200000) (fun s => s.scatterBad (scatter 0 0x200000) (seq 63) == some 20) = true
    ∧ meets (sequenced (seq 127)) .kvScatter (scatter 2 0x200000) (fun s => (s.scatterBad (scatter 2 0x200000) (seq 127)).isNone
        && (seq 127).full 2) = true
    ∧ (let s := provisioned.setFn 1 (fun x => { x with maps := [window], seqs := [seq 63] })
       meets s .kvScatter { scatter 2 0x200000 with fn := 1 } (fun s => (s.scatterBad { scatter 2 0x200000 with fn := 1 } (seq 63)).isNone
         && !(seq 63).full 2 && (seq 63).noPage ((seq 63).targets 2) (s.kvFree 1)) = true)
    ∧ meets (sequenced (seq 127)) .kvScatter (scatter 1 0x200000) (fun s => (s.scatterBad (scatter 1 0x200000) (seq 127)).isNone
        && !(seq 127).full 1) = true
    ∧ meets (sequenced (seq 63)) .kvScatter (scatter 1 0x200000) (fun s => (s.scatterBad (scatter 1 0x200000) (seq 63)).isNone
        && !(seq 63).full 1 && !(seq 63).noPage ((seq 63).targets 1) (s.kvFree 0)
        && s.mem.upsets.isEmpty
        && ((s.scatterAccess (scatter 1 0x200000) ((seq 63).row / 2)).scatterRows (scatter 1 0x200000) ((seq 63).row / 2) 1 0).2.isNone
        && (commitPages 0 (seq 63) ((seq 63).targets 1) ((seq 63).targets 1)
             { state := s.scatterAccess (scatter 1 0x200000) ((seq 63).row / 2), pages := (seq 63).pages, recycled := [], free := s.kvFree 0 }).isSome) = true := by decide +kernel

/-! ### Shifts, tiles, slices, scions -/

/-- The job over `relu`, some tiles ended and some at work; its command; and engine 63 on tile `j`. -/
def jobRun (done working : List Nat) : Run :=
  { idleRun (.job 1) with image := relu .input, binds := [{ tensor := 0, va := 0x200000 }, { tensor := 1, va := 0x300000 }]
                          tiles := [1000, 1000], done := done, working := working, begun := true }
def running : Cmd := { job 0x200000 0 0 with phase := .running }
def atWork (r : Run) : State :=
  let s : State := { crewed with fore := { crewed.fore with runs := [r], taken := [running] } }
  { s with engines := crewed.engines.set 63 { crew := some .a, tile := r.working.head?.map (fun j => { run := 1, tile := j, start := 0, bad := false }) } }
def sliced (x : Engine) : State := { live with engines := live.engines.set 63 { x with slice := true } }
def noScions : State := { live with scions := Vector.replicate 4 { state := .fenced } }

set_option maxRecDepth 20000 in
theorem test_TilesAndSlices_met :
    live.rootRuns = true ∧ live.boot.complete = true ∧ live.safe = false ∧ live.fore.replay.state = .off ∧ live.working = true
    ∧ live.mem.upsets = [] ∧ live.nextPlacement = none
    ∧ ((atWork (jobRun [] [])).nextPlacement.map (fun x => (x.1.id, x.2.1, x.2.2))) = some (1, 0, 0)
    ∧ (atWork (jobRun [] [])).working = true ∧ (atWork (jobRun [] [])).mem.upsets = []
    ∧ ((atWork (jobRun [] [])).loads (jobRun [] []) 0).findSome? (atWork (jobRun [] [])).loadFault = none
    ∧ (live.engines[63]).tile = none
    ∧ (let s := { live with engines := live.engines.set 63 { tile := some { run := 5, tile := 0, start := 0, bad := false } } }
       (s.engines[63]).tile = some { run := 5, tile := 0, start := 0, bad := false } ∧ ∀ r ∈ s.fore.runs, r.id ≠ 5)
    ∧ live.power.state = .run ∧ live.slicing = none ∧ noScions.working = true ∧ noScions.sliceChoice = none
    ∧ live.sliceChoice = some 0 ∧ live.maySlice 63 = true
    ∧ (sliced { slicesDone := 7, aborts := 6 }).working = true ∧ (sliced { slicesDone := 7, aborts := 6 }).slicing = some 63
    ∧ ((sliced { slicesDone := 7, aborts := 6 }).engines[63]).slicesDone = 7
    ∧ ((sliced { slicesDone := 6, aborts := 7 }).engines[63]).slicesDone ≠ 7
    ∧ ((sliced { slicesDone := 7, aborts := 6 }).engines[63]).aborts < 7
    ∧ ((sliced { slicesDone := 7, aborts := 6 }).engines[63]).state ≠ .withdrawn
    ∧ 7 ≤ ((sliced { slicesDone := 6, aborts := 7 }).engines[63]).aborts
    ∧ (live.scions[(scionOf 63).val]).state = .joined ∧ (live.engines[63]).state = .inPool
    ∧ (live.engines[63]).testDue live.clk.runCycles = false
    ∧ (let s : State := { live with clk := { live.clk with runCycles := 400000000 } }
       s.working = true ∧ (s.engines[63]).testDue s.clk.runCycles = true) := by decide +kernel

set_option maxRecDepth 20000 in
theorem test_TilesAndSlices_end_met :
    (let r := jobRun [] [0]
     let s := atWork r
     let vals := (s.computeTile (s.engines[63]).bench r 0 []).values
     s.working = true ∧ s.mem.upsets = [] ∧ (s.engines[63]).tile = some { run := 1, tile := 0, start := 0, bad := false }
     ∧ s.fore.runs.find? (fun x => x.id == 1) = some r ∧ (s.scions[(scionOf 63).val]).withdrawing = false
     ∧ r.image.tensors.all (fun t => t.exportTo.isNone) = true
     ∧ s.landing r 0 vals = [(memKey 0 0x300000, zeros 8)] ∧ (s.mem.store (memKey 0 0x300000) (zeros 8)).2.2 = none
     ∧ (s.holdYard r (r.image.tensor 1)).placeOf r 1 = .mem (memKey 0 0x300000)
     ∧ r.outOf 0 = some ((relu .input).tiles[0], r.image.tensor 1)
     ∧ ({ r with working := [], done := [0] } : Run).over = false)
    ∧ (let r := jobRun [0] [1]
       let s := atWork r
       let vals := (s.computeTile (s.engines[63]).bench r 1 []).values
       s.landing r 1 vals = [(memKey 0 0x300008, zeros 8)] ∧ (s.mem.store (memKey 0 0x300008) (zeros 8)).2.2 = none
       ∧ (s.holdYard r (r.image.tensor 1)).placeOf r 1 = .mem (memKey 0 0x300000)
       ∧ r.outOf 1 = some ((relu .input).tiles[1], r.image.tensor 1)
       ∧ ({ r with working := [], done := [0, 1] } : Run).over = true ∧ r.kind = .job 1 ∧ s.cmd 1 = some running
       ∧ running.live = true) := by decide +kernel

/-- Tile 0 of the job can land: all the hypotheses about its end together. -/
theorem test_TilesAndSlices_lands_met :
    (atWork (jobRun [] [0])).Lands (jobRun [] [0]) 0
      ((atWork (jobRun [] [0])).computeTile ((atWork (jobRun [] [0])).engines[63]).bench (jobRun [] [0]) 0 []).values := by
  obtain ⟨⟨-, -, -, -, -, -, hl, hs, hp, ho, -⟩, -⟩ := test_TilesAndSlices_end_met
  refine ⟨?_, ?_⟩
  · rw [hl]; simp only [StoresOk, and_true]; exact hs
  · intro t d yo _ h hy
    rw [ho] at h
    obtain ⟨rfl, rfl⟩ := Prod.mk.inj (Option.some.inj h)
    rw [show ((jobRun [] [0]).image.tensor 1).id = 1 from rfl, hp] at hy
    cases hy

def seamed (fails missed retries : Nat) : State :=
  { live with scions := live.scions.set 3 { state := .joined, failsIn := fails, missed := missed, retries := retries } }

theorem test_ScionsAndSeams_met :
    (seamed 3 6 0).seamLive 3 = true ∧ ((seamed 3 6 0).scions[3]).failsOf true < 4 ∧ (((seamed 3 6 0).scions[3]).retries + 1) % 256 ≠ 0
    ∧ (((seamed 3 6 255).scions[3]).retries + 1) % 256 = 0 ∧ ((seamed 3 6 0).scions[3]).missed < 7
    ∧ (seamed 4 7 0).seamLive 3 = true ∧ (seamed 4 7 0).fore.replay.state ≠ .collecting ∧ 4 ≤ ((seamed 4 7 0).scions[3]).failsOf true
    ∧ 7 ≤ ((seamed 4 7 0).scions[3]).missed ∧ scionOf 63 = 3 ∧ scionOf 48 = 3 ∧ cold.seamLive 3 = false := by decide +kernel

/-! ### Links -/

def be (n v : Nat) : Bytes := (leBytes n v).reverse

def link (x : ClPort) : State := { live with cl := live.cl.set 23 x }

theorem test_ChroylinkTraining_met :
    live.rootRuns = true ∧ ((link { started := true }).cl[23]).state = .down ∧ ((link { started := true }).cl[23]).started = true
    ∧ ((link { phase := .preamble, ctleFixed := true }).cl[23]).phase = .preamble
    ∧ ((link { phase := .sweep 6 (some (2, 40)) }).cl[23]).phase = .sweep 6 (some (2, 40)) ∧ 39 < 40 ∧ 40 ≤ 40
    ∧ ((link { phase := .sweep 7 (some (2, 40)) }).cl[23]).phase = .sweep 7 (some (2, 40))
    ∧ ((link { phase := .dfe }).cl[23]).phase = .dfe ∧ ((link { state := .training }).cl[23]).state = .training
    ∧ ((link { state := .resync, beenUp := true }).cl[23]).beenUp = true
    ∧ (let m (n : Nat) : BcMsg := { msgNo := 15, type := 1, body := [0], tries := n }
       ((link { unacked := [m 2] }).cl[23]).unacked.find? (fun x => x.msgNo == 15) = some (m 2) ∧ (m 2).tries < 3 ∧ 3 ≤ (m 3).tries)
    ∧ (let c : Cmd := { openCmd 0x0202 0 [] with phase := .running }
       let s := given (link { retrainCmd := some 1 }) c
       (s.cl[23]).retrainCmd = some 1 ∧ s.cmd 1 = some c ∧ c.live = true ∧ ∀ y : CtxId, (s.streams[y.val]).opening ≠ some 1)
    ∧ (let c : Cmd := { openCmd 0x0200 0 [] with phase := .running }
       let s := (given (link { retrainCmd := some 1 }) c).setStream 47 (fun _ => { isOpen := true, opening := some 1 })
       s.cmd 1 = some c ∧ (s.streams[47]).opening = some 1 ∧ ∀ z : CtxId, (s.streams[z.val]).opening = some 1 → z = 47)
    ∧ (∀ i : Fin 6, (tapRange i).1 ≤ 0 ∧ 0 ≤ (tapRange i).2) := by decide +kernel

/-- Parity of a codeword whose first symbol is 1 and the others 0, by the generator of R164. -/
def unitParity : List Nat := [169, 1, 22, 176, 250, 139, 212, 178, 33, 72, 188, 12, 140, 222, 137, 26]

/-- A codeword with the first symbol `v` and zeros; a block before coding whose TYPE is `v` and whose other bytes are 0. -/
def word (v : Nat) : List Nat := v :: List.replicate 238 0 ++ unitParity.map (gfMul v)
def zeroWord : List Nat := List.replicate 255 0
def zeroBlock : List Nat := List.replicate 1020 0
def plain (v : Nat) : List Nat := (List.range 1020).map (fun i => if i % 4 = 0 then (word v).getD (i / 4) 0 else 0)
/-- A codeword with the first of its symbols hit: one to correct. -/
def hitBlock : List Nat := 1 :: List.replicate 1019 0

/-- The levels of a byte by the table of R154, and of a block: the sync word, then the scrambled coded bytes. -/
def levels (b : Byte) : List Pam4 :=
  [6, 4, 2, 0].map (fun k => [Pam4.m3, .m1, .p3, .p1].getD (b.toNat / 2 ^ k % 4) .m3)
def blockWith (sync : BitVec 32) (raw : List Nat) : LinkBlock :=
  { symbols := (be 4 sync.toNat ++ (descramble (raw.map (BitVec.ofNat 8))).map (BitVec.ofNat 8)).flatMap levels
    errors := List.replicate 4096 5, agc := 0, graft2 := none }
def blockOf (type : Nat) : LinkBlock := blockWith syncWord (plain type)

theorem gfMulFuel_zero_left (k b : Nat) : gfMulFuel k 0 b 0 = 0 := by
  induction k generalizing b with
  | zero => rfl
  | succ k ih => simp [gfMulFuel, gfTimes2, ih]

theorem rsSyndromes_zero (n : Nat) : (rsSyndromes (List.replicate n 0)).all (· == 0) = true := by
  have h (x : Nat) : (List.replicate n 0).foldl (fun a c => gfMul a x ^^^ c) 0 = 0 := by
    induction n with
    | zero => rfl
    | succ n ih => simpa [List.replicate_succ, gfMul, gfMulFuel_zero_left] using ih
  simp [rsSyndromes, h]

theorem codeword_of (w : List Nat) (h : (rsSyndromes w).all (· == 0) = true) : rsDecode w = some (w, 0) := by
  rw [rsDecode, if_pos h]

set_option maxRecDepth 20000 in
/-- The zero word and the words of a DATA block and of a reserved type are codewords of R164. -/
theorem test_codewords :
    rsDecode (zeroWord) = some (zeroWord, 0)
    ∧ rsDecode (word 1) = some (word 1, 0) ∧ rsDecode (word 3) = some (word 3, 0) := by
  refine ⟨?_, codeword_of _ (by decide +kernel), codeword_of _ (by decide +kernel)⟩
  exact codeword_of _ (rsSyndromes_zero 255)

theorem getD_range_map {n k : Nat} (f : Nat → Nat) (h : k < n) : ((List.range n).map f).getD k 0 = f k := by
  simp [List.getD, h]

theorem word_length (v : Nat) : (word v).length = 255 := by simp [-List.reduceReplicate, word, unitParity]

/-- The four words of a block before coding. -/
theorem codeword_plain (v : Nat) : codeword (plain v) 0 = word v ∧ ∀ k ∈ [1, 2, 3], codeword (plain v) k = zeroWord := by
  refine ⟨List.ext_getElem (by simp [-List.reduceReplicate, codeword, word_length]) fun i h _ => ?_, fun k hk => List.ext_getElem (by simp [-List.reduceReplicate, codeword, zeroWord]) fun i h _ => ?_⟩
  · have h' : i < 255 := by simpa [codeword] using h
    simp only [codeword, plain, List.getElem_map, List.getElem_range]
    rw [getD_range_map _ (by omega), if_pos (by omega), show (4 * i + 0) / 4 = i by omega, List.getD_eq_getElem]
  · have h' : i < 255 := by simpa [codeword] using h
    have hk : 0 < k ∧ k < 4 := by simp at hk; omega
    simp only [codeword, plain, List.getElem_map, List.getElem_range]
    rw [getD_range_map _ (by omega), if_neg (by omega)]
    simp [-List.reduceReplicate, zeroWord]

theorem codeword_zero (k : Nat) : codeword zeroBlock k = zeroWord := by
  refine List.ext_getElem (by simp [-List.reduceReplicate, codeword, zeroWord]) fun i _ _ => ?_
  simp [-List.reduceReplicate, codeword, zeroBlock, zeroWord, List.getD, List.getElem?_replicate]
  split <;> rfl

/-- A block with one word that is not zero decodes without a correction. -/
theorem decodeBlock_of {b : Bytes} {raw w : List Nat} (hr : descramble b = raw) (hw : rsDecode w = some (w, 0))
    (hc : codeword raw 0 = w ∧ ∀ k ∈ [1, 2, 3], codeword raw k = zeroWord) :
    decodeBlock b = { bytes := interleave [w, zeroWord, zeroWord, zeroWord], words := 0, symbols := 0, bad := 0 } := by
  have h4 : List.range 4 = [0, 1, 2, 3] := rfl
  simp only [decodeBlock, hr, h4, List.map_cons, List.map_nil, hc.1, hc.2 1 (by simp), hc.2 2 (by simp), hc.2 3 (by simp), hw,
    test_codewords.1]
  simp

theorem interleave_zero : interleave [zeroWord, zeroWord, zeroWord, zeroWord] = zeroBlock := by
  refine List.ext_getElem (by simp [-List.reduceReplicate, interleave, zeroBlock]) fun i _ _ => ?_
  have h : ([zeroWord, zeroWord, zeroWord, zeroWord].getD (i % 4) []) = zeroWord := by
    have : i % 4 < 4 := Nat.mod_lt _ (by decide)
    rcases h : i % 4 with _ | _ | _ | _ | n <;> first | rfl | omega
  simp only [interleave, List.getElem_map, List.getElem_range, h]
  simp [-List.reduceReplicate, zeroWord, zeroBlock, List.getD, List.getElem?_replicate]
  split <;> rfl

/-- An IDLE block, a DATA block that is neither first nor last of its frame, and a malformed block. -/
theorem test_link_block_decodes :
    (let d := decodeBlock (blockCoded (blockOf 0))
     d.bad = 0 ∧ d.symbols = 0 ∧ d.malformed = false ∧ d.header.type = 0)
    ∧ (let d := decodeBlock (blockCoded (blockOf 1))
       d.bad = 0 ∧ d.malformed = false ∧ d.header.type = 1 ∧ d.header.sub = 0 ∧ d.header.sof = false ∧ d.header.eof = false
       ∧ d.header.count = 0 ∧ d.header.offset = 0)
    ∧ (let d := decodeBlock (blockCoded (blockOf 3))
       d.bad = 0 ∧ d.malformed = true) := by
  have z : descramble (blockCoded (blockOf 0)) = zeroBlock := by decide +kernel
  rw [decodeBlock_of z test_codewords.1 ⟨codeword_zero 0, fun k _ => codeword_zero k⟩, interleave_zero,
    decodeBlock_of (raw := plain 1) (by decide +kernel) test_codewords.2.1 (codeword_plain 1),
    decodeBlock_of (raw := plain 3) (by decide +kernel) test_codewords.2.2 (codeword_plain 3)]
  decide +kernel

set_option maxRecDepth 20000 in
/-- A word with one wrong symbol is corrected to the zero word. -/
theorem test_word_corrected : rsDecode (1 :: List.replicate 254 0) = some (zeroWord, 1) := by decide +kernel

theorem getD_replicate_zero (n k : Nat) : (List.replicate n 0).getD k 0 = 0 := by
  rw [List.getD, List.getElem?_replicate]; split <;> rfl

theorem codeword_at (l : List Nat) (k i : Nat) (h : i < (codeword l k).length) : (codeword l k)[i] = l.getD (4 * i + k) 0 := by
  simp only [codeword, List.getElem_map, List.getElem_range]

theorem getD_one_replicate (n k : Nat) : (1 :: List.replicate n 0).getD k 0 = if k = 0 then 1 else 0 := by
  rcases k with _ | k
  · rfl
  · rw [List.getD_cons_succ, getD_replicate_zero, if_neg (by omega)]

theorem codeword_hit : codeword hitBlock 0 = 1 :: List.replicate 254 0 ∧ ∀ k ∈ [1, 2, 3], codeword hitBlock k = zeroWord := by
  have len (k : Nat) : (codeword hitBlock k).length = 255 := by rw [codeword, List.length_map, List.length_range]
  refine ⟨List.ext_getElem (by rw [len, List.length_cons, List.length_replicate]) fun i h h2 => ?_, fun k hk =>
    List.ext_getElem (by rw [len, zeroWord, List.length_replicate]) fun i h _ => ?_⟩
  · have e : (1 :: List.replicate 254 0)[i] = (1 :: List.replicate 254 0).getD i 0 := (List.getD_eq_getElem _ _ h2).symm
    rw [codeword_at, e, hitBlock, getD_one_replicate, getD_one_replicate]
    exact if_congr (by omega) rfl rfl
  · have hk : 0 < k := by rcases hk with _ | ⟨_, hk⟩ <;> [decide; (rcases hk with _ | ⟨_, hk⟩ <;> [decide; (rcases hk with _ | ⟨_, hk⟩ <;> [decide; cases hk])])]
    have e : zeroWord[i] = 0 := List.getElem_replicate ..
    rw [codeword_at, hitBlock, getD_one_replicate, if_neg (by omega), e]

/-- A block with one symbol corrected in its first word, the header of an IDLE block. -/
theorem test_link_block_corrected :
    let d := decodeBlock (blockCoded (blockWith syncWord hitBlock))
    d.bad = 0 ∧ d.symbols = 1 ∧ d.malformed = false ∧ d.header.type = 0 := by
  have hr : descramble (blockCoded (blockWith syncWord hitBlock)) = hitBlock := by decide +kernel
  have h4 : List.range 4 = [0, 1, 2, 3] := rfl
  have h : decodeBlock (blockCoded (blockWith syncWord hitBlock)) = { bytes := zeroBlock, words := 1, symbols := 1, bad := 0 } := by
    simp only [decodeBlock, hr, h4, List.map_cons, List.map_nil, codeword_hit.1, codeword_hit.2 1 (by simp),
      codeword_hit.2 2 (by simp), codeword_hit.2 3 (by simp), test_word_corrected, test_codewords.1, interleave_zero]
    rfl
  rw [h]
  decide +kernel

/-- The sync words of the blocks above, and of one in the other errors that the statements speak of. -/
theorem test_link_block_sync :
    blockSync (blockOf 0) = syncWord ∧ blockSync (blockOf 1) = syncWord ∧ blockSync (blockOf 3) = syncWord
    ∧ syncErrors syncWord = 0 ∧ 3 < syncErrors (blockSync (blockWith (syncWord ^^^ 0xF) zeroBlock))
    ∧ syncErrors (blockSync (blockWith (syncWord ^^^ 0x7) zeroBlock)) ≤ 3
    ∧ blockSync (blockWith (syncWord ^^^ 1) zeroBlock) ≠ syncWord ∧ (blockOf 0).wf = true := by decide +kernel

/-- Bit pairs of the levels by R154: the byte 0x1B has the levels −3, −1, +3, +1, the most significant pair first. -/
theorem test_levels : bytesOfSymbols [.m3, .m1, .p3, .p1] = [0x1B] ∧ levels 0x1B = [.m3, .m1, .p3, .p1] := by decide +kernel

def received (frame : Option FrameAsm) : State :=
  (link { state := .up }).setStream 47 (fun _ => { isOpen := true, cfg := { port := 23, trigger := 1, periodUs := 100 }, asm := frame })
def halfFrame : FrameAsm := { counter := 0, bytes := [], stamp := 0, parts := 0, buffer := some 0 }

theorem test_ChroylinkBlocks_met :
    (live.cl[23]).state = .down ∧ ((link { state := .up, badSyncs := 2 }).cl[23]).badSyncs < 3
    ∧ 3 ≤ ((link { state := .up, badSyncs := 3 }).cl[23]).badSyncs
    ∧ ((link { state := .resync }).cl[23]).state = .resync ∧ ((link { state := .resync }).cl[23]).resyncHits = 0
    ∧ ((link { state := .resync }).cl[23]).phase = .idle ∧ ((link { state := .resync, resyncHits := 1 }).cl[23]).resyncHits ≠ 0
    ∧ (received none).safe = false ∧ halted.safe = true ∧ (link { state := .up }).contextOf 0 23 0 = none
    ∧ (received (some halfFrame)).contextOf 0 23 0 = some 47 ∧ ((received (some halfFrame)).streams[47]).asm = some halfFrame
    ∧ halfFrame.failed = none ∧ halfFrame.counter = 0 ∧ halfFrame.length = 0 ∧ halfFrame.broken = false ∧ halfFrame.buffer ≠ none
    ∧ ((received none).streams[47]).isOpen = true ∧ ((received none).streams[47]).opening = none
    ∧ ((received none).streams[47]).closing = none ∧ ((received none).streams[47]).cfg.source = 0
    ∧ ((received none).streams[47]).cfg.trigger.getLsbD 0 = true ∧ ((received none).streams[47]).cfg.port = 23
    ∧ ((received none).cl[23]).state = .up ∧ 0 < ((received none).streams[47]).cfg.periodUs
    ∧ (let s := streamed 0 { isOpen := true, cfg := { source := 1, guard := { checks := 8 } }, hasBegun := true }
       s.rootRuns = true ∧ s.safe = false ∧ (s.streams[0]).cfg.source ≠ 3 ∧ (s.streams[0]).cfg.guard.checks.getLsbD 3 = true
       ∧ (s.streams[0]).hasBegun = true ∧ (s.streams[0]).lateRaised = false) := by decide +kernel

/-- The next time of a 100 µs schedule that a TRIGGER sent at time 0 can reach: its last bit leaves after 2,240 ns. -/
theorem test_trigger_delay :
    bcNs triggerBytes = 14 * 160 ∧ ({ periodUs := 100 } : StreamCfg).triggerDelay 0 = 100000 - 2240
    ∧ ({ periodUs := 100, phaseUs := 3 } : StreamCfg).triggerDelay 0 = 3000 - 2240 := by decide +kernel

/-! ### Ethernet, UART, Drift, replay -/

/-- An Ethernet frame to the port's own address: EtherType and payload; and an IPv4 datagram of `n` bytes with its header's
checksum and no UDP checksum. -/
def ether (type : Nat) (b : Bytes) : Bytes := zeros 12 ++ be 2 type ++ b
def datagram (port : Nat) (b : Bytes) : Bytes :=
  let h : Bytes := [0x45, 0, 0, BitVec.ofNat 8 (28 + b.length), 0, 0, 0, 0, 64, 17] 
  let rest : Bytes := [10, 0, 0, 1, 10, 0, 0, 2]
  let sum := ((List.range 5).map (fun i => beNat h (2 * i) 2)).sum + ((List.range 4).map (fun i => beNat rest (2 * i) 2)).sum
  h ++ be 2 (65535 - sum) ++ rest ++ be 2 9 ++ be 2 port ++ be 2 (8 + b.length) ++ [0, 0] ++ b
/-- The same with a UDP checksum that does not fit. -/
def badDatagram (port : Nat) (b : Bytes) : Bytes := let d := datagram port b; d.take 26 ++ be 2 1 ++ d.drop 28
def quiet (s : State) : State := { s with safe := true }
def wire : State := { mapped with eth := Vector.replicate 4 { up := true } }
def lidar (parts : Nat) : State := wire.setStream 47 (fun _ =>
  { isOpen := true, cfg := { source := 1, port := 3, udpPort := 2368, datagrams := 2, counterBytes := 1 }
    asm := some { halfFrame with counter := 7, parts := parts } })
def udpOf (s : State) (p : Port4) (b : Bytes) : Option Datagram :=
  if s.ethAddressed p b ∧ (etherBody b).1 = 0x0800 then parseIp (etherBody b).2 else none
/-- A UART port with or without an open stream of framing `f`, and a frame in progress of `n` bytes. -/
def serial (f n : Nat) (broken : Bool) : State := uartOn.setStream 0 (fun _ =>
  { isOpen := true, cfg := { source := 2, framing := f, uartLen := 2, counterBytes := 1, frameBytes := 256 }
    asm := some { halfFrame with bytes := zeros n, length := n, broken := broken } })
def charOf (bits : List Bool) : List Bool := bits.flatMap (List.replicate 16)
def letter : List Bool := charOf [false, true, false, true, false, true, false, true, false, true]
def wrong : List Bool := charOf [false, true, false, true, false, true, false, true, false, false]
def uartCmd (baud : Nat) : Cmd := cmd 0x0703 [(17, 1, 1), (18, 1, 8), (20, 1, 1), (24, 4, baud)]

theorem test_EthernetAndUart_met :
    wire.rootRuns = true ∧ wire.boot.macsUp = true ∧ (wire.eth[3]).up = true
    ∧ (udpOf wire 3 (ether 0x88F7 [])).isNone = true ∧ (ether 0x88F7 []).length = 14 ∧ ¬ 14 ≤ (zeros 13).length ∧ 9212 + 4 ≤ 9216
    ∧ (etherBody (ether 0x88F7 [])).1 = 0x88F7 ∧ (etherBody (ether 0x86DD [])).1 ≠ 0x88F7 ∧ (udpOf wire 3 (ether 0x86DD [])).isNone = true
    ∧ ((udpOf wire 3 (ether 0x0800 (datagram 2368 [7]))).map (fun g => (g.bad, g.port, g.payload))) = some (false, 2368, [7])
    ∧ wire.safe = false ∧ wire.udpContext 3 2368 = none ∧ (lidar 0).udpContext 3 2368 = some 47
    ∧ ((lidar 0).streams[47]).cfg.srcIp = 0 ∧ ((lidar 0).streams[47]).cfg.readCounter [7] = some 7
    ∧ ((lidar 0).streams[47]).asm = some { halfFrame with counter := 7 } ∧ 0 + 1 < ((lidar 0).streams[47]).cfg.datagrams
    ∧ ((udpOf wire 3 (ether 0x0800 (badDatagram 2368 [7]))).map (fun g => (g.bad, g.port, g.payload))) = some (true, 2368, [7])
    ∧ (let s := (lidar 0).setStream 47 (fun x => { x with cfg := { x.cfg with srcIp := 5 } })
       s.udpContext 3 2368 = some 47 ∧ (s.streams[47]).cfg.srcIp ≠ 0
       ∧ (udpOf s 3 (ether 0x0800 (datagram 2368 [7]))).map (fun g => decide (g.src = 5)) = some false)
    ∧ halted.safe = true ∧ ((udpOf (quiet wire) 3 (ether 0x0800 (datagram 2368 [7]))).isSome) = true ∧ (quiet wire).safe = true
    ∧ cold.boot.macsUp = false ∧ (live.eth[3]).up = false := by decide +kernel

theorem test_EthernetAndUart_uart_met :
    meets (serial 0 0 false) .uartConfig (uartCmd 1) (fun s => s.streams.toList.any (fun t => t.isOpen && t.cfg.source == 2
        && t.cfg.port == 0) && (uartCmd 1).arg 24 4 != (s.uart[0]).baud) = true
    ∧ meets uartOn .uartConfig (uartCmd 1) (fun s => !s.streams.toList.any (fun t => t.isOpen)) = true
    ∧ (uartOn.uart[0]).enabled = true ∧ uartOn.safe = false ∧ uartBit (charOf [true]) 0 = true ∧ uartBit letter 0 = false
    ∧ uartOn.uartContext 0 = none ∧ (serial 0 0 false).uartContext 0 = some 0
    ∧ (((serial 0 0 false).uart[0]).character letter).framing = false ∧ (((serial 0 0 false).uart[0]).character letter).parity = false
    ∧ (quiet uartOn).safe = true ∧ (live.uart[0]).enabled = false
    ∧ (((serial 0 0 false).uart[0]).character wrong).framing = true
    ∧ (let s := uartOn.setStream 0 (fun _ => { isOpen := true, cfg := { source := 2, framing := 1 }, awaitGap := true })
       s.uartContext 0 = some 0 ∧ (s.streams[0]).asm = none ∧ (s.streams[0]).awaitGap = true)
    ∧ ((serial 1 0 false).streams[0]).cfg.framing = 1 ∧ 0 + 1 ≤ ((serial 1 0 false).streams[0]).cfg.frameBytes
    ∧ ((serial 0 0 false).streams[0]).cfg.framing = 0 ∧ 0 + 1 < ((serial 0 0 false).streams[0]).cfg.uartLen
    ∧ (((serial 0 0 false).uart[0]).character letter).data = 0x55
    ∧ (let s := serial 1 0 true
       (s.streams[0]).cfg.framing ≠ 0 ∧ ((s.streams[0]).asm.map (·.broken)) = some true)
    ∧ (let s := serial 1 1 false
       (s.streams[0]).cfg.framing ≠ 0 ∧ (s.streams[0]).cfg.readCounter (zeros 1) = some 0) := by decide +kernel

/-- A port of node 0 in a line of two; its neighbour is node 1 by port 0. -/
def ring (x : DriftPort) : State := { live with drift := live.drift.set 0 { x with enabled := true, lanes := true, xDim := 2, yDim := 1 } }
def driftCmd (port node topology x y : Nat) : Cmd :=
  cmd 0x0800 [(16, 1, port), (17, 1, 1), (18, 2, node), (20, 1, topology), (21, 1, x), (22, 1, y)]
def twoPorts : State := { live with drift := (live.drift.set 1 { enabled := true, topology := 1, xDim := 3, yDim := 1 }) }
def xcCmd (on peer : Nat) : Cmd := cmd 0x0803 [(17, 1, on), (18, 2, peer)]
def digestPayload (valid digest : Nat) : Bytes := bytesOf 20 [(1, 1, valid), (4, 4, 9), (16, 4, digest)]
def held (valid : Bool) : Digest := { mine := true, ctx := 0, counter := 9, valid := valid, digest := 77 }
def matching (valid : Bool) : State := { ring { state := .up } with xc := { port := some 0, peer := 1, held := [held valid] } }

theorem test_DriftLinks_met :
    meets live .driftConfig (cmd 0x0800 []) (fun _ => (cmd 0x0800 []).arg 17 1 % 2 == 0) = true
    ∧ usesPort 0 2 = false ∧ usesPort 2 3 = true ∧ usesPort 0 1 = true ∧ dimsOk 0 2 1 = true ∧ dimsOk 0 1 1 = false
    ∧ dimsOk 1 64 1 = true ∧ neighbourOf 0 2 1 1 0 = none ∧ neighbourOf 0 2 1 0 0 = some 1 ∧ 2 * 1 ≤ 2
    ∧ meets live .driftConfig (driftCmd 0 0 0 2 1) (fun s => (List.finRange 4).all (fun q => q == 0 || !(s.drift[q.val]).enabled)
        && !(s.drift[0]).enabled) = true
    ∧ meets twoPorts .driftConfig (driftCmd 0 0 0 2 1) (fun s => (s.drift[1]).enabled && (s.drift[1]).topology != 0) = true
    ∧ meets (ring {}) .driftConfig (driftCmd 0 1 1 3 1) (fun s => (s.drift[0]).enabled && (s.drift[0]).nodeId != 1) = true
    ∧ meets live .crosscheckConfig (xcCmd 0 0) (fun s => s.xc.port != some 0) = true
    ∧ meets live .crosscheckConfig (xcCmd 1 1) (fun s => !(s.drift[0]).enabled) = true
    ∧ [0, 2].all (fun n => meets (ring {}) .crosscheckConfig (xcCmd 1 n) (fun s => n == (s.drift[0]).nodeId || decide (2 * 1 ≤ n))) = true
    ∧ meets { ring {} with xc := { port := some 3 } } .crosscheckConfig (xcCmd 1 1) (fun s => s.xc.port == some 3) = true
    ∧ meets (ring {}) .crosscheckConfig (xcCmd 1 1) (fun s => s.xc.port.isNone) = true := by decide +kernel

/-- The clauses about packets and link changes. -/
theorem test_DriftLinks_packets_met :
    ((ring {}).drift[0]).lanes = true ∧ (parseDrift (zeros 12)).isNone = true
    ∧ ((parseDrift (driftBytes 0xFFF typeLink 1 0 (zeros 8))).map (fun d => (d.type, d.lseq, d.dest))) = some (typeLink, 0, 0xFFF)
    ∧ ((parseDrift (driftBytes 0 typeDigest 1 1 (digestPayload 1 77))).map (fun d => (d.type, d.lseq, d.dest, d.src))) = some (typeDigest, 1, 0, 1)
    ∧ ((ring {}).drift[0]).state ≠ .up ∧ ((ring { state := .up }).drift[0]).state = .up
    ∧ ((parseDrift (driftBytes 2 typeDigest 1 0 (digestPayload 1 77))).map (fun d => (d.type, d.dest))) = some (typeDigest, 2)
    ∧ (let s : State := { ring { state := .up } with drift := Vector.replicate 4 { enabled := true, lanes := true, state := .up, nodeId := 1, xDim := 3, yDim := 1 } }
       (s.drift[0]).nodeId = 1 ∧ 2 ≠ 1 ∧ 2 < 3 * 1 ∧ routePort 0 3 1 1 2 = 0 ∧ routePort 0 3 1 1 0 = 1 ∧ (0 : Port4) ≠ 1
       ∧ (s.drift[1]).state = .up ∧ (s.drift[1]).txBuf.length < 64)
    ∧ (matching true).xc.port.isSome = true
    ∧ (matching true).xc.held.find? (fun h => h.mine && h.ctx == 0 && h.counter == 9) = some (held true)
    ∧ (matching false).xc.held.find? (fun h => h.mine && h.ctx == 0 && h.counter == 9) = some (held false)
    ∧ leNat (digestPayload 1 77) 1 1 % 2 = 1 ∧ leNat (digestPayload 0 77) 1 1 % 2 = 0 ∧ leNat (digestPayload 1 77) 4 4 = 9
    ∧ (held true).digest = BitVec.ofNat 32 (leNat (digestPayload 1 77) 16 4)
    ∧ (byteAt (leBytes 4 5) 3).msb = false ∧ (byteAt (leBytes 4 (2 ^ 31)) 3).msb = true
    ∧ ((ring { txBuf := [(0, [])], retryRun := 8 }).drift[0]).txBuf = (BitVec.ofNat 16 (leNat (leBytes 4 (2 ^ 31)) 0 2), []) :: []
    ∧ 8 ≤ ((ring { retryRun := 8 }).drift[0]).retryRun ∧ ((ring { retryRun := 7 }).drift[0]).retryRun < 8
    ∧ ((ring { state := .training }).drift[0]).state ≠ .up ∧ (live.drift[0]).enabled = false
    ∧ (let s : State := { live with drift := live.drift.set 0 { enabled := true } }
       (s.drift[0]).enabled = true ∧ (s.drift[0]).lanes = false)
    ∧ (matching true).xc.held.find? (fun d => d.ctx == (0 : CtxId).val && d.counter == 9) = some (held true) := by decide +kernel

/-- A decision-log record of a kind with its CHECK. -/
def logRecord (entry kind : Nat) : Bytes :=
  let b := bytesOf 28 [(0, 4, entry), (4, 1, kind), (22, 2, 128)]
  b ++ leBytes 4 (crc32c b).toNat
def armedWith (l : List Bytes) : State :=
  { live with fore := { live.fore with replay := { state := .armed, log := l, follow := 5, loaded := 32 } } }
/-- The records stand in memory at 2 MiB, in a line that carries its tag. -/
def stored (s : State) (l : List Bytes) : State :=
  let m := (s.setFn 0 (fun x => { x with maps := [window] }))
  { m with mem := (m.mem.store (memKey 0 0x200000) (l.flatten ++ zeros (256 - 32 * l.length))).1 }
def armCmd (action n : Nat) : Cmd := cmd 0x0801 [(16, 8, 0x200000), (24, 8, n), (32, 1, action)]
def feedable (x : Stream) : State :=
  (stored (armedWith []) []).setStream 47 (fun _ => { x with isOpen := true, bufOrder := x.bufOrder, cfg :=
    { source := 3, format := 0x80, frameBytes := 256, ringCount := 2, ringVa := 0x300000, counterBytes := 1, guard := { checks := 0 } } })
def feedCmd (stamp : Nat) : Cmd := cmd 0x0802 [(16, 1, 47), (24, 8, 0x200000), (32, 4, 256), (36, 8, stamp)]
def reads (s : State) (n : Nat) (l : List Bytes) : Bool :=
  let r := s.readVa 0 0x200000 n []
  r.2.isNone && splitRecords r.1 == l
def waitingRun : Run := { idleRun (.job 9) with admitted := true, cleared := false }

set_option maxRecDepth 20000 in
theorem test_ReplayMode_met :
    meets live .replayArm (armCmd 0 0) (fun s => s.fore.replay.state != .armed) = true
    ∧ meets (armedWith []) .replayArm (armCmd 0 0) (fun s => s.fore.replay.state == .armed && s.fore.runs.isEmpty) = true
    ∧ meets live .replayArm (armCmd 1 32) (fun s => !(s.fn 0).spans 0x200000 32 .rd true) = true
    ∧ meets (stored live []) .replayArm (armCmd 1 32) (fun s => (s.fn 0).spans 0x200000 32 .rd true && reads s 32 [zeros 32]
        && !recordsOk (recordEntry (zeros 32)) [zeros 32]) = true
    ∧ meets (stored live [logRecord 0 2]) .replayArm (armCmd 1 32) (fun s => reads s 32 [logRecord 0 2]
        && recordsOk 0 [logRecord 0 2] && leNat (logRecord 0 2) 4 1 != 1) = true
    ∧ meets (stored (streamed 47 { isOpen := true, cfg := { source := 2 }, bound := some aBinding }) [logRecord 0 1]) .replayArm (armCmd 1 32)
        (fun s => reads s 32 [logRecord 0 1] && (s.streams[47]).bound.isSome) = true
    ∧ meets (stored live [logRecord 0 1]) .replayArm (armCmd 1 32) (fun s => reads s 32 [logRecord 0 1]
        && recordsOk 0 [logRecord 0 1] && s.fore.replay.state == .off && s.fore.taken.all (fun d => d.id == 1)) = true
    ∧ meets (stored (armedWith []) [logRecord 6 1]) .replayArm (armCmd 1 32) (fun s => reads s 32 [logRecord 6 1]
        && recordEntry (logRecord 6 1) != s.fore.replay.follow) = true
    ∧ (let s := stored (armedWith []) [logRecord 5 1]
       let full : State := { s with fore := { s.fore with replay := { s.fore.replay with loaded := replaySpace - 31 } } }
       meets s .replayArm (armCmd 1 32) (fun s => reads s 32 [logRecord 5 1] && recordEntry (logRecord 5 1) == s.fore.replay.follow
         && decide (s.fore.replay.loaded + 32 ≤ replaySpace)) = true
       ∧ meets full .replayArm (armCmd 1 32) (fun s => decide (replaySpace < s.fore.replay.loaded + 32)) = true)
    ∧ meets live .replayArm (armCmd 2 4096) (fun s => !(s.fn 0).oneMapping 0x200000 4096 false true) = true
    ∧ meets (stored (armedWith []) []) .replayArm (armCmd 2 4096) (fun s => (s.fn 0).oneMapping 0x200000 4096 false true
        && s.fore.replay.state == .armed) = true
    ∧ meets (stored live []) .replayArm (armCmd 2 4096) (fun s => (s.fn 0).oneMapping 0x200000 4096 false true
        && s.fore.replay.state != .armed) = true
    ∧ meets live .replayFeed (feedCmd 9) (fun s => s.fore.replay.state != .armed) = true
    ∧ meets (armedWith []) .replayFeed (feedCmd 9) (fun s => !(s.streams[47]).isOpen) = true
    ∧ meets ((feedable {}).setFn 0 (fun x => { x with maps := [] })) .replayFeed (feedCmd 9) (fun s =>
        !(s.fn 0).spans 0x200000 256 .rd true) = true
    ∧ meets (feedable { lastFed := some 9 }) .replayFeed (feedCmd 9) (fun s => (s.streams[47]).lastFed == some 9) = true
    ∧ [[], [1]].all (fun l => meets (feedable { lastFed := some 8, bufOrder := l }) .replayFeed (feedCmd 9) (fun s =>
        reads s 256 (List.replicate 8 (zeros 32)) && !s.safe && (s.streams[47]).bound.isNone
        && (s.streams[47]).nextCfg.isNone && (s.streams[47]).cfg.readCounter (zeros 256) == some 0
        && s.freeBuffer 47 == l.head? && !(s.streams[47]).cfg.lengthBad 256)) = true
    ∧ (armedWith []).rootRuns = true ∧ (armedWith []).safe = false
    ∧ leNat (logRecord 5 1) 4 1 = 1 ∧ leNat (logRecord 5 2) 4 1 = 2 ∧ leNat (logRecord 5 6) 4 1 = 6
    ∧ leNat (logRecord 5 6) 20 1 = (0 : CtxId).val ∧ leNat (logRecord 5 6) 22 2 = 128 ∧ leNat (logRecord 5 3) 4 1 = 3
    ∧ (armedWith [logRecord 5 5]).fore.replay.log = [logRecord 5 5] ∧ (armedWith [logRecord 5 3]).fore.runs = []
    ∧ (let s := armedWith [logRecord 5 5]
       ({ s with fore := { s.fore with runs := [waitingRun] } } : State).namedRun (logRecord 5 5) true = some waitingRun)
    ∧ live.fore.replay.state ≠ .armed ∧ (armedWith []).fore.runs = [] := by decide +kernel

/-- An armed replay with runs, whose first record stands since 2 s. -/
def replaying (l : List Bytes) (r : List Run) : State :=
  let s := armedWith l
  { s with clk := { s.clk with time := 2000000000 }, fore := { s.fore with runs := r } }

set_option maxRecDepth 20000 in
theorem test_ReplayMode_more_met :
    meets { stored live [logRecord 0 1] with fore := { live.fore with replay := { state := .collecting } } } .replayArm (armCmd 1 32)
      (fun s => s.fore.replay.state == .collecting && reads s 32 [logRecord 0 1] && s.mem.upsets.isEmpty) = true
    ∧ (let s := given (stored live [logRecord 0 1]) (armCmd 1 32)
       let job : Cmd := { cmd 0x0302 [] with id := 2 }
       let t : State := { s with fore := { s.fore with taken := [armCmd 1 32, job] } }
       t.cmd 1 = some (armCmd 1 32) ∧ reads t 32 [logRecord 0 1] = true ∧ job.live = true ∧ job.op = some .jobSubmit)
    ∧ (feedable {}).mem.upsets = [] ∧ ((feedable {}).streams[47]).cfg.guard.checks = 0 ∧ ((feedable {}).streams[47]).cfg.port = 0
    ∧ ((feedable {}).streams[47]).bound = none ∧ ((feedable {}).streams[47]).closing = none
    ∧ (let r : Run := { waitingRun with admitted := false }
       (replaying [logRecord 5 3] [r]).namedRun (logRecord 5 3) false = some r ∧ r.cls ≠ 2)
    ∧ (armedWith [logRecord 5 7]).fore.replay.stoppedBy (logRecord 5 7) = none
    ∧ (let x : Replay := { (armedWith [logRecord 5 7]).fore.replay with stopped := [(0, 0)] }
       (x.stoppedBy (logRecord 5 7)).isSome = true) ∧ leNat (logRecord 5 7) 4 1 = 7
    ∧ (armedWith [logRecord 5 3]).replayBreaks = false
    ∧ (replaying [logRecord 5 3] [waitingRun]).replayBreaks = true ∧ (replaying [logRecord 5 3] [waitingRun]).rootRuns = true
    ∧ waitingRun.admitted = true := by decide +kernel

theorem test_Rounding_met :
    perChannel 0 (lidarHead .halfEven).lo 0 ≤ perChannel 0 (lidarHead .halfEven).hi 0 ∧ 2 * |(3 : Int) - 1 * 2| = 2 := by decide +kernel

end Sys2Proof.Tests
end

/-!
The count of device time (R53, R55): the limit on its rate correction, and what one ICLK cycle adds to it.
-/

namespace Sys2Proof.Machine

/-- The limit of R55 on the correction of INCREMENT. -/
theorem natAbs_clampCorr_le (r : Int) : (clampCorr r).natAbs ≤ Config.maxCorrection := by
  unfold clampCorr
  omega

/-- The limit is the ±500 ppm of R55, in whole units of 2^-32 ns. -/
theorem maxCorrection_le_500ppm : 1000000 * Config.maxCorrection ≤ 500 * Config.increment := by decide

/-- The clamped correction never takes more than the nominal INCREMENT away, so `Int.toNat` cuts nothing off. -/
theorem Clocks.coe_increment (c : Clocks) :
    (c.increment : Int) = Config.increment + clampCorr c.rate := by
  have hlimit := natAbs_clampCorr_le c.rate
  have hnominal : Config.maxCorrection ≤ Config.increment := by decide
  unfold Clocks.increment
  omega

/-- INCREMENT stays above 2.49 ns under every correction (R55). -/
theorem Clocks.increment_gt (c : Clocks) : 249 * 2 ^ 32 < 100 * c.increment := by
  have hlimit := natAbs_clampCorr_le c.rate
  have hincr := c.coe_increment
  have hnominal : 249 * 2 ^ 32 < 100 * (Config.increment - Config.maxCorrection) := by decide
  omega

/-- The count is 64 bits of nanoseconds and 32 bits of fraction (R53): one ICLK cycle adds INCREMENT modulo 2^96. -/
theorem Clocks.cycle_total (c : Clocks) : c.cycle.total = (c.total + c.increment) % 2 ^ 96 := by
  have hcount : c.cycle.total =
      (c.total + c.increment) / 2 ^ 32 % 2 ^ 64 * 2 ^ 32 + (c.total + c.increment) % 2 ^ 32 % 2 ^ 32 := by
    rw [Clocks.total, Clocks.cycle, BitVec.toNat_ofNat, BitVec.toNat_ofNat]
  omega

/-- Settles O7: the correction is clamped to the limit of R55, which leaves INCREMENT positive, and a cycle adds
INCREMENT to the count. -/
theorem deviceTimeIsStrictlyIncreasing : Obligations.DeviceTimeIsStrictlyIncreasing := by
  unfold Obligations.DeviceTimeIsStrictlyIncreasing
  intro c
  refine ⟨⟨clampCorr c.rate, c.coe_increment, ?_⟩, c.increment_gt, fun hwrap => ?_⟩
  · calc 1000000 * (clampCorr c.rate).natAbs
        ≤ 1000000 * Config.maxCorrection := Nat.mul_le_mul_left _ (natAbs_clampCorr_le c.rate)
      _ ≤ 500 * Config.increment := maxCorrection_le_500ppm
  · have hadd : c.cycle.total = c.total + c.increment := by
      rw [c.cycle_total, Nat.mod_eq_of_lt hwrap]
    have hpos := c.increment_gt
    exact ⟨by omega, hadd⟩

end Sys2Proof.Machine

/-!
Rings and BAR0 of a function (R104, R107 to R110, R114): what a doorbell, a ring's control register, FN_EVENT and an
MSI-X vector's mask bit do when they are written, case by case.
-/

namespace Sys2Proof.Machine

/-! ### Reading a ring -/

section Rings

variable (s : State) (f : FnId) (n : RingId)

@[simp] theorem State.setSq_sq (g : SubRing → SubRing) : (s.setSq f n g).sq f n = g (s.sq f n) := by
  simp [State.setSq, State.sq]

@[simp] theorem State.setCq_cq (g : CompRing → CompRing) : (s.setCq f n g).cq f n = g (s.cq f n) := by
  simp [State.setCq, State.cq]

/-- An FN_ERROR bit leaves the function's rings; the bit and the ring's number are recorded (R107). -/
theorem State.setError_rings (bit : BitVec 4) (ring : Nat) :
    (s.setError f bit ring).sq f n = s.sq f n ∧ (s.setError f bit ring).cq f n = s.cq f n
    ∧ ((s.setError f bit ring).fn f).error = (s.fn f).error ||| bit
    ∧ ((s.setError f bit ring).fn f).errorRing = BitVec.ofNat 5 ring := by
  obtain ⟨hsqs, hcqs, herror, hring⟩ := State.setError_fns s f bit ring
  exact ⟨by rw [State.sq, hsqs, State.sq], by rw [State.cq, hcqs, State.cq], herror, hring⟩

/-- Nothing is taken from a submission ring that is not enabled (R109). -/
theorem State.nextTake_ne_of_disabled (h : (s.sq f n).enable = false) : s.nextTake ≠ some (f, n) := fun htake => by
  simp [State.nextTake_enabled s f n htake] at h

end Rings

/-! ### Doorbells and control registers -/

section Doorbells

variable {s : State} {f : FnId} {n : RingId}

/-- A tail doorbell of an enabled ring: recorded below the depth, BAD_TAIL elsewhere (R110). -/
theorem State.tailDoorbell_eq (hrun : (s.fn f).resetting = false) (hen : (s.sq f n).enable = true) (v : Nat) :
    s.tailDoorbell f n v = if v % 4096 < 2 ^ (s.sq f n).log2.toNat
      then s.setSq f n (fun q => { q with tail := BitVec.ofNat 12 v }) else s.setError f errBadTail n.val := by
  simp [State.tailDoorbell, hrun, hen]

/-- A head doorbell of an enabled ring: recorded below the depth, BAD_HEAD elsewhere (R110). -/
theorem State.headDoorbell_eq (hrun : (s.fn f).resetting = false) (hen : (s.cq f n).enable = true) (v : Nat) :
    s.headDoorbell f n v = if v % 4096 < 2 ^ (s.cq f n).log2.toNat
      then s.setCq f n (fun q => { q with head := BitVec.ofNat 12 v }) else s.setError f errBadHead (16 + n.val) := by
  simp [State.headDoorbell, hrun, hen]

/-- The submission ring after an accepted control write: HEAD and TAIL start at 0 where ENABLE rises (R109). -/
theorem State.sqControl_sq {v : BitVec 32} (hok : s.sqRefused f n v = false) :
    (s.sqControl f n v).sq f n = { s.sq f n with
      enable := v.getLsbD 31, cq := v.extractLsb' 16 4, log2 := v.extractLsb' 0 4
      head := if v.getLsbD 31 && !(s.sq f n).enable then 0 else (s.sq f n).head
      tail := if v.getLsbD 31 && !(s.sq f n).enable then 0 else (s.sq f n).tail } := by
  simp [State.sqControl, hok]

/-- The completion ring after an accepted control write (R109, R133). -/
theorem State.cqControl_cq {v : BitVec 32} (hok : s.cqRefused f n v = false) :
    (s.cqControl f n v).cq f n = { s.cq f n with
      enable := v.getLsbD 31, vector := v.extractLsb' 16 5, log2 := v.extractLsb' 0 4
      head := if v.getLsbD 31 && !(s.cq f n).enable then 0 else (s.cq f n).head
      tail := if v.getLsbD 31 && !(s.cq f n).enable then 0 else (s.cq f n).tail
      phase := if v.getLsbD 31 && !(s.cq f n).enable then true else (s.cq f n).phase
      unsignalled := if v.getLsbD 31 && !(s.cq f n).enable then 0 else (s.cq f n).unsignalled } := by
  simp [State.cqControl, hok]

/-- A control write takes back no command. -/
theorem State.sqControl_fore (v : BitVec 32) : (s.sqControl f n v).fore = s.fore := by
  obtain ⟨-, -, ⟨fns, sent, heq⟩, -⟩ := State.ring_frames s f n v false
  rw [heq]

end Doorbells

/-! ### The rows of the host's writes to rings -/

section Rows

variable {s : State} {f : FnId}

theorem exec_sqTailDb (h : s.reaches f = true) (n : RingId) (v : BitVec 32) :
    exec (.sqTailDb f n v) s = .next (s.tailDoorbell f n v.toNat) := by
  simp only [exec, execSqTailDb, State.when_pos h]

theorem exec_cqHeadDb (h : s.reaches f = true) (n : RingId) (v : BitVec 32) :
    exec (.cqHeadDb f n v) s = .next (s.headDoorbell f n v.toNat) := by
  simp only [exec, execCqHeadDb, State.when_pos h]

theorem exec_sqRingControlWrite (h : s.reaches f = true) (n : RingId) (v : BitVec 32) :
    exec (.sqRingControlWrite f n v) s = .next (s.sqControl f n v) := by
  simp only [exec, execSqRingControlWrite, State.when_pos h]

theorem exec_cqRingControlWrite (h : s.reaches f = true) (n : RingId) (v : BitVec 32) :
    exec (.cqRingControlWrite f n v) s = .next (s.cqControl f n v) := by
  simp only [exec, execCqRingControlWrite, State.when_pos h]

end Rows

/-- Settles O17: each write acts by its ring's equation, and a ring without ENABLE is not taken from. -/
theorem doorbellsAndRings : Obligations.DoorbellsAndRings := by
  unfold Obligations.DoorbellsAndRings
  intro s f n v hreach
  refine ⟨fun hrun hen => ⟨_, exec_sqTailDb hreach n v, fun hbelow => ?_, fun hbad => ?_⟩,
    fun hrun hen => ⟨_, exec_cqHeadDb hreach n v, fun hbelow => ?_, fun hbad => ?_⟩,
    ⟨_, exec_sqRingControlWrite hreach n v, fun href => ?_, fun hok => ?_⟩,
    ⟨_, exec_cqRingControlWrite hreach n v, fun href => ?_, fun hok => ?_⟩⟩
  · rw [State.tailDoorbell_eq hrun hen, if_pos hbelow]
  · rw [State.tailDoorbell_eq hrun hen, if_neg (Nat.not_lt.mpr hbad)]
    obtain ⟨hsq, -, herror, hring⟩ := s.setError_rings f n errBadTail n.val
    exact ⟨hsq, herror, hring⟩
  · rw [State.headDoorbell_eq hrun hen, if_pos hbelow]
  · rw [State.headDoorbell_eq hrun hen, if_neg (Nat.not_lt.mpr hbad)]
    obtain ⟨-, hcq, herror, hring⟩ := s.setError_rings f n errBadHead (16 + n.val)
    exact ⟨hcq, herror, hring⟩
  · rw [State.sqControl, if_pos href]
    obtain ⟨hsq, -, herror, -⟩ := s.setError_rings f n errRingConfig n.val
    exact ⟨hsq, herror⟩
  · have hring := State.sqControl_sq hok
    refine ⟨by rw [hring], by rw [hring], by rw [hring], by rw [hring], fun hset hoff => by simp [hring, hset, hoff],
      fun hclear => ?_, by rw [State.sqControl_fore]⟩
    exact State.nextTake_ne_of_disabled _ f n (by rw [hring, hclear])
  · rw [State.cqControl, if_pos href]
    obtain ⟨-, hcq, herror, -⟩ := s.setError_rings f n errRingConfig (16 + n.val)
    exact ⟨hcq, herror⟩
  · have hring := State.cqControl_cq hok
    exact ⟨by rw [hring], by rw [hring], by rw [hring], by rw [hring], fun hset hoff => by simp [hring, hset, hoff]⟩

end Sys2Proof.Machine

/-!
Interrupts and register writes of a function's BAR0 (R104, R107, R114): when a vector is signalled, what unmasking it
and setting bits of FN_EVENT do, and the 32-bit writes that a BAR0 access is made of.
-/

namespace Sys2Proof.Machine

/-! ### Signalling a vector -/

section Signals

variable {s : State} {f : FnId} {v : Fin 32}

@[simp] theorem State.send_fn (s : State) (x : Sent) (f : FnId) : (s.send x).fn f = s.fn f := rfl

theorem State.setFn_setFn (s : State) (f : FnId) (g h : Fn → Fn) :
    (s.setFn f g).setFn f h = s.setFn f (fun x => h (g x)) := by
  simp [State.setFn]

/-- Without MSI-X, and while the function is resetting, a signal is lost (R114, R119). -/
theorem State.signal_lost (h : (s.fn f).msixEnable = false ∨ (s.fn f).resetting = true) : s.signal f v = s := by
  rcases h with h | h <;> simp [State.signal, h]

theorem State.signal_unmasked (hen : (s.fn f).msixEnable = true) (hrun : (s.fn f).resetting = false)
    (hfn : (s.fn f).msixMask = false) (hvec : ((s.fn f).msix[v.val]).masked = false) :
    s.signal f v = s.send (.msix f v.val) := by
  simp [State.signal, hen, hrun, hfn, hvec]

/-- A masked vector, or one of a masked function, is kept pending (R114). -/
theorem State.signal_masked (hen : (s.fn f).msixEnable = true) (hrun : (s.fn f).resetting = false)
    (hmask : (s.fn f).msixMask = true ∨ ((s.fn f).msix[v.val]).masked = true) :
    s.signal f v = s.setFn f (fun x => { x with msix := x.msix.set v.val { x.msix[v.val] with pba := true } }) := by
  rcases hmask with h | h <;> simp [State.signal, hen, hrun, h]

end Signals

/-! ### Unmasking a vector -/

section Unmasking

variable {s : State} {f : FnId} {v : Fin 32}

/-- A pending vector is cleared and signalled (R114). -/
theorem State.msixMask_pending (hpba : ((s.fn f).msix[v.val]).pba = true) (hfn : (s.fn f).msixMask = false)
    (hrun : (s.fn f).resetting = false) :
    s.msixMask f v false = (s.setFn f (fun x => { x with
      msix := x.msix.set v.val { (s.fn f).msix[v.val] with masked := false, pba := false } })).signal f v := by
  simp [State.msixMask, hpba, hfn, hrun, State.setFn_setFn]

/-- Without a PBA bit, under Function Mask and while the function is resetting, only the mask bit changes (R114). -/
theorem State.msixMask_quiet (h : ((s.fn f).msix[v.val]).pba = false ∨ (s.fn f).msixMask = true
      ∨ (s.fn f).resetting = true) :
    s.msixMask f v false = s.setFn f (fun x => { x with
      msix := x.msix.set v.val { (s.fn f).msix[v.val] with masked := false } }) := by
  rcases h with h | h | h <;> simp [State.msixMask, h]

/-- The pending vector after it was unmasked, and the message that it sends. -/
theorem State.msixMask_pending_effect (hpba : ((s.fn f).msix[v.val]).pba = true) (hfn : (s.fn f).msixMask = false)
    (hrun : (s.fn f).resetting = false) :
    ((s.msixMask f v false).fn f).msix[v.val] = { (s.fn f).msix[v.val] with masked := false, pba := false }
    ∧ ((s.fn f).msixEnable = true → (s.msixMask f v false).sent = .msix f v.val :: s.sent) := by
  rw [State.msixMask_pending hpba hfn hrun]
  cases hen : (s.fn f).msixEnable with
  | false =>
    rw [State.signal_lost (.inl (by simpa using hen))]
    simp
  | true =>
    rw [State.signal_unmasked (by simpa using hen) (by simpa using hrun) (by simpa using hfn) (by simp)]
    exact ⟨by simp, fun _ => rfl⟩

/-- The vector that is not signalled keeps its PBA bit, and nothing is sent. -/
theorem State.msixMask_quiet_effect (h : ((s.fn f).msix[v.val]).pba = false ∨ (s.fn f).msixMask = true
      ∨ (s.fn f).resetting = true) :
    ((s.msixMask f v false).fn f).msix[v.val] = { (s.fn f).msix[v.val] with masked := false }
    ∧ (s.msixMask f v false).sent = s.sent := by
  rw [State.msixMask_quiet h]
  simp

end Unmasking

/-! ### FN_EVENT -/

section Events

variable {s : State} {f : FnId} {bits : BitVec 7}

theorem State.setEvent_event (s : State) (f : FnId) (bits : BitVec 7) :
    ((s.setEvent f bits).fn f).event = (s.fn f).event ||| bits := by
  refine BitVec.eq_of_getLsbD_eq fun k _ => ?_
  simp [State.setEvent_bit]

theorem State.setEvent_of_no_rise (h : bits &&& ~~~(s.fn f).event &&& ~~~(s.fn f).mask = 0) :
    s.setEvent f bits = s.setFn f (fun x => { x with event := x.event ||| bits }) := by
  simp only [State.setEvent, State.setFn_fn]
  rw [if_pos h]

theorem State.setEvent_of_rise (h : bits &&& ~~~(s.fn f).event &&& ~~~(s.fn f).mask ≠ 0) :
    s.setEvent f bits = (s.setFn f (fun x => { x with event := x.event ||| bits })).signal f 0 := by
  simp only [State.setEvent, State.setFn_fn]
  rw [if_neg h]

/-- While the function is resetting its events are recorded and signal nothing (R119). -/
theorem State.setEvent_of_resetting (h : (s.fn f).resetting = true) : (s.setEvent f bits).sent = s.sent := by
  by_cases hrise : bits &&& ~~~(s.fn f).event &&& ~~~(s.fn f).mask = 0
  · rw [State.setEvent_of_no_rise hrise, State.setFn_sent]
  · rw [State.setEvent_of_rise hrise, State.signal_lost (.inr (by simpa using h)), State.setFn_sent]

theorem State.setEvent_unmasked (hrise : bits &&& ~~~(s.fn f).event &&& ~~~(s.fn f).mask ≠ 0)
    (hen : (s.fn f).msixEnable = true) (hrun : (s.fn f).resetting = false) (hfn : (s.fn f).msixMask = false)
    (hvec : ((s.fn f).msix[0]).masked = false) : (s.setEvent f bits).sent = .msix f 0 :: s.sent := by
  rw [State.setEvent_of_rise hrise, State.signal_unmasked (by simpa using hen) (by simpa using hrun)
    (by simpa using hfn) (by simpa using hvec)]
  rfl

theorem State.setEvent_masked (hrise : bits &&& ~~~(s.fn f).event &&& ~~~(s.fn f).mask ≠ 0)
    (hen : (s.fn f).msixEnable = true) (hrun : (s.fn f).resetting = false)
    (hmask : (s.fn f).msixMask = true ∨ ((s.fn f).msix[0]).masked = true) :
    (((s.setEvent f bits).fn f).msix[0]).pba = true ∧ (s.setEvent f bits).sent = s.sent := by
  rw [State.setEvent_of_rise hrise, State.signal_masked (by simpa using hen) (by simpa using hrun)
    (by simpa using hmask)]
  simp

end Events

/-! ### Writes to BAR0 -/

section Writes

variable {s : State} {f : FnId}

theorem exec_msixVectorUnmask (h : s.reaches f = true) (v : Fin 32) :
    exec (.msixVectorUnmask f v) s = .next (s.msixMask f v false) := by
  simp only [exec, execMsixVectorUnmask, State.when_pos h]

theorem exec_registerWrite (s : State) (f : FnId) (o n : Nat) (v : BitVec 64) :
    exec (.registerWrite f o n v) s = execRegisterWrite f o n v s := rfl

/-- An aligned 32-bit write acts on the register at its offset. -/
theorem exec_registerWrite_word (h : s.reaches f = true) {o : Nat} (ho : o % 4 = 0) (v : BitVec 64) :
    exec (.registerWrite f o 4 v) s = .next (s.barWrite f o (v.setWidth 32)) := by
  rw [exec_registerWrite, execRegisterWrite, if_pos rfl, State.when_pos (by simp [h, ho])]

/-- A misaligned 32-bit write is ignored (R104). -/
theorem exec_registerWrite_word_misaligned {o : Nat} (ho : o % 4 ≠ 0) (v : BitVec 64) :
    exec (.registerWrite f o 4 v) s = .next s := by
  rw [exec_registerWrite, execRegisterWrite, if_pos rfl, State.when_neg (by simp [ho])]

/-- An aligned 64-bit write is two 32-bit writes, the lower address first (R104). -/
theorem exec_registerWrite_pair (h : s.reaches f = true) {o : Nat} (ho : o % 8 = 0) (v : BitVec 64) :
    exec (.registerWrite f o 8 v) s
      = .next ((s.barWrite f o (v.setWidth 32)).barWrite f (o + 4) (v.extractLsb' 32 32)) := by
  rw [exec_registerWrite, execRegisterWrite, if_neg (by decide), if_pos rfl, State.when_pos (by simp [h, ho])]

/-- A misaligned 64-bit write and a write of another size are ignored (R104). -/
theorem exec_registerWrite_ignored {o n : Nat} (h : (n = 8 ∧ o % 8 ≠ 0) ∨ (n ≠ 4 ∧ n ≠ 8)) (v : BitVec 64) :
    exec (.registerWrite f o n v) s = .next s := by
  rw [exec_registerWrite, execRegisterWrite]
  rcases h with ⟨rfl, ho⟩ | ⟨h4, h8⟩
  · rw [if_neg (by decide), if_pos rfl, State.when_neg (by simp [ho])]
  · rw [if_neg h4, if_neg h8]

/-- No write to BAR0 takes the function out of the host's reach. -/
theorem State.barWrite_reaches (s : State) (f : FnId) (o : Nat) (v : BitVec 32) :
    (s.barWrite f o v).reaches f = s.reaches f :=
  (s.barWrite_frame f o v).reaches f

/-- FN_ERROR, offset 0x000C (R107). -/
theorem State.barWrite_error (s : State) (f : FnId) (v : BitVec 32) :
    s.barWrite f 0x000C v = s.setFn f (fun x => { x with error := x.error &&& ~~~(v.setWidth 4) }) := by
  simp [State.barWrite]

/-- FN_EVENT, offset 0x0010 (R107). -/
theorem State.barWrite_event (s : State) (f : FnId) (v : BitVec 32) :
    s.barWrite f 0x0010 v = s.setFn f (fun x => { x with event := x.event &&& ~~~(v.setWidth 7) }) := by
  simp [State.barWrite]

/-- FN_EVENT_MASK, offset 0x0014 (R107). -/
theorem State.barWrite_mask (s : State) (f : FnId) (v : BitVec 32) :
    s.barWrite f 0x0014 v = s.setFn f (fun x => { x with mask := v.setWidth 7 }) := by
  simp [State.barWrite]

end Writes

/-- Settles O18: the three registers' writes, the accesses of each size, unmasking a vector, the mask at reset and the
rise of FN_EVENT bits, each by the lemma about it. -/
theorem registerWrites : Obligations.RegisterWrites := by
  unfold Obligations.RegisterWrites
  refine ⟨fun s f v hreach => ⟨?_, ?_, ?_⟩, fun s f o v _ ho => exec_registerWrite_word_misaligned ho v,
    fun s f o n v h => exec_registerWrite_ignored h v, fun s f o v hreach ho => ?_, fun s f v hreach => ?_,
    fun f => by simp [State.reset, State.fn], fun s f bits => ?_⟩
  · rw [exec_registerWrite_word hreach rfl, State.barWrite_error, BitVec.setWidth_setWidth_of_le v (by decide)]
  · rw [exec_registerWrite_word hreach rfl, State.barWrite_event, BitVec.setWidth_setWidth_of_le v (by decide)]
  · rw [exec_registerWrite_word hreach rfl, State.barWrite_mask, BitVec.setWidth_setWidth_of_le v (by decide)]
  · have hlow := (s.barWrite_reaches f o (v.setWidth 32)).trans hreach
    refine ⟨_, exec_registerWrite_word hreach (by omega) v, hlow, ?_⟩
    rw [exec_registerWrite_pair hreach ho, exec_registerWrite_word hlow (by omega),
      BitVec.setWidth_ushiftRight_eq_extractLsb]
  · refine ⟨_, exec_msixVectorUnmask hreach v, ?_, fun hpba hfn hrun => ?_, fun hquiet => ?_, fun hpba => ?_⟩
    · by_cases hsignal : ((s.fn f).msix[v.val]).pba = true ∧ (s.fn f).msixMask = false ∧ (s.fn f).resetting = false
      · obtain ⟨hpba, hfn, hrun⟩ := hsignal
        rw [(State.msixMask_pending_effect hpba hfn hrun).1]
      · rw [(State.msixMask_quiet_effect (by simpa [or_iff_not_imp_left] using hsignal)).1]
    · obtain ⟨hvec, hsent⟩ := State.msixMask_pending_effect hpba hfn hrun
      exact ⟨by rw [hvec], hsent⟩
    · obtain ⟨hvec, hsent⟩ := State.msixMask_quiet_effect (v := v) (.inr hquiet)
      exact ⟨by rw [hvec], hsent⟩
    · obtain ⟨hvec, hsent⟩ := State.msixMask_quiet_effect (.inl hpba)
      exact ⟨by rw [hvec, hpba], hsent⟩
  · intro rises
    refine ⟨s.setEvent_event f bits, fun hnone => by rw [State.setEvent_of_no_rise hnone, State.setFn_sent],
      State.setEvent_of_resetting, fun hrise hen hrun => ⟨State.setEvent_unmasked hrise hen hrun,
        State.setEvent_masked hrise hen hrun⟩⟩

end Sys2Proof.Machine

/-!
The interleave of memory (R220, R221) and the slices of the yard (R224): each hash turns the lines of a group by an
amount that the offset alone decides, so the offset tells how to undo it, and each hash has an inverse.
-/

namespace Sys2Proof.Machine

/-! ### The interleave -/

/-- The six 5-bit fields of R221's `h`, written out. -/
theorem xor5_six (g : Nat) :
    xor5 6 g = g % 32 ^^^ (g / 32 % 32 ^^^ (g / 32 ^ 2 % 32 ^^^ (g / 32 ^ 3 % 32 ^^^ (g / 32 ^ 4 % 32 ^^^ g / 32 ^ 5 % 32)))) := by
  simp [xor5, Nat.div_div_eq_div_mul]

theorem chanOf_lt (a : Nat) : chanOf a < 24 := Nat.mod_lt _ (by decide)

/-- The channel in terms of the channel offset: a group's lines are turned by the hash of its number, which the offset
holds. -/
theorem chanOf_eq (a : Nat) : chanOf a = (a / 256 % 24 + xor5 6 (coffOf a / 256) % 24) % 24 := by
  have hgroup : coffOf a / 256 = a / 256 / 24 := by unfold coffOf; omega
  rw [hgroup, chanOf]

/-- The address that R221 sends to channel `c` at channel offset `o`: the turn of the group `o / 256` undone. -/
def addressAt (c o : Nat) : Nat :=
  256 * (24 * (o / 256) + (c + 24 - xor5 6 (o / 256) % 24) % 24) + o % 256

@[simp] theorem coffOf_addressAt (c o : Nat) : coffOf (addressAt c o) = o := by
  unfold coffOf addressAt; omega

theorem chanOf_addressAt {c : Nat} (o : Nat) (hc : c < 24) : chanOf (addressAt c o) = c := by
  rw [chanOf_eq, coffOf_addressAt, addressAt]
  omega

theorem addressAt_chanOf_coffOf (a : Nat) : addressAt (chanOf a) (coffOf a) = a := by
  rw [addressAt, chanOf_eq]
  generalize xor5 6 (coffOf a / 256) = h
  unfold coffOf
  omega

/-- The first `n` lines of all the channels are the first `24 * n` lines of memory. -/
theorem coffOf_lt_iff (n a : Nat) : coffOf a < 256 * n ↔ a < 24 * (256 * n) := by
  unfold coffOf; omega

/-- Every channel gets a line of every group of 24, at the channel offset of the group's number. -/
theorem exists_line_of_group {c : Nat} (g : Nat) (hc : c < 24) :
    ∃ i < 24, chanOf (256 * (24 * g + i)) = c ∧ coffOf (256 * (24 * g + i)) = 256 * g := by
  have hline : 256 * (24 * g + (c + 24 - xor5 6 g % 24) % 24) = addressAt c (256 * g) := by simp [addressAt]
  refine ⟨(c + 24 - xor5 6 g % 24) % 24, Nat.mod_lt _ (by decide), ?_, ?_⟩
  · rw [hline, chanOf_addressAt _ hc]
  · rw [hline, coffOf_addressAt]

/-! ### The yard -/

/-- What R224 XORs into the low bits of a yard line: fields of the number of the line's group of 4. -/
def yardTurn (q : Nat) : Nat := q / 64 % 4 ^^^ q / 16384 % 4

theorem yardSlice_eq (yo : Nat) : yardSlice yo = yo / 256 % 4 ^^^ yardTurn (yardOffset yo / 256) := by
  have hgroup : yardOffset yo / 256 = yo / 256 / 4 := by unfold yardOffset; omega
  simp only [hgroup, yardTurn, yardSlice, Nat.div_div_eq_div_mul, Nat.xor_assoc]

theorem yardSlice_lt (yo : Nat) : yardSlice yo < 4 :=
  Nat.xor_lt_two_pow (n := 2) (Nat.xor_lt_two_pow (Nat.mod_lt _ (by decide)) (Nat.mod_lt _ (by decide)))
    (Nat.mod_lt _ (by decide))

/-- The yard offset that R224 sends to offset `o` of slice `s`. -/
def yardAt (s o : Nat) : Nat := 256 * (4 * (o / 256) + (s ^^^ yardTurn (o / 256))) + o % 256

theorem yardAt_yardSlice_yardOffset (yo : Nat) : yardAt (yardSlice yo) (yardOffset yo) = yo := by
  rw [yardAt, yardSlice_eq, Nat.xor_xor_cancel_right]
  unfold yardOffset
  omega

/-- Settles O33: the hashes are the spec's formulas, and `addressAt` and `yardAt` undo them. -/
theorem interleaveIsABijection : Obligations.InterleaveIsABijection := by
  unfold Obligations.InterleaveIsABijection
  refine ⟨fun c n => ?_, fun a => ⟨?_, rfl, chanOf_lt a⟩, fun a b hchan hcoff => ?_,
    fun c o hc => ⟨addressAt c o, chanOf_addressAt o hc, coffOf_addressAt c o⟩, fun n a => (coffOf_lt_iff n a).symm,
    fun g c hc => exists_line_of_group g hc, fun yo => ⟨?_, rfl⟩, fun a b hslice hoff => ?_, yardSlice_lt⟩
  · unfold quadrantOf; omega
  · rw [chanOf, xor5_six]
  · rw [← addressAt_chanOf_coffOf a, hchan, hcoff, addressAt_chanOf_coffOf]
  · rw [yardSlice, Nat.xor_assoc]
  · rw [← yardAt_yardSlice_yardOffset a, hslice, hoff, yardAt_yardSlice_yardOffset]

end Sys2Proof.Machine

/-!
What every command keeps (R29, R396 to R399, R453): the case split over the operation table, once, on top of the law
of each meaning, and what follows for the bounds, the queue, the safe state and the SAFE pins.
-/

namespace Sys2Proof.Machine

/-! ### All commands -/

/-- The rows that end what the safe state latches, or act on a device that is asleep: a whole-device reset, Night, and
the lamp die's own reset. -/
def endsKept : Instr → Bool
  | .nightEntry | .nightWake _ | .noscMissingEdge | .lampDieReset => true
  | c => resets c

variable {c : Instr} {s t : State}

theorem exec_keeps_of_not_endsKept (h : endsKept c = false) (e : exec c s = .next t) : Keeps s t := by
  cases c with
  | porstNAssert | porstNDeassert | sysresetNAssert | sysresetNDeassert | lampWatchdogReset | nightEntry | nightWake
  | noscMissingEdge | lampDieReset => simp [endsKept, resets] at h
  | perstNAssert p => exact execPerstNAssert_keeps p e
  | perstNDeassert p => exact execPerstNDeassert_keeps p e
  | rootPllLock => exact execRootPllLock_keeps e
  | rootPllLockLoss => exact execRootPllLockLoss_keeps e
  | loscQualifyCount count ran4096 => exact execLoscQualifyCount_keeps count ran4096 e
  | lampBootDone configValid => exact execLampBootDone_keeps configValid e
  | pcieTrainingStart => exact execPcieTrainingStart_keeps e
  | pcieLinkUp p => exact execPcieLinkUp_keeps p e
  | pcieConfigRequest p req => exact execPcieConfigRequest_keeps p req e
  | startupInjection checker raised silentOnClean => exact execStartupInjection_keeps checker raised silentOnClean e
  | firmwareAuthentication => exact execFirmwareAuthentication_keeps e
  | memoryTrainingDone gibPerChannel => exact execMemoryTrainingDone_keeps gibPerChannel e
  | scionStartupTestDone n bistFailed => exact execScionStartupTestDone_keeps n bistFailed e
  | scionJoinDeadline => exact execScionJoinDeadline_keeps e
  | configReady => exact execConfigReady_keeps e
  | ethernetMacsUp => exact execEthernetMacsUp_keeps e
  | canNormalMode => exact execCanNormalMode_keeps e
  | chroylinkGroupStart g => exact execChroylinkGroupStart_keeps g e
  | chroylinkGroupWindowClose g => exact execChroylinkGroupWindowClose_keeps g e
  | bootComplete => exact execBootComplete_keeps e
  | bootTimeout => exact execBootTimeout_keeps e
  | sqTailDb f ring value => exact execSqTailDb_keeps f ring value e
  | cqHeadDb f ring value => exact execCqHeadDb_keeps f ring value e
  | sqRingControlWrite f ring value => exact execSqRingControlWrite_keeps f ring value e
  | cqRingControlWrite f ring value => exact execCqRingControlWrite_keeps f ring value e
  | hwdogServiceKey1 f => exact execHwdogServiceKey1_keeps f e
  | hwdogServiceKey2 f => exact execHwdogServiceKey2_keeps f e
  | hwdogServiceOther f => exact execHwdogServiceOther_keeps f e
  | hwdogKeyTimeout p => exact execHwdogKeyTimeout_keeps p e
  | msixVectorUnmask f vector => exact execMsixVectorUnmask_keeps f vector e
  | registerWrite f offset size value => exact execRegisterWrite_keeps f offset size value e
  | functionLevelReset f => exact execFunctionLevelReset_keeps f e
  | flrDone f => exact execFlrDone_keeps f e
  | commandTake read => exact execCommandTake_keeps read e
  | commandDeferredBegin cmd => exact execCommandDeferredBegin_keeps cmd e
  | completionWrite cmd ok => exact execCompletionWrite_keeps cmd ok e
  | cqModerationTimer f ring => exact execCqModerationTimer_keeps f ring e
  | nop cmd => exact execNop_keeps cmd e
  | deviceQuery cmd io => exact execDeviceQuery_keeps cmd io e
  | hello cmd => exact execHello_keeps cmd e
  | functionQuery cmd io => exact execFunctionQuery_keeps cmd io e
  | timeGet cmd io => exact execTimeGet_keeps cmd io e
  | timeSet cmd => exact execTimeSet_keeps cmd e
  | shareSet cmd => exact execShareSet_keeps cmd e
  | provision cmd => exact execProvision_keeps cmd e
  | memMap cmd => exact execMemMap_keeps cmd e
  | memUnmap cmd => exact execMemUnmap_keeps cmd e
  | memCopy cmd host graft2 => exact execMemCopy_keeps cmd host graft2 e
  | memFill cmd io graft2 => exact execMemFill_keeps cmd io graft2 e
  | memTagCheck cmd => exact execMemTagCheck_keeps cmd e
  | streamOpen cmd => exact execStreamOpen_keeps cmd e
  | streamClose cmd => exact execStreamClose_keeps cmd e
  | streamCloseDone c => exact execStreamCloseDone_keeps c e
  | streamConfig cmd => exact execStreamConfig_keeps cmd e
  | streamStats cmd io => exact execStreamStats_keeps cmd io e
  | linkStatus cmd io => exact execLinkStatus_keeps cmd io e
  | guardConfig cmd => exact execGuardConfig_keeps cmd e
  | graphLoad cmd img => exact execGraphLoad_keeps cmd img e
  | graphUnload cmd => exact execGraphUnload_keeps cmd e
  | jobSubmit cmd => exact execJobSubmit_keeps cmd e
  | jobCancel cmd => exact execJobCancel_keeps cmd e
  | bindStream cmd => exact execBindStream_keeps cmd e
  | reserve cmd => exact execReserve_keeps cmd e
  | kvOpen cmd => exact execKvOpen_keeps cmd e
  | kvScatter cmd graft2 => exact execKvScatter_keeps cmd graft2 e
  | kvTrim cmd => exact execKvTrim_keeps cmd e
  | kvClose cmd => exact execKvClose_keeps cmd e
  | kvQuery cmd => exact execKvQuery_keeps cmd e
  | attend cmd => exact execAttend_keeps cmd e
  | safetyConfig cmd => exact execSafetyConfig_keeps cmd e
  | faultAck cmd => exact execFaultAck_keeps cmd e
  | faultHistory cmd io => exact execFaultHistory_keeps cmd io e
  | selftestStatus cmd io => exact execSelftestStatus_keeps cmd io e
  | inject cmd => exact execInject_keeps cmd e
  | thresholdSet cmd => exact execThresholdSet_keeps cmd e
  | powerState cmd => exact execPowerState_keeps cmd e
  | budgetSet cmd => exact execBudgetSet_keeps cmd e
  | thermalQuery cmd io => exact execThermalQuery_keeps cmd io e
  | dieRestore cmd => exact execDieRestore_keeps cmd e
  | dieRestoreDone result => exact execDieRestoreDone_keeps result e
  | canConfig cmd => exact execCanConfig_keeps cmd e
  | canSend cmd => exact execCanSend_keeps cmd e
  | safeMessageSet cmd => exact execSafeMessageSet_keeps cmd e
  | uartConfig cmd => exact execUartConfig_keeps cmd e
  | driftConfig cmd => exact execDriftConfig_keeps cmd e
  | replayArm cmd => exact execReplayArm_keeps cmd e
  | replayFeed cmd => exact execReplayFeed_keeps cmd e
  | crosscheckConfig cmd => exact execCrosscheckConfig_keeps cmd e
  | wdogConfig cmd => exact execWdogConfig_keeps cmd e
  | firmwareStage cmd img => exact execFirmwareStage_keeps cmd img e
  | firmwareCommit cmd => exact execFirmwareCommit_keeps cmd e
  | debugUnlock cmd => exact execDebugUnlock_keeps cmd e
  | timeSlewEnd => exact execTimeSlewEnd_keeps e
  | gptpSync p m => exact execGptpSync_keeps p m e
  | gptpPeerDelay p m => exact execGptpPeerDelay_keeps p m e
  | gptpHoldover => exact execGptpHoldover_keeps e
  | clockMonitorWindow m count => exact execClockMonitorWindow_keeps m count e
  | wdogClockStopped w => exact execWdogClockStopped_keeps w e
  | seamTransfer n toRootstock crcOk => exact execSeamTransfer_keeps n toRootstock crcOk e
  | seamHeartbeatInterval n heard => exact execSeamHeartbeatInterval_keeps n heard e
  | scionClockLockLoss n => exact execScionClockLockLoss_keeps n e
  | scionResetAssert n => exact execScionResetAssert_keeps n e
  | lampSeamFrame dest crcOk => exact execLampSeamFrame_keeps dest crcOk e
  | lampSeamHeartbeatInterval side => exact execLampSeamHeartbeatInterval_keeps side e
  | lockstepMismatch p => exact execLockstepMismatch_keeps p e
  | faultEdgeCapture source event owner class2 stays => exact execFaultEdgeCapture_keeps source event owner class2 stays e
  | faultHoldoffEnd source event => exact execFaultHoldoffEnd_keeps source event e
  | reactionExpired source => exact execReactionExpired_keeps source e
  | shadowTimerExpired source => exact execShadowTimerExpired_keeps source e
  | faultInNLow => exact execFaultInNLow_keeps e
  | voltageMonitor rail => exact execVoltageMonitor_keeps rail e
  | wdogService w tick => exact execWdogService_keeps w tick e
  | wdogPeriodEnd w => exact execWdogPeriodEnd_keeps w e
  | foremanWdogService loopPassed f0Answered f1Answered timersReadable => exact execForemanWdogService_keeps loopPassed f0Answered f1Answered timersReadable e
  | shiftBoundary => exact execShiftBoundary_keeps e
  | tileStart => exact execTileStart_keeps e
  | tileEnd engine events measuredUs => exact execTileEnd_keeps engine events measuredUs e
  | sliceStart => exact execSliceStart_keeps e
  | sliceEnd passed => exact execSliceEnd_keeps passed e
  | sliceGuardExpired => exact execSliceGuardExpired_keeps e
  | diagAgeLimit engine => exact execDiagAgeLimit_keeps engine e
  | patrolScrubRead upsets met => exact execPatrolScrubRead_keeps upsets met e
  | footprintSample footprint die => exact execFootprintSample_keeps footprint die e
  | footprintCoolStep n => exact execFootprintCoolStep_keeps n e
  | eclkDividerChange n => exact execEclkDividerChange_keeps n e
  | budgetInterval packageMw baseMw requests acked => exact execBudgetInterval_keeps packageMw baseMw requests acked e
  | stewardNoGrant n => exact execStewardNoGrant_keeps n e
  | dozeEntry => exact execDozeEntry_keeps e
  | nightRailCrossing rail => exact execNightRailCrossing_keeps rail e
  | clTrainingAttemptStart p => exact execClTrainingAttemptStart_keeps p e
  | clPreambleFound p agc => exact execClPreambleFound_keeps p agc e
  | clCtlePresetDone p error agc x => exact execClCtlePresetDone_keeps p error agc x e
  | clDfePreambleDone p x => exact execClDfePreambleDone_keeps p x e
  | clTrainingBoundExpired p => exact execClTrainingBoundExpired_keeps p e
  | linkBlock p b => exact execLinkBlock_keeps p b e
  | clResyncTimeout p => exact execClResyncTimeout_keeps p e
  | backchannelAckTimeout p msgNo => exact execBackchannelAckTimeout_keeps p msgNo e
  | trigger c => exact execTrigger_keeps c e
  | frameLateTimeout c => exact execFrameLateTimeout_keeps c e
  | ethFrame p fcsOk frame graft2 => exact execEthFrame_keeps p fcsOk frame graft2 e
  | ethLinkChange p up speed => exact execEthLinkChange_keeps p up speed e
  | uartCharacter p samples graft2 => exact execUartCharacter_keeps p samples graft2 e
  | uartIdleGap p => exact execUartIdleGap_keeps p e
  | canFrameEnd b o => exact execCanFrameEnd_keeps b o e
  | canBusOffRecoveryDone b => exact execCanBusOffRecoveryDone_keeps b e
  | canSendTimeout b cmd => exact execCanSendTimeout_keeps b cmd e
  | canFrameReceived b good => exact execCanFrameReceived_keeps b good e
  | safeMessageRepeat b => exact execSafeMessageRepeat_keeps b e
  | driftPacket p packet => exact execDriftPacket_keeps p packet e
  | driftTrainingRetry p => exact execDriftTrainingRetry_keeps p e
  | xcUnmatchedTimeout c counter => exact execXcUnmatchedTimeout_keeps c counter e
  | replayRecordApply => exact execReplayRecordApply_keeps e
  | replayBreak => exact execReplayBreak_keeps e
  | driftLinkChange p up => exact execDriftLinkChange_keeps p up e
  | linkSettingsRetrainTimeout p => exact execLinkSettingsRetrainTimeout_keeps p e

/-- The queue, the record of what was sent and the bounds survive every command, resets among them. -/
theorem exec_tracks (e : exec c s = .next t) : Tracks s t := by
  by_cases h : endsKept c = false
  · exact (exec_keeps_of_not_endsKept h e).tracks
  · cases c with
    | porstNAssert => exact execPorstNAssert_tracks e
    | porstNDeassert test => exact execPorstNDeassert_tracks test e
    | sysresetNAssert => exact execSysresetNAssert_tracks e
    | sysresetNDeassert => exact execSysresetNDeassert_tracks e
    | lampWatchdogReset => exact execLampWatchdogReset_tracks e
    | nightEntry => exact execNightEntry_tracks e
    | nightWake cause => exact execNightWake_tracks cause e
    | noscMissingEdge => exact execNoscMissingEdge_tracks e
    | lampDieReset => exact execLampDieReset_tracks e
    | _ => exact absurd rfl h

/-- On a device that is awake the rows that wake it find nothing to act on. -/
theorem exec_keeps_of_awake (w : s.awake = true) (hr : resets c = false) (hn : c ≠ .nightEntry) (hl : c ≠ .lampDieReset)
    (e : exec c s = .next t) : Keeps s t := by
  by_cases h : endsKept c = false
  · exact exec_keeps_of_not_endsKept h e
  · cases c with
    | nightEntry => exact absurd rfl hn
    | lampDieReset => exact absurd rfl hl
    | nightWake cause => exact execNightWake_keeps cause w e
    | noscMissingEdge => exact execNoscMissingEdge_keeps w e
    | _ => exact absurd hr h

/-- The lamp die's own reset ends its safe state, and nothing of the rootstock's, and releases no pin (R453). -/
theorem exec_lampDieReset_latched (e : exec .lampDieReset s = .next t) :
    (s.safe = true → t.safe = true) ∧ (s.rootDrivesLow = true → t.rootDrivesLow = true)
    ∧ (s.lampDrivesLow = true → t.lampDrivesLow = true) ∧ (s.awake = true → t.awake = true) := by
  have h := execLampDieReset_keeps e
  exact ⟨h.latched.root, h.latched.rootPins, h.latched.lampPins, h.awake⟩

theorem exec_nightEntry_safe (h : s.safe = true ∨ s.lamp.safe = true) : exec .nightEntry s = .next s :=
  execNightEntry_safe h

/-! ### The queue and the bounds -/

/-- Settles O1: `step` by its two equations. -/
theorem stepRunsTheFrontCommand : Obligations.StepRunsTheFrontCommand := by
  unfold Obligations.StepRunsTheFrontCommand
  intro s c rest h
  simp only [step, h]

/-- Settles O2: both facts are part of what every command keeps. -/
theorem commandsLeaveTheQueue : Obligations.CommandsLeaveTheQueue := by
  unfold Obligations.CommandsLeaveTheQueue
  intro c s t e
  exact ⟨(exec_tracks e).pending, (exec_tracks e).sent⟩

theorem State.Inv.popped (h : s.Inv) (l : List Instr) : ({ s with pending := l } : State).Inv :=
  ⟨h.mem, h.yard, h.timers, h.views, h.corr, h.slew, h.log, h.held⟩

/-- Settles O3: a step is one cycle or one command, and both keep the bounds. -/
theorem everyStepKeepsTheBounds : Obligations.EveryStepKeepsTheBounds := by
  unfold Obligations.EveryStepKeepsTheBounds
  intro s t inv e
  unfold step at e
  split at e
  next =>
    injection e with e
    exact e ▸ s.tick_tracks.inv inv
  next c rest _ => exact (exec_tracks e).inv (inv.popped rest)

/-- Settles O4: every table of the reset state is empty, and device time is not corrected. -/
theorem resetMeetsTheBounds : Obligations.ResetMeetsTheBounds := by
  unfold Obligations.ResetMeetsTheBounds
  exact ⟨rfl, rfl, Nat.zero_le _, fun f => by simp [State.fn, State.reset], Nat.zero_le _,
    fun w h => (nomatch (show (none : Option Slew) = some w from h)), Nat.zero_le _, Nat.zero_le _⟩

/-- Settles O5: the reset state's own fields, and every function and every port as its defaults have them. -/
theorem resetValues : Obligations.ResetValues := by
  unfold Obligations.ResetValues
  refine ⟨rfl, rfl, rfl, rfl, rfl, rfl, fun f => ?_, fun p => ?_⟩
  · simp [State.reset, State.fn]
  · simp [State.reset]

/-- Settles O6: with an empty queue a step is `tick`. -/
theorem idleStepIsOneCycle : Obligations.IdleStepIsOneCycle := by
  unfold Obligations.IdleStepIsOneCycle
  intro s idle
  have hstep : step s = .next s.tick := by simp only [step, idle]
  refine ⟨fun run => ⟨s.tick, hstep, ?_, ?_⟩, fun stop => ?_⟩
  · simp [State.tick, run, State.setClk, Clocks.cycle]
  · simp [State.tick, run, State.setClk]
  · rw [hstep, State.tick, if_neg (by simp [stop])]

/-! ### The safe state and its pins -/

/-- Settles O9: entry to Night is barred, the lamp die's reset is set apart, and every other command keeps what is
latched. -/
theorem safeStateIsLatched : Obligations.SafeStateIsLatched := by
  unfold Obligations.SafeStateIsLatched
  intro c s t w hr e
  by_cases hn : c = .nightEntry
  · subst hn
    have stays (h : s.safe = true ∨ s.lamp.safe = true) : s = t := by
      rw [exec_nightEntry_safe h] at e
      injection e
    exact ⟨fun h => stays (.inl h) ▸ h, fun h _ => stays (.inr h) ▸ h, fun h => stays h ▸ w⟩
  · by_cases hl : c = .lampDieReset
    · subst hl
      obtain ⟨root, -, -, awake⟩ := exec_lampDieReset_latched e
      exact ⟨root, fun _ h => absurd rfl h, fun _ => awake w⟩
    · have h := exec_keeps_of_awake w hr hn hl e
      exact ⟨h.latched.root, fun lamp _ => h.latched.lamp lamp, fun _ => h.awake w⟩

/-- The pins stay low where each die's drive of them stays. -/
theorem pinsHigh_false_of_drives (root : s.rootDrivesLow = true → t.rootDrivesLow = true)
    (lamp : s.lampDrivesLow = true → t.lampDrivesLow = true) (low : s.pinsHigh = false) : t.pinsHigh = false := by
  cases hr : s.rootDrivesLow with
  | true => simp [State.pinsHigh, root hr]
  | false =>
    have hl : s.lampDrivesLow = true := by simpa [State.pinsHigh, hr] using low
    simp [State.pinsHigh, lamp hl]

/-- Settles O10: each die's drive of the pins is latched by every command that is not named, the lamp die's reset
included. -/
theorem safePinsStayLow : Obligations.SafePinsStayLow := by
  unfold Obligations.SafePinsStayLow
  intro c s t w hr hn e
  have drives : (s.rootDrivesLow = true → t.rootDrivesLow = true) ∧ (s.lampDrivesLow = true → t.lampDrivesLow = true) := by
    by_cases hl : c = .lampDieReset
    · subst hl
      obtain ⟨-, root, lamp, -⟩ := exec_lampDieReset_latched e
      exact ⟨root, lamp⟩
    · have h := exec_keeps_of_awake w hr hn hl e
      exact ⟨h.latched.rootPins, h.latched.lampPins⟩
  exact ⟨drives.1, drives.2, pinsHigh_false_of_drives drives.1 drives.2⟩

end Sys2Proof.Machine

/-!
Whole-device resets, the root PLL and entry to the safe state (R37, R52, R64 to R67, R139, R396 to R399, R403, R453,
R485).
-/

namespace Sys2Proof.Machine

/-! ### A command under a condition -/

section Conditions

variable {s t : State} {c : Bool}

/-- A row that acts under a condition which holds. -/
theorem next_when_pos (h : c = true) :
    (Host.Outcome.next (s.when c t) : Host.Outcome State Fault Refusal) = .next t := by
  rw [State.when_pos h]

/-- A row whose condition fails finds nothing to act on (log 1). -/
theorem next_when_neg (h : c = false) :
    (Host.Outcome.next (s.when c t) : Host.Outcome State Fault Refusal) = .next s := by
  rw [State.when_neg h]

theorem State.lampRuns_held (h : s.lampRuns = true) : s.held = false := by
  simp only [State.lampRuns, Bool.and_eq_true] at h
  simpa using h.1.1

theorem State.held_of_porstLow (h : s.boot.porstLow = true) : s.held = true := by simp [State.held, h]

end Conditions

/-! ### Whole-device resets -/

section Resets

variable (s : State)

/-- What a reset leaves does not depend on the start-up state that goes with it. -/
theorem State.blank_boot_restarted (b : Boot) : Restarted s { s.blank with boot := b } := by
  obtain ⟨_, _, _, _, _, _, _, _, _, _, _, _, _, _, _, _, _, _, _, _, _, _, _⟩ := s.blank_restarted
  constructor <;> assumption

theorem Started.not_held {s t : State} {cause : ResetCause} {test : Bool} (h : Started s t cause test) :
    t.held = false := by
  simp [State.held, h.boot]

end Resets

/-- Settles O8: the falling edges leave the blank device, the starts are `startUp`, and an edge that finds nothing to act
on leaves the state. -/
theorem wholeDeviceResets : Obligations.WholeDeviceResets := by
  unfold Obligations.WholeDeviceResets
  refine ⟨fun s => ?_, fun s test h => ?_, fun s test h => ?_, fun s h => ?_, fun s h => ⟨?_, ?_⟩, fun s low h => ?_,
    fun s h => ?_, fun s run due => ?_, fun s h => ?_⟩
  · exact ⟨_, rfl, s.blank_boot_restarted _, rfl, rfl, rfl, rfl⟩
  · have start := s.startUp_started .porst test
    exact ⟨_, next_when_pos h, start.not_held, start⟩
  · exact next_when_neg h
  · exact ⟨_, next_when_pos (by simp [h]), s.blank_boot_restarted _, rfl, rfl, rfl, rfl, rfl⟩
  · exact next_when_neg (by simp [h])
  · exact next_when_neg (by simp [h])
  · have start := s.startUp_started .sysreset s.boot.testMode
    exact ⟨_, next_when_pos (by simp [low, h]), start.not_held, start⟩
  · exact next_when_neg (by simp [h])
  · have start := s.startUp_started .lampWatchdog s.boot.testMode
    exact ⟨_, next_when_pos (by simp [run, due]), start.not_held, start⟩
  · exact next_when_neg (by simp [h])

/-! ### The safe state -/

/-- Settles O11: the fields of `rootSafe_frame`, and each command by what the safe state leaves of it. -/
theorem enteringTheSafeState : Obligations.EnteringTheSafeState := by
  unfold Obligations.EnteringTheSafeState
  intro s cause boot hs
  obtain ⟨engines, mem, draws, fns, sent, used, hframe⟩ := s.rootSafe_frame cause boot hs
  dsimp only
  rw [hframe]
  refine ⟨rfl, rfl, rfl, rfl, fun e => by simp, fun d hd live => ?_, fun c hc live unmarked => ?_⟩
  · obtain ⟨c, hc, rfl⟩ := List.mem_map.mp hd
    obtain ⟨same, cls, marked⟩ := Cmd.enterSafe_live live
    exact same.symm ▸ ⟨hc, cls, marked⟩
  · exact ⟨used c.id, List.mem_map.mpr ⟨c, hc, Cmd.enterSafe_formed live unmarked⟩⟩

/-- Settles O12: entry needs both dies out of the safe state, and a wake event needs Night. -/
theorem nightAndTheSafeState : Obligations.NightAndTheSafeState := by
  unfold Obligations.NightAndTheSafeState
  exact ⟨fun s h => exec_nightEntry_safe h, fun s w awake => execNightWake_awake w awake⟩

/-! ### The root PLL -/

/-- Without the root clock an idle step changes nothing (R52). -/
theorem step_idle_stopped {s : State} (idle : s.pending = []) (stop : s.rootRuns = false) : step s = .next s := by
  simp only [step, idle, State.tick, stop, Bool.false_eq_true, if_false]

/-- Settles O13: lock starts the clocks; after a loss of lock neither a cycle nor a lock finds them running. -/
theorem rootPll : Obligations.RootPll := by
  unfold Obligations.RootPll
  refine ⟨fun s held lost locked awake => ?_, fun s run => ?_⟩
  · have night : decide (s.power.state ≠ .night) = true := awake
    refine ⟨_, next_when_pos (by simp only [held, lost, locked, night]; rfl), ?_, rfl⟩
    show (!s.held && true && decide (s.power.state ≠ .night)) = true
    rw [held, night]
    rfl
  · refine ⟨_, next_when_pos run, ?_, rfl, rfl, rfl, rfl, rfl, ?_, ?_, rfl⟩
    · simp [State.rootRuns]
    · exact step_idle_stopped rfl (by simp [State.rootRuns])
    · exact next_when_neg (by simp)

end Sys2Proof.Machine

/-!
What raising an event leaves of the start-up state, and start-up itself: firmware, memory training, scions, checkers and
BOOT_COMPLETE (R68 to R77, R81, R86, R361 to R363).
-/

namespace Sys2Proof.Machine

/-! ### The parts that raising an event touches -/

/-- What a raised event changes before a Fatal one takes the rootstock to the safe state: functions, the FCU, the lamp
die and what was sent. -/
def State.Marked (s u : State) : Prop :=
  ∃ fns fcu lamp can low sent,
    u = { s with fns := fns, fcu := fcu, lamp := lamp, can := can, lampDrivesLow := low, sent := sent }

theorem State.lampSafe_marked (s : State) (k : Nat) : s.Marked (s.lampSafe k) := by
  cases h : s.lamp.safe with
  | true => exact ⟨_, _, _, _, _, _, by rw [State.lampSafe, if_pos h]⟩
  | false =>
    obtain ⟨can, sent, e⟩ := s.lampSafe_frame k h
    exact ⟨_, _, _, _, _, _, e⟩

theorem State.Marked.trans {s t u : State} (h : s.Marked t) (k : t.Marked u) : s.Marked u := by
  obtain ⟨_, _, _, _, _, _, rfl⟩ := h
  obtain ⟨_, _, _, _, _, _, rfl⟩ := k
  exact ⟨_, _, _, _, _, _, rfl⟩

theorem State.Marked.refl (s : State) : s.Marked s := ⟨_, _, _, _, _, _, rfl⟩

theorem State.raiseLamp_marked (s : State) (r : Raise) : s.Marked (s.raiseLamp r) := by
  unfold State.raiseLamp
  dsimp only
  have record : s.Marked (if s.lamp.seamLost then s else s.setLamp (fun l => { l with
      toRoot := l.toRoot ++ [.record r.source r.event r.owner s.now r.injected r.stays] })) := by
    split
    · exact .refl s
    · exact ⟨_, _, _, _, _, _, rfl⟩
  split
  · exact record.trans (State.lampSafe_marked _ _)
  · exact record

/-- Raising an event: the marks it leaves and, where it is Fatal on the rootstock, the entry to the safe state. -/
theorem State.raise_cases (s : State) (r : Raise) :
    ∃ u, s.Marked u ∧ (s.raise r = u ∨ ∃ c b, s.raise r = u.rootSafe c b) := by
  unfold State.raise
  split
  · exact ⟨_, s.raiseLamp_marked r, .inl rfl⟩
  · unfold State.raiseFcu
    split
    · dsimp only
      generalize s.fcu.capture r (r.time.getD s.now) s.fore.safety.reactionUs s.safe = p
      have told : s.Marked (if p.2.timer then ({ s with fcu := p.1 } : State).setLamp (fun l =>
          { l with toLamp := l.toLamp ++ [.timerStart r.source] }) else { s with fcu := p.1 }) := by
        split
        · exact ⟨_, _, _, _, _, _, rfl⟩
        · exact ⟨_, _, _, _, _, _, rfl⟩
      obtain ⟨fns, sent, e⟩ := State.distribute_frame (if p.2.timer then ({ s with fcu := p.1 } : State).setLamp (fun l =>
          { l with toLamp := l.toLamp ++ [.timerStart r.source] }) else { s with fcu := p.1 }) p.2
      refine ⟨_, told.trans ⟨_, _, _, _, _, _, e⟩, ?_⟩
      split
      · exact .inr ⟨_, _, rfl⟩
      · exact .inl rfl
    · exact ⟨s, .refl s, .inl rfl⟩

/-- The entry to the safe state changes nothing of start-up but the cause of a failed boot (R74, R85). -/
theorem State.rootSafe_boot (s : State) (c b : Nat) :
    (s.rootSafe c b).boot = { s.boot with failCause := (s.rootSafe c b).boot.failCause } := by
  cases h : s.safe with
  | true => rw [State.rootSafe, if_pos h]
  | false =>
    obtain ⟨_, _, _, _, _, _, e⟩ := s.rootSafe_frame c b h
    rw [e]

theorem State.raise_boot (s : State) (r : Raise) :
    (s.raise r).boot = { s.boot with failCause := (s.raise r).boot.failCause } := by
  obtain ⟨u, ⟨_, _, _, _, _, _, rfl⟩, e | ⟨c, b, e⟩⟩ := s.raise_cases r
  · rw [e]
  · rw [e, State.rootSafe_boot]

/-- A scion that is not being restored is as it was (R397). -/
theorem State.rootSafe_scion (s : State) (c b : Nat) (n : ScionId) (h : (s.scions[n.val]).state ≠ .restoring) :
    (s.rootSafe c b).scions[n.val] = s.scions[n.val] := by
  cases hs : s.safe with
  | true => rw [State.rootSafe, if_pos hs]
  | false =>
    obtain ⟨_, _, _, _, _, _, e⟩ := s.rootSafe_frame c b hs
    rw [e]
    simp [h]

/-- An Alert or a Note of the rootstock starts no timer and leaves the lamp die alone (R379, R389). -/
theorem State.raise_low_lamp (s : State) (r : Raise) (root : lampSource r.source = false) (h : promotion r.event = none)
    (k : r.tier.getD (baseTier r.source r.event) < 2) : (s.raise r).lamp = s.lamp := by
  unfold State.raise
  rw [if_neg (by simp [root])]
  unfold State.raiseFcu
  split
  · have quiet : (s.fcu.capture r (r.time.getD s.now) s.fore.safety.reactionUs s.safe).2.timer = false
        ∧ (s.fcu.capture r (r.time.getD s.now) s.fore.safety.reactionUs s.safe).2.tier ≠ 3 := by
      simp only [Fcu.capture, Fcu.judge, Fcu.threshold, h]
      rw [if_neg (by omega)]
      exact ⟨rfl, by simpa using by omega⟩
    dsimp only
    rw [if_neg quiet.2, quiet.1]
    obtain ⟨_, _, e⟩ := State.distribute_frame ({ s with
      fcu := (s.fcu.capture r (r.time.getD s.now) s.fore.safety.reactionUs s.safe).1 } : State)
      (s.fcu.capture r (r.time.getD s.now) s.fore.safety.reactionUs s.safe).2
    rw [if_neg (by simp), e]
  · rfl

/-- A Fatal event of the rootstock, whatever its source's table gives, takes it to the safe state. -/
theorem State.raise_fatal_of_root (s : State) (r : Raise) (run : s.rootRuns = true) (root : lampSource r.source = false)
    (edge : s.fcu.isEdge r.source r.event = true) (h : promotion r.event = none)
    (k : r.tier.getD (baseTier r.source r.event) = 3) : (s.raise r).safe = true := by
  unfold State.raise
  rw [if_neg (by simp [root])]
  exact (s.raiseFcu_spec r run edge).2.1 (Fcu.capture_fatal s.fcu r _ _ _ h k).1

/-! ### Start-up on the rootstock -/

theorem State.bootFails_safe (s : State) (c : Nat) : (s.bootFails c).safe = true := s.rootSafe_safe _ _

theorem otherSlot_ne (n : Fin 2) : otherSlot n ≠ n := by revert n; decide

/-- One of two slots and the other are all there are. -/
theorem forall_slots {p : Fin 2 → Prop} (n : Fin 2) (h0 : p 0) (h1 : p 1) : p n ∧ p (otherSlot n) := by
  match n with
  | 0 => exact ⟨h0, h1⟩
  | 1 => exact ⟨h1, h0⟩

/-- With no scion left boot fails, else nothing happens (R77). -/
theorem State.noScion_cases (s : State) :
    (s.noScion = s.bootFails 0x05 ∧ ∀ n : ScionId, (s.scions[n.val]).state = .excluded)
    ∨ (s.noScion = s ∧ ∃ n : ScionId, (s.scions[n.val]).state ≠ .excluded) := by
  have all : s.scions.toList.all (fun x => decide (x.state = .excluded)) = true
      ↔ ∀ n : ScionId, (s.scions[n.val]).state = .excluded := by
    simp only [List.all_eq_true, decide_eq_true_eq, Vector.mem_toList_iff, Vector.mem_iff_getElem]
    exact ⟨fun h n => h _ ⟨n.val, n.isLt, rfl⟩, fun h x ⟨i, hi, e⟩ => e ▸ h ⟨i, hi⟩⟩
  unfold State.noScion
  split
  next h => exact .inl ⟨rfl, all.mp h⟩
  next h => exact .inr ⟨rfl, not_forall.mp (fun k => h (all.mpr k))⟩

theorem State.noScion_boot (s : State) :
    s.noScion.boot = { s.boot with failCause := s.noScion.boot.failCause } := by
  obtain ⟨e, -⟩ | ⟨e, -⟩ := s.noScion_cases
  · rw [e, State.bootFails, State.rootSafe_boot]
  · rw [e]

theorem State.noScion_scion (s : State) (n : ScionId) (h : (s.scions[n.val]).state ≠ .restoring) :
    s.noScion.scions[n.val] = s.scions[n.val] := by
  obtain ⟨e, -⟩ | ⟨e, -⟩ := s.noScion_cases
  · rw [e, State.bootFails, State.rootSafe_scion _ _ _ _ h]
  · rw [e]

theorem State.noScion_safe (s : State) (h : ∀ n : ScionId, (s.scions[n.val]).state = .excluded) :
    s.noScion.safe = true := by
  obtain ⟨e, -⟩ | ⟨-, n, ne⟩ := s.noScion_cases
  · rw [e, State.bootFails_safe]
  · exact absurd (h n) ne

@[simp] theorem State.setScion_at (s : State) (n : ScionId) (g : Scion → Scion) :
    (s.setScion n g).scions[n.val] = g s.scions[n.val] := by
  simp [State.setScion]

theorem State.setScion_ne (s : State) (n m : ScionId) (h : m ≠ n) (g : Scion → Scion) :
    (s.setScion n g).scions[m.val] = s.scions[m.val] := by
  have : n.val ≠ m.val := fun q => h (Fin.ext q.symm)
  simp [State.setScion, this]

/-- A failed start-up test of a scion (R77): counted, once more from the first checker on, excluded at the second. -/
theorem State.scionTestFails_spec (s : State) (n : ScionId) (h : (s.scions[n.val]).state = .untested) :
    let t := s.scionTestFails n
    (t.scions[n.val]).failures = (s.scions[n.val]).failures + 1
    ∧ ((s.scions[n.val]).failures = 0 → (t.scions[n.val]).state = .untested)
    ∧ (1 ≤ (s.scions[n.val]).failures → (t.scions[n.val]).state = .excluded ∧ (t.scions[n.val]).excluded = true)
    ∧ (∀ k ∈ t.boot.passed ++ t.boot.failing, checkerDie k ≠ .scion n) := by
  intro t
  obtain ⟨u, hu⟩ : ∃ u, u = (s.setScion n (fun x => { x with failures := x.failures + 1 })).setBoot (fun b => { b with
    passed := b.passed.filter (fun k => decide (checkerDie k ≠ .scion n))
    failing := b.failing.filter (fun k => decide (checkerDie k ≠ .scion n)) }) := ⟨_, rfl⟩
  have ht : t = if 2 ≤ (u.scions[n.val]).failures then (u.setScion n Scion.exclude).noScion else u := by
    rw [hu]; rfl
  have scion : u.scions[n.val] = { s.scions[n.val] with failures := (s.scions[n.val]).failures + 1 } := by
    simp [hu]
  have checkers : ∀ k ∈ u.boot.passed ++ u.boot.failing, checkerDie k ≠ .scion n := by
    intro k hk
    simp only [hu, State.setBoot_boot, List.mem_append, List.mem_filter, decide_eq_true_eq] at hk
    exact hk.elim (·.2) (·.2)
  by_cases second : 2 ≤ (u.scions[n.val]).failures
  · rw [if_pos second] at ht
    have excluded : t.scions[n.val] = (u.scions[n.val]).exclude := by
      rw [ht, State.noScion_scion _ _ (by simp [Scion.exclude]), State.setScion_at]
    have boot : t.boot = { u.boot with failCause := t.boot.failCause } := by
      rw [ht, State.noScion_boot]
      rfl
    rw [excluded, boot, scion]
    rw [scion] at second
    exact ⟨rfl, fun h0 => by simp [h0] at second, fun _ => ⟨rfl, rfl⟩, checkers⟩
  · rw [if_neg second] at ht
    rw [ht, scion]
    rw [scion] at second
    exact ⟨rfl, fun _ => h, fun h1 => absurd h1 (by simp at second; omega), checkers⟩

/-- The failing engine's event is an Alert, which leaves scions and start-up as they are (R73). -/
theorem State.scionFailed_bist (s : State) (n : ScionId) (e : Fin 16) :
    (s.scionFailed n (.bistFail e)).scions = s.scions ∧ (s.scionFailed n (.bistFail e)).boot = s.boot := by
  obtain ⟨-, -, -, -, scions, -, boot, -, -⟩ := s.raise_calm
    { source := 0x100 * (1 + n.val) + 0x70 + e.val, event := .selftestFail, tier := some 1 } rfl (by simp)
  exact ⟨scions, boot⟩

theorem firmwareAuthentication_spec (s : State) (run : s.rootRuns = true) (test : s.boot.testMode = false)
    (none : s.boot.firmware = none) (recovery : s.boot.recovery = false) :
    ∃ t, exec .firmwareAuthentication s = .next t
      ∧ (s.slotOk s.flash.selected = true → t.boot.firmware = some s.flash.selected
          ∧ t.boot.fallbackSlot = s.boot.fallbackSlot ∧ t = { s with boot := t.boot })
      ∧ (s.slotOk s.flash.selected = false → s.slotOk (otherSlot s.flash.selected) = true →
          t.boot.firmware = some (otherSlot s.flash.selected) ∧ t.boot.fallbackSlot = true
          ∧ t = { s with boot := t.boot })
      ∧ (s.slotOk 0 = false → s.slotOk 1 = false →
          t.boot.firmware = Option.none ∧ t.boot.recovery = true ∧ t.safe = true) := by
  refine ⟨_, next_when_pos (by simp [run, test, none, recovery]), fun ok => ?_, fun bad ok => ?_, fun bad0 bad1 => ?_⟩
  · rw [if_pos ok]
    exact ⟨rfl, rfl, rfl⟩
  · rw [if_neg (by simp [bad]), if_pos ok]
    exact ⟨rfl, rfl, rfl⟩
  · obtain ⟨bad, other⟩ := forall_slots (p := fun n => s.slotOk n = false) s.flash.selected bad0 bad1
    rw [if_neg (by simp [bad]), if_neg (by simp [other]), State.bootFails, State.rootSafe_boot]
    exact ⟨none, rfl, State.rootSafe_safe _ _ _⟩

theorem memoryTrainingDone_spec (s : State) (g : List Nat) (run : s.rootRuns = true)
    (trained : s.boot.memTrained = false) (recovery : s.boot.recovery = false) :
    ∃ t, exec (.memoryTrainingDone g) s = .next t
      ∧ (∀ m, g.min? = some (m + 1) → t.boot.memTrained = true
          ∧ t.boot.memMib = 24 * min (m + 1) s.fixed.fittedGib * 1024
          ∧ t.boot.memReduced = decide (m + 1 < s.fixed.fittedGib) ∧ t.boot.scrub = 0 ∧ t = { s with boot := t.boot })
      ∧ (g.min? = some 0 ∨ g = [] → t.safe = true ∧ t.boot.memTrained = false) := by
  refine ⟨_, next_when_pos (by simp [run, trained, recovery]), fun m least => ?_, fun least => ?_⟩
  · simp only [least, Option.getD_some]
    rw [if_neg (by omega)]
    exact ⟨rfl, rfl, rfl, rfl, rfl⟩
  · have zero : g.min?.getD 0 = 0 := by
      rcases least with h | h <;> simp [h]
    rw [if_pos zero, State.bootFails, State.rootSafe_boot]
    exact ⟨State.rootSafe_safe _ _ _, trained⟩

/-- A scion whose engines and checkers have all passed joins (R75). -/
theorem scionStartupTestDone_joins (s : State) (n : ScionId) (run : s.rootRuns = true)
    (done : s.boot.complete = false) (untested : (s.scions[n.val]).state = .untested)
    (clean : s.boot.failing.any (fun k => decide (checkerDie k = .scion n)) = false)
    (passed : ∀ k ∈ scionCheckers n, k ∈ s.boot.passed) :
    exec (.scionStartupTestDone n none) s = .next (s.joinScion n) := by
  have all : (scionCheckers n).all s.boot.passed.contains = true := by simpa using passed
  refine (next_when_pos (by simp [run, done, untested])).trans ?_
  simp only [clean, Bool.false_eq_true, if_false, all, if_true]

/-- A failed test is counted, and reported where it is one of an engine's logic BIST (R77). -/
theorem scionStartupTestDone_fails (s : State) (n : ScionId) (bist : Option (Fin 16)) (run : s.rootRuns = true)
    (done : s.boot.complete = false) (untested : (s.scions[n.val]).state = .untested)
    (failed : bist.isSome = true ∨ s.boot.failing.any (fun k => decide (checkerDie k = .scion n)) = true) :
    ∃ u : State, exec (.scionStartupTestDone n bist) s = .next (u.scionTestFails n)
      ∧ u.scions = s.scions ∧ u.boot = s.boot := by
  have runs : (s.rootRuns && !s.boot.complete && decide ((s.scions[n.val]).state = .untested)) = true := by
    simp [run, done, untested]
  cases bist with
  | some e => exact ⟨_, next_when_pos runs, s.scionFailed_bist n e⟩
  | none =>
    have stuck := failed.resolve_left (by simp)
    exact ⟨s, (next_when_pos runs).trans (by simp only [stuck, if_true]), rfl, rfl⟩

theorem scionJoinDeadline_spec (s : State) (run : s.rootRuns = true) (done : s.boot.complete = false) :
    ∃ t, exec .scionJoinDeadline s = .next t
      ∧ (∀ n : ScionId, (s.scions[n.val]).state = .untested →
          (t.scions[n.val]).state = .excluded ∧ (t.scions[n.val]).excluded = true)
      ∧ (∀ n : ScionId, (s.scions[n.val]).state = .joined → t.scions[n.val] = s.scions[n.val])
      ∧ ((∀ n : ScionId, (s.scions[n.val]).state = .untested ∨ (s.scions[n.val]).state = .excluded) →
          t.safe = true) := by
  refine ⟨_, next_when_pos (by simp [run, done]), fun n untested => ?_, fun n joined => ?_, fun left => ?_⟩
  · rw [State.noScion_scion _ _ (by simp [untested, Scion.exclude])]
    simp [untested, Scion.exclude]
  · rw [State.noScion_scion _ _ (by simp [joined])]
    simp [joined]
  · refine State.noScion_safe _ (fun n => ?_)
    rcases left n with h | h <;> simp [h, Scion.exclude]

theorem State.joinScion_spec (s : State) (n : ScionId) :
    ((s.joinScion n).scions[n.val]).state = .joined ∧ ((s.joinScion n).scions[n.val]).excluded = false
    ∧ (∀ m : ScionId, m ≠ n → (s.joinScion n).scions[m.val] = s.scions[m.val])
    ∧ s.joinScion n = { s with scions := (s.joinScion n).scions, engines := (s.joinScion n).engines } := by
  have frame : ∃ scions engines, s.joinScion n = { s with scions := scions, engines := engines } := by
    unfold State.joinScion State.setScion State.mapScion
    exact ⟨_, _, rfl⟩
  refine ⟨?_, ?_, fun m ne => ?_, ?_⟩
  · rw [State.joinScion, State.setScion_at]
  · rw [State.joinScion, State.setScion_at]
  · rw [State.joinScion, State.setScion_ne _ _ _ ne, State.mapScion]
  · obtain ⟨_, _, e⟩ := frame
    rw [e]

/-- Settles O14: each row's body under its condition; a failed boot is the entry to the safe state. -/
theorem startUpOnTheRootstock : Obligations.StartUpOnTheRootstock := by
  unfold Obligations.StartUpOnTheRootstock
  refine ⟨firmwareAuthentication_spec, memoryTrainingDone_spec,
    fun s n run done untested => ⟨fun clean passed => ?_, fun bist failed => ?_⟩, scionJoinDeadline_spec,
    fun s run => ⟨next_when_pos run, next_when_pos run⟩⟩
  · exact ⟨_, scionStartupTestDone_joins s n run done untested clean passed, s.joinScion_spec n⟩
  · obtain ⟨u, row, scions, boot⟩ := scionStartupTestDone_fails s n bist run done untested failed
    have spec := u.scionTestFails_spec n (by rw [scions]; exact untested)
    rw [scions] at spec
    exact ⟨_, row, spec⟩

/-! ### The end of start-up -/

theorem lampSource_engine (e : EngineId) (base : Nat) (h : base ≤ 0x80) :
    lampSource (0x100 * (1 + e.val / 16) + base + e.val % 16) = false := by
  have := e.isLt
  simp only [lampSource, Bool.and_eq_false_iff, decide_eq_false_iff_not]
  omega

theorem checkerSource_lamp (k : Checker) : lampSource (checkerSource k) = decide (checkerDie k = .lamp) := by
  cases k with
  | lampLockstep | lampSeam | loscByPclk | lampSeamRoot => rfl
  | lampWatchdog i | lampClock i | lampVoltage i | memoryEcc i | yardEcc i | graft i | seamMonitor i
    | foremanLockstep i | footprintSensor i | seamMonitorScion i | clockReceiver i => revert i; decide
  | benchEcc e | graft4 e | abft e | shadow e | parity6 e | dieSensor e =>
    exact (lampSource_engine e _ (by decide)).trans (by simp [checkerDie])

/-- The event of a failed injection (R73, R362). -/
def injectionRaise (k : Checker) : Raise :=
  { source := checkerSource k, event := .bootInjectFail
    tier := some (match checkerDie k with
      | .scion _ => 1
      | _ => 3) }

/-- A failed injection as the start-up state records it. -/
def Boot.injectionFailed (b : Boot) (k : Checker) : Boot :=
  { b with injected := addOnce k b.injected, failing := k :: b.failing, injectFailed := addOnce k b.injectFailed }

theorem exec_startupInjection_fails {s : State} {k : Checker} {raised : Option Nat} {ok : Bool}
    (may : s.mayInject k = true) (bad : raised ≠ some (checkerSource k) ∨ ok = false) :
    exec (.startupInjection k raised ok) s
      = .next ((s.setBoot (·.injectionFailed k)).raise (injectionRaise k)) := by
  have fails : (decide (raised = some (checkerSource k)) && ok) = false := by
    rcases bad with h | h <;> simp [h]
  refine (next_when_pos may).trans ?_
  simp only [fails, Bool.false_eq_true, if_false]
  rfl

theorem State.mayInject_runs {s : State} {k : Checker} (may : s.mayInject k = true)
    (root : checkerDie k ≠ .lamp) : s.rootRuns = true := by
  unfold State.mayInject at may
  cases die : checkerDie k with
  | lamp => exact absurd die root
  | rootstock => simp only [die, Bool.and_eq_true] at may; exact may.2
  | scion n => simp only [die, Bool.and_eq_true] at may; exact may.2.1

/-- BOOT_COMPLETE but for its signals to the functions: crews, the log's first records and the lamp die. -/
theorem State.completeBoot_spec (s : State) (quiet : s.fore.replay.state ≠ .collecting) :
    let t := s.completeBoot
    t.boot.complete = true ∧ t.safe = s.safe
    ∧ t.fixed.rollback = max s.fixed.rollback (match s.boot.firmware with
        | some n => (s.flash.slots[n.val]).rollback
        | none => 0)
    ∧ (∀ f : FnId, (t.fn f).event.getLsbD 0 = true) ∧ (s.lamp.seamLost = false → .bootComplete ∈ t.lamp.toLamp) := by
  intro t
  obtain ⟨u, hu⟩ : ∃ u : State, u = ((({ s with fixed := { s.fixed with
      rollback := max s.fixed.rollback (match s.boot.firmware with
        | some n => (s.flash.slots[n.val]).rollback
        | none => 0) } } : State).setBoot (fun b => { b with complete := true })).setFore (fun x => { x with
      usable := usableOf s.joinedCount x.safety.frameUs, shiftAt := s.clk.iclk, since := 0 })) := ⟨_, rfl⟩
  have hquiet : u.fore.replay.state ≠ .collecting := by rw [hu]; exact quiet
  have planned : Planned u (u.shiftRecord.repartition 5 false) := by
    have first : Planned u u.shiftRecord := State.logRecord_planned _ _ _ _ hquiet
    exact first.trans (State.repartition_planned _ _ _ (first.quiet hquiet))
  obtain ⟨engines, streams, fore, e⟩ := planned.state
  have ht : t = (if ({ u with engines := engines, streams := streams, fore := fore } : State).lamp.seamLost
      then ({ u with engines := engines, streams := streams, fore := fore } : State)
      else ({ u with engines := engines, streams := streams, fore := fore } : State).setLamp (fun l =>
        { l with toLamp := l.toLamp ++ [.bootComplete] })).eachFn (fun s f => s.setEvent f evtBootDone) := by
    rw [← e, hu]
    rfl
  have done : ∀ f : FnId, (t.fn f).event.getLsbD 0 = true := by
    intro f
    rw [ht]
    refine State.eachFn_each (fun f t => (t.fn f).event.getLsbD 0 = true) _ _ (fun t f => ?_) (fun t f i h => ?_) f
    · rw [State.setEvent_bit]
      simp [evtBootDone]
    · rw [State.setEvent_bit, h]
      rfl
  have frame := State.eachFn_frame (if ({ u with engines := engines, streams := streams, fore := fore } : State).lamp.seamLost
      then ({ u with engines := engines, streams := streams, fore := fore } : State)
      else ({ u with engines := engines, streams := streams, fore := fore } : State).setLamp (fun l =>
        { l with toLamp := l.toLamp ++ [.bootComplete] })) (fun s f => s.setEvent f evtBootDone)
    (fun t f => t.setEvent_frame f _)
  obtain ⟨fns, sent, hframe⟩ := frame
  rw [hframe] at ht
  have hlamp : ({ u with engines := engines, streams := streams, fore := fore } : State).lamp = s.lamp := by
    rw [hu]
    rfl
  rw [hlamp] at ht
  cases lost : s.lamp.seamLost with
  | true =>
    rw [if_pos lost] at ht
    refine ⟨?_, ?_, ?_, done, fun up => absurd up (by simp)⟩ <;> rw [ht, hu] <;> rfl
  | false =>
    rw [if_neg (by simp [lost])] at ht
    refine ⟨?_, ?_, ?_, done, fun _ => ?_⟩
    · rw [ht, hu]; rfl
    · rw [ht, hu]; rfl
    · rw [ht, hu]; rfl
    · rw [ht]; simp

/-- What the conditions of BOOT_COMPLETE hold (R69, R74). -/
theorem State.bootReady_spec {s : State} (h : s.bootReady = true) :
    s.safe = false ∧ s.lamp.safe = false ∧ (∀ k ∈ dieCheckers, k ∈ s.boot.passed) ∧ s.boot.memTrained = true
    ∧ s.boot.firmware ≠ none
    ∧ ∀ n : ScionId, (s.scions[n.val]).state = .joined ∨ (s.scions[n.val]).state = .excluded := by
  simp only [State.bootReady, Bool.and_eq_true, Bool.not_eq_true', Option.isSome_iff_ne_none, List.all_eq_true,
    Bool.or_eq_true, decide_eq_true_eq, List.contains_iff_mem] at h
  obtain ⟨⟨⟨⟨⟨⟨⟨⟨⟨⟨⟨-, -⟩, safe⟩, lamp⟩, -⟩, firmware⟩, checkers⟩, memory⟩, scions⟩, -⟩, -⟩, -⟩ := h
  exact ⟨safe, lamp, checkers, memory, firmware, fun n => scions _ (by simp)⟩

/-- BOOT_COMPLETE that does not come stays noted (R81). -/
theorem State.lampSafe_timedOut (s : State) (k : Nat) : (s.lampSafe k).lamp.timedOut = s.lamp.timedOut := by
  cases h : s.lamp.safe with
  | true => rw [State.lampSafe, if_pos h]
  | false =>
    obtain ⟨_, _, e⟩ := s.lampSafe_frame k h
    rw [e]

theorem State.raiseLamp_timedOut (s : State) (r : Raise) : (s.raiseLamp r).lamp.timedOut = s.lamp.timedOut := by
  have record : (if s.lamp.seamLost then s else s.setLamp (fun l => { l with
      toRoot := l.toRoot ++ [.record r.source r.event r.owner s.now r.injected r.stays] })).lamp.timedOut
        = s.lamp.timedOut := by
    split <;> rfl
  unfold State.raiseLamp
  dsimp only
  split
  · rw [State.lampSafe_timedOut, record]
  · exact record

theorem State.raise_timedOut (s : State) (r : Raise) (h : lampSource r.source = true) :
    (s.raise r).lamp.timedOut = s.lamp.timedOut := by
  rw [State.raise, if_pos h, State.raiseLamp_timedOut]

/-- The bit of a group in the mask of closed groups. -/
theorem closedMask_bit (m : BitVec 6) (g : Fin 6) : (m ||| BitVec.ofNat 6 (1 <<< g.val)).getLsbD g.val = true := by
  have bit : ∀ g : Fin 6, (BitVec.ofNat 6 (1 <<< g.val)).getLsbD g.val = true := by decide
  rw [BitVec.getLsbD_or, bit, Bool.or_true]

/-- Settles O45: a failed injection is its event on the marked start-up state, BOOT_COMPLETE is `completeBoot`, and its
absence is Fatal on the lamp die. -/
theorem bootCompletes : Obligations.BootCompletes := by
  unfold Obligations.BootCompletes
  refine ⟨fun s k raised ok may => ⟨fun own silent => ?_, fun bad => ?_⟩, fun s k raised ok may => next_when_neg may,
    fun s g run => ?_, fun s g run => ?_, fun s ready quiet => ?_, fun s ready => ?_,
    fun s run losc => ⟨fun noBoot waits => ?_, fun past => ?_⟩⟩
  · refine (next_when_pos may).trans ?_
    simp [own, silent, State.setBoot]
  · refine ⟨_, exec_startupInjection_fails may bad, ?_, ?_, ?_, ?_, fun lamp => ?_, fun root edge => ?_, fun n scion => ?_⟩
    · rw [State.raise_boot]; rfl
    · rw [State.raise_boot]; rfl
    · rw [State.raise_boot]; rfl
    · rw [State.raise_boot]; rfl
    · obtain ⟨safe, -, -, record⟩ := (s.setBoot (·.injectionFailed k)).raise_lamp_fatal (injectionRaise k)
        (by simp [injectionRaise, checkerSource_lamp, lamp]) (by simp [injectionRaise, lamp])
      exact ⟨safe, record⟩
    · have run : s.rootRuns = true := State.mayInject_runs may (by simp [root])
      exact State.raise_fatal_of_root _ (injectionRaise k) run
        (by simp [injectionRaise, checkerSource_lamp, root]) edge rfl (by simp [injectionRaise, root])
    · have source : lampSource (injectionRaise k).source = false := by simp [injectionRaise, checkerSource_lamp, scion]
      have tier : (injectionRaise k).tier.getD (baseTier (injectionRaise k).source (injectionRaise k).event) < 2 := by
        simp [injectionRaise, scion]
      have run : s.rootRuns = true := State.mayInject_runs may (by simp [scion])
      exact ⟨State.raise_low _ _ rfl tier, State.raise_low_lamp _ _ source rfl tier,
        (State.raise_nextSeq (s.setBoot (·.injectionFailed k)) (injectionRaise k) run source).1⟩
  · refine ⟨_, next_when_pos run, fun p => ⟨fun own => ?_, fun other => ?_⟩, rfl⟩
    · simp [own]
    · simp [other]
  · refine ⟨_, next_when_pos run, fun p => ⟨fun own => ?_, fun other => ?_⟩, ?_, rfl, rfl⟩
    · simp [own]
    · simp [other]
    · exact closedMask_bit _ g
  · obtain ⟨safe, -⟩ := State.bootReady_spec ready
    obtain ⟨complete, same, rollback, events, told⟩ := s.completeBoot_spec quiet
    refine ⟨_, next_when_pos ready, complete, same.trans safe, ?_, fun n firmware => ?_, events, told⟩
    · rw [rollback]; exact Nat.le_max_left _ _
    · rw [rollback, firmware]; exact Nat.le_max_right _ _
  · exact (State.bootReady_spec ready).2
  · have fatal := (s.setLamp (fun l => { l with timedOut := true })).raise_lamp_fatal
      { source := 0x505, event := .bootTimeout } rfl rfl
    exact ⟨_, next_when_pos (by simp [run, losc, noBoot, waits]), fatal.1, State.raise_timedOut _ _ rfl⟩
  · exact next_when_neg (by rcases past with h | h <;> simp [h])

end Sys2Proof.Machine

/-!
Completions, the keys of a host watchdog, the PCIe ports and Function Level Reset (R78, R79, R109, R114, R119 to R122,
R129, R132, R135, R410, R473).
-/

namespace Sys2Proof.Machine

/-! ### Completions -/

/-- A completion that is formed is not formed again (R135). -/
theorem State.finish_again {s : State} {id : Nat} (h : ∀ x ∈ s.fore.taken, x.id = id → x.live = false)
    (st d : BitVec 16) (r : BitVec 64) : (s.finish id st d r).fore.taken = s.fore.taken := by
  show s.fore.taken.map _ = s.fore.taken
  refine (List.map_congr_left (fun x hx => ?_)).trans (List.map_id _)
  by_cases own : x.id = id
  · simp [own, h x hx own]
  · simp [own]

/-- After a command's completion has been formed, no command of its number is without one. -/
theorem State.finish_formed (s : State) (id : Nat) (st d : BitVec 16) (r : BitVec 64) :
    ∀ x ∈ (s.finish id st d r).fore.taken, x.id = id → x.live = false := by
  intro x hx own
  obtain ⟨y, -, rfl⟩ := List.mem_map.mp (show x ∈ s.fore.taken.map _ from hx)
  cases live : y.live with
  | false => split <;> simp_all
  | true => split <;> simp_all [Cmd.live]

/-- Settles O22: a formed completion is final, and every other command keeps its own. -/
theorem completionsFormOnce : Obligations.CompletionsFormOnce := by
  unfold Obligations.CompletionsFormOnce
  intro s id c st d st' d' r r' found t
  refine ⟨fun live => State.finish_cmd found live st d r, fun formed => ?_, fun _ => ?_,
    fun j ne => s.finish_other ne st d r⟩
  · show (s.finish id st d r).cmd id = some c
    rw [State.finish, State.setCmd_cmd _ _ _ _ (fun c => by split <;> rfl)]
    simp [found, formed]
  · exact State.finish_again (s.finish_formed id st d r) st' d' r'

/-! ### The layout of a completion -/

/-- A number behind `p` is read from the rest. -/
theorem leNat_skip {p b : Bytes} {i : Nat} (h : p.length ≤ i) (n : Nat) :
    leNat (p ++ b) i n = leNat b (i - p.length) n := by
  induction n generalizing i with
  | zero => rfl
  | succ n ih =>
    have byte : byteAt (p ++ b) i = byteAt b (i - p.length) := by
      simp [byteAt, List.getElem?_append_right h]
    rw [leNat, leNat, byte, ih (Nat.le_succ_of_le h), Nat.succ_sub h]

/-- The number at the front of a record. -/
theorem leNat_leBytes (n v : Nat) (r : Bytes) : leNat (leBytes n v ++ r) 0 n = v % 256 ^ n := by
  induction n generalizing v with
  | zero => simp [leNat, Nat.mod_one]
  | succ n ih =>
    have rest : leNat (leBytes (n + 1) v ++ r) (0 + 1) n = leNat (leBytes n (v / 256) ++ r) 0 n :=
      leNat_skip (p := [BitVec.ofNat 8 v]) (Nat.le_refl 1) n
    have first : (byteAt (leBytes (n + 1) v ++ r) 0).toNat = v % 256 := by
      simp [leBytes, byteAt]
    rw [leNat, first, rest, ih, Nat.pow_succ', Nat.mod_mul]

theorem completionBody_length (seq : BitVec 32) (op st d : BitVec 16) (q : Nat) (ph : Bool) (time res : BitVec 64) :
    (completionBody seq op st d q ph time res).length = 28 := by
  simp [completionBody, leBytes_length]

/-- Settles O23: each field is read behind the fields before it. -/
theorem completionLayout : Obligations.CompletionLayout := by
  unfold Obligations.CompletionLayout
  intro seq op st d n ph time res
  have body := completionBody_length seq op st d n.val ph time res
  have head : (completionEntry seq op st d n.val ph time res).take 28 = completionBody seq op st d n.val ph time res :=
    List.take_left' body
  have ring : n.val < 256 := Nat.lt_trans n.isLt (by decide)
  have phase : ph.toNat < 256 := Nat.lt_trans ph.toNat_lt (by decide)
  have tag := leNat_leBytes 4 (crc32c (completionBody seq op st d n.val ph time res)).toNat []
  rw [List.append_nil, Nat.mod_eq_of_lt (show _ < 256 ^ 4 from BitVec.isLt _)] at tag
  refine ⟨by simp [completionEntry, body, leBytes_length], ?_, ?_, ?_, ?_, ?_, ?_, ?_, ?_, ?_⟩
  case refine_9 =>
    rw [head, completionEntry, leNat_skip (Nat.le_of_eq body), body, tag]
  all_goals
    simp [completionEntry, completionBody, leNat_skip, leNat_leBytes, leBytes_length]
    omega

/-! ### The keys of a host watchdog -/

section Keys

variable (s : State) (p : HostPort) (w : WdogId) (x : Service)

theorem State.sendService_wdog : (s.sendService w x).wdog = s.wdog := by
  unfold State.sendService State.toLampDie
  split <;> rfl

/-- Disarming and sending: what of the ports, the lamp die and the watchdogs is left (R401, R410). -/
theorem State.disarmed_sent :
    (((s.arm p false).sendService w x).port p).keyArmed = false
    ∧ ((s.arm p false).sendService w x).wdog = s.wdog
    ∧ (s.lamp.seamLost = false → ((s.arm p false).sendService w x).lamp
        = { s.lamp with toLamp := s.lamp.toLamp ++ [.service w x] })
    ∧ (s.lamp.seamLost = true → ((s.arm p false).sendService w x).lamp = s.lamp) := by
  obtain ⟨armed, wdog, lamp⟩ := s.arm_facts p false
  obtain ⟨port, sent, lost⟩ := (s.arm p false).sendService_facts w x p
  rw [lamp] at sent lost
  exact ⟨by rw [port, armed], (State.sendService_wdog _ _ _).trans wdog, sent, fun l => by rw [lost l, lamp]⟩

theorem State.key2_eq : s.key2 p
    = (s.arm p false).sendService (wdogOf p) (if (s.port p).keyArmed then .service else .keyError) := by
  unfold State.key2 State.keyError
  split <;> rfl

end Keys

/-- Settles O19: KEY1 arms, and every other write disarms and sends its message. -/
theorem hostWatchdogKeys : Obligations.HostWatchdogKeys := by
  unfold Obligations.HostWatchdogKeys
  refine ⟨fun s f takes => ?_, fun s p run => next_when_pos run⟩
  obtain ⟨armed, wdog, lamp⟩ := s.arm_facts (portOf f) true
  refine ⟨⟨_, next_when_pos takes, armed, lamp, wdog⟩, ⟨_, next_when_pos takes, ?_⟩, ⟨_, next_when_pos takes, ?_⟩⟩
  · rw [State.key2_eq]
    exact s.disarmed_sent _ _ _
  · exact s.disarmed_sent _ _ _


/-! ### The PCIe ports -/

section Msix

variable {s : State} {f : FnId}

/-- One vector's turn when the pending vectors are signalled (R114). -/
def State.signalOne (f : FnId) (s : State) (v : Fin 32) : State :=
  if (s.fn f).msix[v.val].pba && !(s.fn f).msix[v.val].masked then
    (s.setFn f (fun x => { x with msix := x.msix.set v.val { x.msix[v.val] with pba := false } })).signal f v
  else s

/-- What the signalling of pending vectors leaves: only the function's table and what was sent change, no vector's mask
does, no bit of the PBA rises, and a vector whose bit falls has been sent. -/
structure SignalledFrom (f : FnId) (s t : State) : Prop where
  own   : t.fn f = { s.fn f with msix := (t.fn f).msix }
  other : ∀ g, g ≠ f → t.fn g = s.fn g
  rest  : t = { s with fns := t.fns, sent := t.sent }
  masks : ∀ v : Fin 32, ((t.fn f).msix[v.val]).masked = ((s.fn f).msix[v.val]).masked
  falls : ∀ v : Fin 32, ((s.fn f).msix[v.val]).pba = false → ((t.fn f).msix[v.val]).pba = false
  sends : ∀ v : Fin 32, ((s.fn f).msix[v.val]).pba = true → ((t.fn f).msix[v.val]).pba = true ∨ .msix f v.val ∈ t.sent
  sent  : ∀ x ∈ s.sent, x ∈ t.sent

theorem SignalledFrom.refl (f : FnId) (s : State) : SignalledFrom f s s :=
  ⟨rfl, fun _ _ => rfl, rfl, fun _ => rfl, fun _ h => h, fun _ h => .inl h, fun _ h => h⟩

theorem SignalledFrom.trans {t u : State} (h : SignalledFrom f s t) (k : SignalledFrom f t u) : SignalledFrom f s u where
  own := by rw [k.own, h.own]
  other g ne := (k.other g ne).trans (h.other g ne)
  rest := by rw [k.rest, h.rest]
  masks v := (k.masks v).trans (h.masks v)
  falls v q := k.falls v (h.falls v q)
  sends v q := (h.sends v q).elim (k.sends v) (fun q => .inr (k.sent _ q))
  sent x q := k.sent x (h.sent x q)

/-- A function that takes part in interrupts and is not masked as a whole. -/
def Fn.signals (x : Fn) : Prop := x.msixEnable = true ∧ x.msixMask = false ∧ x.resetting = false

theorem SignalledFrom.signals {t : State} (h : SignalledFrom f s t) (k : (s.fn f).signals) : (t.fn f).signals := by
  rw [h.own]
  exact k

/-- A vector's turn: it pends no more unless it is masked. -/
theorem State.signalOne_spec (h : (s.fn f).signals) (v : Fin 32) :
    SignalledFrom f s (s.signalOne f v)
    ∧ (((s.fn f).msix[v.val]).masked = false → (((s.signalOne f v).fn f).msix[v.val]).pba = false) := by
  obtain ⟨enable, mask, running⟩ := h
  unfold State.signalOne
  split
  next due =>
    simp only [Bool.and_eq_true, Bool.not_eq_true'] at due
    rw [State.signal_unmasked (by simpa using enable) (by simpa using running) (by simpa using mask)
      (by simpa using due.2)]
    refine ⟨⟨by simp, fun g ne => ?_, rfl, fun w => ?_, fun w low => ?_, fun w pends => ?_,
      fun x hx => List.mem_cons_of_mem _ hx⟩, fun _ => by simp⟩
    · simpa using State.setFn_fn_other _ _ _ _ ne.symm
    all_goals
      by_cases e : v = w
      · subst e; simp
      · have e' : v.val ≠ w.val := fun q => e (Fin.ext q)
        simp_all
  next quiet => exact ⟨.refl f s, fun unmasked => by simpa [unmasked] using quiet⟩

/-- Every vector of the list that is not masked pends no more. -/
theorem State.signalAll_spec (l : List (Fin 32)) (s : State) (h : (s.fn f).signals) :
    SignalledFrom f s (l.foldl (State.signalOne f) s)
    ∧ ∀ v ∈ l, ((s.fn f).msix[v.val]).masked = false →
        (((l.foldl (State.signalOne f) s).fn f).msix[v.val]).pba = false := by
  induction l generalizing s with
  | nil => exact ⟨.refl f s, fun v hv => absurd hv (by simp)⟩
  | cons w l ih =>
    obtain ⟨first, done⟩ := State.signalOne_spec h w
    obtain ⟨rest, each⟩ := ih (s.signalOne f w) (first.signals h)
    refine ⟨first.trans rest, fun v hv unmasked => ?_⟩
    rcases List.mem_cons.mp hv with rfl | later
    · exact rest.falls _ (done unmasked)
    · exact each v later ((first.masks v).trans unmasked)

theorem State.signalPending_eq (s : State) (f : FnId) : s.signalPending f = (List.finRange 32).foldl (State.signalOne f) s :=
  rfl

/-- Enabled and unmasked, a function's pending vectors are signalled (R114). -/
theorem State.msixControl_signals (s : State) (f : FnId) (running : (s.fn f).resetting = false) :
    ∀ v : Fin 32, ((s.fn f).msix[v.val]).pba = true → ((s.fn f).msix[v.val]).masked = false →
      .msix f v.val ∈ (s.msixControl f true false).sent ∧ (((s.msixControl f true false).fn f).msix[v.val]).pba = false := by
  intro v pends unmasked
  obtain ⟨from_, each⟩ := State.signalAll_spec (f := f) (List.finRange 32)
    (s.setFn f (fun x => { x with msixEnable := true, msixMask := false })) (by simpa [Fn.signals] using running)
  have low := each v (List.mem_finRange v) (by simpa using unmasked)
  have sent := from_.sends v (by simpa using pends)
  rw [low] at sent
  simp only [State.msixControl, running, Bool.not_false, Bool.and_self, if_true, State.signalPending_eq]
  exact ⟨sent.resolve_left (by simp), low⟩

/-- MSI-X Enable and Function Mask of a function: what they leave. -/
theorem State.msixControl_frame (s : State) (f : FnId) (e m : Bool) :
    SignalledFrom f (s.setFn f (fun x => { x with msixEnable := e, msixMask := m })) (s.msixControl f e m)
    ∧ (e = false ∨ m = true ∨ (s.fn f).resetting = true → (s.msixControl f e m).sent = s.sent) := by
  unfold State.msixControl
  dsimp only
  split
  next go =>
    simp only [Bool.and_eq_true, Bool.not_eq_true'] at go
    obtain ⟨⟨enable, mask⟩, running⟩ := go
    refine ⟨(State.signalAll_spec _ _ ?_).1, fun h => ?_⟩
    · simpa [Fn.signals, enable, mask] using running
    · simp [enable, mask, running] at h
  next => exact ⟨.refl f _, fun _ => rfl⟩

end Msix

@[simp] theorem State.send_port (s : State) (x : Sent) (p : HostPort) : (s.send x).port p = s.port p := by
  cases p <;> rfl

/-- Settles O15: each row's change of its port; PERST_N resets as an FLR of the port's PF; `signalPending` signals what
pends. -/
theorem pciePorts : Obligations.PciePorts := by
  unfold Obligations.PciePorts
  refine ⟨fun s run => ?_, fun s p run training => next_when_pos (by simp [run, training]), fun s p held => ?_,
    fun s p held => ?_, fun s p r run up => ⟨fun retry => ?_, fun ready running => ?_⟩⟩
  · exact ⟨_, next_when_pos run, rfl, fun p => by cases p <;> exact ⟨rfl, rfl⟩, rfl⟩
  · have port : portOf (pfOf p) = p := by cases p <;> rfl
    obtain ⟨t, e, ⟨⟨_, _, _, _, _, _, _, frame, -, -⟩, other⟩, own⟩ := s.flr_pf (pfOf p) (by cases p <;> rfl)
    rw [port] at e other own
    refine ⟨_, next_when_pos (by simp [held]), ?_⟩
    rw [e]
    refine ⟨by simp, by simp, by simp, by simp, fun f hf => ?_, fun f hf => ?_, fun c hc hp => ?_, ?_⟩
    · simpa [State.fn] using ⟨(own f hf).1, (own f hf).2.1⟩
    · simpa [State.fn] using other f hf
    · exact (own c.fn hp).2.2.1 c (by simpa using hc) rfl
    · simp [frame]
  · refine ⟨_, next_when_pos (by simp [held]), by simp, fun opened => by simp [opened], ?_⟩
    cases p <;> rfl
  · exact (next_when_pos (by simp [run, up])).trans (by rw [if_pos retry])
  · refine ⟨_, (next_when_pos (by simp [run, up])).trans (by rw [if_neg (by simp [ready, running])]), rfl,
      fun read => by rw [read], fun n vfs => ?_, fun f e m msix own => ?_⟩
    · subst vfs
      simp
    · subst msix
      obtain ⟨from_, quiet⟩ := s.msixControl_frame f e m
      simp only [own, if_true]
      have fn := from_.own
      simp only [State.setFn_fn] at fn
      refine ⟨?_, ?_, ?_, fun g ne => ?_, fun h => ?_, fun enable mask here v pends unmasked => ?_⟩
      · rw [State.send_fn, fn]
      · rw [State.send_fn, fn]
      · rw [from_.rest]
        cases p <;> rfl
      · exact (from_.other g ne).trans (State.setFn_fn_other _ _ _ _ ne.symm)
      · exact congrArg _ (quiet h)
      · subst enable mask
        obtain ⟨sent, low⟩ := s.msixControl_signals f here v pends unmasked
        exact ⟨List.mem_cons_of_mem _ sent, low⟩

/-! ### Function Level Reset -/

theorem memKey_lt {f : FnId} {va : Nat} (h : va < 2 ^ 48) : memKey f va < 2 ^ 55 := by
  have := f.isLt
  unfold memKey
  omega

/-- A byte of another function lies outside a function's whole address space. -/
theorem memKey_outside {f g : FnId} (ne : g ≠ f) {va : Nat} (h : va < 2 ^ 48) :
    ¬ (memKey f 0 ≤ memKey g va ∧ memKey g va < memKey f 0 + 2 ^ 48) := by
  have : g.val ≠ f.val := fun q => ne (Fin.ext q)
  unfold memKey
  omega

/-- The device's copies of graphs lie behind every function's memory (R248). -/
theorem memKey_lt_graphKey (f g : FnId) (h off : Nat) {va : Nat} (k : va < 2 ^ 48) : memKey g va < graphKey f h off := by
  have := memKey_lt (f := g) k
  unfold graphKey
  omega

/-- The bytes of the functions' memory after the reset of `f` (R119). -/
theorem State.flrEnd_byte {s : State} (f g : FnId) {va : Nat} (wf : s.mem.wf = true) (h : va < 2 ^ 48) :
    (s.flrEnd f).mem.byte (memKey g va) = if g = f then 0 else s.mem.byte (memKey g va) := by
  have mem : (s.flrEnd f).mem = (s.mem.zero (memKey f 0) (2 ^ 48)).zero (graphKey f 0 0) (2 ^ 64) := by
    unfold State.flrEnd
    simp
  have copy := memKey_lt_graphKey f g 0 0 h
  rw [mem, Memory.zero_byte _ _ _ _ (Memory.zero_wf _ _ _ wf), if_neg (by omega), Memory.zero_byte _ _ _ _ wf]
  by_cases own : g = f
  · subst own
    rw [if_pos (by unfold memKey; omega), if_pos rfl]
  · rw [if_neg (memKey_outside own h), if_neg own]

/-- What the end of a reset leaves of the function: registers as at reset, its view, TOTAL and provision. -/
theorem State.flrEnd_fn (s : State) (f g : FnId) :
    (s.flrEnd f).fn g = if g = f then
        { provision := (s.fn f).provision, view := (s.fn f).view, total := (s.fn f).total
          ringTurn := (s.fn f).ringTurn }
      else s.fn g := by
  unfold State.flrEnd
  by_cases own : g = f
  · subst own
    simp
  · rw [if_neg own, State.setFn_fn_other _ _ _ _ (Ne.symm own)]
    simp [State.fn, State.setFore]

theorem State.flrEnd_streams (s : State) (f : FnId) : (s.flrEnd f).streams
    = s.streams.map (fun y => if y.isOpen ∧ y.owner = f then y.close else y) := by
  unfold State.flrEnd
  simp

theorem State.flrEnd_reservations (s : State) (f : FnId) :
    (s.flrEnd f).fore.reservations = s.fore.reservations.filter (fun r => r.fn != f) := by
  unfold State.flrEnd
  simp

/-- An FLR that begins: what of the functions, commands and runs is left (R119, R120, R122). -/
theorem State.flr_spec (s : State) (f : FnId) :
    ((s.flr f).fn f).resetting = true
    ∧ (∀ c ∈ (s.flr f).fore.taken, c.fn ≠ f ∧ c ∈ s.fore.taken) ∧ (∀ r ∈ (s.flr f).fore.runs, r.fn ≠ f ∧ r ∈ s.fore.runs)
    ∧ (s.flr f).sent = s.sent
    ∧ (isVf f = true → ∀ g, g ≠ f → (s.flr f).fn g = s.fn g)
    ∧ (isVf f = false → ∀ g, portOf g = portOf f →
        ((s.flr f).fn g).resetting = true ∧ ((s.flr f).fn g).provision = none)
    ∧ (∀ g, portOf g ≠ portOf f → (s.flr f).fn g = s.fn g) := by
  cases v : isVf f with
  | true =>
    obtain ⟨own, commands, runs⟩ := s.flrBegin_own f
    have begun : s.flr f = s.flrBegin f := by rw [State.flr, if_pos v]
    obtain ⟨⟨_, _, _, _, _, _, _, frame, runs', commands'⟩, other⟩ := s.flr_vf f v
    rw [← begun] at own commands runs
    have fore := congrArg State.fore frame
    refine ⟨own, fun c hc => ⟨commands c hc, ?_⟩, fun r hr => ⟨runs r hr, ?_⟩, by rw [frame], fun _ => other,
      fun h => absurd h (by simp), fun g ne => other g (fun q => ne (by rw [q]))⟩
    · rw [fore] at hc
      exact commands' c hc
    · rw [fore] at hr
      exact runs' r hr
  | false =>
    obtain ⟨t, e, ⟨⟨_, _, _, _, _, _, _, frame, runs', commands'⟩, other⟩, own⟩ := s.flr_pf f v
    obtain ⟨-, -, commands, runs⟩ := own f rfl
    have fore := congrArg State.fore frame
    rw [e]
    refine ⟨?_, fun c hc => ?_, fun r hr => ?_, by simp [frame], fun h => absurd h (by simp), fun _ g hg => ?_,
      fun g ne => ?_⟩
    · simpa [State.fn] using (own f rfl).1
    · rw [State.setPort_fore] at hc
      exact ⟨commands c hc, commands' c (by rwa [fore] at hc)⟩
    · rw [State.setPort_fore] at hr
      exact ⟨runs r hr, runs' r (by rwa [fore] at hr)⟩
    · obtain ⟨resetting, provision, -⟩ := own g hg
      exact ⟨by simpa [State.fn] using resetting, by simpa [State.fn] using provision⟩
    · simpa [State.fn] using other g ne

/-- Settles O16: `flr` begins the reset, `flrEnd` ends it. -/
theorem functionLevelReset : Obligations.FunctionLevelReset := by
  unfold Obligations.FunctionLevelReset
  refine ⟨fun s f reaches running => ⟨_, next_when_pos (by simp [reaches, running]), s.flr_spec f⟩,
    fun s f run resetting wf => ?_⟩
  have own := s.flrEnd_fn f f
  rw [if_pos rfl] at own
  refine ⟨_, next_when_pos (by simp [run, resetting]), ?_⟩
  rw [own]
  refine ⟨rfl, rfl, rfl, rfl, rfl, rfl, rfl, rfl, rfl, rfl, rfl, fun r hr => ?_, fun c => ?_, fun va h => ?_,
    fun g va ne h => ⟨?_, ?_⟩⟩
  · rw [State.flrEnd_reservations] at hr
    simpa using (List.mem_filter.mp hr).2
  · rw [State.flrEnd_streams, Vector.getElem_map]
    split
    next => exact fun h => absurd h (by simp [Stream.close])
    next kept => exact fun h q => kept ⟨h, q⟩
  · rw [State.flrEnd_byte f f wf h, if_pos rfl]
  · rw [State.flrEnd_fn, if_neg ne]
  · rw [State.flrEnd_byte f g wf h, if_neg ne]

end Sys2Proof.Machine

/-!
Queries, administration, TIME_SET and the gPTP servo (R53 to R61, R85, R97, R98, R115, R140 to R143).
-/

namespace Sys2Proof.Machine

/-! ### The row of a command that has begun -/

section Begun

variable {s : State} {id : Nat} {o : Opcode} {c : Cmd}

/-- A row whose command has begun acts on it. -/
theorem State.Begins.next (b : s.Begins id o c) {g : Cmd → State} :
    (Host.Outcome.next (s.withCmd id o g) : Host.Outcome State Fault Refusal) = .next (g c) := by
  rw [b.run]

/-- A completion formed for it after changes that leave the taken commands alone. -/
theorem State.Begins.done (b : s.Begins id o c) {u : State} {st d : BitVec 16} {r : BitVec 64}
    (k : u.fore.taken = s.fore.taken) : Completed s (u.finish id st d r) id c st d r :=
  State.finish_completed b.cmd b.live k st d r

/-- Forming a completion changes the Foreman's commands and nothing else. -/
theorem State.finish_frame (s : State) (id : Nat) (st d : BitVec 16) (r : BitVec 64) :
    s.finish id st d r = { s with fore := (s.finish id st d r).fore } := rfl

end Begun

/-! ### Queries -/

theorem State.linkRecord_length (s : State) (kind port : Nat) :
    (s.linkRecord kind port).length = linkRecordSize kind := by
  match kind with
  | 0 => exact s.clRecord_length _
  | 1 => exact s.ethRecord_length _
  | 2 => exact s.uartRecord_length _
  | 3 => exact s.driftRecord_length _
  | n + 4 => exact s.driftRecord_length _

/-- STREAM_STATS of a context that is open to no other function (R217, log 23). -/
theorem exec_streamStats {s : State} {id : Nat} {c : Cmd} {x : CtxId} (b : s.Begins id .streamStats c) (io : HostIo)
    (ctx : c.arg 16 1 = x.val) (mine : (s.streams[x.val]).isOpen = false ∨ (s.streams[x.val]).owner = c.fn) :
    exec (.streamStats id io) s = .next (s.answer c (c.arg 24 8)
      (s.streamRecord x (if (s.streams[x.val]).owner = c.fn then s.streams[x.val] else {})) io 80) := by
  refine b.next.trans ?_
  simp only [ctx, Fin.ofNat_val_eq_self]
  rw [if_neg (by rcases mine with h | h <;> simp [h])]

/-- Settles O25: each query's row is `answer` with its record. -/
theorem queriesAnswer : Obligations.QueriesAnswer := by
  unfold Obligations.QueriesAnswer
  refine ⟨fun s id c io => ⟨fun b => ?_, fun b => ?_, fun b out => ?_, fun b quiet => ?_, fun b => ?_, fun b => ?_,
    fun b => ?_, fun b => ?_, fun x b ctx => ⟨fun isOpen other => ?_, fun own => ?_, fun shut other => ?_⟩⟩, fun s => ?_⟩
  · exact State.answers_of_exec b _ _ _ _ b.next
  · exact State.answers_of_exec b _ _ _ _ b.next
  · exact State.answers_of_exec b _ _ _ _ (b.next.trans (by rw [if_neg out]))
  · exact ⟨_, b.next.trans (by rw [if_pos quiet]), b.done rfl, State.finish_frame _ _ _ _ _⟩
  · exact State.answers_of_exec b _ _ _ _ b.next
  · exact State.answers_of_exec b _ _ _ _ b.next
  · exact State.answers_of_exec b _ _ _ _ b.next
  · exact State.answers_of_exec b _ _ _ _ b.next
  · refine ⟨_, b.next.trans ?_, b.done rfl⟩
    simp only [ctx, Fin.ofNat_val_eq_self]
    rw [if_pos (by simp [isOpen, other])]
  · have row := exec_streamStats b io ctx (.inr own)
    rw [if_pos own] at row
    exact State.answers_of_exec b _ _ _ _ row
  · have row := exec_streamStats b io ctx (.inl shut)
    rw [if_neg other] at row
    exact State.answers_of_exec b _ _ _ _ row
  · exact ⟨s.deviceRecord_length, s.functionRecord_length, timeRecord_length, s.streamRecord_length,
      s.linkRecord_length, Rec.bytes_length, s.selftestRecord_length, s.thermalRecord_length, LogRec.bytes_length⟩

/-! ### Administration -/

theorem State.helloGrant_safe {s : State} (c : Cmd) (h : s.safe = true) : s.helloGrant c = (s.fn c.fn).tally := by
  rw [State.helloGrant, if_pos h]

theorem State.helloGrant_bounds {s : State} (c : Cmd) (h : s.safe = false) :
    8 ≤ s.helloGrant c ∧ s.helloGrant c ≤ 256 := by
  rw [State.helloGrant, if_neg (by simp [h])]
  omega

/-- SHARE_SET's three answers (R97, R98). -/
theorem exec_shareSet_spec {s : State} {id : Nat} {c : Cmd} (b : s.Begins id .shareSet c) :
    let split := (c.arg 16 1, c.arg 17 1, c.arg 18 1)
    let p := portOf c.fn
    ∃ t, exec (.shareSet id) s = .next t
      ∧ ((s.port (otherPort p)).proposal ≠ some split → Completed s t id c stOk 0 0 ∧ (t.port p).proposal = some split
          ∧ t.fore.agreed = s.fore.agreed)
      ∧ ((s.port (otherPort p)).proposal = some split → s.portFits split .a = true → s.portFits split .b = true →
          Completed s t id c stOk 0 1 ∧ t.fore.agreed = some split)
      ∧ ((s.port (otherPort p)).proposal = some split → (s.portFits split .a && s.portFits split .b) = false →
          Completed s t id c stBusy 9 0 ∧ t.portA.proposal = none ∧ t.portB.proposal = none
          ∧ t.fore.agreed = s.fore.agreed) := by
  intro split p
  refine ⟨_, b.next, fun alone => ?_, fun equal fitsA fitsB => ?_, fun equal unfit => ?_⟩
  · rw [if_pos alone]
    refine ⟨b.done (by simp), ?_, ?_⟩
    · exact congrArg PciePort.proposal (State.setPort_self s p _)
    · exact (show _ = (s.setPort p _).fore.agreed from rfl).trans (congrArg Foreman.agreed (State.setPort_fore s p _))
  · rw [if_neg (not_not.mpr equal), if_pos (by simp only [Bool.and_eq_true]; exact ⟨fitsA, fitsB⟩)]
    exact ⟨b.done (by simp), rfl⟩
  · rw [if_neg (not_not.mpr equal), if_neg (by simp only [Bool.not_eq_true]; exact unfit)]
    obtain ⟨u, hu⟩ : ∃ u, u = ((s.setPort p (fun x => { x with proposal := some split })).setPort .a
      (fun x => { x with proposal := none })).setPort .b (fun x => { x with proposal := none }) := ⟨_, rfl⟩
    obtain ⟨fns, sent, first⟩ := u.setEvent_frame (pfOf .a) evtShare
    obtain ⟨fns', sent', second⟩ := (u.setEvent (pfOf .a) evtShare).setEvent_frame (pfOf .b) evtShare
    have frame : (u.setEvent (pfOf .a) evtShare).setEvent (pfOf .b) evtShare = { u with fns := fns', sent := sent' } := by
      rw [second, first]
    have fore : u.fore = s.fore := by simp [hu]
    dsimp only
    rw [← hu, frame]
    refine ⟨b.done (congrArg Foreman.taken fore), ?_, ?_, ?_⟩
    · exact (show _ = u.portA.proposal from rfl).trans (by rw [hu]; rfl)
    · exact (show _ = u.portB.proposal from rfl).trans (by rw [hu]; rfl)
    · exact (show _ = u.fore.agreed from rfl).trans (congrArg Foreman.agreed fore)

/-- Settles O26: each row's body under its condition. -/
theorem administrativeCommands : Obligations.AdministrativeCommands := by
  unfold Obligations.AdministrativeCommands
  refine fun s id c => ⟨fun b => ?_, fun b => ?_, fun b => exec_shareSet_spec b, fun b draw => ?_,
    fun v b answer drawn => ?_, fun b answer none => ?_⟩
  · exact ⟨_, b.next, b.done rfl, State.finish_frame _ _ _ _ _⟩
  · refine ⟨_, b.next, State.finish_frame _ _ _ _ _, _, b.done rfl, fun safe => ?_, fun awake => ?_⟩
    · exact ⟨if_pos safe, s.helloGrant_safe c safe⟩
    · rw [if_neg (by simp [awake])]
      exact ⟨fun whole => if_pos whole, fun less => if_neg less, s.helloGrant_bounds c awake⟩
  · exact ⟨_, b.next.trans (congrArg _ (if_pos draw)), b.done rfl, rfl, rfl⟩
  · refine ⟨_, b.next, ?_, fun accepted => ?_, fun refused => ?_⟩
    · rw [if_neg (by simp [answer]), drawn]
      dsimp only
      split <;> exact State.finish_frame _ _ _ _ _
    · rw [if_neg (by simp [answer]), drawn]
      dsimp only
      rw [if_pos accepted]
      exact b.done rfl
    · rw [if_neg (by simp [answer]), drawn]
      dsimp only
      rw [if_neg (by simp [refused])]
      exact b.done rfl
  · refine ⟨_, b.next.trans (by rw [if_neg (by simp [answer]), none]), State.finish_frame _ _ _ _ _, b.done rfl⟩

/-! ### Device time -/

section Time

variable (c : Clocks)

theorem Clocks.endSlew_none {c : Clocks} (h : c.slew = none) : c.endSlew = c := by rw [Clocks.endSlew, h]

theorem Clocks.endSlew_some {c : Clocks} {w : Slew} (h : c.slew = some w) :
    c.endSlew = { c with corr := w.prev, slew := none } := by rw [Clocks.endSlew, h]

/-- Ending a slew changes the correction and the slew alone. -/
theorem Clocks.endSlew_frame : c.endSlew = { c with corr := c.endSlew.corr, slew := none } := by
  cases h : c.slew with
  | none => rw [Clocks.endSlew_none h, ← h]
  | some w => rw [Clocks.endSlew_some h]

@[simp] theorem Clocks.endSlew_slew : c.endSlew.slew = none := by rw [Clocks.endSlew_frame]

@[simp] theorem Clocks.endSlew_time : c.endSlew.time = c.time := by rw [Clocks.endSlew_frame]

@[simp] theorem Clocks.endSlew_onGptp : c.endSlew.onGptp = c.onGptp := by rw [Clocks.endSlew_frame]; rfl

/-- A slew by nothing is none (R58). -/
theorem Clocks.startSlew_zero (n : Nat) : c.startSlew 0 n = c := if_pos rfl

theorem Clocks.startSlew_slew {ns : Int} (h : ns ≠ 0) (n : Nat) :
    (c.startSlew ns n).slew = some { prev := c.corr, left := ns.natAbs * 2 ^ 32 } := by
  rw [Clocks.startSlew, if_neg h]

theorem Clocks.startSlew_corr {ns : Int} (h : ns ≠ 0) (n : Nat) :
    (c.startSlew ns n).corr = clampCorr (if 0 < ns then c.corr + n else c.corr - n) := by
  rw [Clocks.startSlew, if_neg h]

/-- A slew changes the correction and the slew alone. -/
theorem Clocks.startSlew_frame (ns : Int) (n : Nat) :
    c.startSlew ns n = { c with corr := (c.startSlew ns n).corr, slew := (c.startSlew ns n).slew } := by
  unfold Clocks.startSlew
  split <;> rfl

/-- From within ±500 ppm, twice the greatest correction moves to the bound (R55, R58). -/
theorem clampCorr_greatest {k : Int} (h : k.natAbs ≤ Config.maxCorrection) :
    clampCorr (k + (2 * Config.maxCorrection : Nat)) = Config.maxCorrection
    ∧ clampCorr (k - (2 * Config.maxCorrection : Nat)) = -Config.maxCorrection := by
  unfold clampCorr
  omega

theorem clampCorr_of_le {k : Int} (h : k.natAbs ≤ Config.maxCorrection) : clampCorr k = k := by
  unfold clampCorr
  omega

/-- One ICLK cycle of a slew adds its gain to what has been added (R58). -/
theorem Clocks.cycle_slew {c : Clocks} {w : Slew} (h : c.slew = some w) :
    c.cycle.slew = some { w with left := w.left - c.gain.natAbs } ∧ c.gain.natAbs ≤ w.left
    ∧ (c.corr ≠ w.prev → 0 < w.left → c.gain.natAbs ≠ 0) := by
  have gain : c.gain = max (-(w.left : Int)) (min (w.left : Int) (c.corr - w.prev)) := by rw [Clocks.gain, h]
  refine ⟨by simp [Clocks.cycle, h], ?_, fun moved rest => ?_⟩
  · rw [gain]; omega
  · rw [gain]; omega

end Time

/-- Device time moved to a target: the count, and every guard's next interval check after a forward step (R58, R62). -/
theorem State.stepTime_spec (s : State) (target : Nat) :
    (s.stepTime target).clk = { s.clk with time := BitVec.ofNat 64 target, frac := 0 }
    ∧ (s.stepTime target).fore = s.fore
    ∧ (s.now.toNat < target → ∀ x : CtxId, ((s.stepTime target).streams[x.val]).skipInterval = true) := by
  unfold State.stepTime
  refine ⟨?_, ?_, fun later x => ?_⟩
  · split <;> rfl
  · split <;> rfl
  · simp [later]

/-- The source HOST, with no slew in progress (R58). -/
def State.onHost (s : State) : State := s.setClk (fun k => k.endSlew.noServo .host)

/-- TIME_SET to HOST with MODE 2: the slew towards the target (R58). -/
def State.slewTo (s : State) (target : Nat) : State :=
  s.setClk (fun k => (k.endSlew.noServo .host).startSlew ((target : Int) - s.now.toNat) (2 * Config.maxCorrection))

/-- TIME_SET's completion with the device time that it leaves (R143). -/
def State.timeGiven (s : State) (id : Nat) : State := s.finish id stOk 0 s.now

theorem State.timeGiven_frame (s : State) (id : Nat) : s.timeGiven id = { s with fore := (s.timeGiven id).fore } := rfl

theorem State.Begins.timeGiven {s u : State} {id : Nat} {o : Opcode} {c : Cmd} (b : s.Begins id o c)
    (k : u.fore.taken = s.fore.taken) : Completed s (u.timeGiven id) id c stOk 0 u.now := b.done k

section TimeSet

variable {s : State} {id : Nat} {c : Cmd} (b : s.Begins id .timeSet c)
include b

theorem exec_timeSet_free (source : c.arg 16 1 = 0) :
    exec (.timeSet id) s
      = .next ((s.setClk (fun k => { k.endSlew.noServo .free with corr := 0 })).timeGiven id) := by
  refine b.next.trans ?_
  dsimp only
  rw [if_pos source]
  rfl

theorem exec_timeSet_gptp (p : Port4) (source : c.arg 16 1 = 2 + p.val) :
    exec (.timeSet id) s
      = .next (((s.setClk (fun k => { k.endSlew.noServo (.gptp p) with servo := .acquiring })).send
          (.gptp p (.announce gptpPriority1 false))).timeGiven id) := by
  have here : 2 ≤ c.arg 16 1 ∧ c.arg 16 1 < 6 := by omega
  have port : (⟨c.arg 16 1 - 2, by omega⟩ : Port4) = p := Fin.ext (by simp [source])
  refine b.next.trans ?_
  dsimp only
  rw [if_neg (by omega), dif_pos here, port]
  rfl

/-- TIME_SET to the source HOST, by its MODE (R58). -/
theorem exec_timeSet_host (source : c.arg 16 1 = 1) :
    exec (.timeSet id) s = .next (if c.arg 17 1 = 0 then s.onHost.timeGiven id
      else if s.clk.onGptp then (s.setClk Clocks.endSlew).finish id stNotPermitted 4 0
      else if c.arg 17 1 = 1 then
        if c.arg 24 8 < s.now.toNat ∧ s.anyOpen then (s.setClk Clocks.endSlew).finish id stNotPermitted 4 0
        else (s.onHost.stepTime (c.arg 24 8)).timeGiven id
      else (s.slewTo (c.arg 24 8)).timeGiven id) := by
  have now : (s.setClk Clocks.endSlew).now = s.now := s.clk.endSlew_time
  refine b.next.trans ?_
  dsimp only
  rw [if_neg (by omega), dif_neg (by omega), now, State.setClk_clk, Clocks.endSlew_onGptp]
  rfl

end TimeSet

/-- TIME_SET to HOST with a target time, where the source is not gPTP (R58). -/
theorem exec_timeSet_target {s : State} {id : Nat} {c : Cmd} (b : s.Begins id .timeSet c) (source : c.arg 16 1 = 1)
    (mode : c.arg 17 1 ≠ 0) (free : s.clk.onGptp = false) :
    exec (.timeSet id) s = .next (if c.arg 17 1 = 1 then
        if c.arg 24 8 < s.now.toNat ∧ s.anyOpen then (s.setClk Clocks.endSlew).finish id stNotPermitted 4 0
        else (s.onHost.stepTime (c.arg 24 8)).timeGiven id
      else (s.slewTo (c.arg 24 8)).timeGiven id) := by
  refine (exec_timeSet_host b source).trans ?_
  rw [if_neg mode, if_neg (by simp [free])]

/-- What a slew by `target` less device time leaves of the clocks (R58). -/
theorem Clocks.slewTo_spec (k : Clocks) (now target : Nat) :
    let n := k.startSlew ((target : Int) - now) (2 * Config.maxCorrection)
    n.time = k.time ∧ n.source = k.source
    ∧ (target = now → n = k)
    ∧ (now < target → n.slew = some { prev := k.corr, left := (target - now) * 2 ^ 32 }
        ∧ (k.corr.natAbs ≤ Config.maxCorrection → n.corr = Config.maxCorrection))
    ∧ (target < now → n.slew = some { prev := k.corr, left := (now - target) * 2 ^ 32 }
        ∧ (k.corr.natAbs ≤ Config.maxCorrection → n.corr = -Config.maxCorrection)) := by
  intro n
  have frame : n = _ := k.startSlew_frame _ _
  refine ⟨by rw [frame], by rw [frame], fun equal => ?_, fun later => ?_, fun earlier => ?_⟩
  · simp only [n, equal, Int.sub_self, Clocks.startSlew_zero]
  · have ne : (target : Int) - now ≠ 0 := by omega
    have left : ((target : Int) - now).natAbs = target - now := by omega
    refine ⟨by rw [Clocks.startSlew_slew k ne, left], fun near => ?_⟩
    rw [Clocks.startSlew_corr k ne, if_pos (by omega)]
    exact (clampCorr_greatest near).1
  · have ne : (target : Int) - now ≠ 0 := by omega
    have left : ((target : Int) - now).natAbs = now - target := by omega
    refine ⟨by rw [Clocks.startSlew_slew k ne, left], fun near => ?_⟩
    rw [Clocks.startSlew_corr k ne, if_neg (by omega)]
    exact (clampCorr_greatest near).2

/-- A command has one outcome. -/
theorem eq_of_next {x : Host.Outcome State Fault Refusal} {t u : State} (h : x = .next t) (k : x = .next u) : t = u := by
  rw [h] at k
  injection k

/-- Settles O27: TIME_SET's rows by source and mode; the end of a slew gives the correction before it back. -/
theorem timeSetting : Obligations.TimeSetting := by
  unfold Obligations.TimeSetting
  refine ⟨fun s id c b => ?_, fun s w run slew => ⟨fun whole => ?_, fun rest => ?_⟩, fun c => Clocks.endSlew_none,
    fun c w => Clocks.endSlew_some, fun c w slew => ?_⟩
  · have time : (s.clk.endSlew).time = s.now := s.clk.endSlew_time
    have kept := s.clk.endSlew_slew
    obtain ⟨t, row⟩ : ∃ t, exec (.timeSet id) s = .next t := ⟨_, b.next⟩
    refine ⟨t, row, fun free => ?_, fun p gptp => ?_, fun host mode => ?_, fun host mode gptp => ?_,
      fun host mode noGptp may => ?_, fun host mode noGptp earlier isOpen => ?_, fun host mode noGptp => ?_⟩
    · rw [eq_of_next row (exec_timeSet_free b free), ← time]
      exact ⟨b.timeGiven rfl, rfl, rfl, kept, rfl⟩
    · rw [eq_of_next row (exec_timeSet_gptp b p gptp), ← time]
      exact ⟨b.timeGiven rfl, rfl, rfl, rfl, kept, rfl, rfl⟩
    · have done := exec_timeSet_host b host
      rw [if_pos mode] at done
      rw [eq_of_next row done, ← time]
      exact ⟨b.timeGiven rfl, rfl, kept, rfl⟩
    · have refused := exec_timeSet_host b host
      rw [if_neg mode, if_pos gptp] at refused
      rw [eq_of_next row refused]
      exact ⟨b.done rfl, rfl, time⟩
    · have done := exec_timeSet_target b host (by omega) noGptp
      have ahead : ¬ (c.arg 24 8 < s.now.toNat ∧ s.anyOpen = true) := fun h =>
        may.elim (Nat.not_le_of_lt h.1) (by simp [h.2])
      rw [if_pos mode, if_neg ahead] at done
      obtain ⟨clk, fore, skips⟩ := s.onHost.stepTime_spec (c.arg 24 8)
      rw [show s.onHost.now = s.now from time] at skips
      generalize s.onHost.stepTime (c.arg 24 8) = u at done clk fore skips
      have now : u.now = BitVec.ofNat 64 (c.arg 24 8) := by rw [State.now, clk]
      rw [eq_of_next row done]
      exact ⟨b.timeGiven (congrArg Foreman.taken fore), now, congrArg Clocks.source clk, congrArg Clocks.frac clk,
        (congrArg Clocks.slew clk).trans kept, skips⟩
    · have refused := exec_timeSet_target b host (by omega) noGptp
      rw [if_pos mode, if_pos ⟨earlier, isOpen⟩] at refused
      rw [eq_of_next row refused]
      exact ⟨b.done rfl, rfl, time⟩
    · have done := exec_timeSet_target b host (by omega) noGptp
      rw [if_neg (by omega)] at done
      obtain ⟨same, source, equal, later, earlier⟩ := (s.clk.endSlew.noServo .host).slewTo_spec s.now.toNat (c.arg 24 8)
      have clk : (s.slewTo (c.arg 24 8)).clk = _ := State.setClk_clk _ _
      have fore : (s.slewTo (c.arg 24 8)).fore = s.fore := rfl
      generalize s.slewTo (c.arg 24 8) = u at done clk fore
      rw [← clk] at same source equal later earlier
      have now : u.now = s.now := same.trans time
      rw [eq_of_next row done]
      refine ⟨?_, now, source, fun h => ?_, later, earlier⟩
      · rw [← now]
        exact b.timeGiven (congrArg Foreman.taken fore)
      · have same : u.clk = s.clk.endSlew.noServo .host := equal h
        exact ⟨show u.clk.corr = _ by rw [same]; rfl, show u.clk.slew = none by rw [same]; exact kept⟩
  · exact (next_when_pos (by simp [run, slew, whole])).trans
      (by rw [State.setClk, Clocks.endSlew_some slew])
  · exact next_when_neg (by simp [slew, rest])
  · obtain ⟨cycle, gain, moves⟩ := Clocks.cycle_slew slew
    refine ⟨_, cycle, rfl, Nat.sub_add_cancel gain, fun moved rest => ?_⟩
    have := moves moved rest
    simp only
    omega

/-! ### The gPTP servo -/

/-- What a valid Sync makes of the clocks, whether the offset is stepped or slewed away (R59 to R61). -/
structure Synced (s : State) (m : SyncMeasure) (c : Clocks) : Prop where
  corr     : c.corr.natAbs ≤ Config.maxCorrection
  acquired : c.acquired = true
  offset   : c.offset = m.offset
  good     : c.goodSyncs = if m.offset.natAbs ≤ 1000 then if s.clk.servo = .holdover then 1 else s.clk.goodSyncs + 1 else 0
  servo    : c.servo = if s.clk.servo = .locked ∨ 8 ≤ c.goodSyncs then .locked else .acquiring

theorem Synced.synced {s : State} (m : SyncMeasure) {c : Clocks} (servo : c.servo = s.clk.servo)
    (good : c.goodSyncs = s.clk.goodSyncs) : Synced s m (c.synced m) where
  corr := natAbs_clampCorr_le _
  acquired := rfl
  offset := rfl
  good := by rw [← servo, ← good]; rfl
  servo := by rw [← servo]; rfl

theorem Synced.startSlew {s : State} {m : SyncMeasure} {c : Clocks} (h : Synced s m c) (ns : Int) (n : Nat) :
    Synced s m (c.startSlew ns n) := by
  unfold Clocks.startSlew
  split
  · exact h
  · exact ⟨natAbs_clampCorr_le _, h.acquired, h.offset, h.good, h.servo⟩

theorem exec_gptpSync {s : State} {p : Port4} {m : SyncMeasure} (run : s.rootRuns = true)
    (source : s.clk.source = .gptp p) (valid : syncValid m = true) :
    exec (.gptpSync p m) s = .next (if s.servoSteps m then
        (s.stepTime ((s.now.toNat : Int) - m.offset).toNat).setClk (fun c => c.synced m)
      else s.setClk (fun c => (c.synced m).startSlew (-m.offset) (max 1 m.slewBy))) :=
  next_when_pos (by simp [run, source, valid])

/-- Settles O28: a valid Sync steps where `servoSteps` and slews elsewhere; either way the clocks are `Synced`. -/
theorem gptpServo : Obligations.GptpServo := by
  unfold Obligations.GptpServo
  refine ⟨fun s p m run source => ⟨fun invalid => next_when_neg (by simp [invalid]), fun domain low high => ?_⟩,
    fun s p run source => ⟨next_when_pos (by simp [run, source]), next_when_pos (by simp [run, source]),
      fun d => next_when_pos (by simp [run, source])⟩, fun s run on => next_when_pos (by simp [run, on])⟩
  have row := exec_gptpSync run source (show syncValid m = true by simp [syncValid, domain, low, high])
  obtain ⟨t, ht⟩ : ∃ t, t = if s.servoSteps m then
        (s.stepTime ((s.now.toNat : Int) - m.offset).toNat).setClk (fun c => c.synced m)
      else s.setClk (fun c => (c.synced m).startSlew (-m.offset) (max 1 m.slewBy)) := ⟨_, rfl⟩
  rw [← ht] at row
  obtain ⟨clk, -, -⟩ := s.stepTime_spec ((s.now.toNat : Int) - m.offset).toNat
  have steps : s.servoSteps m = true → t.now = BitVec.ofNat 64 ((s.now.toNat : Int) - m.offset).toNat
      ∧ t.clk.slew = none := fun h => by
    rw [ht, if_pos h]
    exact ⟨congrArg Clocks.time clk, rfl⟩
  have slews : s.servoSteps m = false → t.clk = (s.clk.synced m).startSlew (-m.offset) (max 1 m.slewBy) := fun h => by
    rw [ht, if_neg (by simp [h]), State.setClk_clk]
  have synced : Synced s m t.clk := by
    cases h : s.servoSteps m with
    | true =>
      rw [ht, if_pos h, State.setClk_clk, clk]
      exact .synced m rfl rfl
    | false =>
      rw [slews h]
      exact (Synced.synced m rfl rfl).startSlew _ _
  refine ⟨t, row, fun far ahead => ?_, fun far behind quiet => ?_, fun near => ?_, synced.corr, fun exact_ => ?_,
    synced.acquired, synced.offset, fun far => ?_, fun near => ?_, ?_⟩
  · obtain ⟨now, slew⟩ := steps (by simp [State.servoSteps, far, ahead, Int.ne_of_lt ahead])
    refine ⟨now.trans (congrArg _ ?_), slew⟩
    omega
  · exact steps (by simp [State.servoSteps, far, quiet, Int.ne_of_gt behind])
  · have slewed := slews (by
      rcases near with ⟨acquired, small⟩ | ⟨behind, isOpen⟩
      · simp [State.servoSteps, acquired, Nat.not_lt_of_le small]
      · simp [State.servoSteps, isOpen, Int.le_of_lt behind])
    refine ⟨?_, fun moved => ?_⟩
    · rw [State.now, slewed, Clocks.startSlew_frame]
      rfl
    · rw [slewed, Clocks.startSlew_slew _ (by omega), Int.natAbs_neg]
      rfl
  · have slewed := slews (by simp [State.servoSteps, exact_])
    rw [exact_, Int.neg_zero, Clocks.startSlew_zero] at slewed
    rw [slewed]
    exact ⟨rfl, clampCorr_of_le⟩
  · rw [synced.good, if_neg (by omega)]
  · rw [synced.good, if_pos near]
  · rw [synced.servo]
    split <;> simp_all

end Sys2Proof.Machine

/-!
Stores, writes through mappings, MEM_MAP and MEM_UNMAP, firmware slots, and PROVISION (R71, R72, R99 to R102, R147,
R227, R230 to R236, R333, R335).
-/

namespace Sys2Proof.Machine

/-! ### Stores and writes -/

/-- Settles O31: a store's fuel covers its lines, and each line is as `storeLines_spec` says. -/
theorem storesWriteTheirBytes : Obligations.StoresWriteTheirBytes := by
  unfold Obligations.StoresWriteTheirBytes
  intro m k b wf low
  obtain ⟨m', n, e, stored, le, -, bytes, whole, fails, tags, -, others⟩ :=
    Memory.storeLines_spec (b.length / 256 + 2) m k b wf (by omega) low
  exact ⟨m', n, e, stored, le, bytes, whole, fails, tags, others⟩

/-- A write that succeeds is the write of its parts (R236). -/
theorem State.writeVa_ok {s u : State} {f : FnId} {k : Bool} {va n : Nat} {b : Bytes} {io : HostIo}
    (h : s.writeVa f k va b io = (u, n, none)) :
    s.writeSegs f (((s.fn f).segs va b.length).getD []) b = (u, n, none) := by
  unfold State.writeVa at h
  dsimp only at h
  cases limit : ioLimit ((s.fn f).touchesHost va b.length) io b.length with
  | none =>
    rw [limit] at h
    dsimp only at h
    generalize s.writeSegs f (((s.fn f).segs va b.length).getD []) b = r at h ⊢
    obtain ⟨t, m, e⟩ := r
    cases e with
    | none => exact h
    | some d => simp at h
  | some l =>
    rw [limit] at h
    dsimp only at h
    generalize s.writeSegs f (((s.fn f).segs va b.length).getD []) (b.take l) = r at h
    obtain ⟨t, m, e⟩ := r
    cases e with
    | none => simp at h
    | some d => simp at h

/-- A write through a range's parts, whether or not the whole range is mapped, keeps every byte outside it. -/
theorem State.writeSegs_outside (s : State) (f : FnId) (va : Nat) (b : Bytes) (wf : s.mem.wf = true)
    (calm : s.mem.upsets = []) (top : va + b.length ≤ 2 ^ 48) :
    let r := (s.writeSegs f (((s.fn f).segs va b.length).getD []) b).1
    s.sent <:+ r.sent
    ∧ ∀ a, (a < memKey f va ∨ memKey f va + b.length ≤ a) → r.mem.byte a = s.mem.byte a := by
  intro r
  cases segs : (s.fn f).segs va b.length with
  | none =>
    have same : r = s := by simp only [r, segs, Option.getD_none, State.writeSegs]
    rw [same]
    exact ⟨List.suffix_refl _, fun _ _ => rfl⟩
  | some l =>
    simp only [r, segs, Option.getD_some]
    exact (State.writeSegs_stays (s.fn f) f _ va b.length l segs s b wf calm top).2

/-- Settles O32: the write is the write of the range's parts, which keeps every byte outside the range. -/
theorem writesStayInTheirRange : Obligations.WritesStayInTheirRange := by
  unfold Obligations.WritesStayInTheirRange
  intro s u f k va n b io wf calm top written
  have parts := State.writeVa_ok written
  obtain ⟨sent, outside⟩ := s.writeSegs_outside f va b wf calm top
  obtain ⟨mem, sent', frame⟩ := s.writeSegs_frame f (((s.fn f).segs va b.length).getD []) b calm
  rw [parts] at sent outside frame
  refine ⟨fun va' _ apart => outside _ ?_, fun g va' ne low => outside _ ?_, ?_, sent⟩
  · unfold memKey
    omega
  · have : g.val ≠ f.val := fun q => ne (Fin.ext q)
    unfold memKey
    omega
  · rw [show u = _ from frame]

/-! ### MEM_MAP and MEM_UNMAP -/

section Map

variable {s : State} {id : Nat} {c : Cmd}

/-- MEM_MAP by the first test that it fails (R72, R232). -/
theorem exec_memMap (b : s.Begins id .memMap c) : exec (.memMap id) s = .next (
    let m := c.mapping
    if (s.fn c.fn).taken m.va m.size then s.finish id stBadParam 0xFFFF 0
    else if s.boot.recovery && (!m.host || decide (16 ≤ ((s.fn c.fn).maps.filter (·.host)).length)) then
      s.finish id stNoResource 2 0
    else if m.host then (s.addMapping c.fn m).finish id stOk 0 0
    else if s.quotaMib c.fn * 1024 < (s.fn c.fn).chargedKib + m.size / 1024 then s.finish id stNoResource 2 0
    else match s.allocMapping c.fn m with
      | none => s.finish id stNoResource 2 0
      | some t => (t.addMapping c.fn m).finish id stOk 0 0) :=
  b.next

theorem State.fn_of_fns {s t : State} (h : t.fns = s.fns) (f : FnId) : t.fn f = s.fn f := by
  rw [State.fn, h, State.fn]

theorem State.addMapping_eq (s : State) (f : FnId) (m : Mapping) :
    s.addMapping f m = { s.setFn f (fun x => { x with maps := m :: x.maps }) with
      mem := if m.host then s.mem else s.mem.zero (memKey f m.va) m.size } := by
  unfold State.addMapping
  split <;> rfl

theorem State.addMapping_spec (s : State) (f : FnId) (m : Mapping) :
    (s.addMapping f m).fore = s.fore ∧ ((s.addMapping f m).fn f).maps = m :: (s.fn f).maps
    ∧ (∀ g, g ≠ f → (s.addMapping f m).fn g = s.fn g)
    ∧ (s.addMapping f m).mem = if m.host then s.mem else s.mem.zero (memKey f m.va) m.size := by
  rw [State.addMapping_eq]
  exact ⟨rfl, congrArg Fn.maps (State.setFn_fn s f (fun x => { x with maps := m :: x.maps })),
    fun g ne => (State.fn_of_fns (s := s.setFn f (fun x => { x with maps := m :: x.maps })) rfl g).trans
      (State.setFn_fn_other s f g _ ne.symm), rfl⟩

/-- A mapping added before the completion (R232). -/
theorem State.Begins.addMapping (b : s.Begins id .memMap c) {u : State} (fore : u.fore = s.fore) (fns : u.fns = s.fns)
    (mem : u.mem = s.mem) (m : Mapping) :
    let t := (u.addMapping c.fn m).finish id stOk 0 0
    Completed s t id c stOk 0 0 ∧ (t.fn c.fn).maps = m :: (s.fn c.fn).maps ∧ (∀ g, g ≠ c.fn → t.fn g = s.fn g)
    ∧ t.mem = if m.host then s.mem else s.mem.zero (memKey c.fn m.va) m.size := by
  obtain ⟨fore', maps, others, mem'⟩ := u.addMapping_spec c.fn m
  have same := State.fn_of_fns fns
  rw [mem] at mem'
  refine ⟨b.done ((congrArg Foreman.taken fore').trans (congrArg Foreman.taken fore)), ?_, fun g ne => ?_, mem'⟩
  · exact (show _ = ((u.addMapping c.fn m).fn c.fn).maps from rfl).trans (by rw [maps, same])
  · exact (others g ne).trans (same g)

end Map

/-- The recovery service's MEM_MAP: host windows alone, 16 of them (R72). -/
theorem memMap_recovery (s : State) (id : Nat) (c : Cmd) (b : s.Begins id .memMap c) (recovery : s.boot.recovery = true) :
    let m := c.mapping
    let windows := ((s.fn c.fn).maps.filter (·.host)).length
    ∃ t, exec (.memMap id) s = .next t
      ∧ ((s.fn c.fn).taken m.va m.size = true → Completed s t id c stBadParam 0xFFFF 0 ∧ t.fns = s.fns)
      ∧ ((s.fn c.fn).taken m.va m.size = false → m.host = false ∨ 16 ≤ windows →
          Completed s t id c stNoResource 2 0 ∧ t.fns = s.fns)
      ∧ ((s.fn c.fn).taken m.va m.size = false → m.host = true → windows < 16 →
          Completed s t id c stOk 0 0 ∧ (t.fn c.fn).maps = m :: (s.fn c.fn).maps ∧ t.mem = s.mem) := by
  intro m windows
  refine ⟨_, exec_memMap b, fun taken => ?_, fun free outside => ?_, fun free window few => ?_⟩
  · rw [if_pos taken]
    exact ⟨b.done rfl, rfl⟩
  · rw [if_neg (by simpa using free), if_pos (by simpa [recovery] using outside)]
    exact ⟨b.done rfl, rfl⟩
  · rw [if_neg (by simpa using free), if_neg (by simpa [recovery] using And.intro window few), if_pos window]
    obtain ⟨done, maps, -, mem⟩ := b.addMapping rfl rfl rfl c.mapping
    rw [if_pos window] at mem
    exact ⟨done, maps, mem⟩

/-- MEM_MAP outside the recovery service (R232). -/
theorem memMap_spec (s : State) (id : Nat) (c : Cmd) (b : s.Begins id .memMap c) (wf : s.mem.wf = true)
    (recovery : s.boot.recovery = false) :
    let m := c.mapping
    ∃ t, exec (.memMap id) s = .next t
      ∧ ((s.fn c.fn).taken m.va m.size = true → Completed s t id c stBadParam 0xFFFF 0 ∧ t.fns = s.fns ∧ t.mem = s.mem)
      ∧ ((s.fn c.fn).taken m.va m.size = false → m.host = true →
          Completed s t id c stOk 0 0 ∧ (t.fn c.fn).maps = m :: (s.fn c.fn).maps ∧ t.mem = s.mem)
      ∧ ((s.fn c.fn).taken m.va m.size = false → m.host = false →
          s.quotaMib c.fn * 1024 < (s.fn c.fn).chargedKib + m.size / 1024 →
          Completed s t id c stNoResource 2 0 ∧ t.fns = s.fns ∧ t.mem = s.mem)
      ∧ ((s.fn c.fn).taken m.va m.size = false → m.host = false →
          (s.fn c.fn).chargedKib + m.size / 1024 ≤ s.quotaMib c.fn * 1024 → (s.allocMapping c.fn m).isSome = true →
          Completed s t id c stOk 0 0 ∧ (t.fn c.fn).maps = m :: (s.fn c.fn).maps
          ∧ (∀ g, g ≠ c.fn → t.fn g = s.fn g)
          ∧ ∀ a, t.mem.byte a = if memKey c.fn m.va ≤ a ∧ a < memKey c.fn m.va + m.size then 0 else s.mem.byte a) := by
  intro m
  refine ⟨_, exec_memMap b, fun taken => ?_, fun free window => ?_, fun free device short => ?_,
    fun free device fits backed => ?_⟩
  · rw [if_pos taken]
    exact ⟨b.done rfl, rfl, rfl⟩
  · rw [if_neg (by simpa using free), if_neg (by simp [recovery]), if_pos window]
    obtain ⟨done, maps, -, mem⟩ := b.addMapping rfl rfl rfl c.mapping
    rw [if_pos window] at mem
    exact ⟨done, maps, mem⟩
  · rw [if_neg (by simpa using free), if_neg (by simp [recovery]), if_neg (by simpa using device), if_pos short]
    exact ⟨b.done rfl, rfl, rfl⟩
  · rw [if_neg (by simpa using free), if_neg (by simp [recovery]), if_neg (by simpa using device),
      if_neg (Nat.not_lt_of_le fits)]
    obtain ⟨u, alloc⟩ := Option.isSome_iff_exists.mp backed
    obtain ⟨fore, fns, mem⟩ := State.allocMapping_frame _ _ _ _ alloc
    obtain ⟨done, maps, others, mem'⟩ := b.addMapping fore fns mem c.mapping
    rw [if_neg (by simpa using device)] at mem'
    simp only [show s.allocMapping c.fn c.mapping = some u from alloc]
    exact ⟨done, maps, others, fun a => by rw [mem', Memory.zero_byte _ _ _ _ wf]⟩

theorem memUnmap_spec (s : State) (id : Nat) (c : Cmd) (b : s.Begins id .memUnmap c) (wf : s.mem.wf = true) :
    let va := c.arg 16 8
    let n := c.arg 24 8
    ∃ t, exec (.memUnmap id) s = .next t
      ∧ ((s.fn c.fn).wholeMappings va n = false → Completed s t id c stBadParam 0xFFFF 0 ∧ t.fns = s.fns ∧ t.mem = s.mem)
      ∧ ((s.fn c.fn).wholeMappings va n = true → s.rangeUsed id c.fn va n = true →
          Completed s t id c stBusy 8 0 ∧ t.fns = s.fns ∧ t.mem = s.mem)
      ∧ ((s.fn c.fn).wholeMappings va n = true → s.rangeUsed id c.fn va n = false →
          Completed s t id c stOk 0 0
          ∧ (∀ m, m ∈ (t.fn c.fn).maps ↔ m ∈ (s.fn c.fn).maps ∧ overlap m.va m.size va n = false)
          ∧ (∀ g, g ≠ c.fn → t.fn g = s.fn g)
          ∧ (∀ m ∈ (s.fn c.fn).touched va n, m.host = false → ∀ i, i < m.size →
              t.mem.byte (memKey c.fn (m.va + i)) = 0)
          ∧ (∀ a, (a < memKey c.fn va ∨ memKey c.fn va + n ≤ a) → t.mem.byte a = s.mem.byte a)) := by
  intro va n
  refine ⟨_, b.next, fun cut => ?_, fun whole used => ?_, fun whole unused => ?_⟩
  · rw [if_pos (by simpa using cut)]
    exact ⟨b.done rfl, rfl, rfl⟩
  · rw [if_neg (by simpa using whole), if_pos used]
    exact ⟨b.done rfl, rfl, rfl⟩
  · rw [if_neg (by simpa using whole), if_neg (by simpa using unused)]
    obtain ⟨fore, maps, others, -, bytes⟩ := State.dropMappings_facts c.fn ((s.fn c.fn).touched va n) s wf
    generalize ((s.fn c.fn).touched va n).foldl (fun s m => s.dropMapping c.fn m) s = u at fore maps others bytes ⊢
    have within : ∀ m ∈ (s.fn c.fn).touched va n, va ≤ m.va ∧ m.va + m.size ≤ va + n := by
      simp only [Fn.wholeMappings, Bool.and_eq_true, List.all_eq_true, decide_eq_true_eq] at whole
      exact whole.1.1.1
    refine ⟨b.done (congrArg Foreman.taken fore), fun m => ?_, others, fun m touched device i inside => ?_, fun a apart => ?_⟩
    · refine (maps m).trans (and_congr_right fun held => ?_)
      simp [Fn.touched, held]
    · refine (bytes _).trans (if_pos ⟨m, touched, device, ?_⟩)
      unfold memKey
      omega
    · refine (bytes a).trans (if_neg ?_)
      rintro ⟨m, touched, -, inside⟩
      have := within m touched
      unfold memKey at *
      omega

/-- Settles O34: each row is the first test that the command fails, else the change of the mappings. -/
theorem mapping : Obligations.Mapping := by
  unfold Obligations.Mapping
  exact ⟨memMap_spec, memMap_recovery, memUnmap_spec⟩

/-! ### Firmware slots -/

/-- Reading device memory without flipped bits only sends requests (R226, R235). -/
theorem State.access_calm (s : State) (f : FnId) (va n : Nat) (calm : s.mem.upsets = []) :
    ∃ sent, s.access f va n = { s with sent := sent } := by
  unfold State.access
  generalize ((s.fn f).segs va n).getD [] = segs
  induction segs generalizing s with
  | nil => exact ⟨s.sent, rfl⟩
  | cons g r ih =>
    rw [List.foldl_cons]
    split
    · obtain ⟨sent, e⟩ := ih (s.send _) calm
      exact ⟨sent, e⟩
    · rw [State.senseRange_calm _ _ _ calm]
      exact ih s calm

/-- A slot after a FIRMWARE_STAGE that was read (R147). -/
def slotOf (g : FwImage) : FlashSlot :=
  { signed := true, rollback := g.rollback, version := g.version, staged := true }

/-- FIRMWARE_STAGE's last test, on the state that has read the image: its signature and rollback (R71, R147). -/
def State.stage (s : State) (id : Nat) (n : Fin 2) : ImageRead FwImage → State
  | .hostFail _ => s
  | .badSignature => (s.setSlot n (fun x => { x with signed := false, staged := false })).finish id stIntegrity 0x0100 0
  | .image g =>
    if g.rollback < s.fixed.rollback then
      (s.setSlot n (fun x => { x with rollback := g.rollback, version := g.version, signed := false, staged := false })).finish
        id stIntegrity 0x0100 0
    else (s.setSlot n (fun _ => slotOf g)).finish id stOk 0 (BitVec.ofNat 64 n.val)

/-- A read depends on memory and the functions alone. -/
theorem State.readSegs_congr {s t : State} {f : FnId} {r : List Seg} {host : Bytes} (mem : t.mem = s.mem) :
    t.readSegs f r host = s.readSegs f r host := by
  induction r generalizing host with
  | nil => rfl
  | cons g r ih => simp only [State.readSegs, ih, mem]

theorem State.readVa_congr {s t : State} {f : FnId} {va n : Nat} {host : Bytes} (mem : t.mem = s.mem)
    (fns : t.fns = s.fns) : t.readVa f va n host = s.readVa f va n host := by
  have fn := State.fn_of_fns fns f
  rw [State.readVa, fn, State.readSegs_congr mem, State.readVa]

theorem State.imageRead_congr {s t : State} {f : FnId} {va n : Nat} {k : Bool} (mem : t.mem = s.mem)
    (fns : t.fns = s.fns) : t.imageRead f va n k = s.imageRead f va n k := by
  have fn := State.fn_of_fns fns f
  rw [State.imageRead, fn, State.readVa_congr mem fns, State.imageRead]

theorem exec_firmwareStage {s : State} {id : Nat} {c : Cmd} {n : Fin 2} {img : ImageRead FwImage}
    (b : s.Begins id .firmwareStage c) (spans : (s.fn c.fn).spans (c.arg 24 8) (c.arg 32 4) .rd false = true)
    (slot : s.stageSlot (c.arg 16 1) = some n) (alone : s.staging id = false)
    (read : s.imageRead c.fn (c.arg 24 8) (c.arg 32 4) (ImageRead.hostFailed img) = none) (calm : s.mem.upsets = []) :
    ∃ sent, exec (.firmwareStage id img) s = .next (({ s with sent := sent } : State).stage id n img) := by
  obtain ⟨sent, e⟩ := s.access_calm c.fn (c.arg 24 8) (c.arg 32 4) calm
  have read' : ({ s with sent := sent } : State).imageRead c.fn (c.arg 24 8) (c.arg 32 4) (ImageRead.hostFailed img)
      = none := by
    rw [← read]
    exact State.imageRead_congr rfl rfl
  refine ⟨sent, b.next.trans ?_⟩
  dsimp only
  rw [if_neg (by simp [spans]), slot]
  dsimp only
  rw [if_neg (by simp [alone]), e, read']
  cases img <;> rfl

theorem State.setSlot_slots (s : State) (n : Fin 2) (g : FlashSlot → FlashSlot) :
    (s.setSlot n g).flash.slots[n.val] = g s.flash.slots[n.val]
    ∧ (s.setSlot n g).flash.slots[(otherSlot n).val] = s.flash.slots[(otherSlot n).val]
    ∧ (s.setSlot n g).flash.selected = s.flash.selected := by
  have ne : n.val ≠ (otherSlot n).val := fun q => otherSlot_ne n (Fin.ext q.symm)
  exact ⟨by simp [State.setSlot], by simp [State.setSlot, ne], rfl⟩

theorem firmwareStage_spec (s : State) (id : Nat) (c : Cmd) (n : Fin 2) (img : ImageRead FwImage)
    (b : s.Begins id .firmwareStage c) (spans : (s.fn c.fn).spans (c.arg 24 8) (c.arg 32 4) .rd false = true)
    (slot : s.stageSlot (c.arg 16 1) = some n) (alone : s.staging id = false)
    (read : s.imageRead c.fn (c.arg 24 8) (c.arg 32 4) (ImageRead.hostFailed img) = none) (calm : s.mem.upsets = []) :
    ∃ t, exec (.firmwareStage id img) s = .next t
      ∧ (∀ g, img = .image g → s.fixed.rollback ≤ g.rollback → Completed s t id c stOk 0 (BitVec.ofNat 64 n.val)
          ∧ t.flash.slots[n.val] = { signed := true, rollback := g.rollback, version := g.version, staged := true }
          ∧ t.flash.slots[(otherSlot n).val] = s.flash.slots[(otherSlot n).val] ∧ t.flash.selected = s.flash.selected)
      ∧ (∀ g, img = .image g → g.rollback < s.fixed.rollback → Completed s t id c stIntegrity 0x0100 0
          ∧ (t.flash.slots[n.val]).signed = false ∧ (t.flash.slots[n.val]).staged = false)
      ∧ (img = .badSignature → Completed s t id c stIntegrity 0x0100 0
          ∧ (t.flash.slots[n.val]).signed = false ∧ (t.flash.slots[n.val]).staged = false) := by
  obtain ⟨sent, row⟩ := exec_firmwareStage b spans slot alone read calm
  refine ⟨_, row, fun g image fresh => ?_, fun g image old => ?_, fun bad => ?_⟩
  · subst image
    rw [State.stage, if_neg (Nat.not_lt_of_le fresh)]
    exact ⟨b.done rfl, State.setSlot_slots ({ s with sent := sent } : State) n (fun _ => slotOf g)⟩
  · subst image
    rw [State.stage, if_pos old]
    obtain ⟨own, -, -⟩ := State.setSlot_slots ({ s with sent := sent } : State) n
      (fun x => { x with rollback := g.rollback, version := g.version, signed := false, staged := false })
    exact ⟨b.done rfl, congrArg FlashSlot.signed own, congrArg FlashSlot.staged own⟩
  · subst bad
    rw [State.stage]
    obtain ⟨own, -, -⟩ := State.setSlot_slots ({ s with sent := sent } : State) n
      (fun x => { x with signed := false, staged := false })
    exact ⟨b.done rfl, congrArg FlashSlot.signed own, congrArg FlashSlot.staged own⟩

/-- Settles O30: a stage that was read ends in `stage`; a commit selects a staged slot. -/
theorem firmwareSlots : Obligations.FirmwareSlots := by
  unfold Obligations.FirmwareSlots
  refine ⟨firmwareStage_spec, fun s id c n b arg => ?_⟩
  refine ⟨_, b.next, fun staged => ?_, fun unstaged => ?_⟩
  · simp only [arg, Fin.ofNat_val_eq_self, staged, if_true]
    exact ⟨b.done rfl, rfl, rfl⟩
  · simp only [arg, Fin.ofNat_val_eq_self, unstaged]
    exact ⟨b.done rfl, rfl⟩

/-! ### PROVISION -/

/-- PROVISION of VF 1 with nothing in it, by Port A's PF. -/
def bareProvision : Cmd :=
  { id := 1, fn := 0, sq := 0, cq := 0, opcode := 7, flags := 0, cls := 0, seq := 0, deadline := 0
    desc := zeros 16 ++ [1] ++ zeros 47, block := [], phase := .begun, badBlock := false }

/-- A command of class 2 that VF 1 has had taken. -/
def class2Taken : Cmd := { bareProvision with id := 0, fn := 1, cls := 2, opcode := 0 }

/-- VF 1 has safety authority and a command of class 2, and a PROVISION takes the authority away. -/
def losesAuthority : State :=
  ({ clk := { rootLocked := true }, fore := { taken := [bareProvision, class2Taken] } } : State).setFn 1 (fun x =>
    { x with provision := some { vengines := 0, maxTally := 8, memMib := 0, kvPages := 0, streamMask := 0, safetyAuth := true } })

/-- The command of a number after an outcome. -/
def cmdAfter (id : Nat) : Host.Outcome State Fault Refusal → Option Cmd
  | .next t => t.cmd id
  | _ => none

theorem losesAuthority_begins : losesAuthority.Begins 1 .provision bareProvision := by
  constructor <;> decide +kernel

/-- Refutes O29: a PROVISION that takes a VF's safety authority away marks the VF's commands of class 2 as excused
(R102), so it changes another command than its own. -/
theorem not_provisionAndSafetyConfig : ¬ Obligations.ProvisionAndSafetyConfig := by
  unfold Obligations.ProvisionAndSafetyConfig
  rintro ⟨provision, -⟩
  obtain ⟨t, row, -, -, fits⟩ := provision losesAuthority 1 bareProvision losesAuthority_begins
  obtain ⟨⟨-, other⟩, -⟩ := fits (by decide +kernel) (by decide +kernel)
  have same := other 0 (by decide)
  have excused : (cmdAfter 0 (exec (.provision 1) losesAuthority)).map Cmd.excused = some true := by decide +kernel
  have before : (losesAuthority.cmd 0).map Cmd.excused = some false := by decide +kernel
  rw [row, cmdAfter, same, before] at excused
  cases excused

end Sys2Proof.Machine

/-!
Faults that take a die to the safe state, the clock monitors and the lamp die's own reset.
-/

namespace Sys2Proof.Machine

/-! ## Events that take a die to the safe state -/

/-- A reaction timer that runs over ends in the safe state, and no timer of its source is left. -/
theorem reactionExpired_safe (s : State) (src : Nat) (tm : ReactionTimer) (run : s.rootRuns = true)
    (running : s.fcu.timerOf src = some tm) (edge : s.fcu.isEdge src .reactionExpired = true) :
    ∃ t, exec (.reactionExpired src) s = .next t ∧ t.safe = true ∧ ∀ x ∈ t.fcu.timers, x.source ≠ src := by
  refine ⟨_, next_when_pos run, ?_⟩
  rw [running]
  dsimp only
  let u : State := { s with fcu := { s.fcu with timers := s.fcu.timers.filter (fun t => t.source != src) } }
  let r : Raise := { source := src, event := .reactionExpired, owner := tm.owner, class2 := tm.class2,
                     context := some tm.context }
  obtain ⟨_, fatal, -, -, -, -, -, -, -, -, timers⟩ := u.raiseFcu_spec r run edge
  obtain ⟨tier, kept⟩ := u.fcu.capture_fatal r (r.time.getD u.now) u.fore.safety.reactionUs u.safe rfl
    (baseTier_reactionExpired src)
  refine ⟨fatal tier, fun x hx => ?_⟩
  have old := timers x hx
  rw [kept] at old
  exact bne_iff_ne.1 (List.mem_filter.1 old).2

/-- The lamp die's safe state leaves the shadow timers. -/
theorem State.lampSafe_shadows (s : State) (k : Nat) : (s.lampSafe k).lamp.shadows = s.lamp.shadows := by
  cases h : s.lamp.safe with
  | true => rw [State.lampSafe, if_pos h]
  | false =>
    obtain ⟨can, sent, e⟩ := s.lampSafe_frame k h
    rw [e]

/-- A shadow timer that expires takes the lamp die to the safe state, and is gone. -/
theorem shadowTimerExpired_safe (s : State) (src : Nat) (run : s.lampRuns = true) (running : src ∈ s.lamp.shadows) :
    ∃ t, exec (.shadowTimerExpired src) s = .next t ∧ t.lamp.safe = true ∧ src ∉ t.lamp.shadows
      ∧ (s.lamp.safe = false → t.lampDrivesLow = true) := by
  refine ⟨_, next_when_pos (by simp [run, running]), ?_⟩
  generalize hu : s.setLamp (fun l => { l with shadows := l.shadows.filter (· != src) }) = u
  refine ⟨u.lampSafe_safe _, ?_, fun safe => u.lampSafe_low _ (by subst hu; exact safe)⟩
  rw [State.lampSafe_shadows]
  subst hu
  simp [State.setLamp]

/-- Settles O44: the Fatal events of the rootstock by `State.raiseFcu_spec`, those of the lamp die by
`State.raise_lamp_fatal`. -/
theorem fatalEvents : Obligations.FatalEvents := by
  unfold Obligations.FatalEvents
  refine ⟨reactionExpired_safe, fun s src run none => ?_, shadowTimerExpired_safe, fun s run => ?_, fun s run => ?_⟩
  · show Host.Outcome.next _ = _
    rw [none]
    simp [State.when]
  · refine ⟨fun boot night => ?_, fun boot night => ?_, fun boot => ?_, fun armed rail => ?_, fun halted => ?_⟩
    · exact (next_when_pos (by rw [run, boot]; rfl)).trans (by rw [if_pos night]; rfl)
    · obtain ⟨safe, -, -, record⟩ := s.raise_lamp_fatal { source := 0x506, event := .externalFault } (by decide) rfl
      refine ⟨_, (next_when_pos (by rw [run, boot]; rfl)).trans (by rw [if_neg (by simp [night])]; rfl), safe, record⟩
    · exact next_when_neg (by simp [boot])
    · obtain ⟨safe, -, -, record⟩ := s.raise_lamp_fatal { source := 0x520 + rail.val, event := .voltageMonitor }
        ((by decide : ∀ n : Fin 10, lampSource (0x520 + n.val) = true) rail) rfl
      exact ⟨_, next_when_pos (by simp [run, armed]), safe, record⟩
    · obtain ⟨safe, -, stays, -⟩ := (s.setLamp (fun l => { l with halted := true })).raise_lamp_fatal
        { source := 0x500, event := .lockstepMismatch } (by decide) rfl
      exact ⟨_, next_when_pos (by simp [run, halted]), safe, stays⟩
  · have pair : ∀ (g : Foreman → Foreman) (src : Nat), lampSource src = false →
        s.fcu.isEdge src .lockstepMismatch = true → baseTier src .lockstepMismatch = 3 →
        ((s.setFore g).raiseWide src .lockstepMismatch).safe = true
        ∧ ((s.setFore g).raiseWide src .lockstepMismatch).fore.f0Halted = (g s.fore).f0Halted
        ∧ ((s.setFore g).raiseWide src .lockstepMismatch).fore.f1Halted = (g s.fore).f1Halted := by
      intro g src root edge tier
      refine ⟨State.raiseWide_fatal _ src _ run root edge rfl tier, ?_⟩
      unfold State.raiseWide State.raise
      rw [if_neg (by simp [root])]
      exact State.raiseFcu_halted _ _
    constructor <;> intro halted edge
    · obtain ⟨safe, h0, -⟩ := pair (fun x => { x with f0Halted := true }) 0x010 (by decide) edge rfl
      exact ⟨_, next_when_pos (by simp [run, halted]), safe, h0⟩
    · obtain ⟨safe, -, h1⟩ := pair (fun x => { x with f1Halted := true }) 0x011 (by decide) edge rfl
      exact ⟨_, next_when_pos (by simp [run, halted]), safe, h1⟩

/-! ## The lamp die's own reset -/

/-- No event touches a watchdog. -/
theorem State.raise_wdogs (s : State) (r : Raise) : (s.raise r).wdog = s.wdog := by
  obtain ⟨-, -, -, -, -, wdog, -⟩ := (s.raise_raised r).same
  exact wdog

/-- What the rootstock's loss of the lamp seam leaves of the lamp die: everything but its own record of the loss and the
messages that it sends. -/
theorem State.rootLosesSeam_lamp (s : State) :
    (s.rootLosesSeam).can = s.can ∧ (s.rootLosesSeam).wdog = s.wdog
      ∧ (s.rootLosesSeam).lampDrivesLow = s.lampDrivesLow
      ∧ { (s.rootLosesSeam).lamp with toLamp := [] }
        = { s.lamp with rootSide := { s.lamp.rootSide with lost := true }, toLamp := [] } := by
  unfold State.rootLosesSeam
  split
  next lost =>
    refine ⟨rfl, rfl, rfl, ?_⟩
    have : s.lamp.rootSide = { s.lamp.rootSide with lost := true } := by rw [← lost]
    rw [← this]
  next =>
    obtain ⟨can, low, lamp⟩ := State.raise_root (s.setLamp (fun l => { l with rootSide := { l.rootSide with lost := true } }))
      { source := 0x003, event := .lampSeamLost } (by decide)
    exact ⟨can, State.raise_wdogs _ _, low, lamp⟩

theorem State.rootLosesSeam_lost (s : State) : (s.rootLosesSeam).lamp.rootSide.lost = true :=
  congrArg (fun l => l.rootSide.lost) s.rootLosesSeam_lamp.2.2.2

/-- Settles O41: the lamp die starts as at reset, and the rootstock's loss of the seam touches nothing of it
(`State.rootLosesSeam_lamp`). -/
theorem lampDieReset : Obligations.LampDieReset := by
  unfold Obligations.LampDieReset
  intro s run
  refine ⟨_, next_when_pos run, ?_⟩
  dsimp only
  generalize hu : ({ s with
       lamp := { rootSide := s.lamp.rootSide }
       can := Vector.ofFn (fun b => CanBus.start s.fixed b)
       wdog := Vector.replicate 3 (Wdog.start s.fixed.wdogHwStart false) } : State) = u
  have fresh : ∀ t : State, t = u ∨ t = u.rootLosesSeam → t.can = u.can ∧ t.wdog = u.wdog
      ∧ t.lamp.safe = false ∧ t.lamp.booted = false ∧ t.lamp.onLosc = false := by
    rintro t (rfl | rfl)
    · subst hu; exact ⟨rfl, rfl, rfl, rfl, rfl⟩
    · obtain ⟨can, wdog, -, lamp⟩ := u.rootLosesSeam_lamp
      subst hu
      exact ⟨can, wdog, congrArg Lamp.safe lamp, congrArg Lamp.booted lamp, congrArg Lamp.onLosc lamp⟩
  have runs : u.rootRuns = s.rootRuns := by subst hu; rfl
  generalize ht : (if u.rootRuns then u.rootLosesSeam else u) = t
  obtain ⟨can, wdog, safe, booted, losc⟩ := fresh t (by subst ht; split <;> simp)
  refine ⟨safe, booted, losc, fun w => ?_, fun b => ?_, fun root => ?_, fun safe => ?_, fun root => ?_⟩
  · simp only [State.setLamp, wdog]
    subst hu
    simp [Wdog.start]
  · simp only [State.setLamp, can]
    subst hu
    simp [CanBus.start]
  · subst ht
    rw [runs, if_pos root]
    exact u.rootLosesSeam_lost
  · exact if_pos safe
  · subst ht
    rw [runs, if_neg (by simp [root])]
    subst hu
    rfl

/-! ## The clock monitors -/

/-- A lamp die that is in the safe state already only reports a lamp source's event. -/
theorem State.raise_of_lampSafe (s : State) (r : Raise) (source : lampSource r.source = true) (safe : s.lamp.safe = true) :
    ∃ q, s.raise r = { s with lamp := { s.lamp with toRoot := q } } := by
  unfold State.raise State.raiseLamp
  rw [if_pos source]
  dsimp only
  obtain ⟨q, hq⟩ : ∃ q, (if s.lamp.seamLost then s else s.setLamp (fun l => { l with
      toRoot := l.toRoot ++ [.record r.source r.event r.owner s.now r.injected r.stays] }))
      = { s with lamp := { s.lamp with toRoot := q } } := by
    split
    · exact ⟨s.lamp.toRoot, rfl⟩
    · exact ⟨_, rfl⟩
  refine ⟨q, ?_⟩
  rw [hq]
  split
  · rw [State.lampSafe, if_pos safe]
  · rfl

/-- An event of a lamp source is reported to the FCU while the seam carries messages. -/
theorem State.raise_lamp_record (s : State) (r : Raise) (source : lampSource r.source = true) (seam : s.lamp.seamLost = false) :
    .record r.source r.event r.owner s.now r.injected r.stays ∈ (s.raise r).lamp.toRoot := by
  unfold State.raise State.raiseLamp
  rw [if_pos source, seam]
  dsimp only
  split
  · have kept : ∀ (u : State) (k : Nat) (m : SeamMsg), m ∈ u.lamp.toRoot → m ∈ (u.lampSafe k).lamp.toRoot := by
      intro u k m hm
      cases h : u.lamp.safe with
      | true => rwa [State.lampSafe, if_pos h]
      | false =>
        obtain ⟨can, sent, e⟩ := u.lampSafe_frame k h
        rw [e]
        exact List.mem_append_left _ hm
    exact kept _ _ _ (by simp [State.setLamp])
  · simp [State.setLamp]

/-- A partner's clock lost loses the seam on both sides. -/
theorem State.partnerLost_sides (s : State) : s.partnerLost.lamp.rootSide.lost = true ∧ s.partnerLost.lamp.lampSide.lost = true :=
  ⟨s.rootLosesSeam_lost, rfl⟩

/-- A failed LOSC: the lamp die drives the pins low and neither controller transmits. -/
theorem State.loscFails_facts (s : State) : s.loscFails.lamp.safe = true ∧ s.loscFails.lampDrivesLow = true
    ∧ ∀ b : BusId, (s.loscFails.can[b.val]).silenced = true := by
  unfold State.loscFails State.clockTrip
  dsimp only
  generalize hu : ({ s with
    lampDrivesLow := true
    can := s.can.map (fun x => { x with silenced := true, wire := .idle, queue := [], safePending := false })
    lamp := { s.lamp with safe := true, loscTripped := true } } : State) = u
  obtain ⟨q, e⟩ := u.raise_of_lampSafe { source := Monitor.source .loscByNosc, event := .clockMonitor, stays := true }
    (by decide) (by subst hu; rfl)
  rw [e]
  subst hu
  exact ⟨rfl, rfl, fun b => by simp⟩

/-- A failed NOSC puts every watchdog that runs on it on the fallback. -/
theorem State.noscTrip_facts (s : State) : (s.trip .noscByLosc).lamp.noscTripped = true
    ∧ ∀ w : WdogId, (s.wdog[w.val]).cfg.clock = 0 → (s.wdog[w.val]).state ≠ .stopped →
      ((s.trip .noscByLosc).wdog[w.val]).fallback = true := by
  unfold State.trip
  dsimp only
  generalize hu : s.setLamp (fun l => { l with noscTripped := true }) = u
  obtain ⟨l, c, n, d, e, tripped⟩ := u.raise_lamp_frame
    { source := Monitor.source .noscByLosc, event := .clockMonitor, stays := true } (by decide)
  unfold State.clockTrip
  rw [e]
  subst hu
  refine ⟨tripped, fun w clock runs => ?_⟩
  simp [State.noscFallback, State.setLamp, clock, runs]

/-- What a trip of a clock monitor does. -/
theorem State.trip_facts (s : State) (m : Monitor) :
    (m = .loscByNosc → (s.trip m).lamp.safe = true ∧ (s.trip m).pinsHigh = false
        ∧ ∀ b : BusId, ((s.trip m).can[b.val]).silenced = true)
    ∧ (m = .noscByLosc → (s.trip m).lamp.noscTripped = true ∧ ∀ w : WdogId, (s.wdog[w.val]).cfg.clock = 0 →
        (s.wdog[w.val]).state ≠ .stopped → ((s.trip m).wdog[w.val]).fallback = true)
    ∧ (m = .pclkByLosc → (s.trip m).lamp.rootSide.lost = true ∧ (s.trip m).lamp.lampSide.lost = true)
    ∧ (m = .loscByPclk → (s.trip m).lamp.rootSide.lost = true ∧ (s.trip m).lamp.lampSide.lost = true
        ∧ (s.trip m).lamp.safe = true) := by
  refine ⟨?_, ?_, ?_, ?_⟩ <;> rintro rfl
  · obtain ⟨safe, low, silenced⟩ := s.loscFails_facts
    exact ⟨safe, by simp [State.pinsHigh, State.trip, low], silenced⟩
  · exact s.noscTrip_facts
  · exact State.partnerLost_sides _
  · obtain ⟨root, lamp⟩ := (s.clockTrip .loscByPclk).partnerLost_sides
    have rootSide := (s.clockTrip .loscByPclk).partnerLost.lampSafe_side 0x02 .rootstock
    have lampSide := (s.clockTrip .loscByPclk).partnerLost.lampSafe_side 0x02 .lamp
    exact ⟨(congrArg SeamSide.lost rootSide).trans root, (congrArg SeamSide.lost lampSide).trans lamp,
      State.lampSafe_safe _ _⟩

/-- A watchdog whose clock stops goes on on the fallback, and reports it. -/
theorem wdogClockStopped_facts (s : State) (w : WdogId) (run : s.lampRuns = true) (runs : (s.wdog[w.val]).state ≠ .stopped) :
    ∃ t, exec (.wdogClockStopped w) s = .next t ∧ (t.wdog[w.val]).fallback = true
      ∧ (t.wdog[w.val]).state = (s.wdog[w.val]).state
      ∧ (s.lamp.seamLost = false → .record (0x518 + w.val) .clockMonitor none s.now false true ∈ t.lamp.toRoot)
      ∧ ∀ v : WdogId, v ≠ w → t.wdog[v.val] = s.wdog[v.val] := by
  refine ⟨_, next_when_pos (by simp [run, runs]), ?_⟩
  generalize hu : s.setWdog w (fun x => { x with fallback := true }) = u
  have source : lampSource (0x518 + w.val) = true := (by decide : ∀ w : WdogId, lampSource (0x518 + w.val) = true) w
  rw [State.raise_wdogs]
  refine ⟨?_, ?_, fun seam => ?_, fun v ne => ?_⟩
  · subst hu; simp [State.setWdog]
  · subst hu; simp [State.setWdog]
  · have record := u.raise_lamp_record { source := 0x518 + w.val, event := .clockMonitor, stays := true } source
      (by subst hu; exact seam)
    subst hu
    exact record
  · subst hu
    have : w.val ≠ v.val := fun h => ne (Fin.ext h.symm)
    simp [State.setWdog, this]

/-- Settles O37: a count within the limits only clears the condition, and a count outside them trips the monitor
(`State.trip_facts`). -/
theorem clockMonitors : Obligations.ClockMonitors := by
  unfold Obligations.ClockMonitors
  refine ⟨fun s m n runs => ⟨_, next_when_pos runs, fun lo hi => ?_, fun outside => ?_⟩, rfl, rfl, rfl, rfl,
    wdogClockStopped_facts⟩
  · rw [if_neg (by omega)]
    cases m with
    | noscByLosc => exact ⟨rfl, rfl, rfl, rfl, rfl, rfl, rfl, fun _ => rfl⟩
    | pclkByLosc => exact ⟨rfl, rfl, rfl, rfl, rfl, rfl, rfl, nofun⟩
    | loscByPclk => exact ⟨rfl, rfl, rfl, rfl, rfl, rfl, rfl, nofun⟩
    | loscByNosc => exact ⟨rfl, rfl, rfl, rfl, rfl, rfl, rfl, nofun⟩
  · rw [if_pos outside]
    exact s.trip_facts m

end Sys2Proof.Machine

/-!
The lamp die's watchdogs, and the commands that cross the lamp seam.
-/

namespace Sys2Proof.Machine

/-! ## Commands that cross the lamp seam -/

/-- A command that begins is held, and its message waits last for the lamp die. -/
theorem State.Begins.setsOut {s : State} {id : Nat} {o : Opcode} {c : Cmd} (b : s.Begins id o c) (m : SeamMsg) :
    SetsOut s (s.crosses m id) id c m := by
  have taken : (s.toLampDie m).fore = s.fore := by unfold State.toLampDie; split <;> rfl
  have own : (s.toLampDie m).cmd id = some c := by rw [← b.cmd]; simp only [State.cmd, taken]
  refine ⟨State.hold_cmd own, fun j ne => ?_, fun up => ?_, fun lost => ?_, ?_⟩
  · unfold State.crosses State.hold
    rw [State.setCmd_cmd _ id j (fun c => { c with phase := .running }) (fun c => rfl), if_neg ne]
    simp only [State.cmd, taken]
  · simp [State.crosses, State.hold, State.setCmd, State.setFore, State.toLampDie, up, State.setLamp]
  · simp [State.crosses, State.hold, State.setCmd, State.setFore, State.toLampDie, lost]
  · unfold State.crosses State.hold State.toLampDie
    split <;> rfl

/-- The state as the lamp die has taken its next message from the seam. -/
def State.seamTaken (s : State) (m : SeamMsg) : State :=
  s.setLamp (fun l => { l with lampSide := { l.lampSide with badCrc := 0 }, toLamp := l.toLamp.erase m })

/-- A good frame that reaches the lamp die carries its next message, and the lamp die acts on it. -/
theorem lampSeamFrame_lamp (s : State) (m : SeamMsg) (runs : s.lampRuns = true) (up : s.lamp.seamUp = true)
    (found : s.lamp.lampSide.lost = false) (next : nextMsg s.lamp.toLamp = some m) :
    exec (.lampSeamFrame .lamp true) s = .next ((s.seamTaken m).lampActs m) := by
  refine (next_when_pos (by rw [State.sideRuns, runs, up, Lamp.side, found]; rfl)).trans ?_
  rw [if_pos rfl, State.deliver,
    show nextMsg ((s.setLamp (fun l => l.setSide .lamp (fun x => { x with badCrc := 0 }))).lamp.inbox .lamp) = some m
      from next]
  rfl

section Crossing
variable {s : State} {m : SeamMsg} {id : Nat} {o : Opcode} {c : Cmd}

/-- The command's message is acted on. -/
theorem State.Crosses.frame (x : s.Crosses m id o c) :
    exec (.lampSeamFrame .lamp true) s = .next ((s.seamTaken m).lampActs m) :=
  lampSeamFrame_lamp s m x.runs x.up x.found x.next

/-- The command is still at work as its message is acted on. -/
theorem State.Crosses.acts (x : s.Crosses m id o c) (g : Cmd → State) : (s.seamTaken m).withCrossed id o g = g c := by
  unfold State.withCrossed
  rw [show (s.seamTaken m).cmd id = some c from x.cmd]
  exact if_pos ⟨x.phase, x.op⟩

/-- Its completion, formed after changes that leave the taken commands alone. -/
theorem State.Crosses.done (x : s.Crosses m id o c) {u : State} {st d : BitVec 16} {r : BitVec 64}
    (k : u.fore.taken = s.fore.taken) : Completed s (u.finish id st d r) id c st d r :=
  State.finish_completed x.cmd (by rw [Cmd.live, x.phase]) k st d r

end Crossing

/-! ## Watchdogs -/

/-- What a failure changes of the watchdogs: the state, the tick and the count of the one that failed. -/
theorem State.wdogFailure_wdog (s : State) (w : WdogId) : ∃ state, (s.wdogFailure w).wdog = s.wdog.set w.val
    { s.wdog[w.val] with state := state, lastTick := 0, failures := satAdd 16 (s.wdog[w.val]).failures 1 } := by
  unfold State.wdogFailure
  dsimp only
  generalize hu : (if s.power.state = .doze then ({ s with power := { s.power with state := .run, dozeDue := false, eclkStopped := false } } : State) else s) = u
  have same : u.wdog = s.wdog := by subst hu; split <;> rfl
  split
  · by_cases lamp : w.val = 0
    · exact ⟨(s.wdog[w.val]).state, by rw [(u.wdogFails_lamp w lamp).1]; simp only [State.setWdog, same]⟩
    · exact ⟨.waiting, by rw [(u.wdogFails_host w lamp).1]; simp only [State.setWdog, same]⟩
  · exact ⟨.warned, by rw [u.wdogWarns_wdog]; simp only [State.setWdog, same]⟩

/-- A failure after a change of the watchdog's own records that leaves its state and its count. -/
theorem State.wdogFailure_failed (s : State) (w : WdogId) (g : Wdog → Wdog) (state : ∀ x, (g x).state = x.state)
    (count : ∀ x, (g x).failures = x.failures) : WdogFailed s ((s.setWdog w g).wdogFailure w) w := by
  have own : ((s.setWdog w g).wdog[w.val]) = g s.wdog[w.val] := by simp [State.setWdog]
  obtain ⟨others, failures, -, warns, lamp, host⟩ := (s.setWdog w g).wdogFailure_facts w
  rw [own, state] at warns lamp host
  rw [own, count] at failures
  exact ⟨failures, warns, lamp, host, fun v ne => (others v ne).trans (s.setWdog_other w v g (Ne.symm ne))⟩

/-- The records of a watchdog that a failure leaves. -/
theorem State.wdogFailure_records (s : State) (w : WdogId) :
    ((s.wdogFailure w).wdog[w.val]).inbound = (s.wdog[w.val]).inbound
      ∧ ((s.wdogFailure w).wdog[w.val]).early = (s.wdog[w.val]).early
      ∧ ((s.wdogFailure w).wdog[w.val]).keyErrors = (s.wdog[w.val]).keyErrors := by
  obtain ⟨state, e⟩ := s.wdogFailure_wdog w
  rw [e]
  simp

/-- A service is judged by the tick at which it arrives. -/
theorem wdogService_service (s : State) (w : WdogId) (tick : Nat) (r : List Service) (run : s.lampRuns = true)
    (runs : (s.wdog[w.val]).runs = true) (first : (s.wdog[w.val]).inbound = .service :: r) :
    ∃ t, exec (.wdogService w tick) s = .next t ∧ (t.wdog[w.val]).inbound = r
      ∧ ((s.wdog[w.val]).cfg.opens ≤ tick → (t.wdog[w.val]).state = .running
          ∧ (t.wdog[w.val]).cfg = (s.wdog[w.val]).next.getD (s.wdog[w.val]).cfg ∧ t = { s with wdog := t.wdog })
      ∧ (tick < (s.wdog[w.val]).cfg.opens → (t.wdog[w.val]).early = min ((s.wdog[w.val]).early + 1) 255
          ∧ WdogFailed s t w) := by
  refine ⟨_, next_when_pos run, ?_⟩
  rw [first]
  dsimp only
  unfold State.wdogJudge
  rw [if_pos (by simpa [State.setWdog, Wdog.runs] using runs)]
  dsimp only
  have opens : (((s.setWdog w (fun y => { y with inbound := r })).wdog[w.val]).cfg.opens) = (s.wdog[w.val]).cfg.opens := by
    simp [State.setWdog]
  rw [opens]
  by_cases early : (s.wdog[w.val]).cfg.opens ≤ tick
  · rw [if_pos early]
    refine ⟨by simp [State.setWdog, Wdog.valid], fun _ => ⟨by simp [State.setWdog, Wdog.valid],
      by simp [State.setWdog, Wdog.valid], rfl⟩, fun late => absurd early (by omega)⟩
  · rw [if_neg early]
    have twice : (s.setWdog w (fun y => { y with inbound := r })).setWdog w
        (fun y => { y with early := satAdd 8 y.early 1, lastTick := tick })
        = s.setWdog w (fun y => { y with inbound := r, early := satAdd 8 y.early 1, lastTick := tick }) := by
      simp [State.setWdog]
    rw [twice]
    obtain ⟨inbound, count, -⟩ := (s.setWdog w (fun y => { y with inbound := r, early := satAdd 8 y.early 1, lastTick := tick })).wdogFailure_records w
    refine ⟨inbound.trans (by simp [State.setWdog]), fun on => absurd on early, fun _ =>
      ⟨count.trans (by simp [State.setWdog, satAdd]), s.wdogFailure_failed w _ (fun _ => rfl) (fun _ => rfl)⟩⟩

/-- A key error is a failure, counted. -/
theorem wdogService_keyError (s : State) (w : WdogId) (tick : Nat) (r : List Service) (run : s.lampRuns = true)
    (runs : (s.wdog[w.val]).runs = true) (first : (s.wdog[w.val]).inbound = .keyError :: r) :
    ∃ t, exec (.wdogService w tick) s = .next t ∧ (t.wdog[w.val]).inbound = r
      ∧ (t.wdog[w.val]).keyErrors = min ((s.wdog[w.val]).keyErrors + 1) 255 ∧ WdogFailed s t w := by
  refine ⟨_, next_when_pos run, ?_⟩
  rw [first]
  dsimp only
  unfold State.wdogJudge
  rw [if_pos (by simpa [State.setWdog, Wdog.runs] using runs)]
  dsimp only
  have twice : (s.setWdog w (fun y => { y with inbound := r })).setWdog w
      (fun y => { y with keyErrors := satAdd 8 y.keyErrors 1 })
      = s.setWdog w (fun y => { y with inbound := r, keyErrors := satAdd 8 y.keyErrors 1 }) := by
    simp [State.setWdog]
  rw [twice]
  obtain ⟨inbound, -, count⟩ := (s.setWdog w (fun y => { y with inbound := r, keyErrors := satAdd 8 y.keyErrors 1 })).wdogFailure_records w
  exact ⟨inbound.trans (by simp [State.setWdog]), count.trans (by simp [State.setWdog, satAdd]),
    s.wdogFailure_failed w _ (fun _ => rfl) (fun _ => rfl)⟩

/-- WDOG_CONFIG on the lamp die, branch by branch. -/
theorem State.Crosses.wdogConfig {s : State} {id : Nat} {c : Cmd} {w : WdogId}
    (x : s.Crosses (.wdogConfig id) id .wdogConfig c) (names : c.arg 16 1 = w.val) :
    exec (.lampSeamFrame .lamp true) s = .next (
      if (s.wdog[w.val]).state = .warned then (s.seamTaken (.wdogConfig id)).finish id stBusy 8 0
      else if ¬ c.arg 19 1 % 2 = 1 ∧ s.fixed.wdogHwStart then (s.seamTaken (.wdogConfig id)).finish id stBusy 8 0
      else if ¬ c.arg 19 1 % 2 = 1 ∧ w.val = 0 ∧ s.fore.reservations ≠ [] then
        (s.seamTaken (.wdogConfig id)).finish id stBusy 6 0
      else if ¬ c.arg 19 1 % 2 = 1 then ((s.seamTaken (.wdogConfig id)).setWdog w
        (fun x => { x with state := .stopped, next := none, lastTick := 0 })).finish id stOk 0 0
      else (if (s.wdog[w.val]).state = .stopped then (s.seamTaken (.wdogConfig id)).setWdog w (fun x => { x with
            state := .running, next := none, lastTick := 0, hwStart := false
            cfg := { clock := c.arg 17 1, window := c.arg 18 1, periodUs := c.arg 20 4 } })
        else (s.seamTaken (.wdogConfig id)).setWdog w (fun x => { x with
            next := some { clock := c.arg 17 1, window := c.arg 18 1, periodUs := c.arg 20 4 } })).finish id stOk 0 0) := by
  obtain rfl : Fin.ofNat 3 (c.arg 16 1) = w := by rw [names]; exact Fin.ext (Nat.mod_eq_of_lt w.isLt)
  refine x.frame.trans (congrArg _ ((x.acts _).trans ?_))
  dsimp only
  rw [show (s.seamTaken (.wdogConfig id)).wdog = s.wdog from rfl]
  cases (s.wdog[(Fin.ofNat 3 (c.arg 16 1)).val]).state <;> rfl

/-- WDOG_CONFIG acts on the lamp die by the watchdog's state. -/
theorem wdogConfig_arrives (s : State) (id : Nat) (c : Cmd) (w : WdogId) (x : s.Crosses (.wdogConfig id) id .wdogConfig c)
    (names : c.arg 16 1 = w.val) :
    let cfg : WdogCfg := { clock := c.arg 17 1, window := c.arg 18 1, periodUs := c.arg 20 4 }
    let x := s.wdog[w.val]
    ∃ t, exec (.lampSeamFrame .lamp true) s = .next t
      ∧ (x.state = .warned → Completed s t id c stBusy 8 0 ∧ t.wdog = s.wdog)
      ∧ (x.state = .stopped → c.arg 19 1 = 1 → Completed s t id c stOk 0 0
          ∧ (t.wdog[w.val]).state = .running ∧ (t.wdog[w.val]).cfg = cfg)
      ∧ (x.state = .running ∨ x.state = .waiting → c.arg 19 1 = 1 → Completed s t id c stOk 0 0
          ∧ t.wdog[w.val] = { x with next := some cfg })
      ∧ (x.state ≠ .warned → c.arg 19 1 = 0 → s.fixed.wdogHwStart = true →
          Completed s t id c stBusy 8 0 ∧ t.wdog = s.wdog)
      ∧ (x.state ≠ .warned → c.arg 19 1 = 0 → s.fixed.wdogHwStart = false → w.val = 0 → s.fore.reservations ≠ [] →
          Completed s t id c stBusy 6 0 ∧ t.wdog = s.wdog)
      ∧ (x.state ≠ .warned → c.arg 19 1 = 0 → s.fixed.wdogHwStart = false → (w.val = 0 → s.fore.reservations = []) →
          Completed s t id c stOk 0 0 ∧ (t.wdog[w.val]).state = .stopped)
      ∧ ∀ v : WdogId, v ≠ w → t.wdog[v.val] = s.wdog[v.val] := by
  refine ⟨_, x.wdogConfig names, fun warned => ?_, fun stopped on => ?_, fun runs on => ?_, fun calm off fuse => ?_,
    fun calm off fuse lamp held => ?_, fun calm off fuse free => ?_, fun v ne => ?_⟩
  · rw [if_pos warned]
    exact ⟨x.done rfl, rfl⟩
  · rw [if_neg (by rw [stopped]; nofun), if_neg (by simp [on]), if_neg (by simp [on]), if_neg (by simp [on]), if_pos stopped]
    exact ⟨x.done rfl, by simp [State.setWdog, State.finish, State.setCmd, State.setFore],
      by simp [State.setWdog, State.finish, State.setCmd, State.setFore]⟩
  · rw [if_neg (by rcases runs with h | h <;> rw [h] <;> nofun), if_neg (by simp [on]), if_neg (by simp [on]),
      if_neg (by simp [on]), if_neg (by rcases runs with h | h <;> rw [h] <;> nofun)]
    have later : ∀ u : State, (u.setWdog w (fun x => { x with
        next := some { clock := c.arg 17 1, window := c.arg 18 1, periodUs := c.arg 20 4 } })).wdog[w.val]
        = { u.wdog[w.val] with next := some { clock := c.arg 17 1, window := c.arg 18 1, periodUs := c.arg 20 4 } } := by
      intro u; simp [State.setWdog]
    exact ⟨x.done rfl, later (s.seamTaken (.wdogConfig id))⟩
  · rw [if_neg calm, if_pos ⟨by simp [off], fuse⟩]
    exact ⟨x.done rfl, rfl⟩
  · rw [if_neg calm, if_neg (by simp [fuse]), if_pos ⟨by simp [off], lamp, held⟩]
    exact ⟨x.done rfl, rfl⟩
  · rw [if_neg calm, if_neg (by simp [fuse]), if_neg (fun h => h.2.2 (free h.2.1)), if_pos (by simp [off])]
    exact ⟨x.done rfl, by simp [State.setWdog, State.finish, State.setCmd, State.setFore]⟩
  · have others : ∀ g, (((s.seamTaken (.wdogConfig id)).setWdog w g).wdog[v.val]) = s.wdog[v.val] :=
      fun g => (s.seamTaken (.wdogConfig id)).setWdog_other w v g (Ne.symm ne)
    split
    · rfl
    split
    · rfl
    split
    · rfl
    split
    · exact others (fun x => { x with state := .stopped, next := none, lastTick := 0 })
    split
    · exact others (fun x => { x with state := .running, next := none, lastTick := 0, hwStart := false
                                      cfg := { clock := c.arg 17 1, window := c.arg 18 1, periodUs := c.arg 20 4 } })
    · exact others (fun x => { x with
        next := some { clock := c.arg 17 1, window := c.arg 18 1, periodUs := c.arg 20 4 } })

/-- The Foreman services the lamp watchdog only while it is alive. -/
theorem foremanWdogService_live (s : State) (loop f0 f1 timers : Bool) (run : s.rootRuns = true)
    (firmware : s.boot.firmware.isSome = true) (seam : s.lamp.seamLost = false) :
    let live := loop && timers && !(s.fore.f0Halted && s.fore.f1Halted) && (s.fore.f0Halted || f0) && (s.fore.f1Halted || f1)
    (live = true → exec (.foremanWdogService loop f0 f1 timers) s
      = .next { s with lamp := { s.lamp with toLamp := s.lamp.toLamp ++ [.service 0 .service] } })
    ∧ (live = false → exec (.foremanWdogService loop f0 f1 timers) s = .next s) := by
  intro live
  have guard : (s.rootRuns && s.boot.firmware.isSome && !(s.fore.f0Halted && s.fore.f1Halted) && loop
      && (s.fore.f0Halted || f0) && (s.fore.f1Halted || f1) && timers) = live := by
    rw [run, firmware]
    simp only [live, Bool.true_and]
    cases loop <;> cases timers <;> simp
  constructor <;> intro h
  · refine (next_when_pos (guard.trans h)).trans ?_
    simp [State.sendService, State.toLampDie, seam, State.setLamp]
  · exact next_when_neg (guard.trans h)

/-- Settles O38: services and failures by `State.wdogFailure_wdog`, WDOG_CONFIG by `State.Begins.setsOut` and
`State.Crosses.wdogConfig`. -/
theorem watchdogs : Obligations.Watchdogs := by
  unfold Obligations.Watchdogs
  refine ⟨fun s w tick r run runs => ⟨wdogService_service s w tick r run runs, wdogService_keyError s w tick r run runs⟩,
    fun s w run runs => ⟨_, next_when_pos (by simp [run, runs]), ?_⟩, fun s id c b => ⟨_, b.next, b.setsOut _⟩,
    wdogConfig_arrives, foremanWdogService_live⟩
  obtain ⟨others, failures, -, warns, lamp, host⟩ := s.wdogFailure_facts w
  exact ⟨failures, warns, lamp, host, others⟩

end Sys2Proof.Machine

/-!
The CAN commands and the CAN controllers.
-/

namespace Sys2Proof.Machine

/-! ## Controllers -/

/-- A controller with a frame on the wire starts nothing. -/
theorem State.kick_busy (s : State) (b : BusId) (h : (s.can[b.val]).wire ≠ .idle) : s.kick b = s := by
  unfold State.kick
  dsimp only
  exact if_neg (fun k => h k.1)

/-- Every controller that is not silenced enters normal mode. -/
theorem canNormalMode_normal (s : State) (run : s.lampRuns = true) (booted : s.lamp.booted = true) :
    ∃ t, exec .canNormalMode s = .next t ∧ t.boot.canNormal = true
      ∧ ∀ b : BusId, (t.can[b.val]).normal = ((s.can[b.val]).normal || !(s.can[b.val]).silenced) := by
  refine ⟨_, next_when_pos (by simp [run, booted]), ?_⟩
  dsimp only
  generalize hu : State.setBoot _ _ = u
  have normal : ∀ b : BusId, (u.can[b.val]).normal = ((s.can[b.val]).normal || !(s.can[b.val]).silenced) := by
    intro b; subst hu; simp [State.setBoot]
  constructor
  · obtain ⟨_, _, first⟩ := u.kick_frame 0
    obtain ⟨_, _, second⟩ := (u.kick 0).kick_frame 1
    rw [second, first]
    subst hu
    rfl
  · intro b
    obtain ⟨_, _, second⟩ := (u.kick 0).kick_can 1 b
    obtain ⟨_, _, first⟩ := u.kick_can 0 b
    rw [second, first, ← normal b]

/-- What a controller keeps as it looks for its next frame. -/
theorem State.canPassive_kick (s : State) (b : BusId) : ∃ p w q, (((s.canPassive b).kick b).can[b.val])
    = { s.can[b.val] with passive := p, wire := w, queue := q } := by
  obtain ⟨w, q, e⟩ := (s.canPassive b).kick_can b b
  obtain ⟨p, e'⟩ := s.canPassive_can b
  exact ⟨p, w, q, by rw [e, e']⟩

/-- An acknowledged frame lowers TEC and completes its CAN_SEND. -/
theorem canFrameEnd_acked (s : State) (b : BusId) (id : Nat) (f : CanFrame) (w : Bool) (c : Cmd) (run : s.lampRuns = true)
    (wire : (s.can[b.val]).wire = .frame id f w) (taken : s.cmd id = some c) (live : c.live = true) :
    ∃ t, exec (.canFrameEnd b .acked) s = .next t ∧ (t.can[b.val]).tec = (s.can[b.val]).tec - 1
      ∧ t.cmd id = some { c with phase := .formed stOk 0 0 s.now } := by
  refine ⟨_, next_when_pos (by simp [run, wire]), ?_⟩
  rw [wire]
  dsimp only [OnWire.cmd]
  generalize hu : (s.setCan b CanBus.sent).finish id stOk 0 0 = u
  have formed : u.cmd id = some { c with phase := .formed stOk 0 0 s.now } := by
    subst hu; exact State.finish_cmd (s := s.setCan b CanBus.sent) taken live _ _ _
  constructor
  · obtain ⟨p, w, q, e⟩ := u.canPassive_kick b
    rw [e]
    subst hu
    simp [State.finish, State.setCmd, State.setFore, CanBus.sent]
  · rw [State.kick_cmd]
    exact State.canPassive_cmd b formed rfl

/-- An acknowledged safe message counts, and waits no more. -/
theorem canFrameEnd_safe (s : State) (b : BusId) (run : s.lampRuns = true) (wire : (s.can[b.val]).wire = .safe) :
    ∃ t, exec (.canFrameEnd b .acked) s = .next t ∧ (t.can[b.val]).alive = (s.can[b.val]).alive + 1
      ∧ (t.can[b.val]).safePending = false := by
  refine ⟨_, next_when_pos (by simp [run, wire]), ?_⟩
  rw [wire]
  dsimp only [OnWire.cmd]
  obtain ⟨p, w, q, e⟩ := (s.setCan b CanBus.sent).canPassive_kick b
  rw [e, State.setCan_self]
  simp [CanBus.sent, wire]

/-- A failed attempt raises TEC, and more than 255 is bus-off. -/
theorem canFrameEnd_failed (s : State) (b : BusId) (o : CanOutcome) (run : s.lampRuns = true)
    (wire : (s.can[b.val]).wire ≠ .idle) (failed : o ≠ .acked) : ∃ t, exec (.canFrameEnd b o) s = .next t
      ∧ (t.can[b.val]).tec = (if o = .ackError ∧ (s.can[b.val]).passive = true then (s.can[b.val]).tec else (s.can[b.val]).tec + 8)
      ∧ ((s.can[b.val]).busOff = false → 255 < (t.can[b.val]).tec → (t.can[b.val]).busOff = true
          ∧ (s.lamp.safe = true → (t.can[b.val]).recovering = true)) := by
  have row : exec (.canFrameEnd b o) s
      = .next ((((s.setCan b (fun y => y.failed (decide (o = .ackError)))).canPassive b).canBusOff b).kick b) := by
    have on : (s.lampRuns && decide ((s.can[b.val]).wire ≠ .idle)) = true := by simp [run, wire]
    cases o with
    | acked => exact absurd rfl failed
    | ackError => exact next_when_pos on
    | error => exact next_when_pos on
  refine ⟨_, row, ?_⟩
  generalize hu : s.setCan b (fun y => y.failed (decide (o = .ackError))) = u
  obtain ⟨p, passive⟩ := u.canPassive_can b
  obtain ⟨q, off⟩ := (u.canPassive b).canBusOff_can b
  obtain ⟨w, r, kicked⟩ := ((u.canPassive b).canBusOff b).kick_can b b
  rw [State.canPassive_safe, passive] at off
  have tec : (u.can[b.val]).tec = if o = .ackError ∧ (s.can[b.val]).passive = true then (s.can[b.val]).tec else (s.can[b.val]).tec + 8 := by
    subst hu; simp [CanBus.failed]
  have busOff : (u.can[b.val]).busOff = (s.can[b.val]).busOff := by subst hu; simp [CanBus.failed]
  have safe : u.lamp.safe = s.lamp.safe := by subst hu; rfl
  rw [kicked, off, ← tec, ← busOff, ← safe]
  dsimp only
  split
  next high => exact ⟨rfl, fun _ _ => ⟨rfl, fun h => by simp [h]⟩⟩
  next calm => exact ⟨rfl, fun on high => absurd ⟨high, on⟩ calm⟩

/-- Recovery clears both counters. -/
theorem canBusOffRecoveryDone_clears (s : State) (b : BusId) (run : s.lampRuns = true) (off : (s.can[b.val]).busOff = true)
    (recovering : (s.can[b.val]).recovering = true) : ∃ t, exec (.canBusOffRecoveryDone b) s = .next t
      ∧ (t.can[b.val]).busOff = false ∧ (t.can[b.val]).tec = 0 ∧ (t.can[b.val]).rec' = 0 ∧ (t.can[b.val]).passive = false := by
  refine ⟨_, next_when_pos (by simp [run, off, recovering]), ?_⟩
  obtain ⟨w, q, e⟩ := (s.setCan b (fun x =>
      { x with busOff := false, recovering := false, passive := false, tec := 0, rec' := 0 })).kick_can b b
  rw [e, State.setCan_self]
  exact ⟨rfl, rfl, rfl, rfl⟩

/-- A received frame moves REC. -/
theorem canFrameReceived_rec (s : State) (b : BusId) (good : Bool) (run : s.lampRuns = true)
    (on : (s.can[b.val]).busOff = false) : ∃ t, exec (.canFrameReceived b good) s = .next t
      ∧ (t.can[b.val]).rec' = if good then (if 127 < (s.can[b.val]).rec' then 119 + Config.canRec s.draws % 9
          else (s.can[b.val]).rec' - 1) else (s.can[b.val]).rec' + 1 := by
  refine ⟨_, next_when_pos (by simp [run, on]), ?_⟩
  dsimp only
  generalize hu : State.setCan s b _ = u
  obtain ⟨p, e⟩ := ({ u with draws := u.draws + 1 } : State).canPassive_can b
  rw [e]
  subst hu
  simp

/-- Settles O40: what `State.canPassive_can`, `State.canBusOff_can` and `State.kick_can` leave of a controller. -/
theorem canController : Obligations.CanController := by
  unfold Obligations.CanController
  refine ⟨canNormalMode_normal, canFrameEnd_acked, canFrameEnd_safe, canFrameEnd_failed, canBusOffRecoveryDone_clears,
    fun s b run on => ⟨canFrameReceived_rec s b false run on, fun low => ?_⟩,
    fun s b run safe repeats silenced wire => ?_⟩
  · obtain ⟨t, e, h⟩ := canFrameReceived_rec s b true run on
    exact ⟨t, e, by rw [h, if_pos rfl, if_neg (by omega)]⟩
  · refine (next_when_pos (by simp [run, safe, repeats, silenced])).trans ?_
    rw [State.kick_busy _ _ (by simpa using wire)]

/-! ## CAN commands -/

/-- Frames withdrawn from a queue complete their own commands and no other. -/
theorem State.withdrawFrames_cmd (s : State) (b : BusId) (p : Nat × CanFrame → Bool) (st d : BitVec 16) {id : Nat}
    (others : ∀ y ∈ (s.can[b.val]).queue, y.1 ≠ id) : (s.withdrawFrames b p st d).cmd id = s.cmd id := by
  unfold State.withdrawFrames
  dsimp only
  have named : ∀ y ∈ (s.can[b.val]).queue.filter p, y.1 ≠ id := fun y hy => others y (List.mem_filter.1 hy).1
  generalize List.filter p (s.can[b.val]).queue = gone at named
  show _ = (s.setCan b (fun x => { x with queue := x.queue.filter (fun y => !p y) })).cmd id
  generalize s.setCan b (fun x => { x with queue := x.queue.filter (fun y => !p y) }) = u
  induction gone generalizing u with
  | nil => rfl
  | cons y r ih =>
    rw [List.foldl_cons, ih (fun z hz => named z (List.mem_cons_of_mem y hz)),
      State.finish_other u (Ne.symm (named y List.mem_cons_self))]

/-- A command with a bad block is refused; any other sets out. -/
theorem badBlock_or_setsOut (s : State) (id : Nat) (o : Opcode) (c : Cmd) (m : SeamMsg) (bad : Option Nat)
    (b : s.Begins id o c) (row : Host.Outcome State Fault Refusal)
    (h : row = .next (match bad with
      | some d => s.finish id stBadParam (BitVec.ofNat 16 d) 0
      | none => s.crosses m id)) :
    ∃ t, row = .next t
      ∧ (∀ d, bad = some d → Completed s t id c stBadParam (BitVec.ofNat 16 d) 0 ∧ t = { s with fore := t.fore })
      ∧ (bad = none → SetsOut s t id c m) := by
  refine ⟨_, h, fun d hd => ?_, fun hn => ?_⟩
  · subst hd; exact ⟨b.done rfl, rfl⟩
  · subst hn; exact b.setsOut m

/-- The bus that a command names. -/
theorem bus_of_arg {n : Nat} {b : BusId} (h : n = b.val) : Fin.ofNat 2 n = b := by
  subst h; exact Fin.ext (Nat.mod_eq_of_lt b.isLt)

/-- CAN_CONFIG on the bus that it names. -/
def State.canConfigured (s : State) (id : Nat) (b : BusId) (cfg : CanCfg) : State :=
  if (s.can[b.val]).recovering then s.finish id stBusy 8 0
  else (if cfg.fd then s.setCan b (fun x => { x with cfg := cfg, recovering := x.busOff })
    else (s.setCan b (fun x => { x with cfg := cfg, recovering := x.busOff })).withdrawFrames b
      (fun y => y.2.flags.getLsbD 0) stBadParam 0xFFFF).finish id stOk 0 0

theorem State.Crosses.canConfig {s : State} {id : Nat} {c : Cmd} {b : BusId}
    (x : s.Crosses (.canConfig id) id .canConfig c) (names : c.arg 16 1 = b.val) :
    exec (.lampSeamFrame .lamp true) s = .next ((s.seamTaken (.canConfig id)).canConfigured id b (parseCanCfg c.block)) := by
  obtain rfl : Fin.ofNat 2 (c.arg 16 1) = b := bus_of_arg names
  exact x.frame.trans (congrArg _ (x.acts _))

/-- CAN_SEND on the bus that it names. -/
def State.canQueued (s : State) (id : Nat) (b : BusId) (f : CanFrame) : State :=
  if s.lamp.safe then s
  else if f.flags.getLsbD 0 ∧ (s.can[b.val]).cfg.fd = false then s.finish id stBadParam 0xFFFF 0
  else if 16 ≤ (s.can[b.val]).queue.length then s.finish id stNoResource 8 0
  else if (s.can[b.val]).busOff ∧ (s.can[b.val]).cfg.autoRecover = false ∧ (s.can[b.val]).recovering = false then
    s.finish id stBusy 8 0
  else (s.setCan b (fun x => { x with queue := x.queue ++ [(id, f)] })).kick b

theorem State.Crosses.canSend {s : State} {id : Nat} {c : Cmd} {b : BusId}
    (x : s.Crosses (.canSend id) id .canSend c) (names : c.arg 16 1 = b.val) :
    exec (.lampSeamFrame .lamp true) s = .next ((s.seamTaken (.canSend id)).canQueued id b (parseCanFrame c.block)) := by
  obtain rfl : Fin.ofNat 2 (c.arg 16 1) = b := bus_of_arg names
  exact x.frame.trans (congrArg _ (x.acts _))

/-- CAN_CONFIG takes effect on the bus named, unless it recovers. -/
theorem canConfig_arrives (s : State) (id : Nat) (c : Cmd) (b : BusId) (x : s.Crosses (.canConfig id) id .canConfig c)
    (names : c.arg 16 1 = b.val) :
    let x := s.can[b.val]
    let cfg := parseCanCfg c.block
    ∃ t, exec (.lampSeamFrame .lamp true) s = .next t ∧ (∀ o : BusId, o ≠ b → t.can[o.val] = s.can[o.val])
      ∧ (x.recovering = true → Completed s t id c stBusy 8 0 ∧ t.can = s.can)
      ∧ (x.recovering = false → (t.can[b.val]).cfg = cfg ∧ (t.can[b.val]).recovering = x.busOff)
      ∧ (x.recovering = false → cfg.fd = true → Completed s t id c stOk 0 0 ∧ (t.can[b.val]).queue = x.queue)
      ∧ (x.recovering = false → cfg.fd = false → (t.can[b.val]).queue = x.queue.filter (fun y => !y.2.flags.getLsbD 0)
          ∧ ((∀ y ∈ x.queue, y.1 ≠ id) → t.cmd id = some { c with phase := .formed stOk 0 0 t.now })) := by
  intro bus cfg
  refine ⟨_, x.canConfig names, ?_⟩
  unfold State.canConfigured
  generalize hu : s.seamTaken (.canConfig id) = u
  have can : u.can = s.can := by subst hu; rfl
  have taken : u.fore = s.fore := by subst hu; rfl
  rw [can]
  cases recovers : (s.can[b.val]).recovering with
  | true =>
    rw [if_pos rfl]
    exact ⟨fun o _ => by rw [← can]; rfl, fun _ => ⟨x.done (by rw [taken]), can⟩, nofun, nofun, nofun⟩
  | false =>
    rw [if_neg nofun]
    generalize hv : u.setCan b (fun x => { x with cfg := parseCanCfg c.block, recovering := x.busOff }) = v
    have vcan : v.can = (s.setCan b (fun x => { x with cfg := cfg, recovering := x.busOff })).can := by
      subst hv; simp only [State.setCan, can, cfg]
    have vfore : v.fore = s.fore := by subst hv; exact taken
    cases fd : (parseCanCfg c.block).fd with
    | true =>
      rw [if_pos rfl]
      have tcan : ∀ o : BusId, ((v.finish id stOk 0 0).can[o.val])
          = (s.setCan b (fun x => { x with cfg := cfg, recovering := x.busOff })).can[o.val] := fun o => by
        rw [← vcan]; rfl
      refine ⟨fun o ne => (tcan o).trans (State.setCan_other s b o _ (Ne.symm ne)), nofun, fun _ => ?_,
        fun _ _ => ⟨x.done (by rw [vfore]), ?_⟩, nofun⟩
      · rw [tcan, State.setCan_self]; exact ⟨rfl, rfl⟩
      · rw [tcan, State.setCan_self]
    | false =>
      rw [if_neg nofun]
      have tcan : ((v.withdrawFrames b (fun y => y.2.flags.getLsbD 0) stBadParam 0xFFFF).finish id stOk 0 0).can
          = (s.setCan b (fun x => { x with cfg := cfg, recovering := x.busOff
                                           queue := x.queue.filter (fun y => !y.2.flags.getLsbD 0) })).can := by
        refine (v.withdrawFrames_can b _ _ _).trans ?_
        simp only [State.setCan, vcan]
        simp
      rw [tcan]
      refine ⟨fun o ne => State.setCan_other s b o _ (Ne.symm ne), nofun, fun _ => ?_, nofun, fun _ _ => ⟨?_, fun others => ?_⟩⟩
      · rw [State.setCan_self]; exact ⟨rfl, rfl⟩
      · rw [State.setCan_self]
      · have kept : (v.withdrawFrames b (fun y => y.2.flags.getLsbD 0) stBadParam 0xFFFF).cmd id = some c := by
          rw [State.withdrawFrames_cmd v b _ _ _ (by rw [vcan, State.setCan_self]; exact others), ← x.cmd]
          simp only [State.cmd, vfore]
        exact State.finish_cmd kept (by rw [Cmd.live, x.phase]) _ _ _

/-- CAN_SEND queues its frame, or starts it, or is refused. -/
theorem canSend_arrives (s : State) (id : Nat) (c : Cmd) (b : BusId) (x : s.Crosses (.canSend id) id .canSend c)
    (names : c.arg 16 1 = b.val) :
    let x := s.can[b.val]
    let f := parseCanFrame c.block
    let fits := f.flags.getLsbD 0 = false ∨ x.cfg.fd = true
    let off := x.busOff = true ∧ x.cfg.autoRecover = false ∧ x.recovering = false
    ∃ t, exec (.lampSeamFrame .lamp true) s = .next t
      ∧ (s.lamp.safe = true → t.can = s.can ∧ t.fore = s.fore)
      ∧ (s.lamp.safe = false → ¬ fits → Completed s t id c stBadParam 0xFFFF 0 ∧ t.can = s.can)
      ∧ (s.lamp.safe = false → fits → 16 ≤ x.queue.length → Completed s t id c stNoResource 8 0 ∧ t.can = s.can)
      ∧ (s.lamp.safe = false → fits → x.queue.length < 16 → off → Completed s t id c stBusy 8 0 ∧ t.can = s.can)
      ∧ (s.lamp.safe = false → fits → x.queue.length < 16 → ¬ off → t.fore = s.fore
          ∧ (x.wire ≠ .idle → (t.can[b.val]).queue = x.queue ++ [(id, f)] ∧ t.sent = s.sent)
          ∧ (x.wire = .idle → x.queue = [] → x.busOff = false → x.normal = true → x.silenced = false → x.safePending = false →
              (t.can[b.val]).wire = .frame id f false ∧ t.sent = .can b false f.data :: s.sent)) := by
  intro bus f fits off
  refine ⟨_, x.canSend names, ?_⟩
  unfold State.canQueued
  generalize hu : s.seamTaken (.canSend id) = u
  have can : u.can = s.can := by subst hu; rfl
  have taken : u.fore = s.fore := by subst hu; rfl
  have sent : u.sent = s.sent := by subst hu; rfl
  have safe : u.lamp.safe = s.lamp.safe := by subst hu; rfl
  rw [can, safe]
  have misfit : (f.flags.getLsbD 0 = true ∧ bus.cfg.fd = false) ↔ ¬ fits := by
    simp [fits]
  refine ⟨fun h => ?_, fun h m => ?_, fun h m full => ?_, fun h m room lost => ?_, fun h m room up => ?_⟩
  · rw [if_pos h]; exact ⟨can, taken⟩
  · rw [if_neg (by simp [h]), if_pos (misfit.2 m)]
    exact ⟨x.done (by rw [taken]), can⟩
  · rw [if_neg (by simp [h]), if_neg (fun k => misfit.1 k m), if_pos full]
    exact ⟨x.done (by rw [taken]), can⟩
  · rw [if_neg (by simp [h]), if_neg (fun k => misfit.1 k m), if_neg (Nat.not_le.2 room), if_pos lost]
    exact ⟨x.done (by rw [taken]), can⟩
  · rw [if_neg (by simp [h]), if_neg (fun k => misfit.1 k m), if_neg (Nat.not_le.2 room), if_neg up]
    generalize hv : u.setCan b (fun x => { x with queue := x.queue ++ [(id, parseCanFrame c.block)] }) = v
    have vbus : v.can[b.val] = { s.can[b.val] with queue := bus.queue ++ [(id, f)] } := by
      subst hv; rw [State.setCan_self, can]
    have vsent : v.sent = s.sent := by subst hv; exact sent
    refine ⟨?_, fun busy => ?_, fun idle empty on normal loud calm => ?_⟩
    · obtain ⟨_, _, e⟩ := v.kick_frame b
      rw [e]
      subst hv
      exact taken
    · rw [v.kick_busy b (by rw [vbus]; exact busy), vbus]
      exact ⟨rfl, vsent⟩
    · have starts : v.kick b = (v.setCan b (fun x => { x with wire := .frame id f false, queue := [] })).send (.can b false f.data) := by
        unfold State.kick
        dsimp only
        rw [if_pos (by rw [vbus]; exact ⟨idle, normal, by simpa using loud, by simpa using on⟩),
          if_neg (by rw [vbus]; simpa using calm), vbus]
        simp only [empty]
        rfl
      rw [starts]
      refine ⟨?_, congrArg _ vsent⟩
      rw [State.send_can, State.setCan_self]

/-- SAFE_MESSAGE_SET replaces the message of each bus named. -/
theorem safeMessageSet_arrives (s : State) (id : Nat) (c : Cmd) (x : s.Crosses (.safeMessage id) id .safeMessageSet c) :
    ∃ t, exec (.lampSeamFrame .lamp true) s = .next t
      ∧ (s.lamp.safe = false → Completed s t id c stOk 0 0 ∧ ∀ b : BusId,
          t.can[b.val] = { s.can[b.val] with
            message := if (c.arg 16 1).testBit b.val then parseCanFrame c.block else (s.can[b.val]).message })
      ∧ (s.lamp.safe = true → t.can = s.can) := by
  refine ⟨_, x.frame.trans (congrArg _ (x.acts _)), fun calm => ?_, fun safe => ?_⟩
  · dsimp only
    rw [if_neg (show ¬ (s.seamTaken (.safeMessage id)).lamp.safe = true by simpa [State.seamTaken, State.setLamp] using calm)]
    refine ⟨x.done (by repeat' split
                       all_goals rfl), fun b => ?_⟩
    fin_cases b <;> simp [State.finish, State.setCmd, State.setFore, State.seamTaken, State.setLamp] <;> repeat' split
    all_goals simp [State.setCan]
  · dsimp only
    rw [if_pos (show (s.seamTaken (.safeMessage id)).lamp.safe = true from safe)]
    rfl

/-- A frame that is not sent in time is withdrawn. -/
theorem canSendTimeout_withdraws (s : State) (id : Nat) (c : Cmd) (b : BusId) (run : s.rootRuns = true)
    (taken : s.cmd id = some c) (phase : c.phase = .running)
    (waits : (∃ f, (id, f) ∈ (s.can[b.val]).queue) ∨ (s.can[b.val]).wire.cmd = some id) :
    ∃ t, exec (.canSendTimeout b id) s = .next t ∧ Completed s t id c stBusy 8 0
      ∧ (∀ x ∈ (t.can[b.val]).queue, x.1 ≠ id)
      ∧ (∀ f w, (s.can[b.val]).wire = .frame id f w → (t.can[b.val]).wire = .frame id f true) := by
  have on : (s.rootRuns && ((s.can[b.val]).queue.any (fun y => y.1 == id) || decide ((s.can[b.val]).wire.cmd = some id))) = true := by
    rw [run, Bool.true_and, Bool.or_eq_true]
    refine waits.imp (fun ⟨f, hf⟩ => ?_) (fun h => decide_eq_true h)
    exact List.any_eq_true.2 ⟨(id, f), hf, beq_self_eq_true id⟩
  refine ⟨_, next_when_pos on, State.finish_completed (u := s.setCan b _) taken (by rw [Cmd.live, phase]) rfl _ _ _,
    fun y hy => ?_, fun f w wire => ?_⟩
  · rw [show ∀ u : State, (u.finish id stBusy 8 0).can = u.can from fun _ => rfl, State.setCan_self] at hy
    exact bne_iff_ne.1 (List.mem_filter.1 hy).2
  · rw [show ∀ u : State, (u.finish id stBusy 8 0).can = u.can from fun _ => rfl, State.setCan_self]
    simp [wire]

/-- Settles O39: each command's refusal or departure (`badBlock_or_setsOut`), and its effect as it arrives. -/
theorem canCommands : Obligations.CanCommands := by
  unfold Obligations.CanCommands
  exact ⟨fun s id c => ⟨fun b => badBlock_or_setsOut s id _ c _ _ b _ b.next,
      fun b => badBlock_or_setsOut s id _ c _ _ b _ b.next, fun b => badBlock_or_setsOut s id _ c _ _ b _ b.next⟩,
    canConfig_arrives, canSend_arrives, safeMessageSet_arrives, canSendTimeout_withdraws⟩

end Sys2Proof.Machine

/-!
The lamp die's start and the lamp seam.
-/

namespace Sys2Proof.Machine

/-! ## What the safe states and events leave of the lamp die -/

/-- The lamp die's safe state, its cause and the messages that it sends apart, the lamp die is the same. -/
structure Lamp.Beside (l m : Lamp) : Prop where
  eq : ∃ safe cause toRoot, m = { l with safe := safe, cause := cause, toRoot := toRoot }
  sends : ∀ x ∈ l.toRoot, x ∈ m.toRoot

theorem Lamp.Beside.rfl {l : Lamp} : l.Beside l := ⟨⟨l.safe, l.cause, l.toRoot, Eq.refl _⟩, fun _ h => h⟩

theorem Lamp.Beside.trans {l m n : Lamp} (h : l.Beside m) (k : m.Beside n) : l.Beside n := by
  obtain ⟨⟨_, _, _, e⟩, sends⟩ := h
  obtain ⟨⟨_, _, _, e'⟩, sends'⟩ := k
  exact ⟨⟨_, _, _, by rw [e', e]⟩, fun x hx => sends' x (sends x hx)⟩

theorem State.lampSafe_beside (s : State) (k : Nat) : s.lamp.Beside (s.lampSafe k).lamp := by
  cases h : s.lamp.safe with
  | true => rw [State.lampSafe, if_pos h]; exact .rfl
  | false =>
    obtain ⟨can, sent, e⟩ := s.lampSafe_frame k h
    rw [e]
    exact ⟨⟨_, _, _, rfl⟩, fun x hx => List.mem_append_left _ hx⟩

/-- A lamp source's event leaves the rest of the lamp die. -/
theorem State.raiseLamp_beside (s : State) (r : Raise) : s.lamp.Beside (s.raiseLamp r).lamp := by
  unfold State.raiseLamp
  dsimp only
  have record : s.lamp.Beside (if s.lamp.seamLost then s else s.setLamp (fun l => { l with
      toRoot := l.toRoot ++ [.record r.source r.event r.owner s.now r.injected r.stays] })).lamp := by
    split
    · exact .rfl
    · exact ⟨⟨s.lamp.safe, s.lamp.cause, _, rfl⟩, fun x hx => List.mem_append_left _ hx⟩
  split
  · exact record.trans (State.lampSafe_beside _ _)
  · exact record

/-- The rootstock's safe state and its events only add to the queue toward the lamp die. -/
structure Lamp.Told (l m : Lamp) : Prop where
  eq : ∃ toLamp, m = { l with toLamp := toLamp }
  sends : ∀ x ∈ l.toLamp, x ∈ m.toLamp

theorem Lamp.Told.rfl {l : Lamp} : l.Told l := ⟨⟨l.toLamp, Eq.refl _⟩, fun _ h => h⟩

theorem Lamp.Told.trans {l m n : Lamp} (h : l.Told m) (k : m.Told n) : l.Told n := by
  obtain ⟨⟨_, e⟩, sends⟩ := h
  obtain ⟨⟨_, e'⟩, sends'⟩ := k
  exact ⟨⟨_, by rw [e', e]⟩, fun x hx => sends' x (sends x hx)⟩

theorem State.rootSafe_told (s : State) (k b : Nat) : s.lamp.Told (s.rootSafe k b).lamp := by
  cases h : s.safe with
  | true => rw [State.rootSafe, if_pos h]; exact .rfl
  | false =>
    obtain ⟨_, _, _, _, _, _, e⟩ := s.rootSafe_frame k b h
    rw [e]
    exact ⟨⟨_, rfl⟩, fun x hx => List.mem_append_left _ hx⟩

/-- An edge at the FCU leaves the rest of the lamp die. -/
theorem State.raiseFcu_told (s : State) (r : Raise) : s.lamp.Told (s.raiseFcu r).lamp := by
  unfold State.raiseFcu
  split
  · dsimp only
    generalize s.fcu.capture r (r.time.getD s.now) s.fore.safety.reactionUs s.safe = p
    have timer : s.lamp.Told (if p.2.timer then ({ s with fcu := p.1 } : State).setLamp (fun l => { l with
        toLamp := l.toLamp ++ [.timerStart r.source] }) else { s with fcu := p.1 }).lamp := by
      split
      · exact ⟨⟨_, rfl⟩, fun x hx => List.mem_append_left _ hx⟩
      · exact .rfl
    generalize (if p.2.timer then ({ s with fcu := p.1 } : State).setLamp (fun l => { l with
        toLamp := l.toLamp ++ [.timerStart r.source] }) else { s with fcu := p.1 }) = u at timer
    obtain ⟨fns, sent, e⟩ := u.distribute_frame p.2
    have told : u.lamp.Told (u.distribute p.2).lamp := by rw [e]; exact .rfl
    split
    · exact (timer.trans told).trans (State.rootSafe_told _ _ _)
    · exact timer.trans told
  · exact .rfl

/-! ## Loss of the seam -/

/-- The rootstock's loss of the seam keeps the messages that wait for the lamp die. -/
theorem State.rootLosesSeam_sends (s : State) : ∀ m ∈ s.lamp.toLamp, m ∈ s.rootLosesSeam.lamp.toLamp := by
  intro m hm
  unfold State.rootLosesSeam
  split
  · exact hm
  · exact (State.raiseFcu_told _ _).sends m hm

/-- The lamp die's loss of the seam keeps the messages that wait for the rootstock. -/
theorem State.lampLosesSeam_sends (s : State) : ∀ m ∈ s.lamp.toRoot, m ∈ s.lampLosesSeam.lamp.toRoot := by
  intro m hm
  unfold State.lampLosesSeam
  split
  · exact hm
  · rw [State.raiseWide, State.raise, if_pos (by decide)]
    exact (State.raiseLamp_beside _ _).sends m hm

/-- A side that loses the seam: the lamp die is then safe. -/
theorem State.losesSeam_lost (s : State) (d : Side) (up : (s.lamp.side d).lost = false) :
    ((s.losesSeam d).lamp.side d).lost = true ∧ (d = .lamp → (s.losesSeam d).lamp.safe = true) := by
  cases d with
  | rootstock => exact ⟨s.rootLosesSeam_lost, nofun⟩
  | lamp => exact ⟨(s.lampLosesSeam_facts up).1, fun _ => (s.lampLosesSeam_facts up).2⟩

/-- Changes of a side's view. -/
@[simp] theorem Lamp.side_setSide (l : Lamp) (d : Side) (g : SeamSide → SeamSide) : (l.setSide d g).side d = g (l.side d) := by
  cases d <;> rfl

/-! ## Start of the lamp die -/

/-- LOSC qualifies by its count. -/
theorem loscQualifyCount_facts (s : State) (n : Nat) (ran : Bool) (run : s.lampRuns = true) (off : s.lamp.onLosc = false) :
    (ran = true → 3564 ≤ n → n ≤ 4533 →
      exec (.loscQualifyCount n ran) s = .next { s with lamp := { s.lamp with onLosc := true } })
    ∧ (ran = false ∨ n < 3564 ∨ 4533 < n → exec (.loscQualifyCount n ran) s = .next s) := by
  refine ⟨fun on lo hi => next_when_pos (by simp [run, off, on, lo, hi]), fun out => next_when_neg ?_⟩
  rcases out with h | h | h
  · simp [h]
  · simp [Nat.not_le.2 h]
  · simp [Nat.not_le.2 h]

/-- A configuration that does not verify silences both controllers, and is Fatal. -/
theorem lampBootDone_invalid (s : State) (run : s.lampRuns = true) (losc : s.lamp.onLosc = true)
    (down : s.lamp.booted = false) : ∃ t, exec (.lampBootDone false) s = .next t ∧ t.lamp.booted = true
      ∧ t.lamp.seamUp = true ∧ t.lamp.armed = true ∧ t.lamp.configOk = false ∧ t.lamp.safe = true
      ∧ ∀ b : BusId, (t.can[b.val]).silenced = true ∧ (t.can[b.val]).safePending = false := by
  refine ⟨_, next_when_pos (by simp [run, losc, down]), ?_⟩
  dsimp only
  rw [if_neg nofun]
  generalize hu : ({ s.setLamp (fun l => { l with booted := true, seamUp := true, armed := true, configOk := false }) with
    can := (s.setLamp (fun l => { l with booted := true, seamUp := true, armed := true, configOk := false })).can.map
      (fun x => { x with silenced := true, safePending := false }) } : State) = u
  unfold State.raiseWide
  obtain ⟨safe, -⟩ := u.raise_lamp_fatal { source := 0x500, event := .bootInjectFail } (by decide) rfl
  have raised : u.raise { source := 0x500, event := .bootInjectFail } = u.raiseLamp { source := 0x500, event := .bootInjectFail } :=
    if_pos (by decide)
  obtain ⟨⟨_, _, _, e⟩, -⟩ := u.raiseLamp_beside { source := 0x500, event := .bootInjectFail }
  have lamp := (congrArg State.lamp raised).trans e
  refine ⟨?_, ?_, ?_, ?_, safe, fun b => ?_⟩
  · rw [lamp]; subst hu; rfl
  · rw [lamp]; subst hu; rfl
  · rw [lamp]; subst hu; rfl
  · rw [lamp]; subst hu; rfl
  · rw [raised]
    unfold State.raiseLamp
    dsimp only
    rw [if_pos (by decide)]
    apply State.lampSafe_silenced
    · intro b; subst hu; split <;> simp [State.setLamp]
    · intro b; subst hu; split <;> simp [State.setLamp]

/-! ## Messages -/

/-- Every message has a level from 1 to 5. -/
theorem SeamMsg.level_mem (m : SeamMsg) : m.level ∈ [1, 2, 3, 4, 5] := by
  cases m with
  | service w x => by_cases h : w.val = 0 <;> simp [SeamMsg.level, h]
  | _ => simp [SeamMsg.level]

/-- The oldest message of the first level that has one goes first. -/
theorem nextMsg_first (q : List SeamMsg) (m : SeamMsg) (h : m ∈ q) : ∃ n ∈ q, nextMsg q = some n ∧ n.level ≤ m.level
    ∧ q.find? (fun x => x.level == n.level) = some n := by
  have scan : ∀ ks : List Nat, ks.Pairwise (· < ·) → m.level ∈ ks →
      ∃ n, ks.findSome? (fun k => q.find? (fun x => x.level == k)) = some n ∧ n.level ≤ m.level
        ∧ q.find? (fun x => x.level == n.level) = some n := by
    intro ks
    induction ks with
    | nil => intro _ hm; cases hm
    | cons k r ih =>
      intro sorted hm
      rw [List.pairwise_cons] at sorted
      rw [List.findSome?_cons]
      cases found : q.find? (fun x => x.level == k) with
      | some n =>
        have level : n.level = k := by simpa using List.find?_some found
        refine ⟨n, rfl, ?_, by rw [level]; exact found⟩
        rcases List.mem_cons.1 hm with e | e
        · omega
        · exact level ▸ (sorted.1 _ e).le
      | none =>
        have other : m.level ≠ k := by simpa using List.find?_eq_none.1 found m h
        exact ih sorted.2 ((List.mem_cons.1 hm).resolve_left other)
  obtain ⟨n, e, le, first⟩ := scan _ (by decide) m.level_mem
  exact ⟨n, List.mem_of_find?_eq_some first, e, le, first⟩

/-- A command that has crossed changes nothing of the lamp die's own state. -/
theorem State.withCrossed_lamp (s : State) (id : Nat) (o : Opcode) (g : Cmd → State) (h : ∀ c, (g c).lamp = s.lamp) :
    (s.withCrossed id o g).lamp = s.lamp := by
  unfold State.withCrossed
  split
  · split
    · exact h _
    · rfl
  · rfl

theorem State.kick_lamp (s : State) (b : BusId) : (s.kick b).lamp = s.lamp := by
  obtain ⟨_, _, e⟩ := s.kick_frame b
  rw [e]

theorem State.withdrawFrames_lamp (s : State) (b : BusId) (p st d) : (s.withdrawFrames b p st d).lamp = s.lamp := by
  unfold State.withdrawFrames
  dsimp only
  generalize List.filter p _ = l
  show _ = (s.setCan b (fun x => { x with queue := x.queue.filter (fun y => !p y) })).lamp
  generalize s.setCan b (fun x => { x with queue := x.queue.filter (fun y => !p y) }) = u
  induction l generalizing u with
  | nil => rfl
  | cons x r ih => rw [List.foldl_cons, ih]; rfl

/-- What the lamp die does on a message leaves the queue toward it and the run of bad frames. -/
theorem State.lampActs_keeps_inbox (s : State) (m : SeamMsg) :
    (s.lampActs m).lamp.toLamp = s.lamp.toLamp ∧ (s.lampActs m).lamp.lampSide.badCrc = s.lamp.lampSide.badCrc := by
  have same : ∀ t : State, t.lamp = s.lamp → t.lamp.toLamp = s.lamp.toLamp ∧ t.lamp.lampSide.badCrc = s.lamp.lampSide.badCrc :=
    fun t e => by rw [e]; exact ⟨rfl, rfl⟩
  cases m with
  | safeRequest k =>
    obtain ⟨⟨_, _, _, e⟩, -⟩ := s.lampSafe_beside k
    rw [show s.lampActs (.safeRequest k) = s.lampSafe k from rfl, e]
    exact ⟨rfl, rfl⟩
  | bootComplete => unfold State.lampActs; dsimp only; split <;> exact ⟨rfl, rfl⟩
  | canSend id =>
    refine same _ (s.withCrossed_lamp id _ _ (fun c => ?_))
    dsimp only
    repeat' split
    · rfl
    · rfl
    · rfl
    · rfl
    · exact State.kick_lamp _ _
  | safeMessage id =>
    refine same _ (s.withCrossed_lamp id _ _ (fun c => ?_))
    dsimp only
    repeat' split
    all_goals rfl
  | canConfig id =>
    refine same _ (s.withCrossed_lamp id _ _ (fun c => ?_))
    dsimp only
    repeat' split
    · rfl
    · rfl
    · exact State.withdrawFrames_lamp _ _ _ _ _
  | wdogConfig id =>
    refine same _ (s.withCrossed_lamp id _ _ (fun c => ?_))
    dsimp only
    repeat' split
    all_goals rfl
  | timerStart r => exact ⟨rfl, rfl⟩
  | timerStop r => exact ⟨rfl, rfl⟩
  | heartbeat => exact ⟨rfl, rfl⟩
  | service w x => exact ⟨rfl, rfl⟩
  | record => exact ⟨rfl, rfl⟩
  | channelReset => exact ⟨rfl, rfl⟩

/-- A good frame reaches the lamp die. -/
theorem lampSeamFrame_toLamp (s : State) (m : SeamMsg) (run : s.lampRuns = true) (up : s.lamp.seamUp = true)
    (found : s.lamp.lampSide.lost = false) (next : nextMsg s.lamp.toLamp = some m) :
    ∃ t, exec (.lampSeamFrame .lamp true) s = .next t
      ∧ t.lamp.toLamp = s.lamp.toLamp.erase m ∧ t.lamp.lampSide.badCrc = 0
      ∧ (∀ k, m = .safeRequest k → t.lamp.safe = true ∧ (s.lamp.safe = false → t.lampDrivesLow = true))
      ∧ (∀ r, m = .timerStart r → r ∈ t.lamp.shadows)
      ∧ (∀ r, m = .timerStop r → t.lamp.shadows = s.lamp.shadows.filter (· != r))
      ∧ (m = .bootComplete → t.lamp.gotBoot = (s.lamp.gotBoot || !s.lamp.timedOut))
      ∧ (m = .heartbeat → t.lamp.lampSide.heard = true)
      ∧ (∀ w x, m = .service w x → (t.wdog[w.val]).inbound = (s.wdog[w.val]).inbound ++ [x]) := by
  obtain ⟨inbox, bad⟩ := (s.seamTaken m).lampActs_keeps_inbox m
  refine ⟨_, lampSeamFrame_lamp s m run up found next, inbox, bad, ?_, ?_, ?_, ?_, ?_, ?_⟩
  · rintro k rfl
    exact ⟨State.lampSafe_safe _ _, fun calm => State.lampSafe_low (s.seamTaken (.safeRequest k)) k calm⟩
  · rintro r rfl
    simp [State.lampActs, State.setLamp]
  · rintro r rfl
    rfl
  · rintro rfl
    unfold State.lampActs
    dsimp only
    cases late : s.lamp.timedOut with
    | true => rw [if_pos (show (s.seamTaken .bootComplete).lamp.timedOut = true from late)]; simp [State.seamTaken, State.setLamp]
    | false =>
      rw [if_neg (show ¬ (s.seamTaken .bootComplete).lamp.timedOut = true by simpa [State.seamTaken, State.setLamp] using late)]
      simp [State.setLamp]
  · rintro rfl
    rfl
  · rintro w x rfl
    show (((s.seamTaken _).setWdog w _).wdog[w.val]).inbound = _
    simp [State.setWdog, State.seamTaken, State.setLamp]

/-- The state as the rootstock has taken its next message from the seam. -/
def State.seamTakenRoot (s : State) (m : SeamMsg) : State :=
  s.setLamp (fun l => { l with rootSide := { l.rootSide with badCrc := 0 }, toRoot := l.toRoot.erase m })

/-- An FLR does not touch the lamp die. -/
theorem State.flr_lamp (s : State) (f : FnId) (pf : isVf f = false) : (s.flr f).lamp = s.lamp := by
  obtain ⟨t, e, ⟨⟨_, _, _, _, _, _, _, frame, -, -⟩, -⟩, -⟩ := s.flr_pf f pf
  rw [e, State.setPort_lamp, frame]

theorem pfOf_facts (p : HostPort) : portOf (pfOf p) = p ∧ isVf (pfOf p) = false := by
  cases p <;> decide

/-- What the rootstock does on a message leaves the queue toward it and the run of bad frames. -/
theorem State.rootActs_keeps_inbox (s : State) (m : SeamMsg) :
    (s.rootActs m).lamp.toRoot = s.lamp.toRoot ∧ (s.rootActs m).lamp.rootSide.badCrc = s.lamp.rootSide.badCrc := by
  have told : ∀ t : State, s.lamp.Told t.lamp → t.lamp.toRoot = s.lamp.toRoot ∧ t.lamp.rootSide.badCrc = s.lamp.rootSide.badCrc := by
    rintro t ⟨⟨_, e⟩, -⟩
    rw [e]
    exact ⟨rfl, rfl⟩
  cases m with
  | safeRequest k => exact told _ (s.rootSafe_told _ _)
  | record => exact told _ (s.raiseFcu_told _)
  | channelReset p => exact told _ (by rw [State.rootActs, s.flr_lamp _ (pfOf_facts p).2]; exact .rfl)
  | _ => exact ⟨rfl, rfl⟩

/-- A good frame reaches the rootstock. -/
theorem lampSeamFrame_toRoot (s : State) (m : SeamMsg) (run : s.rootRuns = true) (up : s.lamp.seamUp = true)
    (found : s.lamp.rootSide.lost = false) (next : nextMsg s.lamp.toRoot = some m) :
    ∃ t, exec (.lampSeamFrame .rootstock true) s = .next t
      ∧ t.lamp.toRoot = s.lamp.toRoot.erase m ∧ t.lamp.rootSide.badCrc = 0
      ∧ (∀ k, m = .safeRequest k → t.safe = true ∧ (s.safe = false → t.rootDrivesLow = true))
      ∧ (∀ src e o k i st, m = .record src e o k i st → s.fcu.isEdge src e = true → t.fcu.nextSeq = s.fcu.nextSeq + 1)
      ∧ (m = .heartbeat → t.lamp.rootSide.heard = true)
      ∧ (∀ p f, m = .channelReset p → portOf f = p → (t.fn f).resetting = true) := by
  have row : exec (.lampSeamFrame .rootstock true) s = .next ((s.seamTakenRoot m).rootActs m) := by
    refine (next_when_pos (by rw [State.sideRuns, run, up, Lamp.side, found]; rfl)).trans ?_
    rw [if_pos rfl, State.deliver,
      show nextMsg ((s.setLamp (fun l => l.setSide .rootstock (fun x => { x with badCrc := 0 }))).lamp.inbox .rootstock)
        = some m from next]
    rfl
  obtain ⟨inbox, bad⟩ := (s.seamTakenRoot m).rootActs_keeps_inbox m
  refine ⟨_, row, inbox, bad, ?_, ?_, ?_, ?_⟩
  · rintro k rfl
    exact ⟨State.rootSafe_safe _ _ _, fun calm => State.rootSafe_low (s.seamTakenRoot (.safeRequest k)) _ _ calm⟩
  · rintro src e o k i st rfl edge
    obtain ⟨-, -, seq, -⟩ := (s.seamTakenRoot (.record src e o k i st)).raiseFcu_spec
      { source := src, event := e, owner := o, time := some k, injected := i, stays := st } run edge
    refine seq.trans ?_
    simp only [Fcu.capture]
    repeat' split
    all_goals rfl
  · rintro rfl
    rfl
  · rintro p f rfl port
    exact State.flr_resetting _ _ f (port.trans (pfOf_facts p).1.symm) (pfOf_facts p).2

/-! ## Bad frames and heartbeats -/

/-- A bad frame counts, and the third in a row loses the seam. -/
theorem lampSeamFrame_bad (s : State) (d : Side) (run : s.sideRuns d = true) (up : s.lamp.seamUp = true)
    (found : (s.lamp.side d).lost = false) : ∃ t, exec (.lampSeamFrame d false) s = .next t
      ∧ ((s.lamp.side d).badCrc < 2 → (t.lamp.side d).badCrc = (s.lamp.side d).badCrc + 1 ∧ (t.lamp.side d).lost = false)
      ∧ (2 ≤ (s.lamp.side d).badCrc → (t.lamp.side d).lost = true ∧ (d = .lamp → t.lamp.safe = true)) := by
  refine ⟨_, next_when_pos (by simp [run, up, found]), ?_⟩
  rw [if_neg nofun]
  dsimp only
  generalize hu : (if nextMsg (s.lamp.inbox d) = some .heartbeat then s.dropMsg d .heartbeat else s) = u
  have side : u.lamp.side d = s.lamp.side d := by subst hu; split <;> cases d <;> rfl
  generalize hv : u.setLamp (fun l => l.setSide d (fun x =>
    { x with badCrc := x.badCrc + 1, crcErrors := x.crcErrors + 1 })) = v
  have own : v.lamp.side d = { s.lamp.side d with
      badCrc := (s.lamp.side d).badCrc + 1, crcErrors := (s.lamp.side d).crcErrors + 1 } := by
    subst hv
    rw [← side]
    exact u.lamp.side_setSide d _
  have bad : (v.lamp.side d).badCrc = (s.lamp.side d).badCrc + 1 := by rw [own]
  have lost : (v.lamp.side d).lost = false := by rw [own]; exact found
  rw [bad]
  refine ⟨fun few => ?_, fun many => ?_⟩
  · rw [if_neg (by omega)]; exact ⟨bad, lost⟩
  · rw [if_pos (by omega)]; exact v.losesSeam_lost d lost

/-- A beat waits for the other side, and leaves the side's view. -/
theorem State.beat_facts (s : State) (d : Side) : (d = .rootstock → .heartbeat ∈ (s.beat d).lamp.toLamp)
    ∧ (d = .lamp → .heartbeat ∈ (s.beat d).lamp.toRoot) ∧ (s.beat d).lamp.side d = s.lamp.side d := by
  cases d with
  | rootstock =>
    refine ⟨fun _ => ?_, nofun, ?_⟩ <;> simp only [State.beat, State.setLamp]
    · split
      next h => exact List.contains_iff_mem.1 h
      next => simp
    · split <;> rfl
  | lamp =>
    refine ⟨nofun, fun _ => ?_, ?_⟩ <;> simp only [State.beat, State.setLamp]
    · split
      next h => exact List.contains_iff_mem.1 h
      next => simp
    · split <;> rfl

/-- A heartbeat interval. -/
theorem lampSeamHeartbeatInterval_facts (s : State) (d : Side) (run : s.sideRuns d = true)
    (found : (s.lamp.side d).lost = false) (booted : d = .lamp → s.lamp.booted = true) :
    ∃ t, exec (.lampSeamHeartbeatInterval d) s = .next t
      ∧ (d = .rootstock → .heartbeat ∈ t.lamp.toLamp) ∧ (d = .lamp → .heartbeat ∈ t.lamp.toRoot)
      ∧ ((s.lamp.side d).heard = true →
          (t.lamp.side d).missed = 0 ∧ (t.lamp.side d).heard = false ∧ (t.lamp.side d).lost = false)
      ∧ ((s.lamp.side d).heard = false → (s.lamp.side d).missed < 2 →
          (t.lamp.side d).missed = (s.lamp.side d).missed + 1 ∧ (t.lamp.side d).lost = false)
      ∧ ((s.lamp.side d).heard = false → 2 ≤ (s.lamp.side d).missed →
          (t.lamp.side d).lost = true ∧ (d = .lamp → t.lamp.safe = true)) := by
  have on : (s.sideRuns d && !(s.lamp.side d).lost && (decide (d = .rootstock) || s.lamp.booted)) = true := by
    rw [run, found]
    cases d with
    | rootstock => rfl
    | lamp => simp [booted rfl]
  refine ⟨_, next_when_pos on, ?_⟩
  dsimp only
  obtain ⟨root, lamp, side⟩ := s.beat_facts d
  generalize s.beat d = u at root lamp side
  have queues : ∀ g, (u.setLamp (fun l => l.setSide d g)).lamp.toLamp = u.lamp.toLamp
      ∧ (u.setLamp (fun l => l.setSide d g)).lamp.toRoot = u.lamp.toRoot := fun g => by cases d <;> exact ⟨rfl, rfl⟩
  have own : ∀ g, (u.setLamp (fun l => l.setSide d g)).lamp.side d = g (s.lamp.side d) := fun g => by
    rw [← side]; exact u.lamp.side_setSide d g
  cases heard : (s.lamp.side d).heard with
  | true =>
    rw [if_pos rfl, (queues _).1, (queues _).2, own]
    exact ⟨root, lamp, fun _ => ⟨rfl, rfl, found⟩, nofun, nofun⟩
  | false =>
    rw [if_neg nofun]
    generalize hv : u.setLamp (fun l => l.setSide d (fun x => { x with missed := x.missed + 1 })) = v
    have missed : (v.lamp.side d).missed = (s.lamp.side d).missed + 1 := by subst hv; rw [own]
    have lost : (v.lamp.side d).lost = false := by subst hv; rw [own]; exact found
    have root' : d = .rootstock → .heartbeat ∈ v.lamp.toLamp := by subst hv; rw [(queues _).1]; exact root
    have lamp' : d = .lamp → .heartbeat ∈ v.lamp.toRoot := by subst hv; rw [(queues _).2]; exact lamp
    rw [missed]
    by_cases many : 3 ≤ (s.lamp.side d).missed + 1
    · rw [if_pos many]
      refine ⟨fun h => ?_, fun h => ?_, nofun, fun _ few => absurd many (by omega), fun _ _ => v.losesSeam_lost d lost⟩
      · subst h; exact v.rootLosesSeam_sends _ (root' rfl)
      · subst h; exact v.lampLosesSeam_sends _ (lamp' rfl)
    · rw [if_neg many]
      exact ⟨root', lamp', nofun, fun _ _ => ⟨missed, lost⟩, fun _ h => absurd h (by omega)⟩

/-- Settles O36: frames to either side, bad frames and heartbeat intervals, each by its lemma above. -/
theorem lampSeam : Obligations.LampSeam := by
  unfold Obligations.LampSeam
  exact ⟨loscQualifyCount_facts,
    fun s run losc down => ⟨⟨_, next_when_pos (by simp [run, losc, down]), rfl, rfl, rfl, rfl, rfl⟩,
      lampBootDone_invalid s run losc down⟩,
    lampSeamFrame_toLamp, lampSeamFrame_toRoot, nextMsg_first,
    fun _ _ => ⟨rfl, rfl, rfl, rfl, rfl, rfl, rfl, rfl, rfl, rfl⟩, lampSeamFrame_bad, lampSeamHeartbeatInterval_facts⟩

end Sys2Proof.Machine

/-!
The fault commands.
-/

namespace Sys2Proof.Machine

/-! ## FAULT_ACK -/

/-- An accepted acknowledgement: its records unlatched and, outside the safe state, the episode's timer stopped and the
acknowledgement logged (R391, R393). -/
def State.acknowledged (s : State) (q : BitVec 21) (n : Named) (remedy : Nat) : State :=
  let t := s.unlatch q n.episode
  let log (t : State) : State := { t with fcu := { t.fcu with
    ackLog := (q, BitVec.ofNat 16 remedy, s.now) :: t.fcu.ackLog } }
  if s.safe then t
  else match n.running with
    | some tm => log (t.stopTimer tm.source)
    | none => if n.episode.isNone then log t else t

/-- FAULT_ACK of a number that names a record. -/
theorem State.Begins.faultAck {s : State} {id : Nat} {c : Cmd} {n : Named} (b : s.Begins id .faultAck c)
    (small : c.arg 16 4 < 2 ^ 21) (named : s.named c.fn (BitVec.ofNat 21 (c.arg 16 4)) = some n) :
    exec (.faultAck id) s = .next (
      if (n.class2 || (n.owner.isNone && n.tier == 2)) && !s.hasAuth c.fn then s.finish id stNotPermitted 2 0
      else if !n.accepts (c.arg 20 2) then s.finish id stBadParam 20 0
      else (s.acknowledged (BitVec.ofNat 21 (c.arg 16 4)) n (c.arg 20 2)).finish id stOk 0 0) := by
  refine b.next.trans (congrArg _ ?_)
  dsimp only
  rw [if_neg (Nat.not_le.2 small), named]
  unfold State.acknowledged
  dsimp only
  split
  · rfl
  split
  · rfl
  split
  · rfl
  cases n.running with
  | some tm => rfl
  | none => dsimp only; split <;> rfl

/-- FAULT_ACK of a number that names none. -/
theorem State.Begins.faultAck_unnamed {s : State} {id : Nat} {c : Cmd} (b : s.Begins id .faultAck c)
    (bad : 2 ^ 21 ≤ c.arg 16 4 ∨ s.named c.fn (BitVec.ofNat 21 (c.arg 16 4)) = none) :
    exec (.faultAck id) s = .next (s.finish id stBadParam 16 0) := by
  refine b.next.trans (congrArg _ ?_)
  dsimp only
  rcases bad with big | none
  · rw [if_pos big]
  · rw [none]; split <;> rfl

/-- What an acknowledgement touches: the views, the reaction timers, the log of acknowledgements and the queue toward
the lamp die. -/
theorem State.acknowledged_frame (s : State) (q : BitVec 21) (n : Named) (remedy : Nat) :
    ∃ timers ackLog toLamp, s.acknowledged q n remedy = { s.unlatch q n.episode with
      fcu := { s.fcu with timers := timers, ackLog := ackLog }, lamp := { s.lamp with toLamp := toLamp } } := by
  unfold State.acknowledged
  dsimp only
  split
  · exact ⟨s.fcu.timers, s.fcu.ackLog, s.lamp.toLamp, rfl⟩
  split
  · exact ⟨_, _, _, rfl⟩
  split
  · exact ⟨s.fcu.timers, _, s.lamp.toLamp, rfl⟩
  · exact ⟨s.fcu.timers, s.fcu.ackLog, s.lamp.toLamp, rfl⟩

/-- FAULT_ACK, refused or accepted. -/
theorem faultAck_facts (s : State) (id : Nat) (c : Cmd) (b : s.Begins id .faultAck c) :
    let q := BitVec.ofNat 21 (c.arg 16 4)
    ∃ t, exec (.faultAck id) s = .next t ∧ t.fcu.window = s.fcu.window ∧ t.fcu.live = s.fcu.live
      ∧ ((2 ^ 21 ≤ c.arg 16 4 ∨ s.named c.fn q = none) → Completed s t id c stBadParam 16 0)
      ∧ (∀ n, c.arg 16 4 < 2 ^ 21 → s.named c.fn q = some n →
          ((n.class2 = true ∨ (n.owner = none ∧ n.tier = 2)) → s.hasAuth c.fn = false →
            Completed s t id c stNotPermitted 2 0)
          ∧ ((n.class2 = false ∧ (n.owner ≠ none ∨ n.tier ≠ 2)) ∨ s.hasAuth c.fn = true →
              (n.accepts (c.arg 20 2) = false → Completed s t id c stBadParam 20 0)
              ∧ (n.accepts (c.arg 20 2) = true → Completed s t id c stOk 0 0
                  ∧ (∀ f : FnId, ∀ x ∈ (t.fn f).view, x.seq = q → x.latched = false)
                  ∧ (s.safe = true → t.fcu = s.fcu)
                  ∧ (∀ tm, s.safe = false → n.running = some tm →
                      t.fcu.timers = s.fcu.timers.filter (fun x => x.source != tm.source)
                      ∧ .timerStop tm.source ∈ t.lamp.toLamp
                      ∧ (q, BitVec.ofNat 16 (c.arg 20 2), s.now) ∈ t.fcu.ackLog)))) := by
  intro q
  by_cases small : c.arg 16 4 < 2 ^ 21
  case neg =>
    exact ⟨_, b.faultAck_unnamed (.inl (Nat.not_lt.1 small)), rfl, rfl, fun _ => b.done rfl, fun _ lt => absurd lt small⟩
  cases named : s.named c.fn q with
  | none => exact ⟨_, b.faultAck_unnamed (.inr named), rfl, rfl, fun _ => b.done rfl,
      fun _ _ same => absurd same (Option.some_ne_none _).symm⟩
  | some n =>
    obtain ⟨timers, ackLog, toLamp, frame⟩ := s.acknowledged_frame q n (c.arg 20 2)
    have commands : (s.acknowledged q n (c.arg 20 2)).fore.taken = s.fore.taken := by rw [frame]; rfl
    have window : (s.acknowledged q n (c.arg 20 2)).fcu.window = s.fcu.window := by rw [frame]
    have live : (s.acknowledged q n (c.arg 20 2)).fcu.live = s.fcu.live := by rw [frame]
    refine ⟨_, b.faultAck small named, ?_, ?_, fun bad => ?_, fun m _ same => ?_⟩
    · split
      · rfl
      split
      · rfl
      · exact window
    · split
      · rfl
      split
      · rfl
      · exact live
    · rcases bad with big | none
      · exact absurd small (Nat.not_lt.2 big)
      · cases none
    · obtain rfl := Option.some.inj same
      refine ⟨fun class2 auth => ?_, fun may => ?_⟩
      · rw [if_pos (by rcases class2 with h | ⟨h, k⟩ <;> simp [*])]
        exact b.done rfl
      · rw [if_neg (by rcases may with ⟨h, k | k⟩ | h <;> simp [*])]
        refine ⟨fun bad => ?_, fun good => ?_⟩
        · rw [if_pos (by simp [bad])]; exact b.done rfl
        · rw [if_neg (by simp [good])]
          refine ⟨b.done commands, fun f => ?_, fun safe => ?_, fun tm calm running => ?_⟩
          · have views : ((s.acknowledged q n (c.arg 20 2)).finish id stOk 0 0).fn f = (s.unlatch q n.episode).fn f := by
              rw [frame]; rfl
            rw [views]
            exact s.unlatch_view q n.episode f
          · show (s.acknowledged q n (c.arg 20 2)).fcu = s.fcu
            unfold State.acknowledged
            rw [if_pos safe]
            rfl
          · have stopped : s.acknowledged q n (c.arg 20 2) = { (s.unlatch q n.episode).stopTimer tm.source with
                fcu := { ((s.unlatch q n.episode).stopTimer tm.source).fcu with
                  ackLog := (q, BitVec.ofNat 16 (c.arg 20 2), s.now) :: s.fcu.ackLog } } := by
              unfold State.acknowledged
              rw [if_neg (by simp [calm]), running]
              rfl
            rw [stopped]
            exact ⟨rfl, by simp [State.stopTimer, State.finish, State.setCmd, State.setFore, State.setLamp],
              List.mem_cons_self⟩

/-! ## THRESHOLD_SET -/

/-- A source whose threshold is set has it, and no other source's changes. -/
theorem Fcu.threshold_set (x : Fcu) (src n w : Nat) (e : Ev) (promotable : promotion e ≠ none) :
    let y : Fcu := { x with thresholds := (src, n, w) :: x.thresholds.filter (fun t => t.1 != src) }
    y.threshold src e = some (n, w) ∧ ∀ k, k ≠ src → y.threshold k e = x.threshold k e := by
  intro y
  obtain ⟨d, hd⟩ := Option.ne_none_iff_exists'.1 promotable
  unfold Fcu.threshold
  rw [hd]
  dsimp only [y]
  refine ⟨by simp, fun k ne => ?_⟩
  have first : ((src, n, w).1 == k) = false := by simpa using Ne.symm ne
  have others : (x.thresholds.filter (fun t => t.1 != src)).find? (fun t => t.1 == k) = x.thresholds.find? (fun t => t.1 == k) := by
    rw [List.find?_filter]
    congr 1
    funext t
    by_cases h : t.1 = k
    · simp [h, ne]
    · simp [h]
  rw [List.find?_cons_of_neg (by simp [Ne.symm ne]), others]

/-! ## INJECT -/

/-- An injected edge of a condition, held under HOLD. -/
def State.injected (s : State) (id src kind : Nat) (e : Ev) : State :=
  let t := s.finish id stOk 0 0
  let t := if s.fcu.stands src e then t else t.raise
    { source := src, event := e, owner := (s.ownerOf src).1, class2 := (s.ownerOf src).2.1, stays := decide (kind / 64 = 1),
      injected := true, context := (s.ownerOf src).2.2, tier := s.tierOf e }
  if kind / 64 = 1 ∧ ¬ lampSource src ∧ ¬ t.fcu.holds.contains (src, e) then
    { t with fcu := { t.fcu with holds := (src, e) :: t.fcu.holds } }
  else t

/-- INJECT of an event, by its kind. -/
theorem State.Begins.inject {s : State} {id : Nat} {c : Cmd} {e : Ev} (b : s.Begins id .inject c)
    (event : evOfCode (c.arg 18 1 % 64) = some e) : exec (.inject id) s = .next (
      if c.arg 18 1 / 64 = 2 then ({ s with fcu := { s.fcu with
        holds := s.fcu.holds.filter (fun x => x != (c.arg 16 2, e)) } } : State).finish id stOk 0 0
      else s.injected id (c.arg 16 2) (c.arg 18 1) e) := by
  refine b.next.trans (congrArg _ ?_)
  dsimp only
  rw [event]
  dsimp only
  split
  · rfl
  · unfold State.injected
    simp only [decide_eq_true_eq]

/-- An injected edge: the command is complete, one number is taken where the condition did not stand, and HOLD holds. -/
theorem State.injected_facts {s : State} {id : Nat} {c : Cmd} (b : s.Begins id .inject c) (src kind : Nat) (e : Ev) :
    (s.injected id src kind e).cmd id = some { c with phase := .formed stOk 0 0 s.now }
      ∧ (s.fcu.stands src e = false → (src, e) ∉ s.fcu.holdoff → lampSource src = false →
          (s.injected id src kind e).fcu.nextSeq = s.fcu.nextSeq + 1)
      ∧ (s.fcu.stands src e = true → (s.injected id src kind e).fcu.nextSeq = s.fcu.nextSeq)
      ∧ (kind / 64 = 1 → lampSource src = false → (src, e) ∈ (s.injected id src kind e).fcu.holds) := by
  unfold State.injected
  dsimp only
  generalize hr : ({ source := src, event := e, owner := (s.ownerOf src).1, class2 := (s.ownerOf src).2.1,
                     stays := decide (kind / 64 = 1), injected := true, context := (s.ownerOf src).2.2,
                     tier := s.tierOf e } : Raise) = r
  have source : r.source = src := by subst hr; rfl
  have event : r.event = e := by subst hr; rfl
  have formed : (s.finish id stOk 0 0).cmd id = some { c with phase := .formed stOk 0 0 s.now } :=
    State.finish_cmd b.cmd b.live _ _ _
  generalize ht : (if s.fcu.stands src e then s.finish id stOk 0 0 else (s.finish id stOk 0 0).raise r) = t
  have own : t.cmd id = some { c with phase := .formed stOk 0 0 s.now } := by
    subst ht
    split
    · exact formed
    · rcases ((s.finish id stOk 0 0).raise_raised r).cmd id _ formed with same | ⟨live, -⟩
      · exact same
      · cases live
  have edge : s.fcu.stands src e = false → (src, e) ∉ s.fcu.holdoff → lampSource src = false →
      t.fcu.nextSeq = s.fcu.nextSeq + 1 := by
    intro stands holdoff root
    subst ht
    rw [if_neg (by simp [stands])]
    refine ((s.finish id stOk 0 0).raise_nextSeq r b.runs (by rw [source]; exact root)).1 ?_
    rw [source, event]
    simp only [Fcu.stands, Bool.or_eq_false_iff] at stands
    show s.fcu.isEdge src e = true
    simp only [Fcu.isEdge, stands.1, stands.2]
    simpa using holdoff
  have calm : s.fcu.stands src e = true → t.fcu.nextSeq = s.fcu.nextSeq := by
    intro stands
    subst ht
    rw [if_pos stands]
    rfl
  clear ht
  split
  next => exact ⟨own, edge, calm, fun _ _ => List.mem_cons_self⟩
  next h =>
    refine ⟨own, edge, calm, fun hold root => ?_⟩
    by_contra out
    exact h ⟨hold, by simp [root], by simpa using out⟩

/-- Settles O43: FAULT_ACK by `State.acknowledged_frame`, THRESHOLD_SET by `Fcu.threshold_set`, INJECT by
`State.injected_facts`. -/
theorem faultCommands : Obligations.FaultCommands := by
  unfold Obligations.FaultCommands
  refine ⟨faultAck_facts, fun s id c b => ⟨_, b.next, b.done rfl, rfl,
    fun e promotable => s.fcu.threshold_set _ _ _ e promotable⟩, fun s id c b => ?_⟩
  cases event : evOfCode (c.arg 18 1 % 64) with
  | none =>
    refine ⟨s.finish id stBadParam 18 0, b.next.trans (congrArg _ ?_), fun _ => b.done rfl, nofun⟩
    dsimp only
    rw [event]
  | some e =>
    refine ⟨_, b.inject event, nofun, fun e' same => ?_⟩
    obtain rfl := Option.some.inj same
    obtain ⟨own, edge, calm, hold⟩ := State.injected_facts b (c.arg 16 2) (c.arg 18 1) e
    by_cases release : c.arg 18 1 / 64 = 2
    · rw [if_pos release]
      refine ⟨(b.done rfl).own, fun _ => ⟨?_, rfl⟩, fun no => absurd release no, fun no => absurd release no,
        fun one => by omega⟩
      simp [State.finish, State.setCmd, State.setFore]
    · rw [if_neg release]
      exact ⟨own, fun h => absurd h release, fun _ => edge, fun _ => calm, hold⟩

end Sys2Proof.Machine

/-!
Power commands, budgets, heat, Doze and Night.
-/

namespace Sys2Proof.Machine

/-! ## POWER_STATE -/

/-- A stream that is open holds a binding: `powerHeld`'s test, as the statement says it. -/
theorem bound_iff (s : State) : s.streams.toList.any (fun x => x.isOpen && x.bound.isSome) = false
    ↔ ∀ x : CtxId, (s.streams[x.val]).isOpen = true → (s.streams[x.val]).bound = none := by
  rw [List.any_eq_false]
  constructor
  · intro h x isOpen
    have := h (s.streams[x.val]) (by simp)
    simpa [isOpen] using this
  · intro h y hy
    obtain ⟨i, hi, rfl⟩ := List.mem_iff_getElem.1 hy
    have := h ⟨i, by simpa using hi⟩
    simp only [Vector.length_toList] at hi
    simpa using this

/-- Night asks for a quiet device. -/
theorem quiet_iff (s : State) (id : Nat) :
    (s.anyOpen || !s.fcu.timers.isEmpty || s.fore.taken.any (fun c => c.id != id)) = false
      ↔ s.anyOpen = false ∧ s.fcu.timers = [] ∧ ∀ d ∈ s.fore.taken, d.id = id := by
  simp [and_assoc]

/-- POWER_STATE, in the order of its conditions. -/
theorem powerState_facts (s : State) (id : Nat) (c : Cmd) (b : s.Begins id .powerState c) :
    let n := c.arg 16 1
    let free := s.fore.reservations = [] ∧ ∀ x : CtxId, (s.streams[x.val]).isOpen = true → (s.streams[x.val]).bound = none
    let quiet := s.anyOpen = false ∧ s.fcu.timers = [] ∧ ∀ d ∈ s.fore.taken, d.id = id
    ∃ t, exec (.powerState id) s = .next t
      ∧ (n = 0 → Completed s t id c stOk 0 0 ∧ t.power.state = .run ∧ t.power.dozeDue = false)
      ∧ (n = 2 → s.nightBarred = true → Completed s t id c stNotPermitted 7 0 ∧ t.power = s.power)
      ∧ ((n = 1 ∨ (n = 2 ∧ s.nightBarred = false)) → s.fore.reservations ≠ [] →
          Completed s t id c stBusy 6 0 ∧ t.power = s.power)
      ∧ ((n = 1 ∨ (n = 2 ∧ s.nightBarred = false)) → s.fore.reservations = [] → ¬ free →
          Completed s t id c stBusy 8 0 ∧ t.power = s.power)
      ∧ (n = 2 → s.nightBarred = false → free → ¬ quiet → Completed s t id c stBusy 8 0 ∧ t.power = s.power)
      ∧ (n = 1 → free → Completed s t id c stOk 0 0 ∧ t.power.dozeDue = (s.power.dozeDue || decide (s.power.state ≠ .doze)))
      ∧ (n = 2 → s.nightBarred = false → free → quiet → Completed s t id c stOk 0 0 ∧ t.power.nightDue = true) := by
  intro n free quiet
  have refused : ∀ st d, s.powerHeld id n = some (st, d) → ∀ t, exec (.powerState id) s = .next t →
      Completed s t id c st d 0 ∧ t.power = s.power := by
    intro st d held t row
    have e := b.next.symm.trans row
    dsimp only at e
    rw [held] at e
    cases e
    exact ⟨b.done rfl, rfl⟩
  have granted : s.powerHeld id n = none → exec (.powerState id) s = .next (
      if n = 0 then (s.finish id stOk 0 0).wakeRun
      else if n = 1 then
        if s.power.state = .doze then s.finish id stOk 0 0
        else { s.finish id stOk 0 0 with power := { s.power with dozeDue := true } }
      else { s.finish id stOk 0 0 with power := { s.power with nightDue := true } }) := by
    intro held
    refine b.next.trans (congrArg _ ?_)
    dsimp only
    rw [held]
    rfl
  have isFree : free ↔ s.fore.reservations = [] ∧ s.streams.toList.any (fun x => x.isOpen && x.bound.isSome) = false :=
    and_congr_right fun _ => (bound_iff s).symm
  have isQuiet : quiet ↔ (s.anyOpen || !s.fcu.timers.isEmpty || s.fore.taken.any (fun c => c.id != id)) = false :=
    (quiet_iff s id).symm
  have done : Completed s (s.finish id stOk 0 0) id c stOk 0 0 := b.done rfl
  refine ⟨_, b.next, fun zero => ?_, fun two barred => ?_, fun one res => ?_, fun one res busy => ?_,
    fun two open' f q => ?_, fun one f => ?_, fun two open' f q => ?_⟩
  · have e := b.next.symm.trans (granted (by simp [State.powerHeld, zero]))
    rw [if_pos zero] at e
    rw [Host.Outcome.next.inj e]
    exact ⟨⟨done.own, done.other⟩, rfl, rfl⟩
  · exact refused _ _ (by simp [State.powerHeld, two, barred]) _ b.next
  · exact refused _ _ (by rcases one with h | ⟨h, k⟩ <;> simp [State.powerHeld, *]) _ b.next
  · have bound : s.streams.toList.any (fun x => x.isOpen && x.bound.isSome) = true := by
      rw [← Bool.not_eq_false]; exact fun h => busy (isFree.2 ⟨res, h⟩)
    exact refused _ _ (by rcases one with h | ⟨h, k⟩ <;> simp only [State.powerHeld, *] <;> rfl) _ b.next
  · obtain ⟨res, bound⟩ := isFree.1 f
    have loud : (s.anyOpen || !s.fcu.timers.isEmpty || s.fore.taken.any (fun c => c.id != id)) = true := by
      rw [← Bool.not_eq_false]; exact fun h => q (isQuiet.2 h)
    exact refused _ _ (by simp only [State.powerHeld, two, res, bound, open', loud]; rfl) _ b.next
  · obtain ⟨res, bound⟩ := isFree.1 f
    have e := b.next.symm.trans (granted (by simp only [State.powerHeld, one, res, bound]; rfl))
    rw [if_neg (by omega), if_pos one] at e
    rw [Host.Outcome.next.inj e]
    split
    next doze => exact ⟨done, by simp [doze, State.finish, State.setCmd, State.setFore]⟩
    next doze => exact ⟨⟨done.own, done.other⟩, by simp [doze]⟩
  · obtain ⟨res, bound⟩ := isFree.1 f
    have calm := isQuiet.1 q
    have e := b.next.symm.trans (granted (by simp only [State.powerHeld, two, res, bound, open', calm]; rfl))
    rw [if_neg (by omega), if_neg (by omega)] at e
    rw [Host.Outcome.next.inj e]
    exact ⟨⟨done.own, done.other⟩, rfl⟩

/-! ## BUDGET_SET -/

theorem budgetSet_facts (s : State) (id : Nat) (c : Cmd) (b : s.Begins id .budgetSet c) :
    ∃ t, exec (.budgetSet id) s = .next t
      ∧ Completed s t id c stOk 0 (BitVec.ofNat 64 t.budget)
      ∧ t.budget = min (if c.arg 16 4 = 0 then 95000 else max 30000 (min 95000 (c.arg 16 4)))
          ((match portOf c.fn with
            | .a => s.portB.budgetMw
            | .b => s.portA.budgetMw).getD 95000) := by
  refine ⟨_, b.next, b.done (State.setPort_fore ..|>.symm ▸ rfl), ?_⟩
  cases portOf c.fn with
  | a => rfl
  | b => exact min_comm _ _

/-! ## DIE_RESTORE -/

/-- What a re-partition at once touches while no mirror collects. -/
theorem State.repartitionNow_planned (s : State) (h : s.fore.replay.state ≠ .collecting) : Planned s s.repartitionNow := by
  unfold State.repartitionNow
  split
  · exact Planned.refl s
  split
  · exact ⟨⟨_, _, _, rfl⟩, ⟨rfl, rfl, rfl, rfl, rfl, rfl, rfl, rfl, rfl, rfl, rfl, rfl, rfl, rfl⟩, fun _ => ⟨rfl, rfl, fun _ h => h⟩⟩
  · exact s.repartition_planned 1 true h

/-- Its commands, its restore and the scions stay. -/
theorem Planned.scions {s t : State} (p : Planned s t) : t.scions = s.scions := by
  obtain ⟨_, _, _, e⟩ := p.state
  rw [e]

theorem Planned.cmd {s t : State} (p : Planned s t) (id : Nat) : t.cmd id = s.cmd id := by
  simp only [State.cmd, p.fore.1]

/-- DIE_RESTORE of a scion, in the order of its conditions. -/
theorem State.Begins.dieRestore {s : State} {id : Nat} {c : Cmd} {n : ScionId} (b : s.Begins id .dieRestore c)
    (names : c.arg 16 1 = n.val) : exec (.dieRestore id) s = .next (
      if s.fore.restoring.isSome then s.finish id stBusy 8 0
      else if decide ((s.scions[n.val]).state = .joined) && !s.hasRetired n then s.finish id stBusy 1 0
      else if 848 ≤ s.footprintMax n.val then s.finish id stThermal (BitVec.ofNat 16 n.val) 0
      else if decide ((s.scions[n.val]).state = .joined) then
        (((s.setFore (fun x => { x with restoring := some (n, id) })).hold id).setScion n
          (fun x => { x with withdrawing := true })).settleWithdrawal n
      else ((s.setFore (fun x => { x with restoring := some (n, id) })).hold id).setScion n
        (fun x => { x with state := .restoring })) := by
  obtain rfl : Fin.ofNat 4 (c.arg 16 1) = n := by rw [names]; exact Fin.ext (Nat.mod_eq_of_lt n.isLt)
  exact b.next

/-- A scion that is withdrawn waits for its tiles, and is then restored. -/
theorem State.settleWithdrawal_facts (s : State) (n : ScionId) (withdrawn : (s.scions[n.val]).withdrawing = true)
    (mirror : s.fore.replay.state ≠ .collecting) : (∀ id, (s.settleWithdrawal n).cmd id = s.cmd id)
      ∧ (s.settleWithdrawal n).fore.restoring = s.fore.restoring
      ∧ ((∃ e : EngineId, scionOf e = n ∧ (s.engines[e.val]).tile ≠ none) →
          ((s.settleWithdrawal n).scions[n.val]).withdrawing = true)
      ∧ ((∀ e : EngineId, scionOf e = n → (s.engines[e.val]).tile = none) →
          ((s.settleWithdrawal n).scions[n.val]).state = .restoring) := by
  have busyIff : (List.finRange 64).any (fun (e : EngineId) => decide (scionOf e = n) && (s.engines[e.val]).tile.isSome) = true
      ↔ ∃ e : EngineId, scionOf e = n ∧ (s.engines[e.val]).tile ≠ none := by
    simp [List.any_eq_true, Option.isSome_iff_ne_none]
  unfold State.settleWithdrawal
  dsimp only
  rw [withdrawn, Bool.true_and]
  by_cases busy : ∃ e : EngineId, scionOf e = n ∧ (s.engines[e.val]).tile ≠ none
  · rw [busyIff.2 busy, if_neg nofun]
    refine ⟨fun _ => rfl, rfl, fun _ => withdrawn, fun idle => ?_⟩
    obtain ⟨e, on, tile⟩ := busy
    exact absurd (idle e on) tile
  · rw [Bool.eq_false_iff.2 (fun h => busy (busyIff.1 h)), if_pos (show (!false) = true from rfl)]
    have fenced : ((s.fence n).setScion n (fun x => { x with state := .restoring })).fore = s.fore := by
      rw [State.setScion_fore, State.fence_fore]
    have p := State.repartitionNow_planned ((s.fence n).setScion n (fun x => { x with state := .restoring }))
      (by rw [fenced]; exact mirror)
    refine ⟨fun id => (p.cmd id).trans (by simp only [State.cmd, fenced]), p.fore.2.2.1.trans (by rw [fenced]),
      fun h => absurd h busy, fun _ => ?_⟩
    rw [p.scions, State.setScion_at]

/-- DIE_RESTORE: its refusals, and the scion at work. -/
theorem dieRestore_facts (s : State) (id : Nat) (c : Cmd) (n : ScionId) (b : s.Begins id .dieRestore c)
    (names : c.arg 16 1 = n.val) :
    let x := s.scions[n.val]
    ∃ t, exec (.dieRestore id) s = .next t
      ∧ (s.fore.restoring ≠ none → Completed s t id c stBusy 8 0 ∧ t.scions = s.scions)
      ∧ (s.fore.restoring = none → x.state = .joined → s.hasRetired n = false → Completed s t id c stBusy 1 0)
      ∧ (s.fore.restoring = none → (x.state ≠ .joined ∨ s.hasRetired n = true) → 848 ≤ s.footprintMax n.val →
          Completed s t id c stThermal (BitVec.ofNat 16 n.val) 0)
      ∧ (s.fore.restoring = none → x.state ≠ .joined → s.footprintMax n.val < 848 →
          t.cmd id = some { c with phase := .running } ∧ t.fore.restoring = some (n, id)
          ∧ (t.scions[n.val]).state = .restoring)
      ∧ (s.fore.restoring = none → x.state = .joined → s.hasRetired n = true → s.footprintMax n.val < 848 →
          s.fore.replay.state ≠ .collecting → t.cmd id = some { c with phase := .running } ∧ t.fore.restoring = some (n, id)
          ∧ (((∃ e : EngineId, scionOf e = n ∧ (s.engines[e.val]).tile ≠ none) → (t.scions[n.val]).withdrawing = true)
            ∧ ((∀ e : EngineId, scionOf e = n → (s.engines[e.val]).tile = none) → (t.scions[n.val]).state = .restoring))) := by
  intro x
  refine ⟨_, b.dieRestore names, fun other => ?_, fun free joined whole => ?_, fun free may hot => ?_,
    fun free out cold => ?_, fun free joined retired cold mirror => ?_⟩
  · rw [if_pos (Option.isSome_iff_ne_none.2 other)]
    exact ⟨b.done rfl, rfl⟩
  · rw [if_neg (by simp [free]), if_pos (by simp [whole, show (s.scions[n.val]).state = .joined from joined])]
    exact b.done rfl
  · rw [if_neg (by simp [free]), if_neg, if_pos hot]
    · exact b.done rfl
    · rcases may with h | h
      · simp [show (s.scions[n.val]).state ≠ .joined from h]
      · simp [h]
  · rw [if_neg (by simp [free]), if_neg, if_neg (not_le.2 cold), if_neg]
    · refine ⟨State.hold_cmd (s := s.setFore (fun x => { x with restoring := some (n, id) })) b.cmd, rfl, ?_⟩
      rw [State.setScion_at]
    · simp [show (s.scions[n.val]).state ≠ .joined from out]
    · simp [show (s.scions[n.val]).state ≠ .joined from out]
  · have on : decide ((s.scions[n.val]).state = .joined) = true := decide_eq_true joined
    rw [if_neg (by simp [free]), if_neg (by simp [on, retired]), if_neg (not_le.2 cold), if_pos on]
    generalize hu : ((s.setFore (fun x => { x with restoring := some (n, id) })).hold id).setScion n
          (fun x => { x with withdrawing := true }) = u
    have held : u.cmd id = some { c with phase := .running } := by
      subst hu; exact State.hold_cmd (s := s.setFore (fun x => { x with restoring := some (n, id) })) b.cmd
    obtain ⟨cmd, restoring, waits, restores⟩ := u.settleWithdrawal_facts n
      (by subst hu; rw [State.setScion_at]) (by subst hu; exact mirror)
    refine ⟨(cmd id).trans held, restoring.trans (by subst hu; rfl), ?_, ?_⟩
    · subst hu; exact waits
    · subst hu; exact restores

/-- The end of a restore: the scion joins, or is fenced. -/
theorem dieRestoreDone_facts (s : State) (id : Nat) (c : Cmd) (n : ScionId) (run : s.rootRuns = true)
    (restoring : s.fore.restoring = some (n, id)) (state : (s.scions[n.val]).state = .restoring)
    (settled : (s.scions[n.val]).withdrawing = false) (taken : s.cmd id = some c) (live : c.live = true) :
    (s.fore.replay.state ≠ .collecting → ∃ t, exec (.dieRestoreDone .pass) s = .next t
      ∧ t.cmd id = some { c with phase := .formed stOk 0 0 t.now }
      ∧ (t.scions[n.val]).state = .joined ∧ t.fore.restoring = none)
    ∧ ∀ e, ∃ t, exec (.dieRestoreDone (.bistFail e)) s = .next t
      ∧ t.cmd id = some { c with phase := .formed stDieLost (1 <<< n.val) 0 t.now }
      ∧ (t.scions[n.val]).state = .fenced ∧ t.fore.restoring = none := by
  have still : s.settleWithdrawal n = s := by
    unfold State.settleWithdrawal
    dsimp only
    rw [settled, Bool.false_and, if_neg nofun]
  have row : ∀ r : ScionTest, exec (.dieRestoreDone r) s = .next (match r with
      | .pass => (((s.setFore (fun x => { x with restoring := none })).joinScion n).repartitionNow).finish id stOk 0 0
      | r => (((s.setFore (fun x => { x with restoring := none })).fence n).scionFailed n r).finish id stDieLost (1 <<< n.val) 0) := by
    intro r
    refine (next_when_pos run).trans (congrArg _ ?_)
    rw [restoring]
    dsimp only
    rw [still, if_neg (by simp [state])] <;> rfl
  refine ⟨fun mirror => ⟨_, row .pass, ?_⟩, fun e => ⟨_, row (.bistFail e), ?_⟩⟩
  · obtain ⟨joined, -, -, frame⟩ := (s.setFore (fun x => { x with restoring := none })).joinScion_spec n
    have fore : ((s.setFore (fun x => { x with restoring := none })).joinScion n).fore = { s.fore with restoring := none } := by
      rw [frame]; rfl
    generalize (s.setFore (fun x => { x with restoring := none })).joinScion n = u at joined fore
    have p := u.repartitionNow_planned (by rw [fore]; exact mirror)
    have cmd : u.repartitionNow.cmd id = some c := by
      rw [p.cmd, ← taken]; simp only [State.cmd, fore]
    refine ⟨State.finish_cmd cmd live _ _ _, ?_, ?_⟩
    · show (u.repartitionNow.scions[n.val]).state = .joined
      rw [p.scions]; exact joined
    · show u.repartitionNow.fore.restoring = none
      rw [p.fore.2.2.1, fore]
  · have fore : ((s.setFore (fun x => { x with restoring := none })).fence n).fore = { s.fore with restoring := none } :=
      State.fence_fore _ n
    have fenced := (Fenced.fence n (s.setFore (fun x => { x with restoring := none }))).1
    generalize (s.setFore (fun x => { x with restoring := none })).fence n = u at fore fenced
    obtain ⟨kept, -, -, -, scions, -⟩ := u.raise_calm
      { source := 0x100 * (1 + n.val) + 0x70 + e.val, event := .selftestFail, tier := some 1 } rfl (show 1 < 2 by decide)
    have cmd : (u.scionFailed n (.bistFail e)).cmd id = some c := by
      rw [← taken]; simp only [State.cmd, State.scionFailed, kept, fore]
    refine ⟨State.finish_cmd cmd live _ _ _, ?_, ?_⟩
    · show ((u.scionFailed n (.bistFail e)).scions[n.val]).state = .fenced
      simp only [State.scionFailed, scions]; exact fenced
    · show (u.scionFailed n (.bistFail e)).fore.restoring = none
      simp only [State.scionFailed, kept, fore]

/-- Settles O46: the three commands and the end of a restore, each in the order of its conditions. -/
theorem powerCommands : Obligations.PowerCommands := by
  unfold Obligations.PowerCommands
  exact ⟨powerState_facts, budgetSet_facts, dieRestore_facts, fun s id c n run restoring state settled taken live =>
    dieRestoreDone_facts s id c n run restoring state settled taken live⟩

end Sys2Proof.Machine

/-!
Budgets, heat, Doze and Night.
-/

namespace Sys2Proof.Machine

/-! ## Grants -/

/-- The grants of an interval fit in the pool. -/
theorem grants_fit (pool a b c d : Nat) :
    let total := a + b + c + d
    grantOf pool total a + grantOf pool total b + grantOf pool total c + grantOf pool total d ≤ pool := by
  intro total
  unfold grantOf
  by_cases fits : total ≤ pool
  · simp only [if_pos fits]
    exact fits
  · simp only [if_neg fits]
    calc pool * a / total + pool * b / total + pool * c / total + pool * d / total
        ≤ (pool * a + pool * b) / total + pool * c / total + pool * d / total := by
          gcongr; exact Nat.div_add_div_le_add_div ..
      _ ≤ (pool * a + pool * b + pool * c) / total + pool * d / total := by
          gcongr; exact Nat.div_add_div_le_add_div ..
      _ ≤ (pool * a + pool * b + pool * c + pool * d) / total := Nat.div_add_div_le_add_div ..
      _ = pool * total / total := by rw [← Nat.mul_add, ← Nat.mul_add, ← Nat.mul_add]
      _ ≤ pool := Nat.div_le_of_le_mul (le_of_eq (Nat.mul_comm _ _))

/-- A scion that asks for nothing is granted nothing. -/
theorem grantOf_zero (pool total : Nat) : grantOf pool total 0 = 0 := by
  simp [grantOf]

/-- The request of a joined scion in an interval. -/
def State.request (s : State) (rq : List (Option PowerRequest)) (n : ScionId) : Option PowerRequest :=
  if (s.scions[n.val]).state = .joined then (rq[n.val]?).join else none

/-- What the joined scions ask for. -/
def State.asked (s : State) (rq : List (Option PowerRequest)) : Nat :=
  ((List.finRange 4).map (fun n => ((s.request rq n).map (·.d4)).getD 0)).sum

/-- The writes to the rails in an interval. -/
def State.railMoves (s : State) (rq : List (Option PowerRequest)) (pool : Nat) : List Sent :=
  (List.finRange 4).filterMap (fun n => match s.request rq n with
    | none => none
    | some q =>
      let mv := nextSetpoint (s.scions[n.val]).setpointMv (budgetDivOf q (grantOf pool (s.asked rq) q.d4)) (s.scions[n.val]).eclkDiv
      if mv = (s.scions[n.val]).setpointMv then none else some (Sent.avsWrite n.val mv))

/-- A budget interval, scion by scion. -/
theorem budgetInterval_spec (s : State) (p b : Nat) (rq : List (Option PowerRequest)) (acked : List Bool) (run : s.rootRuns = true) :
    let pool := scionPool (s.power.account p s.budget).excursionUs s.budget b
    ∃ t, exec (.budgetInterval p b rq acked) s = .next t
      ∧ t.power = s.power.account p s.budget ∧ t.sent = (s.railMoves rq pool).reverse ++ s.sent
      ∧ t = { s with power := t.power, scions := t.scions, sent := t.sent }
      ∧ ∀ n : ScionId, t.scions[n.val] = match s.request rq n with
          | none => s.scions[n.val]
          | some q => (s.scions[n.val]).budget q (grantOf pool (s.asked rq) q.d4) (acked.getD n.val false) := by
  intro pool
  have request : ∀ n : ScionId, (if (s.scions.toList.getD n.val {}).state = .joined then (rq[n.val]?).join else none)
      = s.request rq n := fun n => by simp [State.request]
  have range : ∀ {α : Type} (f : Nat → α), (List.range 4).map f = (List.finRange 4).map (fun n => f n.val) := fun f => by
    simp [List.finRange_succ, List.range_succ]
  have asked : ((List.range 4).map (fun n => ((if (s.scions.toList.getD n {}).state = .joined then (rq[n]?).join else none).map
      (·.d4)).getD 0)).sum = s.asked rq := by
    rw [range]
    simp only [request, State.asked]
  refine ⟨_, next_when_pos run, rfl, ?_, rfl, fun n => ?_⟩
  · dsimp only
    rw [asked]
    congr 2
    have filter : ∀ (f : Nat → Option Sent), (List.range 4).filterMap f = (List.finRange 4).filterMap (fun n => f n.val) := fun f => by
      have := congrArg (List.filterMap id) (range f)
      simpa [List.filterMap_map] using this
    rw [filter]
    unfold State.railMoves
    refine List.filterMap_congr (fun n _ => ?_)
    rw [request]
    cases s.request rq n with
    | none => rfl
    | some q => simp [pool]
  · dsimp only
    rw [asked, Vector.getElem_mapIdx, request] <;> cases s.request rq n <;> rfl

/-- The grants, the rails and the dividers of an interval. -/
theorem budgetInterval_facts (s : State) (p b : Nat) (rq : List (Option PowerRequest)) (acked : List Bool) (run : s.rootRuns = true) :
    let req (n : ScionId) : Option PowerRequest := if (s.scions[n.val]).state = .joined then (rq[n.val]?).join else none
    let total := ((List.finRange 4).map (fun n => ((req n).map (·.d4)).getD 0)).sum
    ∃ t, exec (.budgetInterval p b rq acked) s = .next t ∧ t.power.packageMw = p
      ∧ t = { s with power := t.power, scions := t.scions, sent := t.sent }
      ∧ (∀ n : ScionId, req n = none → t.scions[n.val] = s.scions[n.val])
      ∧ (let pool := scionPool t.power.excursionUs s.budget b
         (∀ (n : ScionId) (q : PowerRequest), req n = some q →
            let x := s.scions[n.val]
            let y := t.scions[n.val]
            let want := budgetDivOf q y.grantMw
            y.noGrant = 0 ∧ (total ≤ pool → y.grantMw = q.d4) ∧ (pool < total → y.grantMw = pool * q.d4 / total)
            ∧ y.setpointMv = (if acked.getD n.val false then nextSetpoint x.setpointMv want x.eclkDiv else x.setpointMv)
            ∧ y.budgetDiv = heldDiv y.setpointMv want ∧ y.eclkDiv = x.eclkDiv
            ∧ (nextSetpoint x.setpointMv want x.eclkDiv ≠ x.setpointMv →
                .avsWrite n.val (nextSetpoint x.setpointMv want x.eclkDiv) ∈ t.sent))
         ∧ ((List.finRange 4).map (fun n => if (req n).isSome then (t.scions[n.val]).grantMw else 0)).sum ≤ pool) := by
  obtain ⟨t, row, power, sent, frame, scions⟩ := budgetInterval_spec s p b rq acked run
  change ∃ t, exec (.budgetInterval p b rq acked) s = .next t ∧ t.power.packageMw = p
      ∧ t = { s with power := t.power, scions := t.scions, sent := t.sent }
      ∧ (∀ n : ScionId, s.request rq n = none → t.scions[n.val] = s.scions[n.val])
      ∧ ((∀ (n : ScionId) (q : PowerRequest), s.request rq n = some q →
            (t.scions[n.val]).noGrant = 0
            ∧ (s.asked rq ≤ scionPool t.power.excursionUs s.budget b → (t.scions[n.val]).grantMw = q.d4)
            ∧ (scionPool t.power.excursionUs s.budget b < s.asked rq →
                (t.scions[n.val]).grantMw = scionPool t.power.excursionUs s.budget b * q.d4 / s.asked rq)
            ∧ (t.scions[n.val]).setpointMv = (if acked.getD n.val false then
                nextSetpoint (s.scions[n.val]).setpointMv (budgetDivOf q (t.scions[n.val]).grantMw) (s.scions[n.val]).eclkDiv
                else (s.scions[n.val]).setpointMv)
            ∧ (t.scions[n.val]).budgetDiv = heldDiv (t.scions[n.val]).setpointMv (budgetDivOf q (t.scions[n.val]).grantMw)
            ∧ (t.scions[n.val]).eclkDiv = (s.scions[n.val]).eclkDiv
            ∧ (nextSetpoint (s.scions[n.val]).setpointMv (budgetDivOf q (t.scions[n.val]).grantMw) (s.scions[n.val]).eclkDiv
                ≠ (s.scions[n.val]).setpointMv →
                .avsWrite n.val (nextSetpoint (s.scions[n.val]).setpointMv (budgetDivOf q (t.scions[n.val]).grantMw)
                  (s.scions[n.val]).eclkDiv) ∈ t.sent))
         ∧ ((List.finRange 4).map (fun n => if (s.request rq n).isSome then (t.scions[n.val]).grantMw else 0)).sum
            ≤ scionPool t.power.excursionUs s.budget b)
  generalize hpool : scionPool (s.power.account p s.budget).excursionUs s.budget b = pool at sent scions
  have hpool' : scionPool t.power.excursionUs s.budget b = pool := by rw [power]; exact hpool
  have account : (s.power.account p s.budget).packageMw = p := by
    unfold PowerMgr.account
    dsimp only
    repeat' split
    all_goals rfl
  refine ⟨t, row, by rw [power]; exact account, frame, fun n none => by rw [scions, none], ?_⟩
  rw [hpool']
  refine ⟨fun n q asks => ?_, ?_⟩
  · have own : t.scions[n.val] = (s.scions[n.val]).budget q (grantOf pool (s.asked rq) q.d4) (acked.getD n.val false) := by
      rw [scions, asks]
    have grant : (t.scions[n.val]).grantMw = grantOf pool (s.asked rq) q.d4 := by rw [own]; rfl
    refine ⟨by rw [own]; rfl, fun fits => grant.trans (if_pos fits), fun short => grant.trans (if_neg (Nat.not_le.2 short)),
      ?_, ?_, by rw [own]; rfl, fun moves => ?_⟩
    · rw [grant, own]; rfl
    · rw [grant, own]; rfl
    · rw [sent]
      refine List.mem_append_left _ (List.mem_reverse.2 (List.mem_filterMap.2 ⟨n, List.mem_finRange n, ?_⟩))
      rw [asks]
      dsimp only
      rw [grant] at moves ⊢
      exact if_neg moves
  · have granted : ∀ n : ScionId, (if (s.request rq n).isSome then (t.scions[n.val]).grantMw else 0)
        = grantOf pool (s.asked rq) (((s.request rq n).map (·.d4)).getD 0) := by
      intro n
      rw [scions n]
      cases s.request rq n with
      | none => exact (grantOf_zero _ _).symm
      | some q => rfl
    simp only [granted]
    rw [sum_scions]
    have total : s.asked rq = _ := sum_scions _
    rw [total]
    exact grants_fit pool _ _ _ _

/-! ## Setpoints and dividers -/

/-- A setpoint moves by at most 25 mV, and supports the divider that is meant and the one in force where it did. -/
theorem nextSetpoint_bounds (mv want now : Nat) : nextSetpoint mv want now ≤ mv + 25 ∧ mv ≤ nextSetpoint mv want now + 25
    ∧ (Config.railMv want ≤ mv → Config.railMv want ≤ nextSetpoint mv want now)
    ∧ (Config.railMv now ≤ mv → Config.railMv now ≤ nextSetpoint mv want now) := by
  unfold nextSetpoint
  dsimp only
  split
  · omega
  split <;> omega

/-- The divider held is one that the setpoint supports. -/
theorem heldDiv_bounds (mv want : Nat) (h : want ≤ 8) : want ≤ heldDiv mv want ∧ heldDiv mv want ≤ 8
    ∧ (heldDiv mv want < 8 → Config.railMv (heldDiv mv want) ≤ mv) := by
  unfold heldDiv
  cases found : [4, 5, 6].find? (fun d => decide (want ≤ d) && decide (Config.railMv d ≤ mv)) with
  | none => exact ⟨h, le_refl 8, fun lt => absurd lt (lt_irrefl 8)⟩
  | some d =>
    have holds := List.find?_some found
    have among := List.mem_of_find?_eq_some found
    simp only [Bool.and_eq_true, decide_eq_true_eq] at holds
    simp only [List.mem_cons, List.not_mem_nil, or_false] at among
    exact ⟨holds.1, by simp only [Option.getD_some]; omega, fun _ => holds.2⟩

/-- The divider that a grant allows. -/
theorem budgetDivOf_iff (q : PowerRequest) (g : Nat) (_ : q.d8 ≤ q.d6) (h6 : q.d6 ≤ q.d5) (h5 : q.d5 ≤ q.d4) :
    (budgetDivOf q g = 4 ↔ q.d4 ≤ g) ∧ (budgetDivOf q g = 8 ↔ g < q.d6) := by
  unfold budgetDivOf
  split
  · omega
  split
  · omega
  split <;> omega

/-- A steward without a grant counts, and falls to the slowest divider. -/
theorem stewardNoGrant_facts (s : State) (n : ScionId) (live : s.seamLive n = true) :
    ∃ t, exec (.stewardNoGrant n) s = .next t
      ∧ (2 ≤ (s.scions[n.val]).noGrant → (t.scions[n.val]).budgetDiv = 8)
      ∧ ((s.scions[n.val]).noGrant < 2 → (t.scions[n.val]).budgetDiv = (s.scions[n.val]).budgetDiv
          ∧ (t.scions[n.val]).noGrant = (s.scions[n.val]).noGrant + 1) := by
  refine ⟨_, next_when_pos live, ?_⟩
  rw [State.setScion_at]
  exact ⟨fun many => if_pos many, fun few => ⟨if_neg (by omega), by dsimp only; omega⟩⟩

/-- The divider in force is the larger of the two. -/
theorem eclkDividerChange_facts (s : State) (n : ScionId) (run : s.rootRuns = true) :
    ∃ t, exec (.eclkDividerChange n) s = .next t
      ∧ (t.scions[n.val]).eclkDiv = max (s.scions[n.val]).footprintDiv (s.scions[n.val]).budgetDiv
      ∧ ((t.scions[n.val]).eclkDiv ≤ (s.scions[n.val]).eclkDiv →
          (t.scions[n.val]).throttleSteps = (s.scions[n.val]).throttleSteps)
      ∧ ∀ m : ScionId, m ≠ n → t.scions[m.val] = s.scions[m.val] := by
  refine ⟨_, next_when_pos run, ?_⟩
  rw [State.setScion_at]
  exact ⟨rfl, fun faster => if_neg (Nat.not_lt.2 faster), fun m ne => s.setScion_ne n m ne _⟩

/-! ## Heat -/

/-- A reading below 112 °C only clears conditions. -/
theorem State.sense_cool (s : State) (src : Nat) (n : ScionId) (t : Int) (cool : t < 896) :
    ∃ fcu, s.sense src n t = { s with fcu := fcu } := by
  unfold State.sense
  dsimp only
  rw [if_pos (show t < 112 * 8 from cool), if_pos (show t < 125 * 8 by omega), if_neg (show ¬ 115 * 8 ≤ t by omega),
    if_neg (show ¬ 125 * 8 ≤ t by omega)]
  exact ⟨_, rfl⟩

/-- Steps that change only the FCU. -/
theorem foldl_fcu {α : Type} (l : List α) (f : State → α → State) (h : ∀ s x, ∃ fcu, f s x = { s with fcu := fcu }) (s : State) :
    ∃ fcu, l.foldl f s = { s with fcu := fcu } := by
  induction l generalizing s with
  | nil => exact ⟨s.fcu, rfl⟩
  | cons x r ih =>
    obtain ⟨_, first⟩ := h s x
    obtain ⟨fcu, rest⟩ := ih (f s x)
    exact ⟨fcu, by rw [List.foldl_cons, rest, first]⟩

theorem getD_cool {l : List Int} (cool : ∀ x ∈ l, x < 896) (i : Nat) : l.getD i 0 < 896 := by
  rw [List.getD_eq_getElem?_getD]
  cases h : l[i]? with
  | none => simp
  | some x => exact cool x (List.mem_of_getElem? h)

/-- Sensors that read below 112 °C change only the FCU. -/
theorem sensors_cool (u : State) (fp die : List Int) (hfp : ∀ x ∈ fp, x < 896) (hdie : ∀ x ∈ die, x < 896) :
    ∃ fcu, (List.range 64).foldl (fun s i =>
        if (s.scions[(Fin.ofNat 4 (i / 16) : ScionId).val]).state = .joined then
          s.sense (0x100 * (1 + i / 16) + 0x80 + i % 16) (Fin.ofNat 4 (i / 16)) (die.getD i 0) else s)
      ((List.range 16).foldl (fun s i => s.sense (0x0A0 + i) (Fin.ofNat 4 (i / 4)) (fp.getD i 0)) u)
      = { u with fcu := fcu } := by
  obtain ⟨_, first⟩ := foldl_fcu (List.range 16) (fun s i => s.sense (0x0A0 + i) (Fin.ofNat 4 (i / 4)) (fp.getD i 0))
    (fun s i => s.sense_cool _ _ _ (getD_cool hfp i)) u
  obtain ⟨fcu, second⟩ := foldl_fcu (List.range 64) (fun s i =>
      if (s.scions[(Fin.ofNat 4 (i / 16) : ScionId).val]).state = .joined then
        s.sense (0x100 * (1 + i / 16) + 0x80 + i % 16) (Fin.ofNat 4 (i / 16)) (die.getD i 0) else s)
    (fun s i => by
      split
      · exact s.sense_cool _ _ _ (getD_cool hdie i)
      · exact ⟨s.fcu, rfl⟩) ((List.range 16).foldl (fun s i => s.sense (0x0A0 + i) (Fin.ofNat 4 (i / 4)) (fp.getD i 0)) u)
  exact ⟨fcu, by rw [second, first]⟩

/-- Cool samples move the dividers only toward slower, and count toward a faster step. -/
theorem footprintSample_cool (s : State) (fp die : List Int) (run : s.rootRuns = true) (hfp : ∀ x ∈ fp, x < 896)
    (hdie : ∀ x ∈ die, x < 896) : ∃ t, exec (.footprintSample fp die) s = .next t ∧ t.footprint = fp ∧ t.dieTemp = die
      ∧ t.safe = s.safe
      ∧ ∀ n : ScionId, (t.scions[n.val]).footprintDiv
          = max (s.scions[n.val]).footprintDiv (footprintStep (t.footprintMax n.val))
        ∧ (t.scions[n.val]).cool =
            (if 4 < (t.scions[n.val]).footprintDiv
                ∧ t.footprintMax n.val + 24 ≤ stepThreshold (t.scions[n.val]).footprintDiv
             then min 100 ((s.scions[n.val]).cool + 1) else 0) := by
  refine ⟨_, next_when_pos run, ?_⟩
  obtain ⟨fcu, cool⟩ := sensors_cool ({ s with footprint := fp, dieTemp := die, scions := s.scions.mapIdx (fun n x =>
    x.sampled (({ s with footprint := fp, dieTemp := die } : State).footprintMax n)) }) fp die hfp hdie
  dsimp only
  rw [cool]
  refine ⟨rfl, rfl, rfl, fun n => ?_⟩
  simp only [Vector.getElem_mapIdx]
  exact ⟨rfl, rfl⟩

/-! ## Doze and Night -/

/-- Doze stops every engine's clock. -/
theorem dozeEntry_facts (s : State) (run : s.rootRuns = true) (due : s.power.dozeDue = true) :
    ∃ t, exec .dozeEntry s = .next t
      ∧ t.power.state = .doze ∧ t.power.eclkStopped = true ∧ (∀ e : EngineId, (t.engines[e.val]).slice = false)
      ∧ t.mem = s.mem ∧ t.fns = s.fns ∧ t.fore = s.fore := by
  refine ⟨_, next_when_pos (by simp [run, due]), rfl, rfl, fun e => ?_, rfl, rfl, rfl⟩
  simp only [Vector.getElem_map, Engine.stopSlice]
  split
  next => rfl
  next off => simpa using off

/-- A start from Night is the start of the device as it was before. -/
theorem State.asleep_startUp (s : State) (cause : ResetCause) (test : Bool) : s.asleep.startUp cause test = s.startUp cause test := by
  have slots : (s.flash.slots.map (fun x => { x with staged := false })).map (fun x => { x with staged := false })
      = s.flash.slots.map (fun x => { x with staged := false }) := by
    rw [Vector.map_map]; rfl
  unfold State.startUp
  simp only [State.asleep, State.blank, slots]

/-- What starts again is the rootstock: the lamp die and its watchdogs do not count. -/
theorem Restarted.beside_lamp {s t : State} (h : Restarted s t) (l : Lamp) (w : Vector Wdog 3) :
    Restarted s { t with lamp := l, wdog := w } :=
  ⟨h.fixed, h.selected, h.slots, h.clk, h.fns, h.portA, h.portB, h.fore, h.fcu, h.mem, h.yard, h.streams, h.cl, h.eth,
    h.uart, h.drift, h.xc, h.power, h.scions, h.engines, h.safe, h.postBoot, h.pins⟩

/-- A wake event acts: the device starts with cause 3. -/
theorem State.wake_started (s : State) (c : WakeCause) : Started s (s.wake c) .night s.boot.testMode
    ∧ ∀ v, c = .watchdog v → ((s.wake c).wdog[v.val]).woke = true := by
  have start := s.startUp_started .night s.boot.testMode
  cases c with
  | faultIn => exact ⟨start, nofun⟩
  | watchdog w =>
    refine ⟨⟨start.toRestarted.beside_lamp _ _, start.boot, fun v => ?_, start.lamp, start.test⟩, ?_⟩
    · rw [← start.wdog v]
      by_cases own : w = v
      · subst own; simp [State.wake, State.setWdog]
      · rw [State.wake, State.setWdog_other _ _ _ _ own]
    · rintro v ⟨⟩
      simp [State.wake, State.setWdog]

/-- Entry to Night. -/
theorem nightEntry_facts (s : State) (run : s.rootRuns = true) (due : s.power.nightDue = true)
    (written : ∀ c ∈ s.fore.taken, c.opcode ≠ 0x0600) :
    (s.safe = false → s.lamp.safe = false → s.power.wakeDue = none →
      ∃ t, exec .nightEntry s = .next t ∧ t.power.state = .night
      ∧ t.rootRuns = false ∧ t.mem = {} ∧ t.fns = State.reset.fns ∧ t.fore = {} ∧ t.wdog = s.wdog
      ∧ ∀ b : BusId, (t.can[b.val]).silenced = true ∧ (t.can[b.val]).wire = .idle)
    ∧ (s.safe = false → s.lamp.safe = false → ∀ w, s.power.wakeDue = some w →
        ∃ t, exec .nightEntry s = .next t ∧ Started s t .night s.boot.testMode
          ∧ ∀ v, w = .watchdog v → (t.wdog[v.val]).woke = true)
    ∧ (s.safe = true → exec .nightEntry s = .next s) := by
  have enters : s.safe = false → s.lamp.safe = false → (s.rootRuns && s.entersNight) = true := by
    intro calm lamp
    simp only [State.entersNight, run, due, calm, lamp]
    simpa using written
  refine ⟨fun calm lamp none => ?_, fun calm lamp w wake => ?_, fun safe => ?_⟩
  · refine ⟨s.asleep, (next_when_pos (enters calm lamp)).trans (by rw [none]), rfl, ?_, rfl, rfl, rfl, rfl, fun b => ?_⟩
    · simp [State.rootRuns, State.asleep]
    · simp [State.asleep]
  · have same : s.asleep.wake w = s.wake w := by
      cases w <;> simp only [State.wake, State.asleep_startUp] <;> rfl
    exact ⟨s.wake w, (next_when_pos (enters calm lamp)).trans (by rw [wake]; exact congrArg _ same), s.wake_started w⟩
  · exact next_when_neg (by simp [State.entersNight, safe])

/-- Wake events of a sleeping device. -/
theorem nightWake_facts (s : State) (sleeps : s.sleeps = true) :
    (∃ t, exec (.nightWake .faultIn) s = .next t ∧ Started s t .night s.boot.testMode)
    ∧ (∀ w : WdogId, (s.wdog[w.val]).runs = true → ∃ t, exec (.nightWake (.watchdog w)) s = .next t
        ∧ Started s t .night s.boot.testMode ∧ (t.wdog[w.val]).woke = true)
    ∧ (∃ t, exec .noscMissingEdge s = .next t ∧ Restarted s t ∧ t.boot.cause = .night ∧ t.lamp.noscStopped = true) := by
  refine ⟨⟨_, next_when_pos (by simp [sleeps]), (s.wake_started .faultIn).1⟩, fun w runs => ?_, ?_⟩
  · obtain ⟨start, woke⟩ := s.wake_started (.watchdog w)
    exact ⟨_, next_when_pos (by simp [sleeps, runs]), start, woke w rfl⟩
  · have start := s.startUp_started .night s.boot.testMode
    exact ⟨_, next_when_pos sleeps, start.toRestarted.beside_lamp _ (s.startUp .night s.boot.testMode).wdog,
      congrArg Boot.cause start.boot, rfl⟩

/-- A crossing on rail 5 or 9 in Night: no wake event acts any more. -/
theorem nightRailCrossing_deaf (s : State) (rail : Fin 10) (free : s.held = false) (night : s.power.state = .night)
    (which : rail.val = 5 ∨ rail.val = 9) : ∃ t, exec (.nightRailCrossing rail) s = .next t ∧ t.pinsHigh = false
      ∧ (∀ w, exec (.nightWake w) t = .next t) ∧ exec .noscMissingEdge t = .next t := by
  have rails : (rail == 5 || rail == 9) = true := by
    rcases which with h | h <;> simp [Fin.ext_iff, h]
  refine ⟨_, next_when_pos (by rw [free, night, rails]; rfl), by simp [State.pinsHigh], fun w => next_when_neg ?_,
    next_when_neg ?_⟩ <;> simp [State.sleeps]

/-- Settles O47: budgets, rails and dividers, heat, Doze and Night, each by its lemma above. -/
theorem powerEvents : Obligations.PowerEvents := by
  unfold Obligations.PowerEvents
  refine ⟨budgetInterval_facts, nextSetpoint_bounds, heldDiv_bounds, budgetDivOf_iff, stewardNoGrant_facts,
    eclkDividerChange_facts, footprintSample_cool, fun s n run slow => ⟨fun cool => ?_, fun warm => ?_⟩, dozeEntry_facts,
    nightEntry_facts, nightWake_facts, nightRailCrossing_deaf⟩
  · exact next_when_pos (by simp [run, slow, coolFor, cool])
  · exact next_when_neg (by simp [coolFor, Nat.not_le.2 warm])

end Sys2Proof.Machine

/-!
Checking, taking and completing commands.
-/

namespace Sys2Proof.Machine

/-! ## The checks of a command -/

/-- The check of the descriptor comes first. -/
theorem State.check_stopped {s : State} {f : FnId} {d : Bytes} {x : Stopped} (h : s.checkDescriptor f d = some x) :
    s.check f d = ([], some x) := by
  rw [State.check, h]

/-- What has passed the check of the descriptor. -/
theorem State.checkDescriptor_none {s : State} {f : FnId} {d : Bytes} (h : s.checkDescriptor f d = none) :
    ((s.fn f).helloDone = true ∨ BitVec.ofNat 16 (leNat d 0 2) = 0x0002) ∧ leNat d 60 4 = (crc32c (d.take 60)).toNat
    ∧ ∃ o, opcodeOf (BitVec.ofNat 16 (leNat d 0 2)) = some o ∧ s.barred (some o) (leNat d 3 1) = false
      ∧ s.permission o d f = none ∧ fieldBad o d f = none := by
  unfold State.checkDescriptor at h
  dsimp only at h
  split at h
  next => cases h
  next hello =>
  split at h
  next => cases h
  next graft =>
  split at h
  next => cases h
  next free =>
  split at h
  next => cases h
  next o code =>
  split at h
  next => cases h
  next permitted =>
  refine ⟨?_, not_not.1 graft, o, code, ?_, permitted, Option.map_eq_none_iff.1 h⟩
  · cases done : (s.fn f).helloDone with
    | true => exact .inl rfl
    | false => exact .inr (by simpa [done] using hello)
  · rw [code] at free; simpa using free

/-- What has passed every check. -/
theorem State.check_passed {s : State} {f : FnId} {d b : Bytes} (h : s.check f d = (b, none)) :
    s.checkDescriptor f d = none ∧ ∀ o, opcodeOf (BitVec.ofNat 16 (leNat d 0 2)) = some o →
      (o.chained = false → b = []) ∧ (o.chained = true → leNat d 56 4 = (crc32c b).toNat)
      ∧ s.pastDeadline o d = false ∧ s.rangeBad o d f = none := by
  unfold State.check at h
  split at h
  next => cases h
  next first =>
  refine ⟨first, fun o code => ?_⟩
  rw [code] at h
  dsimp only at h
  split at h
  next => cases h
  next blk block =>
  split at h
  next => cases h
  next early =>
  obtain ⟨rfl, range⟩ := Prod.mk.inj h
  refine ⟨fun plain => ?_, fun chained => ?_, by simpa using early, Option.map_eq_none_iff.1 range⟩
  · rw [plain] at block
    exact (Prod.mk.inj block).1.symm
  · rw [chained, if_pos rfl] at block
    unfold State.checkBlock at block
    dsimp only at block
    split at block
    next => cases block
    next =>
    split at block
    next => cases block
    next =>
    split at block
    next => cases block
    next crc =>
    obtain ⟨rfl, -⟩ := Prod.mk.inj block
    exact not_not.1 crc

/-- The permissions that an allowed command has. -/
theorem State.permission_none {s : State} {o : Opcode} {d : Bytes} {f : FnId} (h : s.permission o d f = none) :
    (o.pfOnly = true → isVf f = false) ∧ (leNat d 3 1 = 2 → s.hasAuth f = true) ∧ (o = .reserve → s.hasAuth f = true) := by
  unfold State.permission at h
  split at h
  next => cases h
  next pf =>
  split at h
  next => cases h
  next auth =>
  refine ⟨fun only => ?_, fun cls => ?_, fun reserve => ?_⟩
  · simpa [only] using pf
  · simpa [cls] using auth
  · simpa [reserve] using auth

/-- Settles O20: the order is that of `State.checkDescriptor`; what passes by `State.checkDescriptor_none` and
`State.check_passed`. -/
theorem checksInOrder : Obligations.ChecksInOrder := by
  unfold Obligations.ChecksInOrder
  intro s f d
  refine ⟨fun quiet other => ?_, fun done bad => ?_, fun done good safe whole barred => ?_, fun b passed => ?_⟩
  · refine State.check_stopped ?_
    unfold State.checkDescriptor
    dsimp only
    rw [if_pos (by simpa [quiet] using other)]
    rfl
  · refine State.check_stopped ?_
    unfold State.checkDescriptor
    dsimp only
    rw [if_neg (by simp [done]), if_pos bad]
    rfl
  · refine ⟨if BitVec.ofNat 16 (leNat d 0 2) = 0x0002 then s.bootReport else 0, State.check_stopped ?_⟩
    unfold State.checkDescriptor
    dsimp only
    rw [if_neg (by simp [done]), if_neg (not_not.2 good), if_pos]
    · rfl
    · unfold State.barred
      rw [safe, whole]
      cases code : opcodeOf (BitVec.ofNat 16 (leNat d 0 2)) with
      | none => rfl
      | some o =>
        rcases barred with cls | unmarked
        · simp [cls]
        · simp [unmarked o code]
  · obtain ⟨first, rest⟩ := State.check_passed passed
    obtain ⟨hello, graft, o, code, free, permitted, fields⟩ := State.checkDescriptor_none first
    obtain ⟨pf, class2, reserve⟩ := State.permission_none permitted
    obtain ⟨plain, chained, early, range⟩ := rest o code
    refine ⟨hello, graft, o, code, fun safe whole => ?_, class2, reserve, pf, fields, plain, chained, early, range⟩
    unfold State.barred at free
    rw [safe, whole] at free
    simpa using free

/-! ## Writing a completion -/

/-- A command that is retired is outstanding no more. -/
theorem State.retire_facts {s : State} {id : Nat} {c : Cmd} (taken : s.cmd id = some c) :
    (s.retire id).cmd id = none ∧ (s.retire id).outstanding c.fn < s.outstanding c.fn := by
  constructor
  · simp [State.cmd, State.retire, State.setFore]
  · have listed : c ∈ s.fore.taken := List.mem_of_find?_eq_some taken
    have same : c.id = id := State.cmd_id taken
    have order : (s.fore.taken.filter (fun x => x.id != id)).filter (fun x => x.fn == c.fn)
        = (s.fore.taken.filter (fun x => x.fn == c.fn)).filter (fun x => x.id != id) := by
      rw [List.filter_filter, List.filter_filter]
      congr 1
      funext x
      exact Bool.and_comm _ _
    show (List.filter _ (s.fore.taken.filter (fun x => x.id != id))).length < _
    rw [order]
    exact List.length_filter_lt_length_iff_exists.2 ⟨c, List.mem_filter.2 ⟨listed, beq_self_eq_true _⟩, by simp [same]⟩

/-- What a change of functions and of what was sent leaves of the commands. -/
theorem State.outstanding_of_fore {s t : State} (h : t.fore = s.fore) (f : FnId) (id : Nat) :
    t.outstanding f = s.outstanding f ∧ t.cmd id = s.cmd id := by
  simp only [State.outstanding, State.cmd, h, and_self]

/-- The end of a moderation interval. -/
theorem cqModerationTimer_facts (s : State) (f : FnId) (n : RingId) (run : s.rootRuns = true) (mod : (s.cq f n).modTime ≠ 0)
    (waits : 0 < (s.cq f n).unsignalled) : ∃ t, exec (.cqModerationTimer f n) s = .next t ∧ (t.cq f n).unsignalled = 0
      ∧ ((s.fn f).msixEnable = true → ((s.fn f).msix[(s.cq f n).vector.toNat]).masked = false →
          (s.fn f).msixMask = false → (s.fn f).resetting = false →
          t.sent = .msix f (s.cq f n).vector.toNat :: s.sent) := by
  refine ⟨_, next_when_pos (by simpa [run, waits] using mod), ?_, fun enable unmasked open' whole => ?_⟩
  · rw [(s.signalCq_facts f n).1]
  · unfold State.signalCq State.signal
    dsimp only
    rw [if_pos, if_neg]
    · rfl
    · simp [State.setCq, open']
      exact unmasked
    · simp [State.setCq, enable, whole]

/-- Writing a completion, by the ring and by the write. -/
theorem completionWrite_facts (s : State) (id : Nat) (ok : Bool) (c : Cmd) (st d : BitVec 16) (r time : BitVec 64)
    (taken : s.cmd id = some c) (formed : c.phase = .formed st d r time) (run : s.rootRuns = true) :
    ∃ t, exec (.completionWrite id ok) s = .next t ∧ t.cmd id = none
      ∧ (t.outstanding c.fn < s.outstanding c.fn)
      ∧ ((s.cq c.fn c.cq).dead = true → t = s.retire id)
      ∧ ((s.cq c.fn c.cq).dead = false → ok = true →
          .hostWrite c.fn ((s.cq c.fn c.cq).base.toNat + 32 * (s.cq c.fn c.cq).tail.toNat)
            (completionEntry c.seq c.opcode st d c.sq.val (s.cq c.fn c.cq).phase time r) ∈ t.sent
          ∧ (t.cq c.fn c.cq).tail = (s.cq c.fn c.cq).advance.tail ∧ (t.cq c.fn c.cq).phase = (s.cq c.fn c.cq).advance.phase
          ∧ (c.opcode = 0x0002 → st = stOk → (t.fn c.fn).helloDone = true ∧ (t.fn c.fn).tally = (r.setWidth 16).toNat))
      ∧ ((s.cq c.fn c.cq).dead = false → ok = false → (t.cq c.fn c.cq).enable = false ∧ (t.cq c.fn c.cq).dead = true
          ∧ (t.fn c.fn).error = (s.fn c.fn).error ||| 8 ∧ .aer (portOf c.fn) ∈ t.sent) := by
  obtain ⟨gone, fewer⟩ := State.retire_facts taken
  have row : exec (.completionWrite id ok) s = .next (if (s.cq c.fn c.cq).dead then s.retire id
      else if ok then
        if c.opcode = 0x0002 then ((((s.retire id).send (.hostWrite c.fn
            ((s.cq c.fn c.cq).base.toNat + 32 * (s.cq c.fn c.cq).tail.toNat)
            (completionEntry c.seq c.opcode st d c.sq.val (s.cq c.fn c.cq).phase time r))).setCq c.fn c.cq CompRing.advance).moderate
              c.fn c.cq (c.flags.getLsbD 2)).helloDone c.fn st r
        else (((s.retire id).send (.hostWrite c.fn
            ((s.cq c.fn c.cq).base.toNat + 32 * (s.cq c.fn c.cq).tail.toNat)
            (completionEntry c.seq c.opcode st d c.sq.val (s.cq c.fn c.cq).phase time r))).setCq c.fn c.cq CompRing.advance).moderate
              c.fn c.cq (c.flags.getLsbD 2)
      else (((s.retire id).setCq c.fn c.cq (fun q => { q with enable := false, dead := true })).setError c.fn errDma
        (16 + c.cq.val)).send (.aer (portOf c.fn))) := by
    show Host.Outcome.next _ = _
    rw [taken]
    dsimp only
    rw [formed]
    dsimp only
    rw [if_neg (by simp [run])]
  refine ⟨_, row, ?_⟩
  cases dead : (s.cq c.fn c.cq).dead with
  | true => rw [if_pos rfl]; exact ⟨gone, fewer, fun _ => rfl, nofun, nofun⟩
  | false =>
    rw [if_neg nofun]
    cases ok with
    | false =>
      rw [if_neg nofun]
      generalize hu : (s.retire id).setCq c.fn c.cq (fun q => { q with enable := false, dead := true }) = u
      obtain ⟨_, cqs, error, -⟩ := u.setError_fns c.fn errDma (16 + c.cq.val)
      obtain ⟨_, _, frame⟩ := u.setError_frame c.fn errDma (16 + c.cq.val)
      have fore : ((u.setError c.fn errDma (16 + c.cq.val)).send (.aer (portOf c.fn))).fore = (s.retire id).fore := by
        rw [frame]; subst hu; rfl
      obtain ⟨out, cmd⟩ := State.outstanding_of_fore fore c.fn id
      have ring : ((u.setError c.fn errDma (16 + c.cq.val)).send (.aer (portOf c.fn))).cq c.fn c.cq
          = { s.cq c.fn c.cq with enable := false, dead := true } := by
        show ((u.setError c.fn errDma (16 + c.cq.val)).fn c.fn).cqs[c.cq.val] = _
        rw [cqs]
        subst hu
        simp [State.setCq, State.cq, State.retire, State.fn, State.setFn, State.setFore]
      refine ⟨by rw [cmd, gone], by rw [out]; exact fewer, nofun, nofun, fun _ _ => ?_⟩
      rw [ring]
      refine ⟨rfl, rfl, ?_, List.mem_cons_self⟩
      show ((u.setError c.fn errDma (16 + c.cq.val)).fn c.fn).error = _
      rw [error]
      subst hu
      simp [State.setCq, State.retire, State.fn, State.setFn, State.setFore, errDma]
    | true =>
      rw [if_pos rfl]
      generalize hu : ((s.retire id).send (.hostWrite c.fn ((s.cq c.fn c.cq).base.toNat + 32 * (s.cq c.fn c.cq).tail.toNat)
        (completionEntry c.seq c.opcode st d c.sq.val (s.cq c.fn c.cq).phase time r))).setCq c.fn c.cq CompRing.advance = u
      obtain ⟨tail, phase, fore, sent⟩ := u.moderate_facts c.fn c.cq (c.flags.getLsbD 2)
      have ring : u.cq c.fn c.cq = (s.cq c.fn c.cq).advance := by
        subst hu; simp [State.setCq, State.cq, State.retire, State.fn, State.setFn, State.setFore, State.send]
      have wrote : .hostWrite c.fn ((s.cq c.fn c.cq).base.toNat + 32 * (s.cq c.fn c.cq).tail.toNat)
            (completionEntry c.seq c.opcode st d c.sq.val (s.cq c.fn c.cq).phase time r) ∈ u.sent := by
        subst hu; exact List.mem_cons_self
      have retired : u.fore = (s.retire id).fore := by subst hu; rfl
      generalize u.moderate c.fn c.cq (c.flags.getLsbD 2) = v at tail phase fore sent
      rw [ring] at tail phase
      by_cases hello : c.opcode = 0x0002
      · rw [if_pos hello]
        obtain ⟨cqs, fore', sent', done⟩ := v.helloDone_facts c.fn st r
        obtain ⟨out, cmd⟩ := State.outstanding_of_fore (fore'.trans (fore.trans retired)) c.fn id
        refine ⟨by rw [cmd, gone], by rw [out]; exact fewer, nofun, fun _ _ => ⟨by rw [sent']; exact sent _ wrote, ?_, ?_,
          fun _ => done⟩, nofun⟩
        · rw [← tail]; simp only [State.cq, cqs]
        · rw [← phase]; simp only [State.cq, cqs]
      · rw [if_neg hello]
        obtain ⟨out, cmd⟩ := State.outstanding_of_fore (fore.trans retired) c.fn id
        exact ⟨by rw [cmd, gone], by rw [out]; exact fewer, nofun,
          fun _ _ => ⟨sent _ wrote, tail, phase, fun is => absurd is hello⟩, nofun⟩

/-- Settles O24: the ring's entry, its signal and HELLO's end by the lemmas about each. -/
theorem writingACompletion : Obligations.WritingACompletion := by
  unfold Obligations.WritingACompletion
  exact ⟨fun s id ok c st d r time taken formed run _ => completionWrite_facts s id ok c st d r time taken formed run,
    cqModerationTimer_facts⟩

end Sys2Proof.Machine

/-!
Taking a command.
-/

namespace Sys2Proof.Machine

/-! ## What events and reads leave of the rings and of formed completions -/

/-- Every submission ring stays. -/
def SameRings (s t : State) : Prop := ∀ f : FnId, (t.fn f).sqs = (s.fn f).sqs

theorem SameRings.trans {s t u : State} (h : SameRings s t) (k : SameRings t u) : SameRings s u := fun f => (k f).trans (h f)

theorem SameRings.of_fns {s t : State} (h : t.fns = s.fns) : SameRings s t := fun f => by rw [State.fn_of_fns h]

/-- Events of every function leave the rings. -/
theorem SameRings.eachFn (s : State) (g : State → FnId → State) (h : ∀ t f, SameRings t (g t f)) : SameRings s (s.eachFn g) :=
  State.eachFn_induct (SameRings s) s g (fun _ => rfl) (fun t f k => k.trans (h t f))

theorem State.setEvent_rings (s : State) (f : FnId) (bits : BitVec 7) : SameRings s (s.setEvent f bits) :=
  fun g => (s.setEvent_fns f bits g).1

/-- Device time, the turn, the numbering and the rings stay; and so does every command whose completion is formed. -/
structure Steady (s t : State) : Prop where
  clk    : t.clk = s.clk
  turn   : t.fore.portTurn = s.fore.portTurn
  next   : t.fore.nextCmd = s.fore.nextCmd
  rings  : SameRings s t
  formed : ∀ c ∈ s.fore.taken, c.live = false → c ∈ t.fore.taken

theorem Steady.refl (s : State) : Steady s s := ⟨rfl, rfl, rfl, fun _ => rfl, fun _ h _ => h⟩

theorem Steady.trans {s t u : State} (h : Steady s t) (k : Steady t u) : Steady s u :=
  ⟨k.clk.trans h.clk, k.turn.trans h.turn, k.next.trans h.next, h.rings.trans k.rings,
    fun c hc formed => k.formed c (h.formed c hc formed) formed⟩

/-- Changes beside the clocks, the functions and the Foreman's commands. -/
theorem Steady.of {s t : State} (clk : t.clk = s.clk) (turn : t.fore.portTurn = s.fore.portTurn)
    (next : t.fore.nextCmd = s.fore.nextCmd) (taken : t.fore.taken = s.fore.taken) (fns : t.fns = s.fns) : Steady s t :=
  ⟨clk, turn, next, .of_fns fns, fun c hc _ => by rw [taken]; exact hc⟩

theorem State.rootSafe_steady (s : State) (k b : Nat) : Steady s (s.rootSafe k b) := by
  cases safe : s.safe with
  | true => rw [State.rootSafe, if_pos safe]; exact .refl s
  | false =>
    have rings : SameRings s (s.rootSafe k b) := by
      unfold State.rootSafe
      rw [if_neg (by simp [safe])]
      obtain ⟨_, _, _, _, tiles⟩ := s.abortTiles_frame (fun _ => true)
      rw [tiles]
      dsimp only
      exact SameRings.trans (.of_fns rfl) (.eachFn _ _ (fun t f => t.setEvent_rings f _))
    obtain ⟨_, _, _, _, _, used, e⟩ := s.rootSafe_frame k b safe
    refine ⟨by rw [e], by rw [e], by rw [e], rings, fun c hc formed => ?_⟩
    rw [e]
    refine List.mem_map.2 ⟨c, hc, ?_⟩
    unfold Cmd.enterSafe
    dsimp only
    rw [formed, Bool.false_and, if_neg nofun]

/-- An event, on whichever die. -/
theorem State.raise_steady (s : State) (r : Raise) : Steady s (s.raise r) := by
  unfold State.raise
  split
  · obtain ⟨fcu, lamp, can, low, sent, e⟩ : ∃ fcu lamp can low sent, s.raiseLamp r
        = { s with fcu := fcu, lamp := lamp, can := can, lampDrivesLow := low, sent := sent } := by
      obtain ⟨l, c, n, d, e, -⟩ := s.raise_lamp_frame r ‹_›
      rw [State.raise, if_pos ‹_›] at e
      exact ⟨s.fcu, l, c, d, n, e⟩
    rw [e]
    exact .of rfl rfl rfl rfl rfl
  · unfold State.raiseFcu
    split
    · dsimp only
      generalize s.fcu.capture r (r.time.getD s.now) s.fore.safety.reactionUs s.safe = p
      have timer : Steady s (if p.2.timer then ({ s with fcu := p.1 } : State).setLamp (fun l => { l with
          toLamp := l.toLamp ++ [.timerStart r.source] }) else { s with fcu := p.1 }) := by
        split <;> exact .of rfl rfl rfl rfl rfl
      generalize (if p.2.timer then ({ s with fcu := p.1 } : State).setLamp (fun l => { l with
          toLamp := l.toLamp ++ [.timerStart r.source] }) else { s with fcu := p.1 }) = u at timer
      have views : Steady u (u.distribute p.2) := by
        obtain ⟨_, _, e⟩ := u.distribute_frame p.2
        refine ⟨by rw [e], by rw [e], by rw [e], ?_, fun c hc _ => by rw [e]; exact hc⟩
        refine .eachFn u _ (fun t f => ?_)
        have view : SameRings t (t.setFn f (fun x => x.enterView p.2)) := by
          intro g
          by_cases own : f.val = g.val <;> simp [State.fn, State.setFn, own, Fn.enterView]
        dsimp only
        split
        · split
          · exact view
          · exact view.trans (State.setEvent_rings _ _ _)
        · exact fun _ => rfl
      split
      · exact (timer.trans views).trans (State.rootSafe_steady _ _ _)
      · exact timer.trans views
    · exact .refl s

/-- Lines that are read. -/
theorem State.senseLines_steady (s : State) (l n : Nat) : Steady s (s.senseLines l n) := by
  unfold State.senseLines
  generalize s.mem.upsetIn l n = units
  induction units generalizing s with
  | nil => exact .refl s
  | cons x r ih =>
    refine Steady.trans ?_ (ih _)
    have corrected : ∀ m, Steady s { s with mem := m } := fun m => .of rfl rfl rfl rfl rfl
    unfold State.readUnit
    dsimp only
    split
    · exact corrected _
    · exact (corrected _).trans (State.raise_steady _ _)

theorem State.senseEdges_steady (s : State) (k n : Nat) : Steady s (s.senseEdges k n) := by
  have one : ∀ (u : State) (p : Prop) [Decidable p] (l : Nat), Steady u (if p then u else u.senseLines l 1) := by
    intro u p _ l
    split
    · exact .refl u
    · exact u.senseLines_steady l 1
  unfold State.senseEdges
  exact (one s _ _).trans (one _ _ _)

/-- A range that is read. -/
theorem State.access_steady (s : State) (f : FnId) (va n : Nat) : Steady s (s.access f va n) := by
  unfold State.access
  generalize ((s.fn f).segs va n).getD [] = segs
  induction segs generalizing s with
  | nil => exact .refl s
  | cons g r ih =>
    refine Steady.trans ?_ (ih _)
    dsimp only
    split
    · exact .of rfl rfl rfl rfl rfl
    · exact State.senseLines_steady _ _ _

/-- A range that is written. -/
theorem State.writeSegs_steady (s : State) (f : FnId) (segs : List Seg) (b : Bytes) : Steady s (s.writeSegs f segs b).1 := by
  induction segs generalizing s b with
  | nil => exact .refl s
  | cons g r ih =>
    have one : Steady s (s.writeSeg f g (b.take g.len)).1 := by
      unfold State.writeSeg
      split
      · exact .of rfl rfl rfl rfl rfl
      · exact (s.senseEdges_steady _ _).trans (.of rfl rfl rfl rfl rfl)
    unfold State.writeSegs
    split
    · exact .refl s
    · generalize s.writeSeg f g (b.take g.len) = w at one ⊢
      obtain ⟨u, n, x⟩ := w
      cases x with
      | some d => exact one
      | none => exact one.trans (ih u (b.drop g.len))

theorem State.writeVa_steady (s : State) (f : FnId) (k : Bool) (va : Nat) (b : Bytes) (io : HostIo) :
    Steady s (s.writeVa f k va b io).1 := by
  have graft : ∀ (u : State) (d : BitVec 16), Steady s u → Steady s (u.graftIf f k d) := by
    intro u d h
    unfold State.graftIf
    split
    · exact h.trans (State.raise_steady _ _)
    · exact h
  unfold State.writeVa
  dsimp only
  split
  · have wrote := s.writeSegs_steady f (((s.fn f).segs va b.length).getD []) b
    generalize s.writeSegs f (((s.fn f).segs va b.length).getD []) b = w at wrote ⊢
    obtain ⟨u, n, x⟩ := w
    cases x with
    | none => exact wrote
    | some d => exact graft _ _ wrote
  · rename_i j _
    have wrote := s.writeSegs_steady f (((s.fn f).segs va b.length).getD []) (b.take j)
    generalize s.writeSegs f (((s.fn f).segs va b.length).getD []) (b.take j) = w at wrote ⊢
    obtain ⟨u, n, x⟩ := w
    cases x with
    | none => exact wrote.trans (.of rfl rfl rfl rfl rfl)
    | some d => exact graft _ _ wrote

/-- The Foreman changes beside its commands, their numbers and its turn. -/
theorem State.setFore_steady (s : State) (g : Foreman → Foreman) (turn : (g s.fore).portTurn = s.fore.portTurn)
    (next : (g s.fore).nextCmd = s.fore.nextCmd) (taken : (g s.fore).taken = s.fore.taken) : Steady s (s.setFore g) :=
  .of rfl turn next taken rfl

/-- A decision-log record, mirrored or not. -/
theorem State.logRecord_steady (s : State) (cls : Nat) (f : Option FnId) (b : LogBody) : Steady s (s.logRecord cls f b) := by
  unfold State.logRecord
  dsimp only
  generalize hu : s.setFore _ = u
  have first : Steady s u := by subst hu; exact .of rfl rfl rfl rfl rfl
  unfold State.mirror
  dsimp only
  split
  · have wrote := first.trans (u.writeVa_steady u.fore.replay.fn false
      (u.fore.replay.base + 32 * (u.fore.replay.count % (u.fore.replay.size / 32)))
      (LogRec.bytes { entry := s.fore.nextEntry, cls := cls, fn := f, time := s.now, body := b }) .ok)
    exact wrote.trans (State.setFore_steady _ _ rfl rfl rfl)
  · exact first

theorem State.scatterStopped_steady (s : State) (c : Cmd) (st d : BitVec 16) : Steady s (s.scatterStopped c st d) := by
  have logged : ∀ len start, Steady s (if (s.logRecord 0xFF (some c.fn) (.kv len start st.toNat 0)).fore.replay.state = .armed then
      (s.logRecord 0xFF (some c.fn) (.kv len start st.toNat 0)).setFore (fun x => { x with
        replay := { x.replay with stopped := x.replay.stopped ++ [(c.fn, st)] } })
      else s.logRecord 0xFF (some c.fn) (.kv len start st.toNat 0)) := by
    intro len start
    split
    · exact (s.logRecord_steady _ _ _).trans (State.setFore_steady _ _ rfl rfl rfl)
    · exact s.logRecord_steady _ _ _
  unfold State.scatterStopped
  split
  · cases (s.fn c.fn).seq (c.arg 16 4) with
    | some q => exact logged q.length q.start
    | none => exact logged 0 0
  · exact .refl s

/-! ## Taking -/

/-- What wakes the device and reads the block leaves alone. -/
theorem State.readBlock_steady (s : State) (f : FnId) (d : Bytes) : Steady s ((s.wakeFor d).readBlock f d) := by
  have wake : Steady s (s.wakeFor d) := by
    unfold State.wakeFor
    split
    · split
      · exact .of rfl rfl rfl rfl rfl
      · exact .refl s
    · exact .refl s
  refine wake.trans ?_
  unfold State.readBlock
  split
  · split
    · exact State.access_steady _ _ _ _
    · exact .refl _
  · exact .refl _

/-- The parameters that stop a command that passed the checks. -/
def State.stopOf (u : State) (f : FnId) (n : RingId) (c : Cmd) (stop : Option Stopped) : Option Stopped :=
  match stop with
  | some x => some x
  | none => ((u.setSq f n SubRing.advance).paramsBad c).map (fun d => { status := stBadParam, detail := d })

/-- A stopped command: its completion is formed at once. -/
def State.stopCmd (u : State) (f : FnId) (n : RingId) (c : Cmd) (x : Stopped) : State :=
  let s := u.setSq f n SubRing.advance
  let t := (s.addCmd { c with phase := .formed x.status x.detail 0 s.now, badBlock := x.block }).scatterStopped c
    x.status x.detail
  if x.graft then
    t.raise { source := 0x080 + HostPort.num (portOf f), event := .graftMismatch, owner := some f }
  else t

theorem State.takeEntry_eq (s : State) (f : FnId) (n : RingId) (d : Bytes) {blk : Bytes} {stop : Option Stopped}
    (h : ((s.wakeFor d).readBlock f d).check f d = (blk, stop)) :
    s.takeEntry f n d = match ((s.wakeFor d).readBlock f d).stopOf f n { s.newCmd f n d with block := blk } stop with
      | none => (((s.wakeFor d).readBlock f d).setSq f n SubRing.advance).admitCmd { s.newCmd f n d with block := blk }
      | some x => ((s.wakeFor d).readBlock f d).stopCmd f n { s.newCmd f n d with block := blk } x := by
  unfold State.takeEntry
  dsimp only
  rw [h] <;> rfl

/-- What a stopped command leaves. -/
theorem State.stopCmd_facts (u : State) (f : FnId) (n : RingId) (c : Cmd) (x : Stopped) :
    (u.stopCmd f n c x).fore.nextCmd = u.fore.nextCmd + 1 ∧ (u.stopCmd f n c x).fore.portTurn = u.fore.portTurn
      ∧ ((u.stopCmd f n c x).sq f n) = (u.sq f n).advance
      ∧ { c with phase := .formed x.status x.detail 0 u.now, badBlock := x.block } ∈ (u.stopCmd f n c x).fore.taken := by
  generalize hv : (u.setSq f n SubRing.advance).addCmd { c with phase := .formed x.status x.detail 0 u.now, badBlock := x.block } = v
  have steady : Steady v (u.stopCmd f n c x) := by
    subst hv
    unfold State.stopCmd
    dsimp only
    split
    · exact (State.scatterStopped_steady _ _ _ _).trans (State.raise_steady _ _)
    · exact State.scatterStopped_steady _ _ _ _
  refine ⟨?_, ?_, ?_, steady.formed _ (by subst hv; simp [State.addCmd, State.setFore]) rfl⟩
  · rw [steady.next]; subst hv; rfl
  · rw [steady.turn]; subst hv; rfl
  · show ((u.stopCmd f n c x).fn f).sqs[n.val] = _
    rw [steady.rings f]
    subst hv
    simp [State.addCmd, State.setFore, State.setSq, State.sq, State.fn, State.setFn]

/-- The phase of the command that has just been taken does not count among what others or it wait for. -/
theorem Cmd.waitsFor_phase (c d : Cmd) (p : Phase) : ({ c with phase := p } : Cmd).waitsFor d = c.waitsFor d := rfl

/-- A command that enters the taken commands begins unless something holds it. -/
theorem State.addCmd_begins (u : State) (c : Cmd) (waiting : c.phase = .waiting) :
    let w := u.addCmd c
    let t := if (w.blockers c).isEmpty then w.setCmd c.id (fun c => { c with phase := .begun }) else w
    t.fore.nextCmd = u.fore.nextCmd + 1 ∧ t.fore.portTurn = u.fore.portTurn ∧ t.fns = u.fns
      ∧ ∃ x ∈ t.fore.taken, x.id = c.id ∧ x.fn = c.fn ∧ x.sq = c.sq ∧ x.desc = c.desc ∧ x.block = c.block
        ∧ x.phase = if t.blockers x = [] then .begun else .waiting := by
  intro w t
  have listed : c ∈ w.fore.taken := by simp [w, State.addCmd, State.setFore]
  by_cases free : (w.blockers c).isEmpty = true
  · have begun : t = w.setCmd c.id (fun c => { c with phase := .begun }) := if_pos free
    clear_value t
    subst begun
    refine ⟨rfl, rfl, rfl, { c with phase := .begun }, List.mem_map.2 ⟨c, listed, if_pos rfl⟩, rfl, rfl, rfl, rfl, rfl, ?_⟩
    rw [if_pos]
    have none : ∀ d ∈ w.fore.taken, c.waitsFor d = false := by
      intro d hd
      by_contra h
      have : d ∈ w.blockers c := List.mem_filter.2 ⟨hd, by simpa using h⟩
      rw [List.isEmpty_iff.1 free] at this
      cases this
    refine List.filter_eq_nil_iff.2 (fun d hd => ?_)
    obtain ⟨e, he, rfl⟩ := List.mem_map.1 hd
    rw [Cmd.waitsFor_phase]
    split
    next same => simp [Cmd.waitsFor, same]
    next => simp [none e he]
  · have held : t = w := if_neg free
    clear_value t
    subst held
    refine ⟨rfl, rfl, rfl, c, listed, rfl, rfl, rfl, rfl, rfl, ?_⟩
    rw [if_neg (fun h => free (List.isEmpty_iff.2 h))]
    exact waiting

/-- A command that is admitted. -/
theorem State.admitCmd_begins (u : State) (c : Cmd) (waiting : c.phase = .waiting) :
    (u.admitCmd c).fore.nextCmd = u.fore.nextCmd + 1 ∧ (u.admitCmd c).fore.portTurn = u.fore.portTurn
      ∧ (u.admitCmd c).fns = u.fns
      ∧ ∃ x ∈ (u.admitCmd c).fore.taken, x.id = c.id ∧ x.fn = c.fn ∧ x.sq = c.sq ∧ x.desc = c.desc ∧ x.block = c.block
        ∧ x.phase = if (u.admitCmd c).blockers x = [] then .begun else .waiting := by
  unfold State.admitCmd
  split
  · exact (u.setClk Clocks.endSlew).addCmd_begins { c with naming := _ } waiting
  · exact u.addCmd_begins { c with naming := _ } waiting

/-- Taking an entry. -/
theorem commandTake_entry (s : State) (f : FnId) (n : RingId) (b : Bytes) (taking : s.taking = true)
    (free : s.unmapping = false) (turn : s.nextTake = some (f, n)) (whole : b.length = 64) :
    let a := s.advanceTurn f n
    let u := (a.wakeFor b).readBlock f b
    let bad (blk : Bytes) := (u.setSq f n SubRing.advance).paramsBad { a.newCmd f n b with block := blk }
    ∃ t, exec (.commandTake (.entry b)) s = .next t ∧ t.fore.nextCmd = s.fore.nextCmd + 1
      ∧ (t.sq f n).head = BitVec.ofNat 12 (((s.sq f n).head.toNat + 1) % 2 ^ (s.sq f n).log2.toNat)
      ∧ t.fore.portTurn = otherPort (portOf f)
      ∧ (∀ blk x, u.check f b = (blk, some x) → ∃ c ∈ t.fore.taken, c.id = s.fore.nextCmd ∧ c.fn = f
          ∧ c.sq = n ∧ c.desc = b ∧ c.phase = .formed x.status x.detail 0 s.now)
      ∧ (∀ blk d, u.check f b = (blk, none) → bad blk = some d → ∃ c ∈ t.fore.taken, c.id = s.fore.nextCmd ∧ c.fn = f
          ∧ c.sq = n ∧ c.desc = b ∧ c.phase = .formed stBadParam d 0 s.now)
      ∧ (∀ blk, u.check f b = (blk, none) → bad blk = none → ∃ c ∈ t.fore.taken, c.id = s.fore.nextCmd ∧ c.fn = f
          ∧ c.sq = n ∧ c.desc = b ∧ c.block = blk ∧ c.phase = (if t.blockers c = [] then .begun else .waiting)) := by
  intro a u bad
  have fore : a.fore = { s.fore with portTurn := otherPort (portOf f) } := (s.advanceTurn_facts f n).1
  have clk : a.clk = s.clk := (s.advanceTurn_facts f n).2.1
  have sq : a.sq f n = s.sq f n := (s.advanceTurn_facts f n).2.2.1
  have steady : Steady a u := a.readBlock_steady f b
  have next : u.fore.nextCmd = s.fore.nextCmd := steady.next.trans (by rw [fore])
  have port : u.fore.portTurn = otherPort (portOf f) := steady.turn.trans (by rw [fore])
  have now : u.now = s.now := by rw [State.now, steady.clk, clk]; rfl
  have ring : u.sq f n = s.sq f n := by
    rw [← sq]
    show (u.fn f).sqs[n.val] = (a.fn f).sqs[n.val]
    simp only [steady.rings f]
  have id : a.fore.nextCmd = s.fore.nextCmd := by rw [fore]
  have head : (u.sq f n).advance.head = BitVec.ofNat 12 (((s.sq f n).head.toNat + 1) % 2 ^ (s.sq f n).log2.toNat) := by
    rw [ring]; rfl
  obtain ⟨blk, stop, hcheck⟩ : ∃ blk stop, u.check f b = (blk, stop) := ⟨_, _, rfl⟩
  have row : exec (.commandTake (.entry b)) s = .next (a.takeEntry f n b) := by
    show (if b.length = 64 then _ else _) = _
    rw [if_pos whole]
    refine (next_when_pos (by simp [taking, free])).trans ?_
    rw [turn]
  have entry : a.takeEntry f n b = match u.stopOf f n { a.newCmd f n b with block := blk } stop with
      | none => (u.setSq f n SubRing.advance).admitCmd { a.newCmd f n b with block := blk }
      | some x => u.stopCmd f n { a.newCmd f n b with block := blk } x := a.takeEntry_eq f n b hcheck
  cases hstop : u.stopOf f n { a.newCmd f n b with block := blk } stop with
  | none =>
    obtain ⟨rfl, good⟩ : stop = none ∧ bad blk = none := by
      unfold State.stopOf at hstop
      cases stop with
      | some x => cases hstop
      | none => exact ⟨rfl, Option.map_eq_none_iff.1 hstop⟩
    rw [hstop] at entry
    obtain ⟨next', turn', fns, c, taken, cid, cfn, csq, cdesc, cblock, cphase⟩ :=
      (u.setSq f n SubRing.advance).admitCmd_begins { a.newCmd f n b with block := blk } rfl
    refine ⟨_, row.trans (congrArg _ entry), next'.trans (congrArg (· + 1) next), ?_, turn'.trans port,
      fun blk' x h => ?_, fun blk' d h hd => ?_, fun blk' h _ => ?_⟩
    · rw [← head]
      show (((State.admitCmd _ _).fn f).sqs[n.val]).head = _
      simp only [State.fn_of_fns fns]
      simp [State.setSq, State.sq, State.fn, State.setFn]
    · cases hcheck.symm.trans h
    · cases hcheck.symm.trans h
      rw [good] at hd
      cases hd
    · cases hcheck.symm.trans h
      exact ⟨c, taken, cid.trans id, cfn, csq, cdesc, cblock, cphase⟩
  | some x =>
    rw [hstop] at entry
    obtain ⟨next', turn', sq', taken⟩ := u.stopCmd_facts f n { a.newCmd f n b with block := blk } x
    rw [now] at taken
    refine ⟨_, row.trans (congrArg _ entry), next'.trans (congrArg (· + 1) next), by rw [sq']; exact head,
      turn'.trans port, fun blk' y h => ?_, fun blk' d h hd => ?_, fun blk' h hd => ?_⟩
    · obtain ⟨rfl, rfl⟩ := Prod.mk.inj (hcheck.symm.trans h)
      obtain rfl : y = x := Option.some.inj hstop
      exact ⟨_, taken, id, rfl, rfl, rfl, rfl⟩
    · obtain ⟨rfl, rfl⟩ := Prod.mk.inj (hcheck.symm.trans h)
      have stopped : some { status := stBadParam, detail := d } = some x := by
        rw [← hstop]
        show _ = Option.map (fun d => ({ status := stBadParam, detail := d } : Stopped)) (bad blk)
        rw [hd]
        rfl
      obtain rfl := Option.some.inj stopped
      exact ⟨_, taken, id, rfl, rfl, rfl, rfl⟩
    · obtain ⟨rfl, rfl⟩ := Prod.mk.inj (hcheck.symm.trans h)
      have stopped : (none : Option Stopped) = some x := by
        rw [← hstop, State.stopOf]
        exact (congrArg (Option.map _) hd).symm
      cases stopped

/-- A read of an entry that fails. -/
theorem commandTake_failed (s : State) (f : FnId) (n : RingId) (taking : s.taking = true)
    (free : s.unmapping = false) (turn : s.nextTake = some (f, n)) :
    ∃ t, exec (.commandTake .failed) s = .next t ∧ (t.sq f n).enable = false ∧ (t.sq f n).dead = true
      ∧ (t.fn f).error = (s.fn f).error ||| 8 ∧ t.fore.taken = s.fore.taken ∧ .aer (portOf f) ∈ t.sent := by
  refine ⟨_, (next_when_pos (by simp [taking, free])).trans (by rw [turn]), ?_⟩
  dsimp only
  obtain ⟨fore, -, -, -, error⟩ := s.advanceTurn_facts f n
  generalize s.advanceTurn f n = a at fore error
  generalize hu : a.setSq f n (fun q => { q with enable := false, dead := true }) = u
  obtain ⟨sqs, _, errors, -⟩ := u.setError_fns f errDma n.val
  obtain ⟨_, _, frame⟩ := u.setError_frame f errDma n.val
  have ring : ((u.setError f errDma n.val).send (.aer (portOf f))).sq f n = { a.sq f n with enable := false, dead := true } := by
    show ((u.setError f errDma n.val).fn f).sqs[n.val] = _
    rw [sqs]
    subst hu
    simp [State.setSq, State.sq, State.fn, State.setFn]
  rw [ring]
  refine ⟨rfl, rfl, ?_, ?_, List.mem_cons_self⟩
  · show ((u.setError f errDma n.val).fn f).error = _
    rw [errors, ← error]
    subst hu
    simp [State.setSq, State.fn, State.setFn, errDma]
  · rw [frame]
    subst hu
    show a.fore.taken = _
    rw [fore]

/-! ## Commands that waited -/

/-- A command that waited acts once nothing holds it. -/
theorem commandDeferredBegin_free {s : State} {id : Nat} {c : Cmd} (taken : s.cmd id = some c) (run : s.rootRuns = true)
    (waiting : c.phase = .waiting) (free : s.blockers c = []) :
    exec (.commandDeferredBegin id) s = .next (match s.fore.runs.find? (fun r => r.cmd == some id) with
      | none => s.setCmd id (fun c => { c with phase := .begun })
      | some r =>
        if s.attendShort c.fn r.reqs then
          ((s.correctCharge r).setFore (fun x =>
            { x with runs := x.runs.filter (fun y => y.id != r.id) })).finish id stKvNoPage 0
              (if r.admitted then r.result else 0)
        else s.setCmd id (fun c => { c with phase := .running })) := by
  show Host.Outcome.next _ = _
  rw [taken]
  dsimp only
  rw [if_pos ⟨run, waiting, free⟩] <;> rfl

/-- The correction of a charge leaves the commands and the time. -/
theorem State.correctCharge_frame (s : State) (r : Run) : ∃ res, s.correctCharge r = { s with fore := { s.fore with reservations := res } } := by
  unfold State.correctCharge
  split
  · exact ⟨_, rfl⟩
  · exact ⟨s.fore.reservations, rfl⟩

theorem State.setCmd_phase {s : State} {id : Nat} {c : Cmd} (taken : s.cmd id = some c) (p : Phase) :
    (s.setCmd id (fun c => { c with phase := p })).cmd id = some { c with phase := p } := by
  rw [State.setCmd_cmd s id id (fun c => { c with phase := p }) (fun _ => rfl), if_pos rfl, taken]
  rfl

/-- An ATTEND that waited begins its run, or completes with KV_NO_PAGE. -/
theorem commandDeferredBegin_attend (s : State) (id : Nat) (c : Cmd) (r : Run) (taken : s.cmd id = some c)
    (run : s.rootRuns = true) (waiting : c.phase = .waiting) (free : s.blockers c = [])
    (has : s.fore.runs.find? (fun r => r.cmd == some id) = some r) :
    ∃ t, exec (.commandDeferredBegin id) s = .next t
      ∧ (s.attendShort c.fn r.reqs = false → t.cmd id = some { c with phase := .running })
      ∧ (s.attendShort c.fn r.reqs = true → (∀ x ∈ t.fore.runs, x.id ≠ r.id)
          ∧ t.cmd id = some { c with phase := .formed stKvNoPage 0 (if r.admitted then r.result else 0) s.now }) := by
  refine ⟨_, (commandDeferredBegin_free taken run waiting free).trans (by rw [has]), fun long => ?_, fun short => ?_⟩
  · dsimp only
    rw [if_neg (by simp [long])]
    exact State.setCmd_phase taken .running
  · dsimp only
    rw [if_pos short]
    obtain ⟨res, charge⟩ := s.correctCharge_frame r
    rw [charge]
    refine ⟨fun x hx => ?_, ?_⟩
    · have := (List.mem_filter.1 hx).2
      exact bne_iff_ne.1 this
    · exact State.finish_cmd (s := State.setFore { s with fore := { s.fore with reservations := res } } (fun x =>
        { x with runs := x.runs.filter (fun y => y.id != r.id) })) taken (by rw [Cmd.live, waiting]) _ _ _

/-- Settles O21: an entry by `State.takeEntry_eq`, with what a block's read leaves alone (`State.readBlock_steady`), a stopped
command by `State.stopCmd_facts`, an admitted one by `State.admitCmd_begins`. -/
theorem takingACommand : Obligations.TakingACommand := by
  unfold Obligations.TakingACommand
  refine ⟨commandTake_entry, fun s b short => if_neg short, commandTake_failed,
    fun s id c taken run waiting free none => ?_, commandDeferredBegin_attend⟩
  exact ⟨_, (commandDeferredBegin_free taken run waiting free).trans (by rw [none]), State.setCmd_phase taken .begun⟩

end Sys2Proof.Machine

/-!
Thinning of a stream, the loss of a scion that waits for its restore, and the requantiser's rounding.
-/

namespace Sys2Proof.Machine

/-! ## Thinning -/

/-- How far the scaled phase has moved after a number of frames is the number of frames that passed. -/
theorem kept_count (k n m : Nat) (bound : k ≤ 256) :
    (((List.range m).map (fun i => n + i)).filter (fun p => decide (p * k / 256 < (p + 1) * k / 256))).length
      = (n + m) * k / 256 - n * k / 256 := by
  induction m with
  | zero => simp
  | succ m ih =>
    have first : n * k / 256 ≤ (n + m) * k / 256 := Nat.div_le_div_right (Nat.mul_le_mul_right k (by omega))
    have next : (n + (m + 1)) * k = (n + m) * k + k := by ring
    have step : (n + m + 1) * k = (n + m) * k + k := by ring
    rw [List.range_succ, List.map_append, List.filter_append, List.length_append, ih, next]
    simp only [List.map_cons, List.map_nil, List.filter_cons, List.filter_nil, step]
    generalize (n + m) * k = q at first ⊢
    split <;> rename_i passes <;> simp only [decide_eq_true_eq] at passes <;>
      simp only [List.length_cons, List.length_nil] <;> omega

/-- Settles O49: the scaled phase moves by the keep count in 256 frames, by at most one at each. -/
theorem thinningKeepsItsCount : Obligations.ThinningKeepsItsCount := by
  unfold Obligations.ThinningKeepsItsCount
  refine ⟨fun x n bound => ?_, fun x all => ?_, fun x none => ?_, fun lambda w => ?_⟩
  · have moved : (n + 256) * x.keep = n * x.keep + 256 * x.keep := by ring
    calc _ = (n + 256) * x.keep / 256 - n * x.keep / 256 := kept_count x.keep n 256 bound
      _ = x.keep := by rw [moved]; omega
  · simp only [Stream.keeps, all]
    simp
  · simp [Stream.keeps, none]
  · cases lambda with
    | none => exact le_refl 256
    | some l => exact min_le_left 256 _

/-! ## A scion that is lost while it waits for its restore -/

/-- Scion 0 serves, is withdrawn for its restore, and the restore of DIE_RESTORE 7 waits for it. -/
def losesWithdrawing : State :=
  ({ clk := { rootLocked := true }, fore := { restoring := some (0, 7) } } : State).setScion 0 (fun x =>
    { x with state := .joined, withdrawing := true })

/-- The state of scion 0 after an outcome. -/
def scionAfter : Host.Outcome State Fault Refusal → Option ScionState
  | .next t => some (t.scions[0]).state
  | _ => none

/-- Refutes O54: a joined scion that is withdrawn for its restore and is lost is fenced and goes on to be restored
(R451), so the loss leaves it restoring and not fenced. -/
theorem not_scionsAndSeams : ¬ Obligations.ScionsAndSeams := by
  unfold Obligations.ScionsAndSeams
  rintro ⟨-, lost, -⟩
  obtain ⟨t, row, fenced, -⟩ := lost losesWithdrawing 0 (.scionResetAssert 0) (by decide +kernel) (by decide +kernel)
    (.inr (.inr (.inr rfl)))
  have restoring : scionAfter (exec (.scionResetAssert 0) losesWithdrawing) = some .restoring := by decide +kernel
  have state : some (t.scions[0]).state = some ScionState.restoring := by
    rw [row] at restoring
    exact restoring
  have fencedToo : (t.scions[0]).state = .fenced := fenced
  rw [fencedToo] at state
  cases state

/-! ## Rounding -/

/-- A quotient by a positive divisor, by its product and what is left. -/
theorem quotient_split (x d : Int) (pos : 0 < d) : ∃ r, x = x / d * d + r ∧ 0 ≤ r ∧ r < d :=
  ⟨x % d, by rw [mul_comm]; exact (Int.mul_ediv_add_emod x d).symm, Int.emod_nonneg x pos.ne',
    Int.emod_lt_of_pos x pos⟩

/-- The quotient of a number between two multiples that follow each other. -/
theorem quotient_of_split {x d q r : Int} (pos : 0 < d) (split : x = q * d + r) (low : 0 ≤ r) (high : r < d) :
    x / d = q := by
  rw [split, add_comm, Int.add_mul_ediv_right r q pos.ne', Int.ediv_eq_zero_of_lt low high, zero_add]

/-- Nothing is rounded at a shift of 0. -/
@[simp] theorem roundShift_zero (mode : RMode) (p : Int) : roundShift mode p 0 = p := by
  simp [roundShift, roundConst]

/-- Halves away from zero: the nearest, and of two the one with the greater magnitude. -/
theorem roundShift_halfAway (p : Int) (k : Nat) :
    2 * |p - roundShift .halfAway p (k + 1) * 2 ^ (k + 1)| ≤ 2 ^ (k + 1)
    ∧ (2 * |p - roundShift .halfAway p (k + 1) * 2 ^ (k + 1)| = 2 ^ (k + 1) →
        |p| < |roundShift .halfAway p (k + 1) * 2 ^ (k + 1)|) := by
  have half : (0 : Int) < 2 ^ k := by positivity
  have whole : (2 : Int) ^ (k + 1) = 2 * 2 ^ k := by ring
  simp only [roundShift, roundConst, Nat.add_sub_cancel, Nat.succ_ne_zero, if_false]
  obtain ⟨r, split, low, high⟩ := quotient_split
    (p + if 0 ≤ p then 2 ^ k else 2 ^ k - 1) (2 ^ (k + 1)) (by positivity)
  generalize (p + if 0 ≤ p then 2 ^ k else 2 ^ k - 1) / 2 ^ (k + 1) * 2 ^ (k + 1) = a at split ⊢
  rw [whole] at high ⊢
  generalize (2 : Int) ^ k = h at half split high ⊢
  by_cases sign : 0 ≤ p
  · rw [if_pos sign] at split
    simp only [Int.abs_eq_natAbs]
    omega
  · rw [if_neg sign] at split
    simp only [Int.abs_eq_natAbs]
    omega

/-- Halves to the even one: the nearest, and of two the even one. -/
theorem roundShift_halfEven (p : Int) (k : Nat) :
    2 * |p - roundShift .halfEven p (k + 1) * 2 ^ (k + 1)| ≤ 2 ^ (k + 1)
    ∧ (2 * |p - roundShift .halfEven p (k + 1) * 2 ^ (k + 1)| = 2 ^ (k + 1) →
        roundShift .halfEven p (k + 1) % 2 = 0) := by
  have half : (0 : Int) < 2 ^ k := by positivity
  have whole : (2 : Int) ^ (k + 1) = 2 * 2 ^ k := by ring
  have pos : (0 : Int) < 2 ^ (k + 1) := by positivity
  simp only [roundShift, roundConst, Nat.add_sub_cancel, Nat.succ_ne_zero, if_false]
  obtain ⟨r, split, low, high⟩ := quotient_split (p + (2 ^ k - 1 + p / 2 ^ (k + 1) % 2)) (2 ^ (k + 1)) pos
  generalize (p + (2 ^ k - 1 + p / 2 ^ (k + 1) % 2)) / 2 ^ (k + 1) = q at split ⊢
  have same : p = q * 2 ^ (k + 1) + 2 ^ k → p / 2 ^ (k + 1) = q :=
    fun tie => quotient_of_split pos tie half.le (by omega)
  have below : p = q * 2 ^ (k + 1) - 2 ^ k → p / 2 ^ (k + 1) = q - 1 :=
    fun tie => quotient_of_split (r := 2 ^ k) pos (by rw [tie, whole]; ring) half.le (by omega)
  generalize p / 2 ^ (k + 1) = f at split same below
  generalize q * 2 ^ (k + 1) = a at split same below ⊢
  rw [whole] at high ⊢
  generalize (2 : Int) ^ k = h at half split high same below ⊢
  simp only [Int.abs_eq_natAbs]
  omega

/-- Toward zero: the quotient without its fraction. -/
theorem roundShift_towardZero (p : Int) (s : Nat) : roundShift .towardZero p s = p.tdiv (2 ^ s) := by
  cases s with
  | zero => simp
  | succ k =>
    have pos : (0 : Int) < 2 ^ (k + 1) := by positivity
    simp only [roundShift, roundConst, Nat.succ_ne_zero, if_false]
    by_cases sign : 0 ≤ p
    · rw [if_pos sign, add_zero, Int.tdiv_eq_ediv_of_nonneg sign]
    · obtain ⟨n, rfl⟩ : ∃ n, p = -n := ⟨-p, (neg_neg p).symm⟩
      rw [if_neg sign, Int.neg_tdiv, Int.tdiv_eq_ediv_of_nonneg (by omega)]
      obtain ⟨r, split, low, high⟩ := quotient_split n (2 ^ (k + 1)) pos
      refine quotient_of_split (r := 2 ^ (k + 1) - 1 - r) pos ?_ (by omega) (by omega)
      rw [neg_mul]
      omega

/-- Settles O60: the constant of each mode moves the quotient to the nearest integer of its rule, or off it. -/
theorem rounding : Obligations.Rounding := by
  unfold Obligations.Rounding
  refine ⟨fun p s => ⟨?_, ?_, roundShift_towardZero p s⟩, fun q ch acc ordered => ?_⟩
  · cases s with
    | zero => simp
    | succ k => exact roundShift_halfAway p k
  · cases s with
    | zero => simp
    | succ k => exact roundShift_halfEven p k
  · unfold Machine.Requant.out clampInt
    omega

end Sys2Proof.Machine

/-!
Training of a Chroylink port, its acknowledgements, the retrain of new settings, and the ranges of the DFE's taps.
-/

namespace Sys2Proof.Machine

/-! ## The taps -/

/-- The taps of the DFE in their ranges (R160). -/
def tapsInRange (taps : Vector Int 6) : Prop :=
  ∀ i : Fin 6, (tapRange i).1 ≤ taps[i.val] ∧ taps[i.val] ≤ (tapRange i).2

theorem tapRange_ordered (i : Fin 6) : (tapRange i).1 ≤ (tapRange i).2 := by
  unfold tapRange
  split
  · decide
  · split <;> decide

/-- An update holds every tap in its range, whatever it was. -/
theorem lmsStep_inRange (taps : Vector Int 6) (err : Int) (dec : Nat → Pam4) : tapsInRange (lmsStep taps err dec) := by
  intro i
  have ordered := tapRange_ordered i
  simp only [lmsStep, Vector.getElem_ofFn, Fin.eta]
  omega

theorem lmsPreamble_inRange (taps : Vector Int 6) (l : Preamble) (h : tapsInRange taps) :
    tapsInRange (lmsPreamble taps l) := by
  unfold lmsPreamble
  generalize l.errors.zipIdx = errors
  induction errors generalizing taps with
  | nil => exact h
  | cons e rest ih => exact ih _ (lmsStep_inRange _ _ _)

theorem lmsSymbols_inRange (n : Nat) (taps : Vector Int 6) (syms : List Pam4) (errs : List Int) (h : tapsInRange taps) :
    tapsInRange (lmsSymbols n taps syms errs) := by
  induction n generalizing taps syms errs with
  | zero => exact h
  | succ n ih => exact ih _ _ _ (lmsStep_inRange _ _ _)

/-! ## An attempt, step by step -/

section Training
variable {s : State} {p : ClPortId}

/-- An attempt that starts: the preamble is sent for, from taps of 0. -/
theorem clTrainingAttemptStart_spec (runs : s.rootRuns = true) (started : (s.cl[p.val]).started = true)
    (down : (s.cl[p.val]).state = .down) : ∃ t, exec (.clTrainingAttemptStart p) s = .next t
      ∧ (t.cl[p.val]).state = .training ∧ (t.cl[p.val]).phase = .preamble
      ∧ (t.cl[p.val]).taps = Vector.replicate 6 0
      ∧ (t.cl[p.val]).trainAttempts = min ((s.cl[p.val]).trainAttempts + 1) 65535
      ∧ t.sent = .backChannel p (bcLine (bcBytes (s.cl[p.val]).nextMsg.toNat 1 [0])) :: s.sent
      ∧ ∀ q : ClPortId, q ≠ p → t.cl[q.val] = s.cl[q.val] := by
  refine ⟨_, next_when_pos (by simp [runs, started, down]), ?_, ?_, ?_, ?_, ?_, fun q n => ?_⟩
  · rw [State.bcSend_cl, State.setCl_at]
  · rw [State.bcSend_cl, State.setCl_at]
  · rw [State.bcSend_cl, State.setCl_at]
  · rw [State.bcSend_cl, State.setCl_at]
    rfl
  · rw [State.bcSend_sent, State.setCl_at]; rfl
  · rw [State.bcSend_other _ _ _ n, State.setCl_ne _ _ _ n]

/-- The preamble is found: the sweep, or the fixed preset. -/
theorem clPreambleFound_spec (runs : s.rootRuns = true) (agc : BitVec 7) (phase : (s.cl[p.val]).phase = .preamble) :
    ∃ t, exec (.clPreambleFound p agc) s = .next t ∧ (t.cl[p.val]).agc = agc
      ∧ ((s.cl[p.val]).ctleFixed = true → (t.cl[p.val]).phase = .dfe ∧ (t.cl[p.val]).preset = (s.cl[p.val]).ctlePreset)
      ∧ ((s.cl[p.val]).ctleFixed = false → (t.cl[p.val]).phase = .sweep 0 none ∧ (t.cl[p.val]).preset = 0) := by
  refine ⟨_, next_when_pos (by simp [runs, phase]), ?_⟩
  rw [State.setCl_at]
  cases (s.cl[p.val]).ctleFixed
  · exact ⟨rfl, nofun, fun _ => ⟨rfl, rfl⟩⟩
  · exact ⟨rfl, fun _ => ⟨rfl, rfl⟩, nofun⟩

/-- The step of a measured preset, on its port. -/
theorem clCtlePresetDone_next (runs : s.rootRuns = true) (error : Nat) (agc : BitVec 7) (l : Preamble) :
    ∃ t, exec (.clCtlePresetDone p error agc l) s = .next t ∧ t.cl[p.val] = (s.cl[p.val]).swept error agc l :=
  ⟨_, next_when_pos runs, State.setCl_at _ _ _⟩

/-- The DFE has adapted: GO is sent, and block lock is awaited. -/
theorem clDfePreambleDone_spec (runs : s.rootRuns = true) (l : Preamble) (phase : (s.cl[p.val]).phase = .dfe) :
    ∃ t, exec (.clDfePreambleDone p l) s = .next t
      ∧ (t.cl[p.val]).phase = .lock 0 ∧ (t.cl[p.val]).taps = ((s.cl[p.val]).adaptPreamble l).taps
      ∧ t.sent = .backChannel p (bcLine (bcBytes (s.cl[p.val]).nextMsg.toNat 1 [1])) :: s.sent := by
  refine ⟨_, next_when_pos (by simp [runs, phase]), ?_, ?_, ?_⟩
  · rw [State.bcSend_cl, State.setCl_at]
  · rw [State.bcSend_cl, State.setCl_at]
  · rw [State.bcSend_sent, State.setCl_at]
    unfold ClPort.adaptPreamble ClPort.adapt
    split <;> rfl

/-- A bound of the attempt fails: the port is down. -/
theorem clTrainingBoundExpired_spec (runs : s.rootRuns = true) (state : (s.cl[p.val]).state = .training) :
    ∃ t, exec (.clTrainingBoundExpired p) s = .next t ∧ (t.cl[p.val]).state = .down
      ∧ (t.cl[p.val]).phase = .idle ∧ (t.cl[p.val]).unacked = []
      ∧ ∀ q : ClPortId, q ≠ p → (t.cl[q.val]).state = (s.cl[q.val]).state := by
  obtain ⟨down, phase, unacked, -, others⟩ := s.clDown_fields p
  exact ⟨_, next_when_pos (by simp [runs, state]), down, phase, unacked, others⟩

/-- A retrain: counted once the port has been up, and the port is down. -/
theorem State.retrain_fields (s : State) (p : ClPortId) : ((s.retrain p).cl[p.val]).state = .down
    ∧ ((s.cl[p.val]).beenUp = true → ((s.retrain p).cl[p.val]).retrains = min ((s.cl[p.val]).retrains + 1) (2 ^ 32 - 1))
    ∧ ∀ q : ClPortId, q ≠ p → ((s.retrain p).cl[q.val]).state = (s.cl[q.val]).state := by
  unfold State.retrain
  obtain ⟨down, -, -, retrains, others⟩ := (s.setCl p (fun x => { x with
    retrains := if x.beenUp then satAdd 32 x.retrains 1 else x.retrains })).clDown_fields p
  refine ⟨down, fun been => ?_, fun q n => ?_⟩
  · rw [retrains, State.setCl_at]
    simp only [been, if_true]
    rfl
  · rw [others q n, State.setCl_ne _ _ _ n]

/-- Without block lock in time the port trains again. -/
theorem clResyncTimeout_spec (runs : s.rootRuns = true) (state : (s.cl[p.val]).state = .resync) :
    ∃ t, exec (.clResyncTimeout p) s = .next t ∧ (t.cl[p.val]).state = .down
      ∧ ((s.cl[p.val]).beenUp = true → (t.cl[p.val]).retrains = min ((s.cl[p.val]).retrains + 1) (2 ^ 32 - 1))
      ∧ ∀ q : ClPortId, q ≠ p → (t.cl[q.val]).state = (s.cl[q.val]).state :=
  ⟨_, next_when_pos (by simp [runs, state]), s.retrain_fields p⟩

/-- An acknowledgement that does not come: the message is sent again, and the third time the port trains again. -/
theorem backchannelAckTimeout_spec (runs : s.rootRuns = true) (k : Fin 16) (m : BcMsg)
    (waits : (s.cl[p.val]).unacked.find? (fun m => m.msgNo == k.val) = some m) :
    (m.tries < 3 → ∃ t, exec (.backchannelAckTimeout p k) s = .next t
      ∧ (t.cl[p.val]).bcRetries = min ((s.cl[p.val]).bcRetries + 1) (2 ^ 32 - 1)
      ∧ (t.cl[p.val]).state = (s.cl[p.val]).state
      ∧ t.sent = .backChannel p (bcLine (bcBytes m.msgNo m.type m.body)) :: s.sent)
    ∧ (3 ≤ m.tries → ∃ t, exec (.backchannelAckTimeout p k) s = .next t ∧ (t.cl[p.val]).state = .down) := by
  refine ⟨fun few => ⟨_, next_when_pos runs, ?_⟩, fun many => ⟨_, next_when_pos runs, ?_⟩⟩
  · rw [waits]
    dsimp only
    rw [if_pos few]
    simp only [State.send, State.setCl_at, State.setCl_sent]
    exact ⟨rfl, trivial, trivial⟩
  · rw [waits]
    dsimp only
    rw [if_neg (by omega)]
    exact (s.retrain_fields p).1

end Training

/-- A preset of the sweep is measured, not the last: the better of it and the best so far, ties to the lower. -/
theorem ClPort.swept_first (x : ClPort) (error : Nat) (agc : BitVec 7) (l : Preamble) (i : Nat)
    (phase : x.phase = .sweep i none) (more : i < 7) :
    (x.swept error agc l).phase = .sweep (i + 1) (some (i, error)) ∧ (x.swept error agc l).agc = agc
      ∧ (x.swept error agc l).taps = (x.adaptPreamble l).taps := by
  unfold ClPort.swept
  rw [phase]
  dsimp only
  rw [if_pos more]
  exact ⟨rfl, rfl, rfl⟩

/-- A later preset of the sweep, and the last one, which settles it. -/
theorem ClPort.swept_next (x : ClPort) (error : Nat) (agc : BitVec 7) (l : Preamble) (i b e : Nat)
    (phase : x.phase = .sweep i (some (b, e))) :
    (i < 7 → error < e → (x.swept error agc l).phase = .sweep (i + 1) (some (i, error)))
    ∧ (i < 7 → e ≤ error → (x.swept error agc l).phase = .sweep (i + 1) (some (b, e)))
    ∧ (i = 7 → error < e → (x.swept error agc l).phase = .dfe ∧ (x.swept error agc l).preset = 7)
    ∧ (i = 7 → e ≤ error → (x.swept error agc l).phase = .dfe ∧ (x.swept error agc l).preset = BitVec.ofNat 3 b) := by
  unfold ClPort.swept
  rw [phase]
  dsimp only
  refine ⟨fun more better => ?_, fun more worse => ?_, fun last better => ?_, fun last worse => ?_⟩
  · rw [if_pos more, if_pos better]
  · rw [if_pos more, if_neg (by omega)]
  · subst last
    rw [if_neg (by decide), if_pos better]
    exact ⟨rfl, rfl⟩
  · rw [if_neg (by omega), if_neg (by omega)]
    exact ⟨rfl, rfl⟩

/-! ## Settings whose port does not come up -/

/-- A STREAM_OPEN that waits fails: it completes with STREAM_DOWN and its context closes. -/
theorem State.failOpen_spec {s : State} {y : CtxId} {id : Nat} (waits : (s.streams[y.val]).opening = some id) :
    s.failOpen y = (s.finish id stStreamDown (BitVec.ofNat 16 y.val) 0).setStream y Stream.close := by
  unfold State.failOpen
  rw [waits]

/-- New settings whose port is not up in time: they stay, and the command that waited for them is over. -/
theorem linkSettingsRetrainTimeout_spec {s : State} {p : ClPortId} (runs : s.rootRuns = true) (id : Nat) (c : Cmd)
    (waits : (s.cl[p.val]).retrainCmd = some id) (cmd : s.cmd id = some c) (live : c.live = true) :
    ∃ t, exec (.linkSettingsRetrainTimeout p) s = .next t ∧ (t.cl[p.val]) = { s.cl[p.val] with retrainCmd := none }
      ∧ ((∀ y : CtxId, (s.streams[y.val]).opening ≠ some id) → Completed s t id c stBusy 8 0)
      ∧ (∀ y : CtxId, (s.streams[y.val]).opening = some id →
          (∀ z : CtxId, (s.streams[z.val]).opening = some id → z = y) →
          Completed s t id c stStreamDown (BitVec.ofNat 16 y.val) 0 ∧ (t.streams[y.val]).isOpen = false) := by
  refine ⟨_, next_when_pos runs, ?_⟩
  rw [waits]
  dsimp only [State.setCl_streams]
  generalize hu : s.setCl p (fun x => { x with retrainCmd := none }) = u
  have cl : u.cl[p.val] = { s.cl[p.val] with retrainCmd := none } := by rw [← hu, State.setCl_at]
  have taken : u.fore.taken = s.fore.taken := by rw [← hu, State.setCl_fore]
  have streams : u.streams = s.streams := by rw [← hu, State.setCl_streams]
  cases found : (List.finRange 48).find? (fun c : CtxId => (s.streams[c.val]).opening == some id) with
  | none =>
    refine ⟨cl, fun _ => State.finish_completed cmd live taken _ _ _, fun y opens => ?_⟩
    exact absurd (List.find?_eq_none.mp found y (List.mem_finRange y)) (by simp [opens])
  | some y =>
    have opens : (s.streams[y.val]).opening = some id := by simpa using List.find?_some found
    have opensToo : (u.streams[y.val]).opening = some id := by rw [streams, opens]
    dsimp only
    rw [State.failOpen_spec opensToo]
    refine ⟨cl, fun none => absurd opens (none y), fun z opensZ alone => ?_⟩
    obtain rfl := alone y opens
    have formed := State.finish_completed cmd live taken stStreamDown (BitVec.ofNat 16 y.val) 0
    exact ⟨⟨formed.own, formed.other⟩, by rw [State.setStream_at]; rfl⟩

/-- Settles O55: each step of the training on its port, and the updates that clamp every tap. -/
theorem chroylinkTraining : Obligations.ChroylinkTraining := by
  unfold Obligations.ChroylinkTraining
  refine ⟨fun s p runs => ⟨clTrainingAttemptStart_spec runs, clPreambleFound_spec runs, ?_, ?_,
    clDfePreambleDone_spec runs, clTrainingBoundExpired_spec runs, clResyncTimeout_spec runs,
    backchannelAckTimeout_spec runs, linkSettingsRetrainTimeout_spec runs⟩, fun l n syms errs taps inRange i =>
    ⟨lmsPreamble_inRange taps l inRange i, lmsSymbols_inRange n taps syms errs inRange i⟩⟩
  · intro error agc l i phase more
    obtain ⟨t, row, port⟩ := clCtlePresetDone_next (p := p) runs error agc l
    exact ⟨t, row, by rw [port]; exact ClPort.swept_first _ error agc l i phase more⟩
  · intro error agc l i b e phase
    obtain ⟨t, row, port⟩ := clCtlePresetDone_next (p := p) runs error agc l
    exact ⟨t, row, by rw [port]; exact ClPort.swept_next _ error agc l i b e phase⟩

end Sys2Proof.Machine

/-!
Ethernet ingress and the UART receivers.
-/

namespace Sys2Proof.Machine

/-! ## What leaves the UART ports alone -/

section UartFrame
variable (s : State)

@[simp] theorem State.raise_uart (r : Raise) : (s.raise r).uart = s.uart := by
  obtain ⟨-, -, -, -, -, -, -, uart, -, -⟩ := (s.raise_beside r).rest
  exact uart

@[simp] theorem State.pushEntry_uart (c : CtxId) (e : FrameEntry) : (s.pushEntry c e).uart = s.uart := by
  obtain ⟨-, -, -, -, -, -, -, uart, -, -⟩ := (s.pushEntry_beside c e).rest
  exact uart

@[simp] theorem State.writeVa_uart (f : FnId) (k : Bool) (va : Nat) (b : Bytes) (io : HostIo) :
    (s.writeVa f k va b io).1.uart = s.uart := by
  obtain ⟨-, -, -, -, -, -, -, uart, -, -⟩ := (s.writeVa_beside f k va b io).rest
  exact uart

@[simp] theorem State.breakFrame_uart (c : CtxId) : (s.breakFrame c).uart = s.uart := by
  obtain ⟨-, -, -, -, -, -, -, uart, -, -⟩ := (s.breakFrame_beside c).rest
  exact uart

@[simp] theorem State.storeFrame_uart (c : CtxId) (a : FrameAsm) : (s.storeFrame c a).uart = s.uart := by
  unfold State.storeFrame
  dsimp only
  cases a.buffer with
  | none => rfl
  | some i =>
    dsimp only
    split <;> rfl

@[simp] theorem State.logRecord_uart (cls : Nat) (f : Option FnId) (b : LogBody) :
    (s.logRecord cls f b).uart = s.uart := by
  unfold State.logRecord State.mirror
  dsimp only
  split
  · rw [State.setFore_uart, State.writeVa_uart, State.setFore_uart]
  · rw [State.setFore_uart]

@[simp] theorem State.overload_uart (n : Nat) : (s.overload n).uart = s.uart := by
  unfold State.overload
  cases s.reservation n with
  | none => rfl
  | some r =>
    dsimp only
    split
    · rfl
    · rw [State.raise_uart]
      rfl

@[simp] theorem State.shedRun_uart (r : Run) (reason late : Nat) : (s.shedRun r reason late).uart = s.uart := by
  unfold State.shedRun
  dsimp only
  split
  · rw [State.overload_uart, State.logRecord_uart]
  · rw [State.logRecord_uart]

@[simp] theorem State.chargeRun_uart (n us : Nat) : (s.chargeRun n us).uart = s.uart := by
  unfold State.chargeRun
  cases s.reservation n with
  | none => rfl
  | some r =>
    dsimp only
    split
    · exact s.overload_uart n
    · rfl

@[simp] theorem State.enterRun_uart (r : Run) (p : Plan) : (s.enterRun r p).uart = s.uart := by
  unfold State.enterRun State.addRun
  dsimp only
  rw [State.setFore_uart, State.logRecord_uart]
  split
  · rw [State.chargeRun_uart]
  · rfl

@[simp] theorem State.abortSlice_uart (e : EngineId) (run : Option Nat) : (s.abortSlice e run).uart = s.uart := by
  unfold State.abortSlice State.starve
  dsimp only
  split
  · rw [State.raise_uart]
    rfl
  · rfl

@[simp] theorem State.judgeRun_uart (r : Run) (w : Waits) : (s.judgeRun r w).1.uart = s.uart := by
  unfold State.judgeRun
  dsimp only
  split
  · exact s.enterRun_uart r _
  · split
    · exact s.shedRun_uart r 1 _
    · split
      · exact s.shedRun_uart r 1 _
      · rw [State.abortSlice_uart, State.enterRun_uart]

@[simp] theorem State.offer_uart (r : Run) (us : Nat) : (s.offer r us).uart = s.uart := by
  unfold State.offer
  cases r.kind <;> rfl

@[simp] theorem State.shedFrame_uart (c : CtxId) (a : FrameAsm) (n : Nat) (e : BitVec 32) :
    (s.shedFrame c a n e).uart = s.uart := by
  unfold State.shedFrame
  rw [State.pushEntry_uart]
  rfl

@[simp] theorem State.awaitRun_uart (c : CtxId) (a : FrameAsm) : (s.awaitRun c a).uart = s.uart := by
  unfold State.awaitRun
  rw [State.pushEntry_uart]

theorem State.decideBound_uart (c : CtxId) (b : Binding) (g : Graph) (a : FrameAsm) (i : Nat) :
    (s.decideBound c b g a i).uart = s.uart := by
  unfold State.decideBound
  dsimp only
  generalize (boundRun _ c b g a i) = r
  generalize hu : (s.offer _ _).setStream c _ = u
  have uart : u.uart = s.uart := by rw [← hu, State.setStream_uart, State.offer_uart]
  split
  · rw [State.pushEntry_uart, State.offer_uart]
  · split
    · rw [State.awaitRun_uart]
      exact State.offer_uart _ _ _
    · split
      · rw [State.shedFrame_uart, State.shedRun_uart, uart]
      · split
        · rw [State.shedFrame_uart, State.shedRun_uart, uart]
        · have judged := u.judgeRun_uart { r with id := s.fore.nextRun } {}
          generalize u.judgeRun { r with id := s.fore.nextRun } {} = j at judged
          obtain ⟨v, verdict⟩ := j
          cases verdict with
          | admitted => 
            dsimp only
            rw [State.awaitRun_uart]
            exact judged.trans uart
          | shed n => exact (v.shedFrame_uart c a n _).trans (judged.trans uart)

theorem State.validFrame_uart (c : CtxId) (a : FrameAsm) (i : Nat) : (s.validFrame c a i).uart = s.uart := by
  unfold State.validFrame
  dsimp only
  split
  · rfl
  · split
    · rfl
    · split
      · rfl
      · rw [State.decideBound_uart]
        rfl

theorem State.guardSees_uart (c : CtxId) (a : FrameAsm) (sig : BitVec 32) : (s.guardSees c a sig).uart = s.uart := by
  unfold State.guardSees
  dsimp only
  generalize hu : s.setStream c _ = u
  have seen : u.uart = s.uart := by rw [← hu, State.setStream_uart]
  split
  · exact seen
  · exact seen

theorem State.guardFails_uart (c : CtxId) (a : FrameAsm) (i : Nat) (fs : List (Nat × Ev)) :
    (s.guardFails c a i fs).uart = s.uart := by
  unfold State.guardFails
  dsimp only
  rw [State.pushEntry_uart]
  have raised : ∀ (l : List (Nat × Ev)) (u : State) (r : Nat × Ev → Raise),
      (l.foldl (fun u f => u.raise (r f)) u).uart = u.uart := by
    intro l
    induction l with
    | nil => exact fun _ _ => rfl
    | cons f rest ih => exact fun u r => (ih _ r).trans (u.raise_uart (r f))
  exact raised fs _ _

@[simp] theorem State.countOffered_uart (c : CtxId) (t : BitVec 64) : (s.countOffered c t).uart = s.uart := rfl

@[simp] theorem State.seeCounter_uart (c : CtxId) (n : BitVec 32) : (s.seeCounter c n).uart = s.uart := rfl

theorem State.integrityFrame_uart (c : CtxId) (a : FrameAsm) (d : BitVec 16) :
    (s.integrityFrame c a d).uart = s.uart := by
  unfold State.integrityFrame
  dsimp only
  rw [State.pushEntry_uart]
  rfl

/-- The decision on a whole frame leaves the UART ports alone. -/
@[simp] theorem State.endFrame_uart (c : CtxId) (a : FrameAsm) : (s.endFrame c a).uart = s.uart := by
  unfold State.endFrame
  dsimp only
  generalize hu : s.setStream c (fun x => { x with asm := none }) = u
  have cut : u.uart = s.uart := by rw [← hu, State.setStream_uart]
  split
  · exact cut
  · generalize hv : u.countOffered c a.stamp = v
    have counted : v.uart = s.uart := by rw [← hv, State.countOffered_uart, cut]
    cases a.buffer with
    | none => exact counted
    | some i =>
      dsimp only
      generalize hw : v.storeFrame c a = w
      have stored : w.uart = s.uart := by rw [← hw, State.storeFrame_uart, counted]
      split
      · rw [State.seeCounter_uart, State.setStream_uart, stored]
      · cases a.failed with
        | some d => exact (w.integrityFrame_uart c a d).trans stored
        | none =>
          dsimp only
          split
          · rw [State.validFrame_uart, State.guardSees_uart, stored]
          · rw [State.guardFails_uart, State.guardSees_uart, stored]

@[simp] theorem State.lineFails_uart (c : CtxId) (n : Nat) (g : Option ClPortId) :
    (s.lineFails c n g).uart = s.uart := by
  unfold State.lineFails
  dsimp only
  split
  · split
    · rfl
    · rw [State.raise_uart, State.setStream_uart]
  · rfl

end UartFrame

/-! ## Ethernet frames -/

/-- The datagram that a frame addressed to a port carries (R198, R199). -/
def State.ethDatagramOf (s : State) (p : Port4) (b : Bytes) : Option Datagram :=
  if s.ethAddressed p b ∧ (etherBody b).1 = 0x0800 then parseIp (etherBody b).2 else none

/-- A frame that carries a datagram is an IPv4 frame. -/
theorem State.ethDatagramOf_type {s : State} {p : Port4} {b : Bytes} {g : Datagram}
    (h : s.ethDatagramOf p b = some g) : (etherBody b).1 = 0x0800 := by
  unfold State.ethDatagramOf at h
  split at h
  · rename_i ip
    exact ip.2
  · cases h

/-- A frame whose length an Ethernet port takes (R198). -/
def ethFits (b : Bytes) : Prop := 14 ≤ b.length ∧ b.length + 4 ≤ 9216

/-- One more good frame on a port, with what else its counters show. -/
def State.ethGood (s : State) (p : Port4) (g : EthPort → EthPort) : State :=
  s.setEth p (fun x => g { x with frames := satAdd 64 x.frames 1 })

section Frame
variable {s : State} {p : Port4} {b : Bytes}

/-- A frame whose FCS is wrong and that no stream takes. -/
theorem State.ethFrame_badFcs (graft2 : Option ClPortId)
    (untaken : s.ethDatagramOf p b = none ∨ s.safe = true
      ∨ ∃ g, s.ethDatagramOf p b = some g ∧ s.udpContext p g.port = none) :
    s.ethFrame p false b graft2 = s.setEth p (fun x => { x with fcsErrors := satAdd 32 x.fcsErrors 1 }) := by
  unfold State.ethFrame
  change (match s.ethDatagramOf p b with | none => _ | some g => _) = _
  cases udp : s.ethDatagramOf p b with
  | none => rfl
  | some g =>
    dsimp only
    split
    · rfl
    · rename_i awake
      rcases untaken with none | safe | ⟨h, some, free⟩
      · rw [none] at udp
        cases udp
      · exact absurd safe awake
      · obtain rfl : h = g := by rw [udp] at some; exact (Option.some.inj some).symm
        unfold State.ethUdp
        dsimp only
        rw [Bool.and_false, if_neg Bool.false_ne_true, State.udpContext_setEth, free]
        rfl

/-- A frame that is too short or too long. -/
theorem State.ethFrame_unfit (graft2 : Option ClPortId) (unfit : ¬ ethFits b) :
    s.ethFrame p true b graft2 = s.ethGood p (fun x => { x with other := satAdd 32 x.other 1 }) := by
  unfold State.ethFrame
  dsimp only
  unfold ethFits at unfit
  rw [if_pos rfl, if_pos (by omega), State.setEth_twice]
  rfl

/-- A good frame is a gPTP frame. -/
theorem State.ethFrame_gptp (graft2 : Option ClPortId) (fits : ethFits b) (type : (etherBody b).1 = 0x88F7) :
    s.ethFrame p true b graft2 = s.ethGood p (fun x => { x with gptp := satAdd 32 x.gptp 1 }) := by
  unfold State.ethFrame
  dsimp only
  unfold ethFits at fits
  rw [if_pos rfl, if_neg (by omega), if_pos type, State.setEth_twice]
  rfl

/-- A good frame that is none of gPTP, by what it carries. -/
theorem State.ethFrame_plain (graft2 : Option ClPortId) (fits : ethFits b) (type : (etherBody b).1 ≠ 0x88F7) :
    s.ethFrame p true b graft2 = match s.ethDatagramOf p b with
      | none => s.ethGood p (fun x => { x with other := satAdd 32 x.other 1 })
      | some g => if s.safe then s.ethGood p id else (s.ethGood p id).ethUdp p true g graft2 := by
  unfold State.ethFrame
  dsimp only
  unfold ethFits at fits
  rw [if_pos rfl, if_neg (by omega), if_neg type]
  change (match s.ethDatagramOf p b with | none => _ | some g => _) = _
  cases s.ethDatagramOf p b with
  | none => exact State.setEth_twice _ _ _ _
  | some g => rfl

/-- A datagram that no stream takes. -/
theorem State.ethUdp_untaken (graft2 : Option ClPortId) (g : Datagram)
    (untaken : s.udpContext p g.port = none ∨ (∃ c, s.udpContext p g.port = some c
      ∧ (s.streams[c.val]).cfg.srcIp ≠ 0 ∧ (s.streams[c.val]).cfg.srcIp ≠ g.src)) :
    (s.ethGood p id).ethUdp p true g graft2 = s.ethGood p (fun x => { x with
      sumErrors := if g.bad then satAdd 32 x.sumErrors 1 else x.sumErrors
      discarded := satAdd 32 x.discarded 1 }) := by
  unfold State.ethUdp State.ethGood
  dsimp only
  generalize hu : (if (g.bad && true) = true then (s.setEth p _).setEth p _ else s.setEth p _) = u
  have summed : u = s.setEth p (fun x => { x with
      frames := satAdd 64 x.frames 1, sumErrors := if g.bad then satAdd 32 x.sumErrors 1 else x.sumErrors }) := by
    rw [← hu]
    cases g.bad
    · rfl
    · exact (if_pos rfl).trans (State.setEth_twice _ _ _ _)
  have lost : u.ethLost p = s.setEth p (fun x => { x with
      frames := satAdd 64 x.frames 1, sumErrors := if g.bad then satAdd 32 x.sumErrors 1 else x.sumErrors
      discarded := satAdd 32 x.discarded 1 }) := by
    rw [summed, State.ethLost, State.setEth_twice]
  have context : u.udpContext p g.port = s.udpContext p g.port := by rw [summed, State.udpContext_setEth]
  rw [context]
  rcases untaken with free | ⟨c, taken, wants, other⟩
  · rw [free]
    exact lost
  · rw [taken]
    have streams : u.streams = s.streams := by rw [summed, State.setEth_streams]
    dsimp only
    rw [if_pos ⟨by rw [streams]; exact wants, by rw [streams]; exact other⟩]
    exact lost

/-- No line of a frame fails: the fault is on no channel, or the frame has no buffer. -/
theorem State.lineFails_none {s : State} {c : CtxId} {a : FrameAsm} (graft2 : Option ClPortId) (n : Nat)
    (asm : (s.streams[c.val]).asm = some a) (line : graft2 = none ∨ a.buffer = none) :
    s.lineFails c n graft2 = s := by
  unfold State.lineFails
  dsimp only
  rw [asm]
  rcases line with rfl | none
  · rfl
  · cases graft2 with
    | none => rfl
    | some ch =>
      dsimp only
      rw [if_pos (by rw [none]; simp)]

/-- A frame in progress with one more datagram. -/
def FrameAsm.joined (a : FrameAsm) (payload : Bytes) : FrameAsm :=
  { a with parts := a.parts + 1, length := a.length + payload.length, bytes := a.bytes ++ payload }

/-- A datagram joins a frame that waits for more. -/
theorem State.ethJoin_more {s : State} {c : CtxId} {a : FrameAsm} (payload : Bytes) (graft2 : Option ClPortId)
    (asm : (s.streams[c.val]).asm = some a) (whole : a.broken = false)
    (more : a.parts + 1 < (s.streams[c.val]).cfg.datagrams) (line : graft2 = none ∨ a.buffer = none) :
    s.ethJoin c payload graft2 = s.setStream c (fun x => { x with asm := some (a.joined payload) }) := by
  unfold State.ethJoin
  dsimp only
  rw [asm]
  dsimp only
  rw [if_neg (show ¬ a.broken = true by rw [whole]; exact Bool.false_ne_true)]
  generalize hu : s.setStream c _ = u
  have stream : u.streams[c.val] = { s.streams[c.val] with asm := some (a.joined payload) } := by
    rw [← hu, State.setStream_at]
    rfl
  have joined : (u.streams[c.val]).asm = some (a.joined payload) := by rw [stream]
  have cfg : (u.streams[c.val]).cfg = (s.streams[c.val]).cfg := by rw [stream]
  rw [State.lineFails_none graft2 a.length joined line, joined]
  dsimp only
  rw [if_pos (by rw [cfg]; exact more), ← hu]
  rfl

/-- A damaged frame in progress is counted unless it is one already. -/
theorem State.ethFail_spec {s : State} {p : Port4} {c : CtxId} {a : FrameAsm}
    (asm : (s.streams[c.val]).asm = some a) (whole : a.broken = false) :
    (a.failed = some 1 → s.ethFail p c = s)
    ∧ (a.failed ≠ some 1 → s.ethFail p c
        = (s.setStream c (fun x => { x with asm := some { a with failed := some (a.failed.getD 1) } })).ethBroken p) := by
  have inFrame : (s.streams[c.val]).inFrame = (a.failed != some 1) := by
    unfold Stream.inFrame
    rw [asm]
    dsimp only
    rw [whole]
    rfl
  unfold State.ethFail
  refine ⟨fun done => ?_, fun new => ?_⟩
  · rw [inFrame, done]
    rfl
  · rw [inFrame, if_pos (by simpa using new)]
    unfold State.damageFrame State.setStream
    dsimp only
    rw [asm]
    dsimp only [Option.map]
    rw [whole]
    rfl

/-- A datagram whose counter is the one of the frame in progress joins it, and damages it where it is bad. -/
theorem State.ethDatagram_more {s : State} {p : Port4} {c : CtxId} {a : FrameAsm} {n : BitVec 32} (bad : Bool)
    (payload : Bytes) (graft2 : Option ClPortId) (counter : (s.streams[c.val]).cfg.readCounter payload = some n)
    (asm : (s.streams[c.val]).asm = some a) (same : a.counter = n) (whole : a.broken = false)
    (more : a.parts + 1 < (s.streams[c.val]).cfg.datagrams) (line : graft2 = none ∨ a.buffer = none) :
    let t := s.ethDatagram p c bad payload graft2
    (bad = false → (t.streams[c.val]).asm = some (a.joined payload))
    ∧ (bad = true → a.failed = none → (t.streams[c.val]).asm = some { a.joined payload with failed := some 1 }
      ∧ t.eth = (s.ethBroken p).eth)
    ∧ (∀ y : CtxId, y ≠ c → t.streams[y.val] = s.streams[y.val]) ∧ t.mem = s.mem := by
  intro t
  have made : t = (if bad then s.ethFail p c else s).ethJoin c payload graft2 := by
    change s.ethDatagram p c bad payload graft2 = _
    unfold State.ethDatagram
    dsimp only
    rw [counter]
    dsimp only
    rw [asm]
    simp only [same, beq_self_eq_true, if_true]
  obtain ⟨known, new⟩ := State.ethFail_spec (p := p) asm whole
  cases bad with
  | false =>
    rw [made, if_neg Bool.false_ne_true, State.ethJoin_more payload graft2 asm whole more line]
    exact ⟨fun _ => by rw [State.setStream_at], nofun, fun y n => State.setStream_ne _ _ _ n _, rfl⟩
  | true =>
    rw [made, if_pos rfl]
    by_cases done : a.failed = some 1
    · rw [known done, State.ethJoin_more payload graft2 asm whole more line]
      exact ⟨nofun, fun _ none => absurd (none.symm.trans done) nofun, fun y n => State.setStream_ne _ _ _ n _, rfl⟩
    · rw [new done]
      let d : FrameAsm := { a with failed := some (a.failed.getD 1) }
      generalize hv : (s.setStream c (fun x => { x with asm := some d })).ethBroken p = v
      have stream : v.streams[c.val] = { s.streams[c.val] with asm := some d } := by
        rw [← hv, State.ethBroken, State.setEth_streams, State.setStream_at]
      rw [State.ethJoin_more (a := d) payload graft2 (by rw [stream]) whole (by rw [stream]; exact more) line]
      refine ⟨nofun, fun _ none => ⟨?_, ?_⟩, fun y n => ?_, ?_⟩
      · rw [State.setStream_at]
        simp only [d, none, Option.getD_none]
        rfl
      · rw [State.setStream_eth, ← hv]
        rfl
      · rw [State.setStream_ne _ _ _ n, ← hv]
        rw [State.ethBroken, State.setEth_streams, State.setStream_ne _ _ _ n]
      · rw [State.setStream_mem, ← hv]
        rfl

/-- A datagram that a stream takes. -/
theorem State.ethUdp_taken (graft2 : Option ClPortId) (g : Datagram) {c : CtxId}
    (context : s.udpContext p g.port = some c)
    (source : (s.streams[c.val]).cfg.srcIp = 0 ∨ (s.streams[c.val]).cfg.srcIp = g.src) :
    (s.ethGood p id).ethUdp p true g graft2
      = (s.ethGood p (fun x => { x with sumErrors := if g.bad then satAdd 32 x.sumErrors 1 else x.sumErrors })).ethDatagram
          p c g.bad g.payload graft2 := by
  unfold State.ethUdp State.ethGood
  dsimp only
  generalize hu : (if (g.bad && true) = true then (s.setEth p _).setEth p _ else s.setEth p _) = u
  have summed : u = s.setEth p (fun x => { x with
      frames := satAdd 64 x.frames 1, sumErrors := if g.bad then satAdd 32 x.sumErrors 1 else x.sumErrors }) := by
    rw [← hu]
    cases g.bad
    · rfl
    · exact (if_pos rfl).trans (State.setEth_twice _ _ _ _)
  have found : u.udpContext p g.port = some c := by rw [summed, State.udpContext_setEth, context]
  have streams : u.streams = s.streams := by rw [summed, State.setEth_streams]
  rw [found]
  dsimp only
  rw [if_neg (by rw [streams]; tauto), Bool.not_true, Bool.or_false, summed]

/-- A good frame with the next datagram of a frame in progress, where no line of it fails. -/
theorem ethFrame_joins {graft2 : Option ClPortId} {g : Datagram} {c : CtxId} {a : FrameAsm} {n : BitVec 32}
    (fits : ethFits b) (udp : s.ethDatagramOf p b = some g) (awake : s.safe = false)
    (context : s.udpContext p g.port = some c)
    (source : (s.streams[c.val]).cfg.srcIp = 0 ∨ (s.streams[c.val]).cfg.srcIp = g.src)
    (counter : (s.streams[c.val]).cfg.readCounter g.payload = some n) (asm : (s.streams[c.val]).asm = some a)
    (same : a.counter = n) (whole : a.broken = false) (more : a.parts + 1 < (s.streams[c.val]).cfg.datagrams)
    (line : graft2 = none ∨ a.buffer = none) :
    let t := s.ethFrame p true b graft2
    (g.bad = false → (t.streams[c.val]).asm = some (a.joined g.payload))
    ∧ (g.bad = true → a.failed = none → (t.streams[c.val]).asm = some { a.joined g.payload with failed := some 1 }
      ∧ (t.eth[p.val]).sumErrors = satAdd 32 (s.eth[p.val]).sumErrors 1
      ∧ (t.eth[p.val]).broken = satAdd 32 (s.eth[p.val]).broken 1)
    ∧ (∀ y : CtxId, y ≠ c → t.streams[y.val] = s.streams[y.val]) ∧ t.mem = s.mem := by
  have type : (etherBody b).1 ≠ 0x88F7 := by rw [State.ethDatagramOf_type udp]; decide
  dsimp only
  rw [State.ethFrame_plain graft2 fits type, udp]
  dsimp only
  rw [awake, if_neg Bool.false_ne_true, State.ethUdp_taken graft2 g context source]
  generalize hu : s.ethGood p (fun x => { x with
    sumErrors := if g.bad then satAdd 32 x.sumErrors 1 else x.sumErrors }) = u
  have streams : u.streams = s.streams := by rw [← hu, State.ethGood, State.setEth_streams]
  have mem : u.mem = s.mem := by rw [← hu, State.ethGood, State.setEth_mem]
  have eth : u.eth[p.val] = { s.eth[p.val] with
      frames := satAdd 64 (s.eth[p.val]).frames 1
      sumErrors := if g.bad then satAdd 32 (s.eth[p.val]).sumErrors 1 else (s.eth[p.val]).sumErrors } := by
    rw [← hu, State.ethGood, State.setEth_at]
  obtain ⟨good, bad, others, kept⟩ := State.ethDatagram_more (s := u) (p := p) (c := c) (a := a) (n := n) g.bad g.payload
    graft2 (by rw [streams]; exact counter) (by rw [streams]; exact asm) same whole (by rw [streams]; exact more) line
  refine ⟨good, fun wrong fresh => ?_, fun y n => by rw [others y n, streams], kept.trans mem⟩
  obtain ⟨failed, counted⟩ := bad wrong fresh
  refine ⟨failed, ?_, ?_⟩
  · rw [counted, State.ethBroken, State.setEth_at, eth, wrong]
    rfl
  · rw [counted, State.ethBroken, State.setEth_at, eth]

end Frame

/-- A frame arrives on a port whose link is up. -/
theorem ethFrame_next {s : State} {p : Port4} (runs : s.rootRuns = true) (macs : s.boot.macsUp = true)
    (up : (s.eth[p.val]).up = true) (ok : Bool) (b : Bytes) (graft2 : Option ClPortId) :
    exec (.ethFrame p ok b graft2) s = .next (s.ethFrame p ok b graft2) :=
  next_when_pos (by simp [runs, macs, up])

/-- The streams of a port follow its link; the ports' own counters are not theirs. -/
theorem State.portUp_eth (s : State) (a b : Nat) : (s.portUp a b).eth = s.eth := rfl

theorem State.portDown_eth (s : State) (a b : Nat) : (s.portDown a b).eth = s.eth := by
  obtain ⟨-, -, -, -, -, -, eth, -, -, -⟩ := (s.portDown_beside a b).rest
  exact eth

/-- A link that changes: its state, speed and time, and the count of its losses. -/
theorem ethLinkChange_spec {s : State} (p : Port4) (up : Bool) (speed : Fin 4) (runs : s.rootRuns = true)
    (macs : s.boot.macsUp = true) : ∃ t, exec (.ethLinkChange p up speed) s = .next t ∧ (t.eth[p.val]).up = up
      ∧ (up = true → (t.eth[p.val]).speed = speed.val)
      ∧ (up = true → (s.eth[p.val]).up = false → (t.eth[p.val]).lastUp = s.now)
      ∧ (up = false → (s.eth[p.val]).up = true → (t.eth[p.val]).linkDowns = satAdd 16 (s.eth[p.val]).linkDowns 1)
      ∧ (∀ q : Port4, q ≠ p → t.eth[q.val] = s.eth[q.val]) := by
  refine ⟨_, next_when_pos (by simp [runs, macs]), ?_⟩
  dsimp only
  generalize hu : s.setEth p _ = u
  generalize ht : (if (up && !(s.eth[p.val]).up) = true then u.portUp 1 p.val else
    if ((s.eth[p.val]).up && !up) = true then u.portDown 1 p.val else u) = t
  have eth : t.eth = u.eth := by
    rw [← ht]
    split
    · exact u.portUp_eth 1 p.val
    · split
      · exact u.portDown_eth 1 p.val
      · rfl
  rw [eth, ← hu, State.setEth_at]
  refine ⟨rfl, fun rises => if_pos rises, fun rises was => ?_, fun falls was => ?_, fun q n => State.setEth_ne _ _ _ n _⟩
  · rw [rises, was]
    rfl
  · rw [falls, was]
    rfl

/-! ## UART -/

/-- UART_CONFIG: refused while a stream of the port is open, unless it changes nothing. -/
theorem uartConfig_spec {s : State} {id : Nat} {c : Cmd} (b : s.Begins id .uartConfig c) (p : Port4)
    (names : c.arg 16 1 = p.val) :
    let x := s.uart[p.val]
    let y := { x with enabled := c.arg 17 1 == 1, dataBits := c.arg 18 1, parity := c.arg 19 1, stop := c.arg 20 1,
                      baud := c.arg 24 4 }
    let isOpen := s.streams.toList.any (fun t => t.isOpen && t.cfg.source == 2 && t.cfg.port == p.val)
    ∃ t, exec (.uartConfig id) s = .next t
      ∧ (isOpen = true → y ≠ x → Completed s t id c stBusy 8 0 ∧ t.uart = s.uart)
      ∧ ((isOpen = false ∨ y = x) → Completed s t id c stOk 0 0 ∧ t.uart[p.val] = y
          ∧ ∀ q : Port4, q ≠ p → t.uart[q.val] = s.uart[q.val]) := by
  intro x y isOpen
  have row : exec (.uartConfig id) s = .next (if isOpen && y != x then s.finish id stBusy 8 0
      else (s.setUart p (fun _ => y)).finish id stOk 0 0) := by
    obtain rfl : Fin.ofNat 4 (c.arg 16 1) = p := by rw [names]; exact Fin.ext (Nat.mod_eq_of_lt p.isLt)
    exact b.next
  refine ⟨_, row, fun opened differs => ?_, fun free => ?_⟩
  · rw [if_pos (by simp [opened, differs])]
    exact ⟨b.done rfl, rfl⟩
  · rw [if_neg (by rcases free with closed | same <;> simp [*])]
    refine ⟨b.done rfl, ?_, fun q n => ?_⟩
    · exact State.setUart_at s p (fun _ => y)
    · exact State.setUart_ne s p q n (fun _ => y)


section Uart
variable {s : State} {p : Port4}

/-- A broken frame is counted among the broken ones alone. -/
theorem State.uartBroken_at (s : State) (p : Port4) : (s.uartBroken p).uart[p.val]
    = { s.uart[p.val] with broken := satAdd 32 (s.uart[p.val]).broken 1 } := State.setUart_at _ _ _

@[simp] theorem State.spoil_uart (s : State) (c : CtxId) : (s.spoil c).uart = s.uart := by
  unfold State.spoil
  cases (s.streams[c.val]).asm with
  | none => rfl
  | some a => exact s.storeFrame_uart c a

/-- The end of a UART frame leaves the count of characters. -/
theorem State.uartEnd_chars (s : State) (p : Port4) (c : CtxId) (a : FrameAsm) :
    ((s.uartEnd p c a).uart[p.val]).chars = (s.uart[p.val]).chars := by
  unfold State.uartEnd
  split
  · rw [State.uartBroken_at, State.breakFrame_uart]
  · rw [State.endFrame_uart]

/-- A frame in progress with one more character. -/
def FrameAsm.withChar (a : FrameAsm) (data : Byte) : FrameAsm :=
  { a with bytes := a.bytes ++ [data], parts := a.parts + 1, length := a.length + 1 }

/-- A character of a frame in progress, which may be the frame's last. -/
theorem State.uartTake_frame {c : CtxId} {a : FrameAsm} (ch : Character) (graft2 : Option ClPortId)
    (asm : (s.streams[c.val]).asm = some a) (whole : a.broken = false) :
    ((ch.framing = true ∨ ch.parity = true) → s.uartTake p c ch graft2 = (s.breakFrame c).uartBroken p)
    ∧ (ch.framing = false → ch.parity = false → s.uartTake p c ch graft2 =
        let t := (s.setStream c (fun x => { x with asm := some (a.withChar ch.data) })).lineFails c a.length graft2
        match (t.streams[c.val]).asm with
        | none => t
        | some b =>
          if (s.streams[c.val]).cfg.framing = 1 ∧ (s.streams[c.val]).cfg.frameBytes < b.length then
            (t.spoil c).uartBroken p
          else if (s.streams[c.val]).cfg.framing = 0 ∧ (s.streams[c.val]).cfg.uartLen ≤ b.length then t.uartEnd p c b
          else t) := by
  unfold State.uartTake
  dsimp only
  rw [if_pos (by rw [asm]; rfl), asm]
  dsimp only
  rw [if_neg (by rw [whole]; exact Bool.false_ne_true)]
  refine ⟨fun wrong => ?_, fun framing parity => ?_⟩
  · rw [if_pos (by simpa using wrong)]
  · rw [if_neg (by rw [framing, parity]; exact Bool.false_ne_true)] <;> rfl

/-- A character of a frame in progress leaves the count of characters. -/
theorem State.uartTake_chars {c : CtxId} {a : FrameAsm} (ch : Character) (graft2 : Option ClPortId)
    (asm : (s.streams[c.val]).asm = some a) (whole : a.broken = false) :
    ((s.uartTake p c ch graft2).uart[p.val]).chars = (s.uart[p.val]).chars := by
  obtain ⟨breaks, joins⟩ := State.uartTake_frame (p := p) ch graft2 asm whole
  by_cases wrong : ch.framing = true ∨ ch.parity = true
  · rw [breaks wrong, State.uartBroken_at, State.breakFrame_uart]
  · obtain ⟨framing, parity⟩ : ch.framing = false ∧ ch.parity = false := by simpa using wrong
    rw [joins framing parity]
    dsimp only
    generalize ht : State.lineFails _ c a.length graft2 = t
    have uart : t.uart = s.uart := by rw [← ht, State.lineFails_uart, State.setStream_uart]
    cases (t.streams[c.val]).asm with
    | none => rw [uart]
    | some b =>
      dsimp only
      split
      · rw [State.uartBroken_at, State.spoil_uart, uart]
      · split
        · rw [State.uartEnd_chars, uart]
        · exact congrArg (fun v : Vector UartPort 4 => (v[p.val]).chars) uart

/-- A character that is not a frame's last joins it, where its line does not fail. -/
theorem State.uartTake_joins {c : CtxId} {a : FrameAsm} {ch : Character} {graft2 : Option ClPortId}
    (asm : (s.streams[c.val]).asm = some a) (whole : a.broken = false) (framing : ch.framing = false)
    (parity : ch.parity = false) (line : graft2 = none ∨ a.buffer = none)
    (more : (s.streams[c.val]).cfg.framing = 0 ∧ a.length + 1 < (s.streams[c.val]).cfg.uartLen
      ∨ (s.streams[c.val]).cfg.framing = 1 ∧ a.length + 1 ≤ (s.streams[c.val]).cfg.frameBytes) :
    s.uartTake p c ch graft2 = s.setStream c (fun x => { x with asm := some (a.withChar ch.data) }) := by
  rw [(State.uartTake_frame (p := p) ch graft2 asm whole).2 framing parity]
  dsimp only
  generalize hu : s.setStream c _ = u
  have joined : (u.streams[c.val]).asm = some (a.withChar ch.data) := by rw [← hu, State.setStream_at]
  rw [State.lineFails_none graft2 a.length joined line, joined]
  dsimp only [FrameAsm.withChar]
  rw [if_neg (by omega), if_neg (by omega)]

/-- A character without a frame in progress, on a stream that waits for a gap. -/
theorem State.uartTake_waits {c : CtxId} (ch : Character) (graft2 : Option ClPortId)
    (asm : (s.streams[c.val]).asm = none) (waits : (s.streams[c.val]).awaitGap = true) :
    s.uartTake p c ch graft2 = s := by
  unfold State.uartTake
  dsimp only
  rw [if_pos (by rw [waits, Bool.or_true]), asm]

/-- The port's counters with one more character (R207). -/
def UartPort.counted (x : UartPort) (ch : Character) : UartPort :=
  { x with
    chars := satAdd 64 x.chars 1
    framing := if ch.framing then satAdd 32 x.framing 1 else x.framing
    parityErrs := if ch.parity then satAdd 32 x.parityErrs 1 else x.parityErrs
    breaks := if ch.framing && ch.zero then satAdd 32 x.breaks 1 else x.breaks }

/-- A false start: the start bit is high. -/
theorem uartCharacter_falseStart (samples : List Bool) (graft2 : Option ClPortId) (runs : s.rootRuns = true)
    (awake : s.safe = false) (on : (s.uart[p.val]).enabled = true) (high : uartBit samples 0 = true) :
    exec (.uartCharacter p samples graft2) s
      = .next (s.setUart p (fun x => { x with falseStarts := satAdd 32 x.falseStarts 1 })) := by
  refine (next_when_pos (by simp [runs, awake, on])).trans ?_
  rw [if_pos high]

/-- A character whose start bit is low is counted, and is one of a stream or of none. -/
theorem uartCharacter_next {samples : List Bool} (graft2 : Option ClPortId) (runs : s.rootRuns = true)
    (awake : s.safe = false) (on : (s.uart[p.val]).enabled = true) (low : uartBit samples 0 = false) :
    exec (.uartCharacter p samples graft2) s
      = .next (match s.uartContext p with
        | some c => (s.setUart p (·.counted ((s.uart[p.val]).character samples))).uartTake p c
            ((s.uart[p.val]).character samples) graft2
        | none => (s.setUart p (·.counted ((s.uart[p.val]).character samples))).uartLoose p) := by
  refine (next_when_pos (by simp [runs, awake, on])).trans ?_
  rw [if_neg (by rw [low]; exact Bool.false_ne_true)]
  dsimp only
  rw [State.uartContext_setUart] <;> rfl

/-- A character without a stream: counted, and once as one of a frame that no stream takes. -/
theorem uartCharacter_loose {samples : List Bool} (graft2 : Option ClPortId) (runs : s.rootRuns = true)
    (awake : s.safe = false) (on : (s.uart[p.val]).enabled = true) (low : uartBit samples 0 = false)
    (free : s.uartContext p = none) :
    let x := s.uart[p.val]
    let ch := x.character samples
    ∃ t, exec (.uartCharacter p samples graft2) s = .next t
      ∧ (t.uart[p.val]).chars = satAdd 64 x.chars 1
      ∧ (t.uart[p.val]).framing = (if ch.framing then satAdd 32 x.framing 1 else x.framing)
      ∧ (t.uart[p.val]).parityErrs = (if ch.parity then satAdd 32 x.parityErrs 1 else x.parityErrs)
      ∧ (t.uart[p.val]).discarded = (if x.loose then x.discarded else satAdd 32 x.discarded 1)
      ∧ (t.uart[p.val]).loose = true ∧ t.streams = s.streams ∧ t.mem = s.mem := by
  refine ⟨_, uartCharacter_next graft2 runs awake on low, ?_⟩
  rw [free]
  dsimp only [State.uartLoose]
  rw [State.setUart_at, State.setUart_at]
  exact ⟨rfl, rfl, rfl, rfl, rfl, rfl, rfl⟩

/-- A character of a stream that waits for a gap is passed over. -/
theorem uartCharacter_passedOver {samples : List Bool} (graft2 : Option ClPortId) (runs : s.rootRuns = true)
    (awake : s.safe = false) (on : (s.uart[p.val]).enabled = true) {c : CtxId} (low : uartBit samples 0 = false)
    (context : s.uartContext p = some c) (asm : (s.streams[c.val]).asm = none)
    (waits : (s.streams[c.val]).awaitGap = true) : ∃ t, exec (.uartCharacter p samples graft2) s = .next t
      ∧ (t.uart[p.val]).chars = satAdd 64 (s.uart[p.val]).chars 1 ∧ t.streams = s.streams ∧ t.mem = s.mem := by
  refine ⟨_, uartCharacter_next graft2 runs awake on low, ?_⟩
  rw [context]
  dsimp only
  rw [State.uartTake_waits _ graft2 (by rw [State.setUart_streams]; exact asm)
    (by rw [State.setUart_streams]; exact waits), State.setUart_at]
  exact ⟨rfl, rfl, rfl⟩

/-- A character of a stream's frame in progress: broken by an error, or with one more character. -/
theorem uartCharacter_frame {samples : List Bool} (graft2 : Option ClPortId) (runs : s.rootRuns = true)
    (awake : s.safe = false) (on : (s.uart[p.val]).enabled = true) {c : CtxId} {a : FrameAsm}
    (low : uartBit samples 0 = false) (context : s.uartContext p = some c) (asm : (s.streams[c.val]).asm = some a)
    (whole : a.broken = false) :
    let x := s.uart[p.val]
    let ch := x.character samples
    ∃ t, exec (.uartCharacter p samples graft2) s = .next t
      ∧ (t.uart[p.val]).chars = satAdd 64 x.chars 1
      ∧ ((ch.framing = true ∨ ch.parity = true) → (t.streams[c.val]).asm = none
        ∧ (t.uart[p.val]).broken = satAdd 32 x.broken 1)
      ∧ (ch.framing = false → ch.parity = false → (graft2 = none ∨ a.buffer = none) →
          ((s.streams[c.val]).cfg.framing = 0 ∧ a.length + 1 < (s.streams[c.val]).cfg.uartLen
            ∨ (s.streams[c.val]).cfg.framing = 1 ∧ a.length + 1 ≤ (s.streams[c.val]).cfg.frameBytes) →
        (t.streams[c.val]).asm = some (a.withChar ch.data) ∧ t.mem = s.mem) := by
  intro x ch
  refine ⟨_, uartCharacter_next graft2 runs awake on low, ?_⟩
  rw [context]
  dsimp only
  generalize hu : s.setUart p (·.counted ((s.uart[p.val]).character samples)) = u
  have uart : u.uart[p.val] = (s.uart[p.val]).counted ch := by rw [← hu, State.setUart_at]
  have streams : u.streams = s.streams := by rw [← hu, State.setUart_streams]
  have mem : u.mem = s.mem := by rw [← hu, State.setUart_mem]
  have frame : (u.streams[c.val]).asm = some a := by rw [streams, asm]
  refine ⟨?_, fun wrong => ?_, fun framing parity line more => ?_⟩
  · rw [State.uartTake_chars _ graft2 frame whole, uart]
    rfl
  · rw [(State.uartTake_frame (p := p) _ graft2 frame whole).1 wrong]
    constructor
    · obtain ⟨m, -, gone⟩ := u.breakFrame_facts c
      rw [State.uartBroken, State.setUart_streams, gone]
      simp
    · rw [State.uartBroken_at, State.breakFrame_uart, uart]
      rfl
  · rw [State.uartTake_joins frame whole framing parity line (by rw [streams]; exact more), State.setStream_at]
    exact ⟨rfl, mem⟩

/-- A gap ends a frame that gaps delimit. -/
theorem uartIdleGap_next (runs : s.rootRuns = true) (awake : s.safe = false) (on : (s.uart[p.val]).enabled = true) :
    (s.uartContext p = none → exec (.uartIdleGap p) s = .next (s.setUart p (fun x => { x with loose := false })))
    ∧ (∀ c, s.uartContext p = some c →
        let u := (s.setUart p (fun x => { x with loose := false })).setStream c (fun x => { x with awaitGap := false })
        (((s.streams[c.val]).asm = none ∨ (s.streams[c.val]).cfg.framing = 0) → exec (.uartIdleGap p) s = .next u)
        ∧ (∀ a, (s.streams[c.val]).asm = some a → (s.streams[c.val]).cfg.framing ≠ 0 → a.broken = true →
            exec (.uartIdleGap p) s = .next (u.setStream c (fun x => { x with asm := none })))
        ∧ (∀ a n, (s.streams[c.val]).asm = some a → (s.streams[c.val]).cfg.framing ≠ 0 → a.broken = false →
            (s.streams[c.val]).cfg.readCounter a.bytes = some n →
            exec (.uartIdleGap p) s = .next (u.endFrame c { a with counter := n }))) := by
  have acts : (s.rootRuns && !s.safe && (s.uart[p.val]).enabled) = true := by simp [runs, awake, on]
  refine ⟨fun free => (next_when_pos acts).trans ?_, fun c context => ?_⟩
  · dsimp only
    rw [State.uartContext_setUart, free]
  · intro u
    have found : (s.setUart p (fun x => { x with loose := false })).uartContext p = some c := by
      rw [State.uartContext_setUart, context]
    have stream : u.streams[c.val] = { s.streams[c.val] with awaitGap := false } := by
      rw [State.setStream_at, State.setUart_streams]
    have cfg : (u.streams[c.val]).cfg = (s.streams[c.val]).cfg := by rw [stream]
    have frame : (u.streams[c.val]).asm = (s.streams[c.val]).asm := by rw [stream]
    refine ⟨fun idle => (next_when_pos acts).trans ?_, fun a asm gaps broken => (next_when_pos acts).trans ?_,
      fun a n asm gaps whole counter => (next_when_pos acts).trans ?_⟩
    · dsimp only
      rw [found]
      change Host.Outcome.next (match (u.streams[c.val]).asm with | none => u | some a => _) = _
      rw [frame]
      rcases idle with none | framing
      · rw [none]
      · cases (s.streams[c.val]).asm with
        | none => rfl
        | some a =>
          dsimp only
          rw [if_pos (by rw [cfg, framing])]
    · dsimp only
      rw [found]
      change Host.Outcome.next (match (u.streams[c.val]).asm with | none => u | some a => _) = _
      rw [frame, asm]
      dsimp only
      rw [if_neg (by rw [cfg]; exact gaps), if_pos broken]
    · dsimp only
      rw [found]
      change Host.Outcome.next (match (u.streams[c.val]).asm with | none => u | some a => _) = _
      rw [frame, asm]
      dsimp only
      rw [if_neg (by rw [cfg]; exact gaps), if_neg (by rw [whole]; exact Bool.false_ne_true)]
      unfold State.uartEnd
      rw [cfg, counter]

end Uart

/-- Settles O57: frames by what they carry, characters by the port's stream and its frame in progress. -/
theorem ethernetAndUart : Obligations.EthernetAndUart := by
  unfold Obligations.EthernetAndUart
  refine ⟨fun s p b graft2 runs macs up => ?_, fun s p ok b graft2 off => ?_, fun s p up speed runs macs =>
    ethLinkChange_spec p up speed runs macs, fun s id c p b names => uartConfig_spec b p names,
    fun s p samples graft2 runs awake on => ?_, fun s p samples graft2 off => ?_⟩
  · have row := fun ok => ethFrame_next runs macs up ok b graft2
    intro udp fits good
    refine ⟨fun untaken => (row false).trans (congrArg _ (State.ethFrame_badFcs graft2 untaken)),
      fun unfit => ⟨_, row true, State.ethFrame_unfit graft2 unfit⟩,
      fun fit type => ⟨_, row true, State.ethFrame_gptp graft2 fit type⟩, fun fit type none => ⟨_, row true, ?_⟩,
      fun g fit some safe => ⟨_, row true, ?_⟩, fun g fit type some awake untaken => ⟨_, row true, ?_⟩,
      fun g c n a fit some awake context source counter asm same whole more line => ⟨_, row true, ?_⟩⟩
    · rw [State.ethFrame_plain graft2 fit type, show s.ethDatagramOf p b = _ from none] <;> rfl
    · have type : (etherBody b).1 ≠ 0x88F7 := by rw [State.ethDatagramOf_type some]; decide
      rw [State.ethFrame_plain graft2 fit type, show s.ethDatagramOf p b = _ from some]
      exact if_pos safe
    · rw [State.ethFrame_plain graft2 fit type, show s.ethDatagramOf p b = _ from some]
      dsimp only
      rw [if_neg (by rw [awake]; exact Bool.false_ne_true)]
      exact State.ethUdp_untaken graft2 g untaken
    · exact ethFrame_joins fit some awake context source counter asm same whole more line
  · refine next_when_neg ?_
    rcases off with macs | down <;> simp [*]
  · obtain ⟨free, taken⟩ := uartIdleGap_next runs awake on
    exact ⟨uartCharacter_falseStart samples graft2 runs awake on,
      fun low none => uartCharacter_loose graft2 runs awake on low none,
      fun c low context asm waits => uartCharacter_passedOver graft2 runs awake on low context asm waits,
      fun c a low context asm whole => uartCharacter_frame graft2 runs awake on low context asm whole, free, taken⟩
  · constructor
    · refine next_when_neg ?_
      rcases off with safe | disabled <;> simp [*]
    · refine next_when_neg ?_
      rcases off with safe | disabled <;> simp [*]


end Sys2Proof.Machine

/-!
Drift links and cross-checking.
-/

namespace Sys2Proof.Machine

/-! ## DRIFT_CONFIG -/

section Config
variable {s : State} {p : Port4} {node topology x y : Nat}

/-- Every other enabled port has the settings of an enable (R458). -/
def State.driftAlone (s : State) (p : Port4) (node topology x y : Nat) : Prop :=
  ∀ q : Port4, q ≠ p → (s.drift[q.val]).enabled = true → (s.drift[q.val]).nodeId = node
    ∧ (s.drift[q.val]).topology = topology ∧ (s.drift[q.val]).xDim = x ∧ (s.drift[q.val]).yDim = y

/-- Another enabled port has other settings exactly where the check finds one. -/
theorem State.driftOthers_iff (s : State) (p : Port4) (node topology x y : Nat) :
    ((List.finRange 4).filter (fun (q : Port4) => q != p && (s.drift[q.val]).enabled)).any (fun (q : Port4) =>
      let d := s.drift[q.val]
      d.nodeId != node || d.topology != topology || d.xDim != x || d.yDim != y) = true
    ↔ ¬ s.driftAlone p node topology x y := by
  unfold State.driftAlone
  simp only [List.any_eq_true, List.mem_filter, List.mem_finRange, true_and, Bool.and_eq_true, bne_iff_ne,
    Bool.or_eq_true]
  push Not
  constructor
  · rintro ⟨q, ⟨other, on⟩, differs⟩
    exact ⟨q, other, on, by tauto⟩
  · rintro ⟨q, other, on, differs⟩
    exact ⟨q, ⟨other, on⟩, by tauto⟩

/-- A port that the topology does not use, or that has no neighbour there. -/
theorem State.driftConfigBad_port (h : usesPort topology p.val = false
    ∨ dimsOk topology x y = true ∧ node < x * y ∧ neighbourOf topology x y node p.val = none) :
    s.driftConfigBad p node topology x y = some 16 := by
  unfold State.driftConfigBad
  dsimp only
  refine if_pos ?_
  rcases h with unused | ⟨dims, within, none⟩
  · simp [unused]
  · simp [dims, within, none]

/-- A node outside the topology. -/
theorem State.driftConfigBad_node (uses : usesPort topology p.val = true) (dims : dimsOk topology x y = true)
    (outside : x * y ≤ node) : s.driftConfigBad p node topology x y = some 18 := by
  unfold State.driftConfigBad
  dsimp only
  rw [if_neg (by simp [uses, dims, outside]), if_pos (by simp [dims, outside])]

/-- Dimensions outside their range, or a port enabled with other settings. -/
theorem State.driftConfigBad_block (uses : usesPort topology p.val = true) (h : dimsOk topology x y = false
    ∨ dimsOk topology x y = true ∧ node < x * y ∧ (neighbourOf topology x y node p.val).isSome = true
      ∧ ¬ s.driftAlone p node topology x y) :
    s.driftConfigBad p node topology x y = some 0xFFFF := by
  unfold State.driftConfigBad
  dsimp only
  rcases h with dims | ⟨dims, within, neighbour, others⟩
  · rw [if_neg (by simp [uses, dims]), if_neg (by simp [dims]), if_pos (by simp [dims])]
  · have notNone : (neighbourOf topology x y node p.val).isNone = false := by
      rw [← Option.not_isSome, neighbour]
      rfl
    rw [if_neg (by simp [uses, notNone]), if_neg (by simp [within]),
      if_pos (by rw [(s.driftOthers_iff p node topology x y).mpr others, Bool.or_true])]

/-- An enable that meets every check. -/
theorem State.driftConfigBad_none (uses : usesPort topology p.val = true) (dims : dimsOk topology x y = true)
    (within : node < x * y) (neighbour : (neighbourOf topology x y node p.val).isSome = true)
    (alone : s.driftAlone p node topology x y) : s.driftConfigBad p node topology x y = none := by
  unfold State.driftConfigBad
  dsimp only
  have notNone : (neighbourOf topology x y node p.val).isNone = false := by
    rw [← Option.not_isSome, neighbour]
    rfl
  have same : ¬ _ := mt (s.driftOthers_iff p node topology x y).mp (not_not.mpr alone)
  rw [if_neg (by simp [uses, notNone]), if_neg (by simp [within]),
    if_neg (by rw [dims, Bool.eq_false_iff.mpr same]; exact Bool.false_ne_true)]

end Config

/-- The row of DRIFT_CONFIG for a port. -/
theorem driftConfig_next {s : State} {id : Nat} {c : Cmd} {p : Port4} (b : s.Begins id .driftConfig c)
    (names : c.arg 16 1 = p.val) : exec (.driftConfig id) s = .next (
      if c.arg 17 1 % 2 = 0 then
        (s.setDrift p (fun x => { x.retrain with enabled := false, state := .down })).finish id stOk 0 0
      else match s.driftConfigBad p (c.arg 18 2) (c.arg 20 1) (c.arg 21 1) (c.arg 22 1) with
        | some d => s.finish id stBadParam (BitVec.ofNat 16 d) 0
        | none =>
          if (s.drift[p.val]).enabled then
            if (s.drift[p.val]).nodeId = c.arg 18 2 ∧ (s.drift[p.val]).topology = c.arg 20 1
                ∧ (s.drift[p.val]).xDim = c.arg 21 1 ∧ (s.drift[p.val]).yDim = c.arg 22 1 then s.finish id stOk 0 0
            else s.finish id stBusy 8 0
          else (s.setDrift p (fun x => { x.retrain with
            enabled := true, nodeId := c.arg 18 2, topology := c.arg 20 1, xDim := c.arg 21 1, yDim := c.arg 22 1
            })).finish id stOk 0 0) := by
  obtain rfl : Fin.ofNat 4 (c.arg 16 1) = p := by rw [names]; exact Fin.ext (Nat.mod_eq_of_lt p.isLt)
  exact b.next

/-- DRIFT_CONFIG: the checks in their order, and what an accepted one leaves. -/
theorem driftConfig_spec {s : State} {id : Nat} {c : Cmd} {p : Port4} (b : s.Begins id .driftConfig c)
    (names : c.arg 16 1 = p.val) :
    let x := s.drift[p.val]
    let node := c.arg 18 2
    let topology := c.arg 20 1
    let xd := c.arg 21 1
    let yd := c.arg 22 1
    let dims := dimsOk topology xd yd
    let alone := s.driftAlone p node topology xd yd
    let good := usesPort topology p.val = true ∧ dims = true ∧ node < xd * yd
      ∧ (neighbourOf topology xd yd node p.val).isSome = true ∧ alone
    ∃ t, exec (.driftConfig id) s = .next t
      ∧ (c.arg 17 1 % 2 = 0 → Completed s t id c stOk 0 0 ∧ (t.drift[p.val]).enabled = false
          ∧ (t.drift[p.val]).state = .down ∧ ∀ q : Port4, q ≠ p → t.drift[q.val] = s.drift[q.val])
      ∧ (c.arg 17 1 % 2 = 1 → usesPort topology p.val = false → Completed s t id c stBadParam 16 0 ∧ t.drift = s.drift)
      ∧ (c.arg 17 1 % 2 = 1 → usesPort topology p.val = true → dims = true → node < xd * yd →
          neighbourOf topology xd yd node p.val = none → Completed s t id c stBadParam 16 0 ∧ t.drift = s.drift)
      ∧ (c.arg 17 1 % 2 = 1 → usesPort topology p.val = true → dims = true → xd * yd ≤ node →
          Completed s t id c stBadParam 18 0 ∧ t.drift = s.drift)
      ∧ (c.arg 17 1 % 2 = 1 → usesPort topology p.val = true → dims = false →
          Completed s t id c stBadParam 0xFFFF 0 ∧ t.drift = s.drift)
      ∧ (c.arg 17 1 % 2 = 1 → usesPort topology p.val = true → dims = true → node < xd * yd →
          (neighbourOf topology xd yd node p.val).isSome = true → ¬ alone →
          Completed s t id c stBadParam 0xFFFF 0 ∧ t.drift = s.drift)
      ∧ (c.arg 17 1 % 2 = 1 → good → x.enabled = true →
          ¬ (x.nodeId = node ∧ x.topology = topology ∧ x.xDim = xd ∧ x.yDim = yd) →
          Completed s t id c stBusy 8 0 ∧ t.drift = s.drift)
      ∧ (c.arg 17 1 % 2 = 1 → good → x.enabled = false → Completed s t id c stOk 0 0
          ∧ (t.drift[p.val]).enabled = true ∧ (t.drift[p.val]).state = .training ∧ (t.drift[p.val]).nodeId = node
          ∧ (t.drift[p.val]).topology = topology ∧ (t.drift[p.val]).xDim = xd ∧ (t.drift[p.val]).yDim = yd
          ∧ ∀ q : Port4, q ≠ p → t.drift[q.val] = s.drift[q.val]) := by
  intro x node topology xd yd dims alone good
  have enable : c.arg 17 1 % 2 = 1 → ¬ c.arg 17 1 % 2 = 0 := by omega
  refine ⟨_, driftConfig_next b names, fun disable => ?_, fun on unused => ?_, fun on uses ok within none => ?_,
    fun on uses ok outside => ?_, fun on uses bad => ?_, fun on uses ok within neighbour others => ?_,
    fun on accepted enabled differs => ?_, fun on accepted fresh => ?_⟩
  · rw [if_pos disable]
    let off : DriftPort → DriftPort := fun x => { x.retrain with enabled := false, state := .down }
    have port := State.setDrift_at s p off
    exact ⟨b.done rfl, congrArg DriftPort.enabled port, congrArg DriftPort.state port,
      fun q n => State.setDrift_ne s p q n off⟩
  · rw [if_neg (enable on), State.driftConfigBad_port (.inl unused)]
    exact ⟨b.done rfl, rfl⟩
  · rw [if_neg (enable on), State.driftConfigBad_port (.inr ⟨ok, within, none⟩)]
    exact ⟨b.done rfl, rfl⟩
  · rw [if_neg (enable on), State.driftConfigBad_node uses ok outside]
    exact ⟨b.done rfl, rfl⟩
  · rw [if_neg (enable on), State.driftConfigBad_block uses (.inl bad)]
    exact ⟨b.done rfl, rfl⟩
  · rw [if_neg (enable on), State.driftConfigBad_block uses (.inr ⟨ok, within, neighbour, others⟩)]
    exact ⟨b.done rfl, rfl⟩
  · obtain ⟨uses, ok, within, neighbour, same⟩ := accepted
    rw [if_neg (enable on), State.driftConfigBad_none uses ok within neighbour same]
    dsimp only
    rw [if_pos enabled, if_neg differs]
    exact ⟨b.done rfl, rfl⟩
  · obtain ⟨uses, ok, within, neighbour, same⟩ := accepted
    rw [if_neg (enable on), State.driftConfigBad_none uses ok within neighbour same]
    dsimp only
    rw [if_neg (by rw [show (s.drift[p.val]).enabled = false from fresh]; exact Bool.false_ne_true)]
    let set : DriftPort → DriftPort := fun x => { x.retrain with
      enabled := true, nodeId := node, topology := topology, xDim := xd, yDim := yd }
    have port := State.setDrift_at s p set
    exact ⟨b.done rfl, congrArg DriftPort.enabled port, congrArg DriftPort.state port, congrArg DriftPort.nodeId port,
      congrArg DriftPort.topology port, congrArg DriftPort.xDim port, congrArg DriftPort.yDim port,
      fun q n => State.setDrift_ne s p q n set⟩

/-! ## CROSSCHECK_CONFIG -/

/-- The row of CROSSCHECK_CONFIG for a port. -/
theorem crosscheckConfig_next {s : State} {id : Nat} {c : Cmd} {p : Port4} (b : s.Begins id .crosscheckConfig c)
    (names : c.arg 16 1 = p.val) : exec (.crosscheckConfig id) s = .next (
      if c.arg 17 1 = 0 then ({ s with xc := { s.xc with port := none, held := [] } } : State).finish id stOk 0 0
      else if (s.drift[p.val]).enabled = false then s.finish id stBadParam 16 0
      else if c.arg 18 2 = (s.drift[p.val]).nodeId ∨ (s.drift[p.val]).xDim * (s.drift[p.val]).yDim ≤ c.arg 18 2 then
        s.finish id stBadParam 18 0
      else if s.xc.port.isSome ∧ s.xc.port ≠ some p then s.finish id stNoResource 8 0
      else ({ s with xc := { s.xc with port := some p, peer := c.arg 18 2 } } : State).finish id stOk 0 0) := by
  obtain rfl : Fin.ofNat 4 (c.arg 16 1) = p := by rw [names]; exact Fin.ext (Nat.mod_eq_of_lt p.isLt)
  exact b.next

/-- CROSSCHECK_CONFIG: the checks in their order, the end of cross-checking and its start. -/
theorem crosscheckConfig_spec {s : State} {id : Nat} {c : Cmd} {p : Port4} (b : s.Begins id .crosscheckConfig c)
    (names : c.arg 16 1 = p.val) :
    let x := s.drift[p.val]
    let peer := c.arg 18 2
    ∃ t, exec (.crosscheckConfig id) s = .next t
      ∧ (c.arg 17 1 = 0 → Completed s t id c stOk 0 0 ∧ (s.xc.port = some p → t.xc.port = none ∧ t.xc.held = []))
      ∧ (c.arg 17 1 ≠ 0 → x.enabled = false → Completed s t id c stBadParam 16 0 ∧ t.xc = s.xc)
      ∧ (c.arg 17 1 ≠ 0 → x.enabled = true → (peer = x.nodeId ∨ x.xDim * x.yDim ≤ peer) →
          Completed s t id c stBadParam 18 0 ∧ t.xc = s.xc)
      ∧ (∀ q, c.arg 17 1 ≠ 0 → x.enabled = true → peer ≠ x.nodeId → peer < x.xDim * x.yDim → s.xc.port = some q →
          q ≠ p → Completed s t id c stNoResource 8 0 ∧ t.xc = s.xc)
      ∧ (c.arg 17 1 ≠ 0 → x.enabled = true → peer ≠ x.nodeId → peer < x.xDim * x.yDim →
          (s.xc.port = none ∨ s.xc.port = some p) →
          Completed s t id c stOk 0 0 ∧ t.xc = { s.xc with port := some p, peer := peer }) := by
  intro x peer
  refine ⟨_, crosscheckConfig_next b names, fun off => ?_, fun on disabled => ?_, fun on enabled bad => ?_,
    fun q on enabled other within taken differs => ?_, fun on enabled other within free => ?_⟩
  · rw [if_pos off]
    exact ⟨b.done rfl, fun _ => ⟨rfl, rfl⟩⟩
  · rw [if_neg on, if_pos disabled]
    exact ⟨b.done rfl, rfl⟩
  · rw [if_neg on, if_neg (Bool.not_eq_false _ ▸ enabled), if_pos bad]
    exact ⟨b.done rfl, rfl⟩
  · rw [if_neg on, if_neg (Bool.not_eq_false _ ▸ enabled), if_neg (not_or.mpr ⟨other, Nat.not_le.mpr within⟩),
      if_pos ⟨by rw [taken]; rfl, by rw [taken]; simpa using differs⟩]
    exact ⟨b.done rfl, rfl⟩
  · rw [if_neg on, if_neg (Bool.not_eq_false _ ▸ enabled), if_neg (not_or.mpr ⟨other, Nat.not_le.mpr within⟩),
      if_neg (by rcases free with none | same <;> simp [*])]
    exact ⟨b.done rfl, rfl⟩

/-! ## Packets -/

section Packet
variable {s : State} {p : Port4} {d : DriftIn}

/-- A LACK as it goes onto a port's wire (R456). -/
def DriftPort.lack (x : DriftPort) (p : Port4) (n : BitVec 16) (nak : Nat) : Sent :=
  .drift p (driftBytes x.neighbour typeLack x.nodeId 0 (leBytes 4 (n.toNat + nak * 2 ^ 31)))

/-- A LACK is sent, and counted among the packets sent alone. -/
theorem State.driftLack_facts (s : State) (p : Port4) (n : BitVec 16) (nak : Bool) :
    (s.driftLack p n nak).sent = (s.drift[p.val]).lack p n nak.toNat :: s.sent
    ∧ (s.driftLack p n nak).drift[p.val] = { s.drift[p.val] with sent := satAdd 64 (s.drift[p.val]).sent 1 }
    ∧ (s.driftLack p n nak).xc = s.xc
    ∧ ∀ q : Port4, q ≠ p → (s.driftLack p n nak).drift[q.val] = s.drift[q.val] :=
  ⟨rfl, State.setDrift_at s p (fun x => { x with sent := satAdd 64 x.sent 1 }), rfl,
    fun q other => State.setDrift_ne s p q other (fun x => { x with sent := satAdd 64 x.sent 1 })⟩

/-- A port that has received one packet more. -/
def State.driftReceived (s : State) (p : Port4) : State :=
  s.setDrift p (fun x => { x with received := satAdd 64 x.received 1 })

theorem State.driftReceived_at (s : State) (p : Port4) : (s.driftReceived p).drift[p.val]
    = { s.drift[p.val] with received := satAdd 64 (s.drift[p.val]).received 1 } := State.setDrift_at _ _ _

/-- A packet in sequence has been received and acknowledged (R456). -/
def State.driftTaken (s : State) (p : Port4) (d : DriftIn) : State :=
  ((s.driftReceived p).setDrift p (fun x => { x with rxSeq := x.rxSeq + 1 })).driftLack p d.lseq false

theorem State.driftTaken_facts (s : State) (p : Port4) (d : DriftIn) :
    (s.driftTaken p d).sent = (s.drift[p.val]).lack p d.lseq 0 :: s.sent
    ∧ (s.driftTaken p d).drift[p.val] = { s.drift[p.val] with
        received := satAdd 64 (s.drift[p.val]).received 1, rxSeq := (s.drift[p.val]).rxSeq + 1
        sent := satAdd 64 (s.drift[p.val]).sent 1 }
    ∧ (s.driftTaken p d).xc = s.xc ∧ ∀ q : Port4, q ≠ p → (s.driftTaken p d).drift[q.val] = s.drift[q.val] := by
  unfold State.driftTaken
  generalize hu : (s.driftReceived p).setDrift p (fun x => { x with rxSeq := x.rxSeq + 1 }) = u
  have port : u.drift[p.val] = { s.drift[p.val] with
      received := satAdd 64 (s.drift[p.val]).received 1, rxSeq := (s.drift[p.val]).rxSeq + 1 } := by
    rw [← hu, State.setDrift_at, State.driftReceived_at]
  have sentBefore : u.sent = s.sent := by rw [← hu]; rfl
  have xcBefore : u.xc = s.xc := by rw [← hu]; rfl
  obtain ⟨sent, own, xc, others⟩ := u.driftLack_facts p d.lseq false
  refine ⟨?_, by rw [own, port], by rw [xc, xcBefore], fun q n => ?_⟩
  · rw [sent, port, sentBefore]
    rfl
  · rw [others q n, ← hu, State.setDrift_ne _ _ _ n, State.driftReceived, State.setDrift_ne _ _ _ n]

/-- A packet arrives on an enabled port whose lanes have trained. -/
theorem driftPacket_next (runs : s.rootRuns = true) (enabled : (s.drift[p.val]).enabled = true)
    (lanes : (s.drift[p.val]).lanes = true) (b : Bytes) : exec (.driftPacket p b) s = .next (match parseDrift b with
      | none => (s.setDrift p (fun x => { x with crcErrors := satAdd 32 x.crcErrors 1 })).driftLack p
          (s.drift[p.val]).rxSeq true
      | some d =>
        if d.type = typeLack then
          (s.driftReceived p).driftLacked p (BitVec.ofNat 16 (leNat d.payload 0 2)) (byteAt d.payload 3).msb
        else if d.lseq = (s.drift[p.val]).rxSeq then (s.driftTaken p d).driftAct p d
        else (s.driftReceived p).driftLack p ((s.drift[p.val]).rxSeq - 1) false) :=
  (next_when_pos (by simp [runs, enabled, lanes])).trans rfl

/-- A LINK packet comes from the port's neighbour, of the same topology, by the opposite port (R459). -/
def DriftPort.linkGood (x : DriftPort) (p : Port4) (b : Bytes) : Bool :=
  neighbourOf x.topology x.xDim x.yDim x.nodeId p.val == some (leNat b 0 2)
    && leNat b 2 1 == x.topology && leNat b 3 1 == x.xDim && leNat b 4 1 == x.yDim && leNat b 5 1 == oppositePort p.val

/-- A LINK packet: the neighbour it names, and whether it is the right one (R459). -/
theorem State.driftLink_at (u : State) (p : Port4) (b : Bytes) :
    (u.driftLink p b).drift[p.val] = { u.drift[p.val] with
      neighbour := leNat b 0 2
      state := if (u.drift[p.val]).linkGood p b then .up else .miswired
      lastUp := if (u.drift[p.val]).linkGood p b = true ∧ (u.drift[p.val]).state ≠ .up then u.now
        else (u.drift[p.val]).lastUp } := by
  unfold State.driftLink
  dsimp only
  rw [State.setDrift_at]
  rfl

/-- The state that a LINK packet leaves (R459). -/
theorem State.driftLink_state (u : State) (p : Port4) (b : Bytes) :
    let x := u.drift[p.val]
    let t := u.driftLink p b
    ((t.drift[p.val]).state = .up ↔
        neighbourOf x.topology x.xDim x.yDim x.nodeId p.val = some (leNat b 0 2)
        ∧ leNat b 2 1 = x.topology ∧ leNat b 3 1 = x.xDim ∧ leNat b 4 1 = x.yDim ∧ leNat b 5 1 = oppositePort p.val)
      ∧ ((t.drift[p.val]).state ≠ .up → (t.drift[p.val]).state = .miswired) := by
  dsimp only
  rw [State.driftLink_at]
  dsimp only
  constructor
  · simp only [DriftPort.linkGood, Bool.and_eq_true, beq_iff_eq, ite_eq_left_iff, reduceCtorEq, imp_false, not_not,
      and_assoc]
  · split
    · exact fun h => absurd rfl h
    · exact fun _ => rfl

/-- A digest record for this node that is found among the held ones (R470). -/
theorem State.driftDigest_facts {u : State} {m : Digest} (on : u.xc.port.isSome = true) (peer : d.src = u.xc.peer)
    (held : u.xc.held.find? (fun h => h.mine && h.ctx == leNat d.payload 0 1
      && h.counter == BitVec.ofNat 32 (leNat d.payload 4 4)) = some m) :
    (m.valid = false ∨ leNat d.payload 1 1 % 2 = 0 →
      (u.driftDigest d).xc = { u.xc with held := u.xc.held.erase m, skipped := satAdd 32 u.xc.skipped 1 })
    ∧ (m.valid = true → leNat d.payload 1 1 % 2 = 1 → m.digest = BitVec.ofNat 32 (leNat d.payload 16 4) →
      (u.driftDigest d).xc = { u.xc with held := u.xc.held.erase m, matched := satAdd 32 u.xc.matched 1 }) := by
  let theirs : Digest :=
    { mine := false, ctx := leNat d.payload 0 1, counter := BitVec.ofNat 32 (leNat d.payload 4 4)
      valid := leNat d.payload 1 1 % 2 == 1, digest := BitVec.ofNat 32 (leNat d.payload 16 4) }
  have row : u.driftDigest d = u.xcRecord theirs := if_pos ⟨on, peer⟩
  have mate : u.xc.held.find? (fun x => x.mine != theirs.mine && x.ctx == theirs.ctx && x.counter == theirs.counter)
      = some m := by
    simpa only [theirs, Bool.bne_false] using held
  rw [row]
  refine ⟨fun invalid => State.xcRecord_skips u theirs m mate ?_, fun mine valid same => ?_⟩
  · rintro ⟨mine, valid⟩
    have odd : leNat d.payload 1 1 % 2 = 1 := by simpa [theirs] using valid
    rcases invalid with invalid | even
    · rw [mine] at invalid
      cases invalid
    · omega
  · exact State.xcRecord_matches u theirs m mate ⟨mine, by simp [theirs, valid]⟩ same

/-- Packets that go onto the wire leave the port's state but for the count of those sent. -/
theorem State.driftWireAll_at (u : State) (p : Port4) (l : List (BitVec 16 × Bytes)) :
    ∃ n, (u.driftWireAll p l).drift[p.val] = { u.drift[p.val] with sent := n } := by
  obtain ⟨n, w, wired⟩ := u.driftWireAll_facts p l
  rw [wired]
  exact ⟨n, State.setDrift_at u p (fun x => { x with sent := n })⟩

/-- A LACK that is no NAK frees the buffer up to its packet. -/
theorem State.driftLacked_ack (u : State) (p : Port4) (n : BitVec 16) :
    ((u.driftLacked p n false).drift[p.val]).txBuf = (u.drift[p.val]).acked n := by
  unfold State.driftLacked
  dsimp only
  rw [if_neg Bool.false_ne_true]
  generalize hv : u.setDrift p _ = v
  obtain ⟨k, port⟩ := v.driftWireAll_at p
    ((((u.drift[p.val]).acked n).take driftWindow).drop
      (driftWindow - ((u.drift[p.val]).txBuf.length - ((u.drift[p.val]).acked n).length)))
  rw [port, ← hv, State.setDrift_at]

/-- A NAK of the oldest packet finds nothing acknowledged before it. -/
theorem DriftPort.acked_before (x : DriftPort) (n : BitVec 16) (e : Bytes) (r : List (BitVec 16 × Bytes))
    (buffer : x.txBuf = (n, e) :: r) (room : r.length < 65535) : x.acked (n - 1) = x.txBuf := by
  unfold DriftPort.acked
  rw [buffer]
  dsimp only
  refine if_neg ?_
  have ahead : seqAhead (n - 1) n = 65535 := by
    unfold seqAhead
    rw [show n - 1 - n = -1 by ring]
    rfl
  rw [ahead, List.length_cons]
  omega

/-- A NAK of the oldest packet: sent again, the ninth time in a row the link is lost. -/
theorem State.driftLacked_nak {u : State} {n : BitVec 16} {e : Bytes} {r : List (BitVec 16 × Bytes)}
    (buffer : (u.drift[p.val]).txBuf = (n, e) :: r) (room : r.length < 65535) :
    let x := u.drift[p.val]
    let t := u.driftLacked p n true
    (8 ≤ x.retryRun → (t.drift[p.val]).state = .training ∧ (t.drift[p.val]).txBuf = []
      ∧ (t.drift[p.val]).linkDowns = satAdd 16 x.linkDowns 1)
    ∧ (x.retryRun < 8 → (t.drift[p.val]).txBuf = x.txBuf ∧ (t.drift[p.val]).retryRun = x.retryRun + 1
      ∧ (t.drift[p.val]).retries = satAdd 32 x.retries 1 ∧ (t.drift[p.val]).state = x.state) := by
  intro x t
  have acked := DriftPort.acked_before x n e r buffer room
  have made : t = if 8 < x.retryRun + 1 then u.setDrift p DriftPort.lose
      else (u.setDrift p (fun y => { y with txBuf := x.txBuf, retryRun := x.retryRun + 1
                                            retries := satAdd 32 y.retries 1 })).driftWireAll p (x.txBuf.take driftWindow) := by
    change u.driftLacked p n true = _
    unfold State.driftLacked
    dsimp only
    rw [if_pos rfl, acked]
    have again : (match x.txBuf with | (first, _) :: _ => first == n | [] => false) = true := by
      rw [buffer]
      exact beq_self_eq_true n
    have stale : ¬ x.txBuf.length < (u.drift[p.val]).txBuf.length := Nat.lt_irrefl _
    refine (if_neg ?_).trans ?_
    · exact fun h => Bool.false_ne_true ((congrArg not again).symm.trans h)
    · rw [if_neg stale]
  rw [made]
  refine ⟨fun many => ?_, fun few => ?_⟩
  · rw [if_pos (by omega), State.setDrift_at]
    exact ⟨rfl, rfl, rfl⟩
  · rw [if_neg (by omega)]
    generalize hv : u.setDrift p _ = v
    obtain ⟨k, port⟩ := v.driftWireAll_at p (x.txBuf.take driftWindow)
    rw [port, ← hv, State.setDrift_at]
    exact ⟨rfl, rfl, rfl, rfl⟩

/-- A packet whose CRC is wrong: counted and NAKed. -/
theorem driftPacket_badCrc (runs : s.rootRuns = true) (enabled : (s.drift[p.val]).enabled = true)
    (lanes : (s.drift[p.val]).lanes = true) {b : Bytes} (bad : parseDrift b = none) :
    ∃ t, exec (.driftPacket p b) s = .next t
      ∧ (t.drift[p.val]).crcErrors = satAdd 32 (s.drift[p.val]).crcErrors 1
      ∧ (t.drift[p.val]).rxSeq = (s.drift[p.val]).rxSeq
      ∧ t.sent = (s.drift[p.val]).lack p (s.drift[p.val]).rxSeq 1 :: s.sent := by
  refine ⟨_, driftPacket_next runs enabled lanes b, ?_⟩
  rw [bad]
  dsimp only
  generalize hu : s.setDrift p (fun x => { x with crcErrors := satAdd 32 x.crcErrors 1 }) = u
  have port : u.drift[p.val] = { s.drift[p.val] with crcErrors := satAdd 32 (s.drift[p.val]).crcErrors 1 } := by
    rw [← hu, State.setDrift_at]
  have before : u.sent = s.sent := by rw [← hu, State.setDrift_sent]
  obtain ⟨sent, own, -, -⟩ := u.driftLack_facts p (s.drift[p.val]).rxSeq true
  rw [own, port, sent, port, before]
  exact ⟨rfl, rfl, rfl⟩

/-- A packet out of sequence: the last one in sequence is acknowledged again. -/
theorem State.driftAgain_facts (s : State) (p : Port4) :
    let t := (s.driftReceived p).driftLack p ((s.drift[p.val]).rxSeq - 1) false
    (t.drift[p.val]).rxSeq = (s.drift[p.val]).rxSeq
    ∧ (t.drift[p.val]).received = satAdd 64 (s.drift[p.val]).received 1
    ∧ t.sent = (s.drift[p.val]).lack p ((s.drift[p.val]).rxSeq - 1) 0 :: s.sent := by
  intro t
  obtain ⟨sent, own, -, -⟩ := (s.driftReceived p).driftLack_facts p ((s.drift[p.val]).rxSeq - 1) false
  have port := s.driftReceived_at p
  refine ⟨?_, ?_, ?_⟩
  · rw [own, port]
  · rw [own, port]
  · rw [sent, port]
    rfl

/-- A LINK packet in sequence. -/
theorem State.driftTaken_link (s : State) (p : Port4) (link : d.type = typeLink) :
    let x := s.drift[p.val]
    let t := (s.driftTaken p d).driftAct p d
    (t.drift[p.val]).rxSeq = x.rxSeq + 1 ∧ (t.drift[p.val]).neighbour = leNat d.payload 0 2
    ∧ t.sent = x.lack p d.lseq 0 :: s.sent
    ∧ ((t.drift[p.val]).state = .up ↔
        neighbourOf x.topology x.xDim x.yDim x.nodeId p.val = some (leNat d.payload 0 2)
        ∧ leNat d.payload 2 1 = x.topology ∧ leNat d.payload 3 1 = x.xDim ∧ leNat d.payload 4 1 = x.yDim
        ∧ leNat d.payload 5 1 = oppositePort p.val)
    ∧ ((t.drift[p.val]).state ≠ .up → (t.drift[p.val]).state = .miswired) := by
  intro x t
  obtain ⟨sent, port, -, -⟩ := s.driftTaken_facts p d
  have made : t = (s.driftTaken p d).driftLink p d.payload := if_pos link
  have linked := (s.driftTaken p d).driftLink_at p d.payload
  have state := (s.driftTaken p d).driftLink_state p d.payload
  rw [made]
  refine ⟨?_, ?_, sent, ?_⟩
  · rw [linked, port]
  · rw [linked]
  · rw [port] at state
    exact state

/-- A DIGEST packet in sequence on a port that is not up is acknowledged alone. -/
theorem State.driftTaken_idle {t : State} (digest : d.type = typeDigest) (idle : (t.drift[p.val]).state ≠ .up) :
    t.driftAct p d = t := by
  unfold State.driftAct
  dsimp only
  rw [if_neg (by rw [digest]; decide), if_neg (fun h => idle h.2)]

/-- A DIGEST packet in sequence on a port that is up: for this node, or on its way. -/
theorem State.driftAct_digest {t : State} (digest : d.type = typeDigest) (up : (t.drift[p.val]).state = .up) :
    t.driftAct p d = if d.dest = (t.drift[p.val]).nodeId then t.driftDigest d
      else t.driftRoute p d.dest typeDigest d.src d.payload := by
  unfold State.driftAct
  dsimp only
  rw [if_neg (by rw [digest]; decide), if_pos ⟨digest, up⟩, digest]

/-- A DIGEST packet in sequence, by the port's state, its destination and the way there. -/
theorem State.driftTaken_digest (s : State) (p : Port4) (digest : d.type = typeDigest) :
    let x := s.drift[p.val]
    let t := (s.driftTaken p d).driftAct p d
    (x.state ≠ .up → t.sent = x.lack p d.lseq 0 :: s.sent ∧ t.xc = s.xc)
    ∧ (x.state = .up → d.dest ≠ x.nodeId → x.xDim * x.yDim ≤ d.dest →
        (t.drift[p.val]).dropped = satAdd 32 x.dropped 1 ∧ t.sent = x.lack p d.lseq 0 :: s.sent ∧ t.xc = s.xc)
    ∧ (∀ q : Port4, x.state = .up → d.dest ≠ x.nodeId → d.dest < x.xDim * x.yDim →
        routePort x.topology x.xDim x.yDim x.nodeId d.dest = q → q ≠ p →
        (s.drift[q.val]).state = .up → (s.drift[q.val]).txBuf.length < 64 →
        t.sent = .drift q (driftBytes d.dest typeDigest d.src (s.drift[q.val]).txSeq d.payload)
          :: x.lack p d.lseq 0 :: s.sent
        ∧ (t.drift[q.val]).txSeq = (s.drift[q.val]).txSeq + 1)
    ∧ (x.state = .up → d.dest = x.nodeId → t = (s.driftTaken p d).driftDigest d) := by
  intro x t
  obtain ⟨sent, port, xc, others⟩ := s.driftTaken_facts p d
  have made : t = (s.driftTaken p d).driftAct p d := rfl
  generalize s.driftTaken p d = u at made sent port xc others
  have up (h : x.state = .up) : (u.drift[p.val]).state = .up := by rw [port]; exact h
  have node : (u.drift[p.val]).nodeId = x.nodeId := by rw [port]
  refine ⟨fun idle => ?_, fun isUp away outside => ?_, fun q isUp away inside way differs qUp room => ?_, fun isUp here => ?_⟩
  · rw [made, State.driftTaken_idle digest (by rw [port]; exact idle)]
    exact ⟨sent, xc⟩
  · rw [made, State.driftAct_digest digest (up isUp), if_neg (by rw [node]; exact away),
      State.driftRoute_outside _ _ _ _ _ _ (by rw [port]; exact outside), State.setDrift_at, port]
    exact ⟨rfl, sent, xc⟩
  · have routed := State.driftRoute_forwards u p q d.dest typeDigest d.src d.payload (by rw [port]; exact inside)
      (by rw [port]; exact way) (by rw [others q differs]; exact qUp) (by rw [others q differs]; exact room)
    rw [others q differs, sent] at routed
    rw [made, State.driftAct_digest digest (up isUp), if_neg (by rw [node]; exact away)]
    exact routed
  · rw [made, State.driftAct_digest digest (up isUp), if_pos (by rw [node]; exact here)]

/-- A LACK, which is acted on at once (R456). -/
theorem State.driftReceived_lacked (s : State) (p : Port4) (n : BitVec 16) :
    let x := s.drift[p.val]
    (((s.driftReceived p).driftLacked p n false).drift[p.val]).txBuf = x.acked n
    ∧ (∀ e r, x.txBuf = (n, e) :: r → r.length < 65535 →
      let t := (s.driftReceived p).driftLacked p n true
      (8 ≤ x.retryRun → (t.drift[p.val]).state = .training ∧ (t.drift[p.val]).txBuf = []
        ∧ (t.drift[p.val]).linkDowns = satAdd 16 x.linkDowns 1)
      ∧ (x.retryRun < 8 → (t.drift[p.val]).txBuf = x.txBuf ∧ (t.drift[p.val]).retryRun = x.retryRun + 1
        ∧ (t.drift[p.val]).retries = satAdd 32 x.retries 1 ∧ (t.drift[p.val]).state = x.state)) := by
  intro x
  have port := s.driftReceived_at p
  constructor
  · rw [State.driftLacked_ack, port]
    rfl
  · intro e r buffer room
    have nak := State.driftLacked_nak (u := s.driftReceived p) (p := p) (n := n) (e := e) (r := r)
      (by rw [port]; exact buffer) room
    rw [port] at nak
    exact nak

/-- A packet whose CRC is right, by its TYPE and its place in the sequence. -/
theorem driftPacket_spec (runs : s.rootRuns = true) (enabled : (s.drift[p.val]).enabled = true)
    (lanes : (s.drift[p.val]).lanes = true) (b : Bytes) (parsed : parseDrift b = some d) :
    ∃ t, exec (.driftPacket p b) s = .next t
      ∧ (d.type = typeLack →
          t = (s.driftReceived p).driftLacked p (BitVec.ofNat 16 (leNat d.payload 0 2)) (byteAt d.payload 3).msb)
      ∧ (d.type ≠ typeLack → d.lseq = (s.drift[p.val]).rxSeq → t = (s.driftTaken p d).driftAct p d)
      ∧ (d.type ≠ typeLack → d.lseq ≠ (s.drift[p.val]).rxSeq →
          t = (s.driftReceived p).driftLack p ((s.drift[p.val]).rxSeq - 1) false) := by
  refine ⟨_, driftPacket_next runs enabled lanes b, ?_⟩
  rw [parsed]
  exact ⟨fun lack => if_pos lack, fun other next => (if_neg other).trans (if_pos next),
    fun other out => (if_neg other).trans (if_neg out)⟩

end Packet

/-! ## Links, training and unmatched records -/

section Link
variable {s : State} {p : Port4}

/-- A sequenced packet for which the buffer has room goes onto the wire at once (R456). -/
theorem State.driftSend_room (u : State) (p : Port4) (dest type src : Nat) (payload : Bytes)
    (room : (u.drift[p.val]).txBuf.length < 64) :
    (u.driftSend p dest type src payload).sent
      = .drift p (driftBytes dest type src (u.drift[p.val]).txSeq payload) :: u.sent
    ∧ ((u.driftSend p dest type src payload).drift[p.val]).state = (u.drift[p.val]).state
    ∧ ((u.driftSend p dest type src payload).drift[p.val]).lanes = (u.drift[p.val]).lanes := by
  unfold State.driftSend
  dsimp only
  rw [if_pos (show (u.drift[p.val]).txBuf.length < driftWindow from room), State.driftWire_drift,
    State.driftWire_sent, State.setDrift_twice, State.setDrift_at, State.setDrift_sent]
  exact ⟨rfl, rfl, rfl⟩

/-- The lanes have trained: the port announces itself (R459). -/
theorem driftLinkChange_up (runs : s.rootRuns = true) (enabled : (s.drift[p.val]).enabled = true)
    (lanes : (s.drift[p.val]).lanes = false) : ∃ t, exec (.driftLinkChange p true) s = .next t
      ∧ (t.drift[p.val]).lanes = true ∧ (t.drift[p.val]).state = .training
      ∧ t.sent = .drift p (driftBytes 0xFFF typeLink (s.drift[p.val]).nodeId 0 (linkPayload (s.drift[p.val]) p.val))
          :: s.sent := by
  refine ⟨_, next_when_pos (by simp [runs, enabled, lanes]), ?_⟩
  rw [if_pos rfl]
  generalize hu : s.setDrift p (fun x => { x.retrain with lanes := true }) = u
  have port : u.drift[p.val] = { (s.drift[p.val]).retrain with lanes := true } := by rw [← hu, State.setDrift_at]
  have before : u.sent = s.sent := by rw [← hu, State.setDrift_sent]
  obtain ⟨sent, state, lanes⟩ := u.driftSend_room p 0xFFF typeLink (s.drift[p.val]).nodeId
    (linkPayload (s.drift[p.val]) p.val) (by rw [port]; exact Nat.zero_lt_succ 63)
  rw [port] at sent state lanes
  rw [before] at sent
  exact ⟨lanes, state, sent⟩

/-- A trained link is lost. -/
theorem driftLinkChange_down (runs : s.rootRuns = true) (enabled : (s.drift[p.val]).enabled = true)
    (lanes : (s.drift[p.val]).lanes = true) : ∃ t, exec (.driftLinkChange p false) s = .next t
      ∧ (t.drift[p.val]).state = .training ∧ (t.drift[p.val]).lanes = false
      ∧ (t.drift[p.val]).linkDowns
        = (if (s.drift[p.val]).state = .up then satAdd 16 (s.drift[p.val]).linkDowns 1 else (s.drift[p.val]).linkDowns)
      ∧ ∀ q : Port4, q ≠ p → t.drift[q.val] = s.drift[q.val] := by
  refine ⟨_, next_when_pos (by simp [runs, enabled, lanes]), ?_⟩
  rw [if_neg Bool.false_ne_true, State.setDrift_at]
  by_cases up : (s.drift[p.val]).state = .up
  · rw [if_pos up, if_pos up]
    exact ⟨rfl, rfl, rfl, fun q n => State.setDrift_ne _ _ _ n _⟩
  · rw [if_neg up, if_neg up]
    exact ⟨rfl, rfl, rfl, fun q n => State.setDrift_ne _ _ _ n _⟩

/-- A port that is not up trains again. -/
theorem driftTrainingRetry_spec (runs : s.rootRuns = true) (enabled : (s.drift[p.val]).enabled = true)
    (idle : (s.drift[p.val]).state ≠ .up) : ∃ t, exec (.driftTrainingRetry p) s = .next t
      ∧ (t.drift[p.val]).state = .training ∧ (t.drift[p.val]).linkDowns = (s.drift[p.val]).linkDowns
      ∧ ∀ q : Port4, q ≠ p → t.drift[q.val] = s.drift[q.val] := by
  refine ⟨_, next_when_pos (by simp [runs, enabled, idle]), ?_⟩
  rw [State.setDrift_at]
  exact ⟨rfl, rfl, fun q n => State.setDrift_ne _ _ _ n _⟩

/-- A record that stays unmatched is counted and raised (R470). -/
theorem xcUnmatchedTimeout_spec {c : CtxId} {n : BitVec 32} {d : Digest} (runs : s.rootRuns = true)
    (on : s.xc.port = some p) (held : s.xc.held.find? (fun d => d.ctx == c.val && d.counter == n) = some d) :
    exec (.xcUnmatchedTimeout c n) s = .next (({ s with xc := { s.xc with
        held := s.xc.held.erase d, missing := satAdd 32 s.xc.missing 1 } } : State).raise
      { source := 0x660 + p.val, event := .crosscheckMismatch,
        owner := if (s.streams[c.val]).isOpen then some (s.streams[c.val]).owner else none, class2 := true }) := by
  refine (next_when_pos runs).trans ?_
  rw [held]
  dsimp only
  unfold State.xcMissing State.xcMismatch
  dsimp only
  rw [on]
  dsimp only
  have stream : s.streams.toList.getD c.val {} = s.streams[c.val] := by simp
  rw [stream]

end Link

/-- Settles O58: the commands by the order of their checks, packets by their TYPE and place, links by their port. -/
theorem driftLinks : Obligations.DriftLinks := by
  unfold Obligations.DriftLinks
  refine ⟨fun s id c p b names => driftConfig_spec b names, fun s id c p b names => crosscheckConfig_spec b names,
    fun s p b runs => ?_, fun s p runs => ?_, fun s c n p d runs on held => xcUnmatchedTimeout_spec runs on held⟩
  · intro x lack enabled lanes
    cases parsed : parseDrift b with
    | none =>
      obtain ⟨t, row, facts⟩ := driftPacket_badCrc runs enabled lanes parsed
      exact ⟨t, row, fun _ => facts, nofun⟩
    | some d =>
      obtain ⟨t, row, isLack, inOrder, out⟩ := driftPacket_spec runs enabled lanes b parsed
      refine ⟨t, row, nofun, fun e same => ?_⟩
      obtain rfl : d = e := Option.some.inj same
      have digestOther (h : d.type = typeDigest) : d.type ≠ typeLack := by rw [h]; decide
      refine ⟨fun other differs => ?_, fun link next => ?_, fun digest next idle => ?_,
        fun digest next up away outside => ?_, fun q digest next up away inside way differs qUp room => ?_,
        fun m digest next up here on peer held => ?_, fun ack plain => ?_, fun e r nak msb buffer room => ?_⟩
      · rw [out other differs]
        exact s.driftAgain_facts p
      · rw [inOrder (by rw [link]; decide) next]
        exact s.driftTaken_link p link
      · rw [inOrder (digestOther digest) next]
        obtain ⟨alone, -, -, -⟩ := s.driftTaken_digest p digest
        exact alone idle
      · rw [inOrder (digestOther digest) next]
        obtain ⟨-, dropped, -, -⟩ := s.driftTaken_digest p digest
        exact dropped up away outside
      · rw [inOrder (digestOther digest) next]
        obtain ⟨-, -, forwarded, -⟩ := s.driftTaken_digest p digest
        exact forwarded q up away inside way differs qUp room
      · obtain ⟨-, -, xc, -⟩ := s.driftTaken_facts p d
        obtain ⟨-, -, -, arrived⟩ := s.driftTaken_digest p digest
        rw [inOrder (digestOther digest) next, arrived up here, ← xc]
        exact State.driftDigest_facts (by rw [xc]; exact on) (by rw [xc]; exact peer) (by rw [xc]; exact held)
      · rw [isLack ack, plain]
        exact (s.driftReceived_lacked p _).1
      · rw [isLack nak, msb]
        exact (s.driftReceived_lacked p _).2 e r buffer room
  · refine ⟨driftLinkChange_up runs, driftLinkChange_down runs, driftTrainingRetry_spec runs,
      fun disabled b up => ⟨next_when_neg ?_, next_when_neg ?_, next_when_neg ?_⟩⟩
    · simp [disabled]
    · simp [disabled]
    · simp [disabled]


end Sys2Proof.Machine

/-!
Link blocks, triggers, late frames and the scrambler.
-/

namespace Sys2Proof.Machine

/-! ## The scrambler, and the times of triggers -/

/-- The scrambler's sequence does not depend on the data: descrambling twice gives the data back (R155). -/
theorem descrambleFrom_twice (r : Nat) (b : Bytes) :
    (descrambleFrom r ((descrambleFrom r b).map (BitVec.ofNat 8))).map (BitVec.ofNat 8) = b := by
  induction b generalizing r with
  | nil => rfl
  | cons x rest ih =>
    have small : (scramblerByte 8 r 0).2 < 256 := scramblerByte_lt 8 r 0
    simp only [descrambleFrom, List.map_cons, ih, List.cons.injEq, and_true]
    apply BitVec.eq_of_toNat_eq
    have byte : (x.toNat ^^^ (scramblerByte 8 r 0).2) < 2 ^ 8 := Nat.xor_lt_two_pow x.isLt small
    rw [BitVec.toNat_ofNat, BitVec.toNat_ofNat, Nat.mod_eq_of_lt byte, Nat.xor_assoc, Nat.xor_self, Nat.xor_zero,
      Nat.mod_eq_of_lt x.isLt]

/-- The first number from another on that is a given one modulo a period. -/
theorem next_congruent (t phase period : Nat) (positive : 0 < period) :
    t + (phase + period - t % period) % period - t < period
    ∧ (t + (t + (phase + period - t % period) % period - t)) % period = phase % period := by
  rw [Nat.add_sub_cancel_left]
  have part : t % period < period := Nat.mod_lt _ positive
  refine ⟨Nat.mod_lt _ positive, ?_⟩
  have whole : t + (phase + period - t % period) = phase + period * (t / period + 1) := by
    have split := Nat.div_add_mod t period
    rw [Nat.mul_add, Nat.mul_one]
    omega
  rw [Nat.add_mod_mod, whole, Nat.add_mul_mod_self_left]

/-- The delay ends at a time of the schedule, within one period (R179, R189). -/
theorem StreamCfg.triggerDelay_spec (x : StreamCfg) (t : Nat) (pos : 0 < x.periodUs) :
    x.triggerDelay t < x.periodUs * 1000
    ∧ (t + bcNs triggerBytes + x.triggerDelay t) % (x.periodUs * 1000) = x.phaseUs * 1000 % (x.periodUs * 1000) :=
  next_congruent (t + bcNs triggerBytes) (x.phaseUs * 1000) (x.periodUs * 1000) (Nat.mul_pos pos (by decide))

/-- A trigger that is due is sent. -/
theorem trigger_spec {s : State} {c : CtxId} {q : ClPortId} (runs : s.rootRuns = true) (awake : s.safe = false)
    (opened : (s.streams[c.val]).isOpen = true) (settled : (s.streams[c.val]).opening = none)
    (stays : (s.streams[c.val]).closing = none) (source : (s.streams[c.val]).cfg.source = 0)
    (on : (s.streams[c.val]).cfg.trigger.getLsbD 0 = true) (port : (s.streams[c.val]).cfg.port = q.val)
    (up : (s.cl[q.val]).state = .up) :
    let x := s.streams[c.val]
    ∃ t, exec (.trigger c) s = .next t
      ∧ t.sent = .backChannel q (bcLine (bcBytes (s.cl[q.val]).nextMsg.toNat 4
          (leBytes 1 (x.cfg.trigger.toNat / 2 % 4) ++ leBytes 4 (x.cfg.triggerDelay s.now.toNat)))) :: s.sent
      ∧ (t.cl[q.val]).nextMsg = (s.cl[q.val]).nextMsg + 1 := by
  intro x
  have num : (Fin.ofNat 24 x.cfg.port : ClPortId) = q := by
    rw [show x.cfg.port = q.val from port]
    exact Fin.ext (Nat.mod_eq_of_lt q.isLt)
  have state : (s.cl[(Fin.ofNat 24 x.cfg.port : ClPortId).val]).state = .up := by simp only [num, up]
  refine ⟨_, next_when_pos ?_, ?_, ?_⟩
  · have upHere : (s.cl[(s.streams[c.val]).cfg.port % 24]).state = .up := state
    simp [runs, awake, opened, settled, stays, source, on, upHere]
  · rw [num, State.bcSend_sent]
  · rw [num, State.bcSend_cl]

/-- A late frame is raised once (R213). -/
theorem frameLateTimeout_spec {s : State} {c : CtxId} (runs : s.rootRuns = true) (awake : s.safe = false)
    (opened : (s.streams[c.val]).isOpen = true) (settled : (s.streams[c.val]).opening = none)
    (stays : (s.streams[c.val]).closing = none) (source : (s.streams[c.val]).cfg.source ≠ 3)
    (checks : (s.streams[c.val]).cfg.guard.checks.getLsbD 3 = true) (begun : (s.streams[c.val]).hasBegun = true)
    (fresh : (s.streams[c.val]).lateRaised = false) :
    exec (.frameLateTimeout c) s = .next ((s.setStream c (fun x => { x with lateRaised := true })).raise
      { source := 0x600 + c.val, event := .frameLate, owner := some (s.streams[c.val]).owner
        class2 := (s.streams[c.val]).cfg.cls == 2 }) := by
  refine next_when_pos ?_
  simp [runs, awake, opened, settled, stays, source, checks, begun, fresh]

/-! ## A port that loses and finds its blocks -/

section Hunt
variable {s : State} {p : ClPortId} {b : LinkBlock}

/-- What a block does, by the state of its port. -/
theorem linkBlock_next (runs : s.rootRuns = true) (b : LinkBlock) :
    ((s.cl[p.val]).state = .down → exec (.linkBlock p b) s = .next s)
    ∧ ((s.cl[p.val]).state = .resync → exec (.linkBlock p b) s = .next (s.hunt p b))
    ∧ ((s.cl[p.val]).state = .up → exec (.linkBlock p b) s = .next (
        if syncErrors (blockSync b) ≤ 3 then s.takeBlock p b
        else if 3 ≤ (s.cl[p.val]).badSyncs then s.syncLoss p
        else s.setCl p (fun x => { x.adaptBlock b with badSyncs := x.badSyncs + 1 }))) := by
  refine ⟨fun h => ?_, fun h => ?_, fun h => ?_⟩ <;> refine (next_when_pos runs).trans ?_ <;> dsimp only <;> rw [h]

/-- Sync loss breaks the frames in progress of both sub-streams and leaves the port's own fields. -/
theorem State.cutSubs_cl (u : State) (p : ClPortId) (subs : List Nat) :
    let t := subs.foldl (fun s sub => match s.contextOf 0 p.val sub with
      | some c => s.cutCl p c
      | none => s) u
    (t.cl[p.val]).state = (u.cl[p.val]).state ∧ (t.cl[p.val]).syncLosses = (u.cl[p.val]).syncLosses
    ∧ (t.cl[p.val]).agcFrozen = (u.cl[p.val]).agcFrozen := by
  induction subs generalizing u with
  | nil => exact ⟨rfl, rfl, rfl⟩
  | cons sub rest ih =>
    rw [List.foldl_cons]
    obtain ⟨state, losses, frozen⟩ := ih (match u.contextOf 0 p.val sub with | some c => u.cutCl p c | none => u)
    dsimp only at state losses frozen ⊢
    cases context : u.contextOf 0 p.val sub with
    | none =>
      rw [context] at state losses frozen
      exact ⟨state, losses, frozen⟩
    | some c =>
      rw [context] at state losses frozen
      obtain ⟨cutState, cutLosses, cutFrozen⟩ := u.cutCl_cl p c p
      exact ⟨state.trans cutState, losses.trans cutLosses, frozen.trans cutFrozen⟩

/-- The fourth bad sync word in a row: the port hunts (R166, R183). -/
theorem State.syncLoss_up (up : (s.cl[p.val]).state = .up) : ((s.syncLoss p).cl[p.val]).state = .resync
    ∧ ((s.syncLoss p).cl[p.val]).syncLosses = min ((s.cl[p.val]).syncLosses + 1) (2 ^ 32 - 1)
    ∧ ((s.syncLoss p).cl[p.val]).agcFrozen = false := by
  unfold State.syncLoss
  dsimp only
  rw [up, if_pos (by decide)]
  obtain ⟨state, losses, frozen⟩ := (((s.setCl p (fun x => { x with
    syncLosses := satAdd 32 x.syncLosses 1, badSyncs := 0, agcFrozen := false })).setCl p (fun x => { x with
    state := .resync, resyncHits := 0 })).cutSubs_cl p [0, 1])
  rw [State.setCl_at, State.setCl_at] at state losses frozen
  exact ⟨state, losses, frozen⟩

/-- A hunting port sees another word than the sync word. -/
theorem State.hunt_miss (state : (s.cl[p.val]).state = .resync) (miss : blockSync b ≠ syncWord) :
    ((s.hunt p b).cl[p.val]).state = .resync ∧ ((s.hunt p b).cl[p.val]).resyncHits = 0
    ∧ (s.hunt p b).streams = s.streams := by
  unfold State.hunt
  dsimp only
  rw [if_pos miss, State.setCl_at, State.setCl_at, if_pos state]
  dsimp only
  split
  · exact ⟨state, rfl, rfl⟩
  · exact ⟨state, rfl, rfl⟩

/-- The matches in a row that a hunting port counts, in resynchronisation. -/
theorem ClPort.hits_resync (x : ClPort) (phase : ∀ n, x.phase ≠ .lock n) :
    (match x.phase with | .lock n => n | _ => x.resyncHits) = x.resyncHits := by
  cases h : x.phase with
  | lock n => exact absurd h (phase n)
  | _ => rfl

/-- The first exact sync word of an acquisition freezes the gain (R159). -/
theorem ClPort.freezeAgc_fields (x : ClPort) (b : LinkBlock) : (x.freezeAgc b).state = x.state
    ∧ (x.freezeAgc b).agcFrozen = true ∧ (x.freezeAgc b).idleBlocks = x.idleBlocks := by
  unfold ClPort.freezeAgc
  split
  · rename_i frozen
    exact ⟨rfl, frozen, rfl⟩
  · exact ⟨rfl, rfl, rfl⟩

/-- A first match in a row. -/
theorem State.hunt_first (state : (s.cl[p.val]).state = .resync) (hit : blockSync b = syncWord)
    (phase : ∀ n, (s.cl[p.val]).phase ≠ .lock n) (first : (s.cl[p.val]).resyncHits = 0) :
    ((s.hunt p b).cl[p.val]).state = .resync ∧ ((s.hunt p b).cl[p.val]).resyncHits = 1
    ∧ ((s.hunt p b).cl[p.val]).agcFrozen = true := by
  obtain ⟨kept, frozen, -⟩ := (s.cl[p.val]).freezeAgc_fields b
  have hits := (s.cl[p.val]).hits_resync phase
  have made : s.hunt p b = (s.setCl p (fun x => x.freezeAgc b)).setCl p (fun x =>
      if x.state = .resync then { x with resyncHits := 1 } else { x with phase := .lock 1 }) := by
    unfold State.hunt
    dsimp only
    refine (if_neg (not_not.mpr hit)).trans (if_pos (Eq.trans ?_ (hits.trans first)))
    rfl
  rw [made, State.setCl_at, State.setCl_at, if_pos (kept.trans state)]
  exact ⟨kept.trans state, rfl, frozen⟩

/-- A second match in a row: the port is up, and the block is taken. -/
theorem State.hunt_second (state : (s.cl[p.val]).state = .resync) (hit : blockSync b = syncWord)
    (phase : ∀ n, (s.cl[p.val]).phase ≠ .lock n) (second : (s.cl[p.val]).resyncHits ≠ 0) :
    ∃ u : State, s.hunt p b = u.takeBlock p b ∧ (u.cl[p.val]).state = .up ∧ (u.cl[p.val]).lastUp = s.now
      ∧ (u.cl[p.val]).idleBlocks = (s.cl[p.val]).idleBlocks := by
  obtain ⟨-, -, idle⟩ := (s.cl[p.val]).freezeAgc_fields b
  have hits := (s.cl[p.val]).hits_resync phase
  refine ⟨((s.setCl p (fun x => x.freezeAgc b)).setCl p (fun x => { x with noiseValid := false, badSyncs := 0 })).setCl p
    (fun x => { x with state := .up, resyncHits := 0, lastUp := s.now }), ?_, ?_, ?_, ?_⟩
  · unfold State.hunt
    dsimp only
    refine (if_neg (not_not.mpr hit)).trans ((if_neg (fun h => second (hits.symm.trans (Eq.trans ?_ h)))).trans ?_)
    · rfl
    · rw [if_pos state]
      rfl
  · rw [State.setCl_at]
  · rw [State.setCl_at]
  · rw [State.setCl_at, State.setCl_at, State.setCl_at]
    exact idle

end Hunt
/-! ## A block that is taken -/

/-- Adaptation changes the taps alone. -/
theorem ClPort.adapt_eq (x : ClPort) (f : Vector Int 6 → Vector Int 6) :
    x.adapt f = { x with taps := (x.adapt f).taps } := by
  unfold ClPort.adapt
  by_cases frozen : x.dfeFreeze = true
  · rw [if_pos frozen]
  · rw [if_neg frozen]

theorem ClPort.adaptBlock_eq (x : ClPort) (b : LinkBlock) :
    x.adaptBlock b = { x with taps := (x.adaptBlock b).taps } := x.adapt_eq _

/-- The taps that adaptation leaves depend on the taps before it and on whether they are frozen. -/
theorem ClPort.adapt_taps {x y : ClPort} (f : Vector Int 6 → Vector Int 6) (freeze : y.dfeFreeze = x.dfeFreeze)
    (taps : y.taps = x.taps) : (y.adapt f).taps = (x.adapt f).taps := by
  unfold ClPort.adapt
  rw [freeze]
  by_cases frozen : x.dfeFreeze = true
  · rw [if_pos frozen, if_pos frozen, taps]
  · rw [if_neg frozen, if_neg frozen, taps]

theorem ClPort.adaptBlock_taps {x y : ClPort} (b : LinkBlock) (freeze : y.dfeFreeze = x.dfeFreeze)
    (taps : y.taps = x.taps) : (y.adaptBlock b).taps = (x.adaptBlock b).taps := ClPort.adapt_taps _ freeze taps

/-- What a port counts of every block at an accepted sync place (R164, R171). -/
def ClPort.counted (x : ClPort) (d : Decoded) : ClPort :=
  { x with
    blocks := satAdd 64 x.blocks 1, badSyncs := 0
    noiseAge := if x.noiseAge = 0xFFFFFFFF then x.noiseAge else min (x.noiseAge + 1) 0xFFFFFFFE
    cwCorrected := satAdd 64 x.cwCorrected d.words
    symCorrected := satAdd 64 x.symCorrected d.symbols }

section Take
variable {s : State} {p : ClPortId} {b : LinkBlock}

/-- A block without an uncorrectable codeword, by what it decodes to. -/
theorem State.takeBlock_decoded (s : State) (p : ClPortId) (b : LinkBlock)
    (good : (decodeBlock (blockCoded b)).bad = 0) :
    let d := decodeBlock (blockCoded b)
    let u := s.setCl p (·.counted d)
    (d.malformed = true → s.takeBlock p b
      = (u.setCl p (fun x => { x with malformed := satAdd 32 x.malformed 1 })).setCl p (·.adaptBlock b))
    ∧ (d.malformed = false → d.header.type = 0 → s.takeBlock p b
      = (u.idleBlock p b d.symbols).setCl p (·.adaptBlock b))
    ∧ (d.malformed = false → d.header.type = 1 → (s.cl[p.val]).state = .up → s.takeBlock p b
      = (u.dataBlock p d.header b.graft2).setCl p (·.adaptBlock b)) := by
  intro d u
  have kept : (u.cl[p.val]).state = (s.cl[p.val]).state := by rw [State.setCl_at]; rfl
  have bad : ¬ d.bad ≠ 0 := not_not.mpr good
  refine ⟨fun malformed => ?_, fun formed idle => ?_, fun formed data up => ?_⟩
  · exact congrArg (State.setCl · p (·.adaptBlock b)) ((if_neg bad).trans (if_pos malformed))
  · exact congrArg (State.setCl · p (·.adaptBlock b)) ((if_neg bad).trans
      ((if_neg (by rw [formed]; exact Bool.false_ne_true)).trans (if_pos idle)))
  · exact congrArg (State.setCl · p (·.adaptBlock b)) ((if_neg bad).trans
      ((if_neg (by rw [formed]; exact Bool.false_ne_true)).trans ((if_neg (by rw [data]; decide)).trans
        ((if_neg (by rw [data]; decide)).trans (if_pos (kept.trans up))))))

/-- A malformed block is counted. -/
theorem State.takeBlock_malformed (good : (decodeBlock (blockCoded b)).bad = 0)
    (malformed : (decodeBlock (blockCoded b)).malformed = true) :
    let t := s.takeBlock p b
    (t.cl[p.val]).blocks = satAdd 64 (s.cl[p.val]).blocks 1
    ∧ (t.cl[p.val]).malformed = satAdd 32 (s.cl[p.val]).malformed 1 ∧ t.streams = s.streams ∧ t.mem = s.mem := by
  dsimp only
  rw [(s.takeBlock_decoded p b good).1 malformed, State.setCl_at, State.setCl_at, State.setCl_at, ClPort.adaptBlock_eq]
  exact ⟨rfl, rfl, rfl, rfl⟩

/-- The noise that an IDLE block without a corrected symbol measures (R170, R171). -/
def ClPort.measured (x : ClPort) (b : LinkBlock) (n : Nat) : ClPort :=
  let avg := if x.noiseValid then noiseAverage x.noiseAvg (blockNoise b) (Config.noiseUp n) else blockNoise b
  { x with noiseAvg := avg, noiseFloor := noiseFloorOf avg (Config.noiseCode n), noiseValid := true, noiseAge := 0 }

/-- An IDLE block, on its port; it leaves the streams. -/
theorem State.idleBlock_facts (u : State) (p : ClPortId) (b : LinkBlock) (symbols : Nat) :
    (symbols = 0 → (u.idleBlock p b symbols).cl[p.val]
      = ClPort.measured { u.cl[p.val] with idleBlocks := satAdd 64 (u.cl[p.val]).idleBlocks 1 } b u.draws)
    ∧ (symbols ≠ 0 → (u.idleBlock p b symbols).cl[p.val]
      = { u.cl[p.val] with idleBlocks := satAdd 64 (u.cl[p.val]).idleBlocks 1 })
    ∧ (u.idleBlock p b symbols).streams = u.streams := by
  unfold State.idleBlock
  dsimp only
  refine ⟨fun clean => ?_, fun corrected => ?_, ?_⟩
  · rw [if_pos clean, State.setCl_at]
    dsimp only
    rw [State.setCl_at]
    rfl
  · rw [if_neg corrected, State.setCl_at]
  · split <;> rfl

/-- An IDLE block is counted, and measures the noise where no symbol of it was corrected. -/
theorem State.takeBlock_idle (good : (decodeBlock (blockCoded b)).bad = 0)
    (formed : (decodeBlock (blockCoded b)).malformed = false)
    (idle : (decodeBlock (blockCoded b)).header.type = 0) :
    let d := decodeBlock (blockCoded b)
    let x := s.cl[p.val]
    let t := s.takeBlock p b
    (t.cl[p.val]).idleBlocks = satAdd 64 x.idleBlocks 1
    ∧ (d.symbols = 0 → (t.cl[p.val]).noiseAge = 0 ∧ (t.cl[p.val]).noiseValid = true
      ∧ (t.cl[p.val]).noiseAvg = (if x.noiseValid then noiseAverage x.noiseAvg (blockNoise b) (Config.noiseUp s.draws)
          else blockNoise b)
      ∧ (t.cl[p.val]).noiseFloor = noiseFloorOf (t.cl[p.val]).noiseAvg (Config.noiseCode s.draws))
    ∧ (d.symbols ≠ 0 → (t.cl[p.val]).noiseAvg = x.noiseAvg ∧ (t.cl[p.val]).noiseFloor = x.noiseFloor)
    ∧ (t.cl[p.val]).taps = (x.adaptBlock b).taps ∧ t.streams = s.streams := by
  intro d x t
  obtain ⟨-, taken, -⟩ := s.takeBlock_decoded p b good
  have made : t = _ := taken formed idle
  obtain ⟨clean, corrected, streams⟩ := (s.setCl p (·.counted d)).idleBlock_facts p b d.symbols
  rw [State.setCl_at] at clean corrected
  have port : t.cl[p.val] = ((s.setCl p (·.counted d)).idleBlock p b d.symbols).cl[p.val].adaptBlock b := by
    rw [made, State.setCl_at]
  have kept : t.streams = s.streams := by rw [made, State.setCl_streams, streams, State.setCl_streams]
  by_cases symbols : d.symbols = 0
  · rw [clean symbols] at port
    have taps := ClPort.adaptBlock_taps (x := x) (y := ClPort.measured { x.counted d with
      idleBlocks := satAdd 64 (x.counted d).idleBlocks 1 } b s.draws) b rfl rfl
    rw [ClPort.adaptBlock_eq] at port
    rw [port]
    exact ⟨rfl, fun _ => ⟨rfl, rfl, rfl, rfl⟩, fun h => absurd symbols h, taps, kept⟩
  · rw [corrected symbols] at port
    have taps := ClPort.adaptBlock_taps (x := x) (y := { x.counted d with
      idleBlocks := satAdd 64 (x.counted d).idleBlocks 1 }) b rfl rfl
    rw [ClPort.adaptBlock_eq] at port
    rw [port]
    exact ⟨rfl, fun h => absurd h symbols, fun _ => ⟨rfl, rfl⟩, taps, kept⟩

/-- An IDLE block leaves the port's link as it is. -/
theorem State.takeBlock_idle_link (good : (decodeBlock (blockCoded b)).bad = 0)
    (formed : (decodeBlock (blockCoded b)).malformed = false)
    (idle : (decodeBlock (blockCoded b)).header.type = 0) :
    ((s.takeBlock p b).cl[p.val]).state = (s.cl[p.val]).state
    ∧ ((s.takeBlock p b).cl[p.val]).lastUp = (s.cl[p.val]).lastUp := by
  obtain ⟨-, taken, -⟩ := s.takeBlock_decoded p b good
  obtain ⟨clean, corrected, -⟩ := (s.setCl p (·.counted (decodeBlock (blockCoded b)))).idleBlock_facts p b
    (decodeBlock (blockCoded b)).symbols
  rw [State.setCl_at] at clean corrected
  rw [taken formed idle, State.setCl_at, ClPort.adaptBlock_eq]
  by_cases symbols : (decodeBlock (blockCoded b)).symbols = 0
  · rw [clean symbols]
    exact ⟨rfl, rfl⟩
  · rw [corrected symbols]
    exact ⟨rfl, rfl⟩

/-- A DATA block in the safe state, or without a context. -/
theorem State.dataBlock_untaken (u : State) (p : ClPortId) (h : Header) (graft2 : Option ClPortId) :
    (u.safe = true → u.dataBlock p h graft2 = u)
    ∧ (u.safe = false → u.contextOf 0 p.val h.sub = none →
      (((u.dataBlock p h graft2).cl[p.val]).discarded
        = (if h.sof then satAdd 32 (u.cl[p.val]).discarded 1 else (u.cl[p.val]).discarded))
      ∧ (u.dataBlock p h graft2).streams = u.streams ∧ (u.dataBlock p h graft2).mem = u.mem) := by
  unfold State.dataBlock
  refine ⟨fun safe => if_pos safe, fun awake free => ?_⟩
  rw [if_neg (by rw [awake]; exact Bool.false_ne_true), free]
  dsimp only
  rw [State.setCl_at]
  exact ⟨rfl, rfl, rfl⟩

/-- A DATA block in the safe state changes no stream and no memory (R397). -/
theorem State.takeBlock_safe (good : (decodeBlock (blockCoded b)).bad = 0)
    (formed : (decodeBlock (blockCoded b)).malformed = false) (data : (decodeBlock (blockCoded b)).header.type = 1)
    (up : (s.cl[p.val]).state = .up) (safe : s.safe = true) :
    (s.takeBlock p b).streams = s.streams ∧ (s.takeBlock p b).mem = s.mem := by
  obtain ⟨-, -, taken⟩ := s.takeBlock_decoded p b good
  obtain ⟨untaken, -⟩ := (s.setCl p (·.counted (decodeBlock (blockCoded b)))).dataBlock_untaken p
    (decodeBlock (blockCoded b)).header b.graft2
  rw [taken formed data up, untaken safe]
  exact ⟨rfl, rfl⟩

/-- A DATA block without a context is discarded, and counted at the start of its frame (R174). -/
theorem State.takeBlock_free (good : (decodeBlock (blockCoded b)).bad = 0)
    (formed : (decodeBlock (blockCoded b)).malformed = false) (data : (decodeBlock (blockCoded b)).header.type = 1)
    (up : (s.cl[p.val]).state = .up) (awake : s.safe = false)
    (free : s.contextOf 0 p.val (decodeBlock (blockCoded b)).header.sub = none) :
    ((s.takeBlock p b).cl[p.val]).discarded = (if (decodeBlock (blockCoded b)).header.sof then
        satAdd 32 (s.cl[p.val]).discarded 1 else (s.cl[p.val]).discarded)
    ∧ (s.takeBlock p b).streams = s.streams ∧ (s.takeBlock p b).mem = s.mem := by
  obtain ⟨-, -, taken⟩ := s.takeBlock_decoded p b good
  obtain ⟨-, untaken⟩ := (s.setCl p (·.counted (decodeBlock (blockCoded b)))).dataBlock_untaken p
    (decodeBlock (blockCoded b)).header b.graft2
  obtain ⟨discarded, streams, mem⟩ := untaken awake (by rw [State.contextOf_setCl]; exact free)
  rw [State.setCl_at] at discarded
  rw [taken formed data up, State.setCl_at, ClPort.adaptBlock_eq]
  exact ⟨discarded, streams, mem⟩

/-- The frame in progress with the payload of one block more (R172). -/
def FrameAsm.withBlock (a : FrameAsm) (h : Header) : FrameAsm :=
  { a with bytes := a.bytes ++ h.payload.take h.len, parts := a.parts + 1, length := h.offset + h.len }

/-- A block that continues the frame in progress and does not end it: the frame goes on, on its line. -/
theorem State.dataBlock_continues {u : State} {h : Header} {c : CtxId} {a : FrameAsm} (graft2 : Option ClPortId)
    (awake : u.safe = false) (context : u.contextOf 0 p.val h.sub = some c) (sof : h.sof = false)
    (asm : (u.streams[c.val]).asm = some a) (whole : a.failed = none) (count : h.count = a.counter)
    (offset : h.offset = a.length) (eof : h.eof = false) :
    u.dataBlock p h graft2
      = (u.setStream c (fun x => { x with asm := some (a.withBlock h) })).lineFails c a.length graft2 := by
  unfold State.dataBlock
  rw [if_neg (by rw [awake]; exact Bool.false_ne_true), context]
  dsimp only
  rw [if_neg (by rw [sof]; exact Bool.false_ne_true), asm]
  dsimp only
  rw [if_neg (not_not.mpr count), if_pos (.inr offset)]
  unfold State.joinBlock
  rw [asm]
  dsimp only
  rw [if_neg (by rw [whole]; exact Bool.false_ne_true)]
  generalize joins : State.lineFails _ c a.length graft2 = t
  have joined : t = (u.setStream c (fun x => { x with asm := some (a.withBlock h) })).lineFails c a.length graft2 :=
    joins.symm
  cases (t.streams[c.val]).asm with
  | none => exact joined
  | some d => exact (if_neg (by rw [eof]; exact Bool.false_ne_true)).trans joined

/-- No line fails on a frame that is broken or has no buffer. -/
theorem State.lineFails_unbuffered {u : State} {c : CtxId} {a : FrameAsm} (graft2 : Option ClPortId) (n : Nat)
    (asm : (u.streams[c.val]).asm = some a) (line : graft2 = none ∨ a.broken = true ∨ a.buffer = none) :
    u.lineFails c n graft2 = u := by
  rcases line with none | broken | none
  · exact State.lineFails_none graft2 n asm (.inl none)
  · unfold State.lineFails
    dsimp only
    rw [asm]
    cases graft2 with
    | none => rfl
    | some ch => exact if_pos (by rw [broken, Bool.true_or])
  · exact State.lineFails_none graft2 n asm (.inr none)

/-- A line that fails graft point 2 marks the frame and is an event. -/
theorem State.lineFails_marks {u : State} {c : CtxId} {a : FrameAsm} {ch : ClPortId} (n : Nat)
    (asm : (u.streams[c.val]).asm = some a) (whole : a.broken = false) (buffered : a.buffer ≠ none) :
    u.lineFails c n (some ch) = (u.setStream c (fun x => { x with asm := some { a with
        failed := some (a.failed.getD 2), badLines := n / 256 :: a.badLines } })).raise
      { source := 0x060 + ch.val, event := .graftMismatch, owner := some (u.streams[c.val]).owner
        class2 := (u.streams[c.val]).cfg.cls == 2 } := by
  unfold State.lineFails
  dsimp only
  rw [asm]
  refine if_neg ?_
  rw [whole, Bool.false_or, Option.isNone_iff_eq_none]
  exact buffered

/-- A DATA block that continues the frame in progress: it joins the frame, whose line may fail. -/
theorem State.takeBlock_continues {c : CtxId} {a : FrameAsm} (good : (decodeBlock (blockCoded b)).bad = 0)
    (formed : (decodeBlock (blockCoded b)).malformed = false) (data : (decodeBlock (blockCoded b)).header.type = 1)
    (up : (s.cl[p.val]).state = .up) (awake : s.safe = false)
    (context : s.contextOf 0 p.val (decodeBlock (blockCoded b)).header.sub = some c)
    (sof : (decodeBlock (blockCoded b)).header.sof = false)
    (asm : (s.streams[c.val]).asm = some a) (whole : a.failed = none)
    (count : (decodeBlock (blockCoded b)).header.count = a.counter)
    (offset : (decodeBlock (blockCoded b)).header.offset = a.length)
    (eof : (decodeBlock (blockCoded b)).header.eof = false) :
    let joined := a.withBlock (decodeBlock (blockCoded b)).header
    let t := s.takeBlock p b
    ((b.graft2 = none ∨ a.broken = true ∨ a.buffer = none) → (t.streams[c.val]).asm = some joined
      ∧ (∀ y : CtxId, y ≠ c → t.streams[y.val] = s.streams[y.val]) ∧ t.mem = s.mem)
    ∧ (b.graft2 ≠ none → a.broken = false → a.buffer ≠ none → t.safe = false →
      (t.streams[c.val]).asm = some { joined with failed := some 2, badLines := a.length / 256 :: a.badLines }
      ∧ (∀ y : CtxId, y ≠ c → t.streams[y.val] = s.streams[y.val]) ∧ t.mem = s.mem) := by
  intro joined t
  obtain ⟨-, -, taken⟩ := s.takeBlock_decoded p b good
  have made : t = _ := taken formed data up
  generalize hu : s.setCl p (·.counted (decodeBlock (blockCoded b))) = u at made
  have streams : u.streams = s.streams := by rw [← hu, State.setCl_streams]
  have mem : u.mem = s.mem := by rw [← hu, State.setCl_mem]
  have safe : u.safe = false := by rw [← hu, State.setCl_safe, awake]
  rw [State.dataBlock_continues b.graft2 safe (by rw [← hu, State.contextOf_setCl]; exact context) sof
    (by rw [streams]; exact asm) whole count offset eof] at made
  generalize hv : u.setStream c _ = v at made
  have frame : (v.streams[c.val]).asm = some joined := by rw [← hv, State.setStream_at]
  have others (y : CtxId) (n : y ≠ c) : v.streams[y.val] = s.streams[y.val] := by
    rw [← hv, State.setStream_ne _ _ _ n, streams]
  have memory : v.mem = s.mem := by rw [← hv, State.setStream_mem, mem]
  refine ⟨fun line => ?_, fun fails notBroken buffered still => ?_⟩
  · rw [State.lineFails_unbuffered b.graft2 a.length frame line] at made
    rw [made]
    exact ⟨frame, others, memory⟩
  · obtain ⟨ch, line⟩ := Option.ne_none_iff_exists'.mp fails
    rw [line, State.lineFails_marks a.length frame notBroken buffered] at made
    generalize hw : v.setStream c _ = w at made
    have before : w.safe = false := by rw [← hw, State.setStream_safe, ← hv, State.setStream_safe, safe]
    have awakeStill : (w.raise { source := 0x060 + ch.val, event := .graftMismatch
                                 owner := some (v.streams[c.val]).owner
                                 class2 := (v.streams[c.val]).cfg.cls == 2 }).safe = false := by
      rw [made] at still
      exact still
    obtain ⟨-, -, -, -, memKept, streamsKept, -⟩ := (State.raise_raised w _).calm (awakeStill.trans before.symm)
    rw [made, State.setCl_streams, State.setCl_mem, streamsKept, memKept, ← hw, State.setStream_at]
    refine ⟨?_, fun y n => ?_, memory⟩
    · simp only [joined, FrameAsm.withBlock, whole, Option.getD_none]
    · rw [State.setStream_ne _ _ _ n, others y n]

end Take

/-- Settles O56: a block by its port's state, its sync word and what it decodes to; a trigger; a late frame. -/
theorem chroylinkBlocks : Obligations.ChroylinkBlocks := by
  unfold Obligations.ChroylinkBlocks
  refine ⟨fun s p b runs => ?_, fun s c q runs awake => ?_, fun x t pos => x.triggerDelay_spec t pos,
    fun s c runs awake => ?_, fun b => descrambleFrom_twice 0x7FFF b⟩
  · obtain ⟨isDown, isHunting, isUp⟩ := linkBlock_next (p := p) runs b
    intro x d h
    refine ⟨isDown, fun up errors few => ?_, fun up errors many => ⟨_, isUp up, ?_⟩,
      fun hunting miss => ⟨_, isHunting hunting, State.hunt_miss hunting miss⟩,
      fun hunting hit phase first => ⟨_, isHunting hunting, State.hunt_first hunting hit phase first⟩,
      fun hunting hit phase second good formed idle => ⟨_, isHunting hunting, ?_⟩,
      fun up accepted => ⟨_, isUp up, ?_⟩⟩
    · have fewHere : (s.cl[p.val]).badSyncs < 3 := few
      rw [isUp up, if_neg (by omega), if_neg (by omega)]
    · rw [if_neg (by omega), if_pos many]
      exact State.syncLoss_up up
    · obtain ⟨u, taken, state, lastUp, count⟩ := State.hunt_second hunting hit phase second
      obtain ⟨counted, -⟩ := State.takeBlock_idle (s := u) (p := p) good formed idle
      obtain ⟨kept, time⟩ := State.takeBlock_idle_link (s := u) (p := p) good formed idle
      rw [taken]
      exact ⟨kept.trans state, time.trans lastUp, by rw [counted, count]⟩
    · rw [if_pos accepted]
      refine ⟨fun good malformed => State.takeBlock_malformed good malformed,
        fun good formed idle => State.takeBlock_idle good formed idle, fun good formed data safe => ?_,
        fun good formed data awake free => ?_,
        fun c a good formed data awake context sof asm whole count offset eof =>
          State.takeBlock_continues good formed data up awake context sof asm whole count offset eof⟩
      · exact State.takeBlock_safe good formed data up safe
      · exact State.takeBlock_free good formed data up awake free
  · intro x opened settled stays source on port up
    exact trigger_spec runs awake opened settled stays source on port up
  · intro x opened settled stays source checks begun fresh
    exact frameLateTimeout_spec runs awake opened settled stays source checks begun fresh

end Sys2Proof.Machine

/-!
STREAM_OPEN, STREAM_CLOSE, STREAM_CONFIG and GUARD_CONFIG.
-/

namespace Sys2Proof.Machine

/-! ## A link that goes down under streams that are not bound -/

/-- The streams' links may be down; who holds a context, its settings and its binding are as before, and so are the
Chroylink ports and the Foreman. -/
structure LinksOnly (s t : State) : Prop where
  cl     : t.cl = s.cl
  fore   : t.fore = s.fore
  stream : ∀ y : CtxId, (t.streams[y.val]).isOpen = (s.streams[y.val]).isOpen
    ∧ (t.streams[y.val]).opening = (s.streams[y.val]).opening ∧ (t.streams[y.val]).bound = (s.streams[y.val]).bound
    ∧ (t.streams[y.val]).cfg = (s.streams[y.val]).cfg

theorem LinksOnly.refl (s : State) : LinksOnly s s := ⟨rfl, rfl, fun _ => ⟨rfl, rfl, rfl, rfl⟩⟩

theorem LinksOnly.trans {s t u : State} (h : LinksOnly s t) (k : LinksOnly t u) : LinksOnly s u := by
  refine ⟨k.cl.trans h.cl, k.fore.trans h.fore, fun y => ?_⟩
  obtain ⟨isOpen, opening, bound, cfg⟩ := h.stream y
  obtain ⟨isOpen', opening', bound', cfg'⟩ := k.stream y
  exact ⟨isOpen'.trans isOpen, opening'.trans opening, bound'.trans bound, cfg'.trans cfg⟩

/-- A change of one stream that leaves who holds it, its settings and its binding. -/
theorem LinksOnly.setStream (s : State) (c : CtxId) (g : Stream → Stream)
    (kept : (g s.streams[c.val]).isOpen = (s.streams[c.val]).isOpen
      ∧ (g s.streams[c.val]).opening = (s.streams[c.val]).opening
      ∧ (g s.streams[c.val]).bound = (s.streams[c.val]).bound ∧ (g s.streams[c.val]).cfg = (s.streams[c.val]).cfg) :
    LinksOnly s (s.setStream c g) := by
  refine ⟨rfl, rfl, fun y => ?_⟩
  by_cases same : y = c
  · subst same
    rw [State.setStream_at]
    exact kept
  · rw [State.setStream_ne _ _ _ same]
    exact ⟨rfl, rfl, rfl, rfl⟩

/-- A stream that is not bound has no entries. -/
theorem State.pushEntry_unbound {s : State} {c : CtxId} (e : FrameEntry) (unbound : (s.streams[c.val]).bound = none) :
    s.pushEntry c e = s := by
  unfold State.pushEntry
  rw [unbound]
  rfl

/-- What lies in a frame's buffer is memory's alone. -/
theorem State.storeFrame_links (s : State) (c : CtxId) (a : FrameAsm) : LinksOnly s (s.storeFrame c a) := by
  unfold State.storeFrame
  dsimp only
  cases a.buffer with
  | none => exact LinksOnly.refl s
  | some i =>
    dsimp only
    split
    · exact ⟨rfl, rfl, fun _ => ⟨rfl, rfl, rfl, rfl⟩⟩
    · exact ⟨rfl, rfl, fun _ => ⟨rfl, rfl, rfl, rfl⟩⟩

theorem State.breakFrame_links (s : State) (c : CtxId) : LinksOnly s (s.breakFrame c) := by
  unfold State.breakFrame
  cases (s.streams[c.val]).asm with
  | none => exact LinksOnly.refl s
  | some a =>
    dsimp only
    split
    · exact LinksOnly.setStream _ _ _ ⟨rfl, rfl, rfl, rfl⟩
    · exact (s.storeFrame_links c a).trans (LinksOnly.setStream _ _ _ ⟨rfl, rfl, rfl, rfl⟩)

/-- A damaged frame of a stream that is not bound is counted. -/
theorem State.cutFrame_links {s : State} {c : CtxId} (a : FrameAsm) (d : BitVec 16)
    (unbound : (s.streams[c.val]).bound = none) : LinksOnly s (s.cutFrame c a d) := by
  unfold State.cutFrame
  dsimp only
  have cut : LinksOnly s (s.setStream c (fun x => { x with asm := none })) :=
    LinksOnly.setStream _ _ _ ⟨rfl, rfl, rfl, rfl⟩
  generalize s.setStream c _ = u at cut
  split
  · exact cut
  · split
    · unfold State.ringFullFrame State.seeCounter
      exact cut.trans ((LinksOnly.setStream u c _ ⟨rfl, rfl, rfl, rfl⟩).trans (LinksOnly.setStream _ _ _ ⟨rfl, rfl, rfl, rfl⟩))
    · have stored := cut.trans (u.storeFrame_links c a)
      generalize u.storeFrame c a = v at stored
      unfold State.integrityFrame State.seeCounter State.noteStatus
      dsimp only
      generalize hw : (((v.setStream c _).setStream c _).setStream c _) = w
      have counted : LinksOnly v w := by
        rw [← hw]
        exact ((LinksOnly.setStream v c _ ⟨rfl, rfl, rfl, rfl⟩).trans
          (LinksOnly.setStream _ c _ ⟨rfl, rfl, rfl, rfl⟩)).trans (LinksOnly.setStream _ c _ ⟨rfl, rfl, rfl, rfl⟩)
      have all := stored.trans counted
      obtain ⟨-, -, bound, -⟩ := all.stream c
      rw [State.pushEntry_unbound _ (bound.trans unbound)]
      exact all

/-- A stream notes that its link is down, with an entry (R197). -/
def State.noteDown (u : State) (c : CtxId) (e : FrameEntry) : State :=
  (if ((u.streams[c.val]).bound.isSome && !(u.streams[c.val]).counterSeen) = true then
    (u.setStream c (fun x => { x with
      linkDown := true, counterRef := none, lastStamp := none, swallow := none, awaitGap := false })).drawn
    else u.setStream c (fun x => { x with
      linkDown := true, counterRef := none, lastStamp := none, swallow := none, awaitGap := false })).pushEntry c e

theorem State.noteDown_links {u : State} {c : CtxId} (unbound : (u.streams[c.val]).bound = none) (e : FrameEntry) :
    LinksOnly u (u.noteDown c e) := by
  unfold State.noteDown
  have down := LinksOnly.setStream u c (fun x => { x with
    linkDown := true, counterRef := none, lastStamp := none, swallow := none, awaitGap := false }) ⟨rfl, rfl, rfl, rfl⟩
  obtain ⟨-, -, bound, -⟩ := down.stream c
  rw [if_neg (by rw [unbound]; exact Bool.false_ne_true), State.pushEntry_unbound _ (bound.trans unbound)]
  exact down

/-- The source link of a stream that is not bound goes down. -/
theorem State.streamDown_links {s : State} {c : CtxId} (unbound : (s.streams[c.val]).bound = none) :
    LinksOnly s (s.streamDown c) := by
  unfold State.streamDown
  dsimp only
  split
  · exact LinksOnly.refl s
  · have after (u : State) (ended : LinksOnly s u) (e : FrameEntry) : LinksOnly s (u.noteDown c e) := by
      obtain ⟨-, -, bound, -⟩ := ended.stream c
      exact ended.trans (State.noteDown_links (bound.trans unbound) e)
    have ended : LinksOnly s (match (s.streams[c.val]).asm with
        | some a => match a.failed with
          | some d => if (s.streams[c.val]).cfg.source = 0 then s.cutFrame c a d else s.breakFrame c
          | none => s.breakFrame c
        | none => s) := by
      cases (s.streams[c.val]).asm with
      | none => exact LinksOnly.refl s
      | some a =>
        dsimp only
        cases a.failed with
        | none => exact s.breakFrame_links c
        | some d =>
          dsimp only
          split
          · exact State.cutFrame_links a d unbound
          · exact s.breakFrame_links c
    exact after _ ended _

/-- A link goes down under streams that are not bound. -/
theorem State.portDown_links {s : State} (source port : Nat) (unbound : ∀ y : CtxId, (s.streams[y.val]).isOpen = true →
      (s.streams[y.val]).cfg.source = source → (s.streams[y.val]).cfg.port = port → (s.streams[y.val]).bound = none) :
    LinksOnly s (s.portDown source port) := by
  unfold State.portDown
  generalize List.finRange 48 = l
  induction l generalizing s with
  | nil => exact LinksOnly.refl s
  | cons c rest ih =>
    rw [List.foldl_cons]
    have first : LinksOnly s (if ((s.streams[c.val]).isOpen && (s.streams[c.val]).cfg.source == source
        && (s.streams[c.val]).cfg.port == port) = true then s.streamDown c else s) := by
      split
      · rename_i hit
        simp only [Bool.and_eq_true, beq_iff_eq] at hit
        obtain ⟨⟨isOpen, onSource⟩, onPort⟩ := hit
        exact State.streamDown_links (unbound c isOpen onSource onPort)
      · exact LinksOnly.refl s
    refine first.trans (ih fun y isOpen onSource onPort => ?_)
    obtain ⟨wasOpen, -, wasBound, wasCfg⟩ := first.stream y
    rw [wasOpen] at isOpen
    rw [wasCfg] at onSource onPort
    exact wasBound.trans (unbound y isOpen onSource onPort)

/-- A port trains again where no opening waits for it and none of its streams is bound. -/
theorem State.retrain_links {s : State} {p : ClPortId} (free : s.seedWaiters p = [])
    (unbound : ∀ y : CtxId, (s.streams[y.val]).isOpen = true → (s.streams[y.val]).cfg.source = 0 →
      (s.streams[y.val]).cfg.port = p.val → (s.streams[y.val]).bound = none) :
    (s.retrain p).fore = s.fore
    ∧ (∀ y : CtxId, ((s.retrain p).streams[y.val]).isOpen = (s.streams[y.val]).isOpen
      ∧ ((s.retrain p).streams[y.val]).opening = (s.streams[y.val]).opening)
    ∧ ((s.retrain p).cl[p.val]).state = .down
    ∧ ((s.retrain p).cl[p.val]).retrainCmd = (s.cl[p.val]).retrainCmd
    ∧ ((s.retrain p).cl[p.val]).ctleFixed = (s.cl[p.val]).ctleFixed
    ∧ ((s.retrain p).cl[p.val]).ctlePreset = (s.cl[p.val]).ctlePreset := by
  unfold State.retrain State.clDown
  generalize hu : s.setCl p (fun x => { x with
    retrains := if x.beenUp then satAdd 32 x.retrains 1 else x.retrains }) = u
  have streams : u.streams = s.streams := by rw [← hu, State.setCl_streams]
  have port : u.cl[p.val] = { s.cl[p.val] with 
      retrains := (if (s.cl[p.val]).beenUp then satAdd 32 (s.cl[p.val]).retrains 1 else (s.cl[p.val]).retrains) } := by
    rw [← hu, State.setCl_at]
  have waiters : u.seedWaiters p = [] := by
    rw [← free]
    unfold State.seedWaiters
    rw [streams, port]
  dsimp only
  rw [waiters, List.foldl_nil]
  generalize hv : u.setCl p _ = v
  have down : v.cl[p.val] = { u.cl[p.val] with
      state := .down, phase := .idle, unacked := [], badSyncs := 0, resyncHits := 0, loose0 := none, loose1 := none } := by
    rw [← hv, State.setCl_at]
  have vStreams : v.streams = s.streams := by rw [← hv, State.setCl_streams, streams]
  have vFore : v.fore = s.fore := by rw [← hv, State.setCl_fore, ← hu, State.setCl_fore]
  have links := State.portDown_links (s := v) 0 p.val (by rw [vStreams]; exact unbound)
  refine ⟨links.fore.trans vFore, fun y => ?_, ?_⟩
  · obtain ⟨isOpen, opening, -, -⟩ := links.stream y
    rw [isOpen, opening, vStreams]
    exact ⟨rfl, rfl⟩
  · rw [links.cl, down, port]
    exact ⟨rfl, rfl, rfl, rfl⟩

/-! ## Link settings -/

/-- A difference that needs a retrain is a difference. -/
theorem ClPort.settingsDiffer_of_retrain (x : ClPort) (w : BitVec 32) (h : (x.settingsDiffer w).2 = true) :
    (x.settingsDiffer w).1 = true := by
  simp only [ClPort.settingsDiffer, Bool.and_eq_true, Bool.or_eq_true] at h ⊢
  exact ⟨h.1, .inl h.2⟩

section Settings
variable {s : State} {p : ClPortId} {x : CtxId} {w : BitVec 32}

/-- The port with the settings of a word where they differ. -/
def State.withWord (s : State) (p : ClPortId) (w : BitVec 32) : State :=
  if ((s.cl[p.val]).settingsDiffer w).1 then s.setCl p (·.applySettings w) else s

/-- The settings touch the port alone. -/
theorem State.withWord_facts (s : State) (p : ClPortId) (w : BitVec 32) :
    (s.withWord p w).streams = s.streams ∧ (s.withWord p w).fore = s.fore ∧ (s.withWord p w).draws = s.draws
    ∧ (s.withWord p w).clk = s.clk
    ∧ (s.withWord p w).cl[p.val]
      = (if ((s.cl[p.val]).settingsDiffer w).1 then (s.cl[p.val]).applySettings w else s.cl[p.val]) := by
  unfold State.withWord
  split
  · exact ⟨rfl, rfl, rfl, rfl, State.setCl_at _ _ _⟩
  · exact ⟨rfl, rfl, rfl, rfl, rfl⟩

/-- What a command's link settings do: refused, applied with a retrain, or without one (R185). -/
theorem State.withSettings_cases (s : State) (id : Nat) (x : CtxId) (p : ClPortId) (w : BitVec 32)
    (begin' soon : State → State) :
    (((s.cl[p.val]).settingsDiffer w).1 = true → s.settingsHeld p x = true →
      s.withSettings id x p w begin' soon = s.finish id stBusy 8 0)
    ∧ (((s.cl[p.val]).settingsDiffer w).2 = false →
      (((s.cl[p.val]).settingsDiffer w).1 = true → s.settingsHeld p x = false) →
      s.withSettings id x p w begin' soon = soon (begin' (s.withWord p w)))
    ∧ (((s.cl[p.val]).settingsDiffer w).2 = true → s.settingsHeld p x = false →
      s.withSettings id x p w begin' soon
        = (((begin' (s.withWord p w)).setCl p (fun x => { x with retrainCmd := some id })).hold id).retrain p) := by
  unfold State.withSettings State.withWord
  generalize (s.cl[p.val]).settingsDiffer w = d
  obtain ⟨differs, ctle⟩ := d
  dsimp only
  refine ⟨fun differ held => ?_, fun light free => ?_, fun heavy free => ?_⟩
  · exact if_pos (by rw [differ, held]; rfl)
  · refine (if_neg ?_).trans (if_neg (by rw [light]; exact Bool.false_ne_true))
    cases differs
    · exact Bool.false_ne_true
    · rw [free rfl]
      exact Bool.false_ne_true
  · exact (if_neg (by rw [free, Bool.and_false]; exact Bool.false_ne_true)).trans (if_pos heavy)

/-- No other context of a port is open where nothing holds its settings. -/
theorem State.settingsHeld_false (free : s.settingsHeld p x = false) (y : CtxId) (other : y ≠ x) :
    ¬ ((s.streams[y.val]).isOpen = true ∧ (s.streams[y.val]).cfg.source = 0 ∧ (s.streams[y.val]).cfg.port = p.val) := by
  rintro ⟨isOpen, source, port⟩
  unfold State.settingsHeld at free
  rw [Bool.or_eq_false_iff] at free
  have all := List.any_eq_false.mp free.2 y (List.mem_finRange y)
  exact all (by simp [other, isOpen, source, port])

/-- A command that retrains a port that nothing else holds: it is at work until the port is up again, where the
command's own stream is not bound and waits for nothing else. -/
theorem State.retrainFor {u : State} {id : Nat} {c : Cmd} (taken : u.cmd id = some c)
    (alone : ∀ y : CtxId, y ≠ x →
      ¬ ((u.streams[y.val]).isOpen = true ∧ (u.streams[y.val]).cfg.source = 0 ∧ (u.streams[y.val]).cfg.port = p.val))
    (settled : (u.streams[x.val]).opening = none ∨ (u.streams[x.val]).opening = some id)
    (unbound : (u.streams[x.val]).bound = none) :
    let t := ((u.setCl p (fun x => { x with retrainCmd := some id })).hold id).retrain p
    t.cmd id = some { c with phase := .running }
    ∧ (∀ y : CtxId, (t.streams[y.val]).isOpen = (u.streams[y.val]).isOpen
      ∧ (t.streams[y.val]).opening = (u.streams[y.val]).opening)
    ∧ (t.cl[p.val]).state = .down ∧ (t.cl[p.val]).retrainCmd = some id
    ∧ (t.cl[p.val]).ctleFixed = (u.cl[p.val]).ctleFixed ∧ (t.cl[p.val]).ctlePreset = (u.cl[p.val]).ctlePreset := by
  intro t
  generalize hv : (u.setCl p (fun x => { x with retrainCmd := some id })).hold id = v
  have made : t = v.retrain p := by rw [← hv]
  have streams : v.streams = u.streams := by rw [← hv]; rfl
  have port : v.cl[p.val] = { u.cl[p.val] with retrainCmd := some id } := by
    rw [← hv]
    exact State.setCl_at u p (fun x => { x with retrainCmd := some id })
  have running : v.cmd id = some { c with phase := .running } := by
    rw [← hv]
    exact State.hold_cmd taken
  have waiters : v.seedWaiters p = [] := by
    unfold State.seedWaiters
    rw [List.filter_eq_nil_iff]
    intro y _ waits
    rw [streams, port] at waits
    simp only [Bool.and_eq_true, beq_iff_eq, bne_iff_ne, ne_eq] at waits
    obtain ⟨⟨⟨⟨isOpen, source⟩, onPort⟩, opens⟩, other⟩ := waits
    by_cases same : y = x
    · subst same
      rcases settled with none | own
      · rw [none] at opens
        cases opens
      · exact other own
    · exact alone y same ⟨isOpen, source, onPort⟩
  obtain ⟨fore, held, down, cmd, ctle, preset⟩ := State.retrain_links (s := v) waiters (fun y isOpen source onPort => by
    rw [streams] at isOpen source onPort ⊢
    by_cases same : y = x
    · rw [same, unbound]
    · exact absurd ⟨isOpen, source, onPort⟩ (alone y same))
  rw [made, cmd, ctle, preset, port]
  refine ⟨?_, fun y => ?_, down, rfl, rfl, rfl⟩
  · rw [← running]
    unfold State.cmd
    rw [fore]
  · rw [← streams]
    exact held y

end Settings

/-! ## STREAM_OPEN -/

section Open
variable {s : State} {id : Nat} {c : Cmd} {x : CtxId}

/-- The row of STREAM_OPEN for a context. -/
theorem streamOpen_next (b : s.Begins id .streamOpen c) (names : c.arg 16 1 = x.val) :
    exec (.streamOpen id) s = .next (match s.streamBlockBad c.block with
      | some d => s.finish id stBadParam d 0
      | none => match s.openBad c.fn x (parseStream c.block) with
        | some (st, d) => s.finish id st d 0
        | none => if (parseStream c.block).source = 0 then
            s.withSettings id x (Fin.ofNat 24 (parseStream c.block).port) (parseStream c.block).linkSettings
              (fun s => s.setStream x (fun _ => openStream c.fn (parseStream c.block) (some id)))
              (fun s => (s.hold id).drawSeed x)
          else (s.setStream x (fun _ =>
            { openStream c.fn (parseStream c.block) none with awaitGap := s.uartBusy (parseStream c.block) })).finish
              id stOk 0 0) := by
  obtain rfl : Fin.ofNat 48 (c.arg 16 1) = x := by rw [names]; exact Fin.ext (Nat.mod_eq_of_lt x.isLt)
  exact b.next

/-- A context that is opened and whose seed is drawn: at work until the seed is acknowledged (R180, R211). -/
theorem State.openSoon_facts {u : State} (taken : u.cmd id = some c) (x : CtxId) (p : ClPortId) (cfg : StreamCfg)
    (f : FnId) (port : cfg.port = p.val) :
    let t := ((u.setStream x (fun _ => openStream f cfg (some id))).hold id).drawSeed x
    t.cmd id = some { c with phase := .running } ∧ (t.streams[x.val]).isOpen = true
    ∧ (t.streams[x.val]).opening = some id ∧ (t.streams[x.val]).newSeed = some (Config.freeWord u.draws)
    ∧ (∀ y : CtxId, y ≠ x → t.streams[y.val] = u.streams[y.val])
    ∧ (t.cl[p.val]).dfeFreeze = (u.cl[p.val]).dfeFreeze := by
  intro t
  generalize hv : (u.setStream x (fun _ => openStream f cfg (some id))).hold id = v
  have running : v.cmd id = some { c with phase := .running } := by
    rw [← hv]
    exact State.hold_cmd taken
  have draws : v.draws = u.draws := by rw [← hv]; rfl
  have cl : v.cl = u.cl := by rw [← hv]; rfl
  have streams : v.streams = (u.setStream x (fun _ => openStream f cfg (some id))).streams := by rw [← hv]; rfl
  have own : v.streams[x.val] = openStream f cfg (some id) := by rw [streams, State.setStream_at]
  have num : (Fin.ofNat 24 (v.streams[x.val]).cfg.port : ClPortId) = p := by
    rw [own]
    exact Fin.ext (by rw [show (openStream f cfg (some id)).cfg.port = p.val from port]; exact Nat.mod_eq_of_lt p.isLt)
  let drawn : State := { v with draws := v.draws + 1 }
  generalize hw : drawn.setStream x (fun y => { y with newSeed := some (Config.freeWord v.draws), seedFrames := 0 }) = w
  have made : t = w.bcSend p 5 (leBytes 1 (v.streams[x.val]).cfg.sub ++ leBytes 4 (Config.freeWord v.draws).toNat) := by
    refine (congrArg (State.drawSeed · x) hv).trans ?_
    unfold State.drawSeed
    dsimp only
    rw [num, ← hw]
  have stream : w.streams[x.val] = { openStream f cfg (some id) with
      newSeed := some (Config.freeWord u.draws), seedFrames := 0 } := by
    rw [← hw, State.setStream_at, draws, ← own]
  have sent : t.streams = w.streams := by rw [made]; rfl
  refine ⟨?_, by rw [sent, stream]; rfl, by rw [sent, stream]; rfl, by rw [sent, stream], fun y n => ?_, ?_⟩
  · rw [made, ← hw]
    exact running
  · rw [sent, ← hw, State.setStream_ne _ _ _ n, show drawn.streams = v.streams from rfl, streams,
      State.setStream_ne _ _ _ n]
  · rw [made, State.bcSend_cl, ← hw, State.setStream_cl, show drawn.cl = v.cl from rfl, cl]

/-- A context that is opened and whose port is retrained: at work until the port is up again (R185). -/
theorem State.openRetrains_facts {u : State} (taken : u.cmd id = some c) (x : CtxId) (p : ClPortId) (cfg : StreamCfg)
    (f : FnId) (alone : ∀ y : CtxId, y ≠ x →
      ¬ ((u.streams[y.val]).isOpen = true ∧ (u.streams[y.val]).cfg.source = 0 ∧ (u.streams[y.val]).cfg.port = p.val)) :
    let t := (((u.setStream x (fun _ => openStream f cfg (some id))).setCl p
      (fun x => { x with retrainCmd := some id })).hold id).retrain p
    t.cmd id = some { c with phase := .running } ∧ (t.streams[x.val]).isOpen = true
    ∧ (t.streams[x.val]).opening = some id ∧ (t.cl[p.val]).state = .down
    ∧ (t.cl[p.val]).retrainCmd = some id ∧ (t.cl[p.val]).ctleFixed = (u.cl[p.val]).ctleFixed
    ∧ (t.cl[p.val]).ctlePreset = (u.cl[p.val]).ctlePreset := by
  intro t
  generalize hv : u.setStream x (fun _ => openStream f cfg (some id)) = v
  have made : t = ((v.setCl p (fun x => { x with retrainCmd := some id })).hold id).retrain p := by rw [← hv]
  have own : v.streams[x.val] = openStream f cfg (some id) := by rw [← hv, State.setStream_at]
  have cl : v.cl = u.cl := by rw [← hv, State.setStream_cl]
  have takenStill : v.cmd id = some c := by rw [← hv]; exact taken
  obtain ⟨running, kept, down, cmd, ctle, preset⟩ := State.retrainFor (u := v) (p := p) (x := x) takenStill
    (fun y other => by rw [← hv, State.setStream_ne _ _ _ other]; exact alone y other)
    (.inr (by rw [own]; rfl)) (by rw [own]; rfl)
  obtain ⟨isOpen, opening⟩ := kept x
  rw [own] at isOpen opening
  rw [cl] at ctle preset
  rw [made]
  exact ⟨running, isOpen, opening, down, cmd, ctle, preset⟩

/-- STREAM_OPEN: its refusals, an open that is at once, and the three of a Chroylink port. -/
theorem streamOpen_spec (b : s.Begins id .streamOpen c) (names : c.arg 16 1 = x.val) :
    let cfg := parseStream c.block
    let w := cfg.linkSettings
    ∃ t, exec (.streamOpen id) s = .next t
      ∧ (∀ d, s.streamBlockBad c.block = some d → Completed s t id c stBadParam d 0 ∧ t.streams = s.streams)
      ∧ (∀ st d, s.streamBlockBad c.block = none → s.openBad c.fn x cfg = some (st, d) →
          Completed s t id c st d 0 ∧ t.streams = s.streams)
      ∧ (s.streamBlockBad c.block = none → s.openBad c.fn x cfg = none → cfg.source ≠ 0 →
          Completed s t id c stOk 0 0
          ∧ t.streams[x.val] = { openStream c.fn cfg none with awaitGap := s.uartBusy cfg }
          ∧ ∀ y : CtxId, y ≠ x → t.streams[y.val] = s.streams[y.val])
      ∧ (∀ p : ClPortId, s.streamBlockBad c.block = none → s.openBad c.fn x cfg = none → cfg.source = 0 → cfg.port = p.val →
          (((s.cl[p.val]).settingsDiffer w).1 = true → s.settingsHeld p x = true →
            Completed s t id c stBusy 8 0 ∧ t.streams = s.streams)
          ∧ (((s.cl[p.val]).settingsDiffer w).2 = false →
              (((s.cl[p.val]).settingsDiffer w).1 = true → s.settingsHeld p x = false) →
            t.cmd id = some { c with phase := .running } ∧ (t.streams[x.val]).isOpen = true
            ∧ (t.streams[x.val]).opening = some id ∧ (t.streams[x.val]).newSeed = some (Config.freeWord s.draws)
            ∧ (∀ y : CtxId, y ≠ x → t.streams[y.val] = s.streams[y.val])
            ∧ (t.cl[p.val]).dfeFreeze =
                (if ((s.cl[p.val]).settingsDiffer w).1 then w.getLsbD 8 else (s.cl[p.val]).dfeFreeze))
          ∧ (((s.cl[p.val]).settingsDiffer w).2 = true → s.settingsHeld p x = false →
            t.cmd id = some { c with phase := .running } ∧ (t.streams[x.val]).isOpen = true
            ∧ (t.streams[x.val]).opening = some id ∧ (t.cl[p.val]).state = .down
            ∧ (t.cl[p.val]).retrainCmd = some id ∧ (t.cl[p.val]).ctleFixed = w.getLsbD 3
            ∧ (t.cl[p.val]).ctlePreset = w.extractLsb' 0 3)) := by
  intro cfg w
  refine ⟨_, streamOpen_next b names, fun d bad => ?_, fun st d good bad => ?_, fun good opens source => ?_,
    fun p good opens source port => ?_⟩
  · rw [bad]
    exact ⟨b.done rfl, rfl⟩
  · rw [good]
    dsimp only
    rw [show s.openBad c.fn x (parseStream c.block) = _ from bad]
    exact ⟨b.done rfl, rfl⟩
  · rw [good]
    dsimp only
    rw [show s.openBad c.fn x (parseStream c.block) = _ from opens]
    dsimp only
    rw [if_neg source]
    let g : Stream → Stream := fun _ => { openStream c.fn cfg none with awaitGap := s.uartBusy cfg }
    exact ⟨b.done (u := s.setStream x g) rfl, State.setStream_at s x g, fun y n => State.setStream_ne s x y n g⟩
  · rw [good]
    dsimp only
    rw [show s.openBad c.fn x (parseStream c.block) = _ from opens]
    dsimp only
    have num : (Fin.ofNat 24 (parseStream c.block).port : ClPortId) = p :=
      Fin.ext (by rw [show (Fin.ofNat 24 (parseStream c.block).port : ClPortId).val = cfg.port % 24 from rfl, port]
                  exact Nat.mod_eq_of_lt p.isLt)
    rw [if_pos source, num]
    obtain ⟨refused, light, heavy⟩ := s.withSettings_cases id x p w
      (fun s => s.setStream x (fun _ => openStream c.fn cfg (some id))) (fun s => (s.hold id).drawSeed x)
    obtain ⟨streams, fore, draws, -, cl⟩ := s.withWord_facts p w
    have taken : (s.withWord p w).cmd id = some c := by
      rw [← b.cmd]
      unfold State.cmd
      rw [fore]
    refine ⟨fun differ held => ?_, fun isLight free => ?_, fun isHeavy free => ?_⟩
    · rw [refused differ held]
      exact ⟨b.done rfl, rfl⟩
    · rw [light isLight free]
      obtain ⟨running, isOpen, opening, seed, others, freeze⟩ := State.openSoon_facts taken x p cfg c.fn port
      refine ⟨running, isOpen, opening, by rw [seed, draws], fun y n => by rw [others y n, streams], ?_⟩
      rw [freeze, cl]
      split <;> rfl
    · rw [heavy isHeavy free]
      obtain ⟨running, isOpen, opening, down, cmd, ctle, preset⟩ := State.openRetrains_facts taken x p cfg c.fn
        (fun y other => by rw [streams]; exact State.settingsHeld_false free y other)
      rw [cl, if_pos (ClPort.settingsDiffer_of_retrain _ w isHeavy)] at ctle preset
      exact ⟨running, isOpen, opening, down, cmd, ctle, preset⟩

end Open

/-! ## STREAM_CLOSE -/

/-- Entries that all wait for their runs are not written. -/
theorem State.flush_waits {s : State} {x : CtxId} (waits : ∀ e ∈ (s.streams[x.val]).entries, e.run.isSome = true) :
    s.flush x = s.setStream x Stream.endBinding := by
  unfold State.flush
  congr 1
  cases entries : (s.streams[x.val]).entries with
  | nil => rfl
  | cons e rest =>
    change (match (s.streams[x.val]).entries, (s.streams[x.val]).bound with | e :: rest, some b => _ | _, _ => s) = s
    rw [entries]
    cases (s.streams[x.val]).bound with
    | none => rfl
    | some b => exact if_pos (waits e (by rw [entries]; exact List.mem_cons_self))

/-- The end of a binding leaves the frame in progress. -/
theorem Stream.endBinding_asm (x : Stream) : x.endBinding.asm = x.asm := by
  unfold Stream.endBinding
  split
  · split <;> rfl
  · rfl

/-- The frame in progress of a stream that closes ends, and its binding (R193). -/
def State.endingStream (s : State) (x : CtxId) : State :=
  ((s.breakFrame x).setStream x (fun y => { y with bound := y.bound.map (fun b => { b with ending := true }) })).setStream
    x Stream.endBinding

theorem State.endingStream_facts (s : State) (x : CtxId) : (s.endingStream x).fore = s.fore
    ∧ (s.endingStream x).clk = s.clk ∧ ((s.endingStream x).streams[x.val]).asm = none := by
  obtain ⟨m, frame, gone⟩ := s.breakFrame_facts x
  unfold State.endingStream
  refine ⟨?_, ?_, ?_⟩
  · rw [State.setStream_fore, State.setStream_fore, frame]
  · rw [State.setStream_clk, State.setStream_clk, frame]
  · rw [State.setStream_at, Stream.endBinding_asm, State.setStream_at, gone]
    simp

section Close
variable {s : State} {id : Nat} {c : Cmd} {x : CtxId}

/-- The row of STREAM_CLOSE for a context. -/
theorem streamClose_next (b : s.Begins id .streamClose c) (names : c.arg 16 1 = x.val) :
    exec (.streamClose id) s = .next (
      if !s.ownsOpen c.fn x then s.finish id stBadParam 16 0
      else
        let t := (((s.breakFrame x).setStream x (fun y => { y with
          bound := y.bound.map (fun b => { b with ending := true }) })).cancelUnbegun x).flush x
        if t.fore.runs.any (fun r => r.ofCtx x) then (t.setStream x (fun y => { y with closing := some id })).hold id
        else (t.setStream x Stream.close).finish id stOk 0 0) := by
  obtain rfl : Fin.ofNat 48 (c.arg 16 1) = x := by rw [names]; exact Fin.ext (Nat.mod_eq_of_lt x.isLt)
  exact b.next

/-- A close of the function's own context, none of whose runs waits to begin and none of whose entries is due. -/
theorem streamClose_owned (b : s.Begins id .streamClose c) (names : c.arg 16 1 = x.val)
    (owns : s.ownsOpen c.fn x = true) (begun : ∀ r ∈ s.fore.runs, r.ofCtx x = true → r.begun = true)
    (waits : ∀ e ∈ (s.streams[x.val]).entries, e.run.isSome = true) : exec (.streamClose id) s = .next (
      if s.fore.runs.any (fun r => r.ofCtx x) then
        ((s.endingStream x).setStream x (fun y => { y with closing := some id })).hold id
      else ((s.endingStream x).setStream x Stream.close).finish id stOk 0 0) := by
  rw [streamClose_next b names, owns]
  dsimp only
  rw [if_neg (by decide)]
  obtain ⟨m, frame, gone⟩ := s.breakFrame_facts x
  generalize hu : (s.breakFrame x).setStream x (fun y => { y with
    bound := y.bound.map (fun b => { b with ending := true }) }) = u
  have fore : u.fore = s.fore := by rw [← hu, State.setStream_fore, frame]
  have entries : (u.streams[x.val]).entries = (s.streams[x.val]).entries := by
    rw [← hu, State.setStream_at, gone]
    simp
  rw [State.cancelUnbegun_begun u x (by rw [fore]; exact begun), State.flush_waits (by rw [entries]; exact waits),
    State.setStream_fore, fore, ← hu]
  rfl

/-- STREAM_CLOSE: refused, done at once, or at work until the begun runs are done. -/
theorem streamClose_spec (b : s.Begins id .streamClose c) (names : c.arg 16 1 = x.val) :
    ∃ t, exec (.streamClose id) s = .next t
      ∧ (s.ownsOpen c.fn x = false → Completed s t id c stBadParam 16 0 ∧ t.streams = s.streams)
      ∧ (s.ownsOpen c.fn x = true → (∀ r ∈ s.fore.runs, r.ofCtx x = false) →
          (∀ e ∈ (s.streams[x.val]).entries, e.run.isSome = true) →
          Completed s t id c stOk 0 0 ∧ (t.streams[x.val]).isOpen = false ∧ (t.streams[x.val]).bound = none)
      ∧ (s.ownsOpen c.fn x = true → (∀ r ∈ s.fore.runs, r.ofCtx x = true → r.begun = true) →
          (∃ r ∈ s.fore.runs, r.ofCtx x = true) → (∀ e ∈ (s.streams[x.val]).entries, e.run.isSome = true) →
          t.cmd id = some { c with phase := .running } ∧ (t.streams[x.val]).closing = some id
          ∧ (t.streams[x.val]).asm = none ∧ t.fore.runs = s.fore.runs) := by
  obtain ⟨fore, clk, asm⟩ := s.endingStream_facts x
  refine ⟨_, streamClose_next b names, fun foreign => ?_, fun owns none waits => ?_, fun owns begun some waits => ?_⟩
  · rw [foreign, if_pos (by decide)]
    exact ⟨b.done rfl, rfl⟩
  · have row := streamClose_owned b names owns (fun r mem own => absurd own (by rw [none r mem]; exact Bool.false_ne_true))
      waits
    rw [if_neg (by rw [List.any_eq_true]; rintro ⟨r, mem, own⟩; rw [none r mem] at own; cases own)] at row
    have made := Host.Outcome.next.inj ((streamClose_next b names).symm.trans row)
    rw [made]
    have closed := State.setStream_at (s.endingStream x) x Stream.close
    exact ⟨b.done (u := (s.endingStream x).setStream x Stream.close) (congrArg Foreman.taken fore),
      congrArg Stream.isOpen closed, congrArg Stream.bound closed⟩
  · have row := streamClose_owned b names owns begun waits
    rw [if_pos (List.any_eq_true.mpr some)] at row
    have made := Host.Outcome.next.inj ((streamClose_next b names).symm.trans row)
    rw [made]
    let closing : Stream → Stream := fun y => { y with closing := .some id }
    have own := State.setStream_at (s.endingStream x) x closing
    have taken : ((s.endingStream x).setStream x closing).cmd id = .some c := by
      rw [← b.cmd]
      unfold State.cmd
      rw [State.setStream_fore, fore]
    have same : (s.endingStream x).fore.runs = s.fore.runs := congrArg Foreman.runs fore
    exact ⟨State.hold_cmd taken, congrArg Stream.closing own, (congrArg Stream.asm own).trans asm, same⟩

/-- STREAM_CLOSE completes with its last begun run, or after its time (R193). -/
theorem streamCloseDone_spec (runs : s.rootRuns = true) (closing : (s.streams[x.val]).closing = some id)
    (fresh : (s.streams[x.val]).closeDone = false) (cmd : s.cmd id = some c) (live : c.live = true) :
    ∃ t, exec (.streamCloseDone x) s = .next t ∧ Completed s t id c stOk 0 0
      ∧ ((∀ r ∈ s.fore.runs, r.ofCtx x = false) → (t.streams[x.val]).isOpen = false)
      ∧ ((∃ r ∈ s.fore.runs, r.ofCtx x = true) → t.streams[x.val] = { s.streams[x.val] with closeDone := true })
      ∧ (∀ y : CtxId, y ≠ x → t.streams[y.val] = s.streams[y.val]) ∧ t.fore.runs = s.fore.runs := by
  let mark : Stream → Stream := fun y => { y with closeDone := true }
  have own : (s.setStream x mark).streams[x.val] = mark s.streams[x.val] := State.setStream_at s x mark
  have done : ((s.setStream x mark).streams[x.val]).closeDone = true := by rw [own]
  refine ⟨_, next_when_pos runs, ?_⟩
  rw [closing]
  dsimp only
  rw [if_neg (by rw [fresh]; exact Bool.false_ne_true)]
  change let t := ((s.setStream x mark).closeIdle x).finish id stOk 0 0; Completed s t id c stOk 0 0 ∧ _
  unfold State.closeIdle
  rw [done, Bool.true_and]
  cases left : (s.setStream x mark).fore.runs.any (fun r => r.ofCtx x) with
  | true =>
    obtain ⟨r, mem, its⟩ := List.any_eq_true.mp left
    refine ⟨State.finish_completed (u := s.setStream x mark) cmd live rfl _ _ _, fun none => ?_, fun _ => own,
      fun y n => State.setStream_ne s x y n mark, rfl⟩
    rw [none r mem] at its
    cases its
  | false =>
    refine ⟨State.finish_completed (u := (s.setStream x mark).setStream x Stream.close) cmd live rfl _ _ _, fun _ => ?_, fun some => ?_, fun y n => ?_, rfl⟩
    · exact congrArg Stream.isOpen (State.setStream_at (s.setStream x mark) x Stream.close)
    · obtain ⟨r, mem, its⟩ := some
      exact absurd its (List.any_eq_false.mp left r mem)
    · exact (State.setStream_ne (s.setStream x mark) x y n Stream.close).trans (State.setStream_ne s x y n mark)

end Close

/-! ## STREAM_CONFIG and GUARD_CONFIG -/

section Config
variable {s : State} {id : Nat} {c : Cmd} {x : CtxId}

/-- Settings that wait for the next start of frame (R192). -/
def Stream.withNext (y : Stream) (cfg : StreamCfg) : Stream := { y with nextCfg := some cfg }

/-- A STREAM_CONFIG that is accepted. -/
theorem State.configured_eq {u : State} (taken : u.cmd id = some c) (names : c.arg 16 1 = x.val) :
    u.configured id = (u.setStream x (·.withNext (parseStream c.block))).finish id stOk 0 0 := by
  unfold State.configured
  rw [taken]
  obtain rfl : Fin.ofNat 48 (c.arg 16 1) = x := by rw [names]; exact Fin.ext (Nat.mod_eq_of_lt x.isLt)
  rfl

/-- The row of STREAM_CONFIG for a context. -/
theorem streamConfig_next (b : s.Begins id .streamConfig c) (names : c.arg 16 1 = x.val) :
    exec (.streamConfig id) s = .next (
      if !s.ownsOpen c.fn x then s.finish id stBadParam 16 0
      else match s.streamBlockBad c.block with
      | some d => s.finish id stBadParam d 0
      | none => match s.configBad c.fn s.streams[x.val] (parseStream c.block) with
        | some (st, d) => s.finish id st d 0
        | none => if (parseStream c.block).source = 0 then
            s.withSettings id x (Fin.ofNat 24 (parseStream c.block).port) (parseStream c.block).linkSettings
              (fun s => s) (fun s => s.configured id)
          else s.configured id) := by
  obtain rfl : Fin.ofNat 48 (c.arg 16 1) = x := by rw [names]; exact Fin.ext (Nat.mod_eq_of_lt x.isLt)
  exact b.next

/-- STREAM_CONFIG: its refusals, settings that wait, and the three of a Chroylink port. -/
theorem streamConfig_spec (b : s.Begins id .streamConfig c) (names : c.arg 16 1 = x.val) :
    let cfg := parseStream c.block
    let w := cfg.linkSettings
    ∃ t, exec (.streamConfig id) s = .next t
      ∧ (s.ownsOpen c.fn x = false → Completed s t id c stBadParam 16 0 ∧ t.streams = s.streams)
      ∧ (∀ d, s.ownsOpen c.fn x = true → s.streamBlockBad c.block = some d →
          Completed s t id c stBadParam d 0 ∧ t.streams = s.streams)
      ∧ (∀ st d, s.ownsOpen c.fn x = true → s.streamBlockBad c.block = none → s.configBad c.fn s.streams[x.val] cfg = some (st, d) →
          Completed s t id c st d 0 ∧ t.streams = s.streams)
      ∧ (s.ownsOpen c.fn x = true → s.streamBlockBad c.block = none → s.configBad c.fn s.streams[x.val] cfg = none →
          cfg.source ≠ 0 → Completed s t id c stOk 0 0
          ∧ t.streams[x.val] = (s.streams[x.val]).withNext cfg)
      ∧ (∀ p : ClPortId, s.ownsOpen c.fn x = true → s.streamBlockBad c.block = none →
          s.configBad c.fn s.streams[x.val] cfg = none → cfg.source = 0 → cfg.port = p.val →
          (((s.cl[p.val]).settingsDiffer w).1 = true → s.settingsHeld p x = true →
            Completed s t id c stBusy 8 0 ∧ t.streams = s.streams)
          ∧ (((s.cl[p.val]).settingsDiffer w).2 = false →
              (((s.cl[p.val]).settingsDiffer w).1 = true → s.settingsHeld p x = false) →
            Completed s t id c stOk 0 0 ∧ t.streams[x.val] = (s.streams[x.val]).withNext cfg
            ∧ t.cl[p.val] = (if ((s.cl[p.val]).settingsDiffer w).1 then (s.cl[p.val]).applySettings w else s.cl[p.val]))
          ∧ (((s.cl[p.val]).settingsDiffer w).2 = true → s.settingsHeld p x = false → (t.cl[p.val]).state = .down
            ∧ ((s.streams[x.val]).bound = none → t.cmd id = some { c with phase := .running }
              ∧ (t.cl[p.val]).retrainCmd = some id))) := by
  intro cfg w
  refine ⟨_, streamConfig_next b names, fun foreign => ?_, fun d owns bad => ?_, fun st d owns good bad => ?_,
    fun owns good fits source => ?_, fun p owns good fits source port => ?_⟩
  · rw [foreign, if_pos (by decide)]
    exact ⟨b.done rfl, rfl⟩
  · rw [owns, if_neg (by decide), bad]
    exact ⟨b.done rfl, rfl⟩
  · rw [owns, if_neg (by decide), good]
    dsimp only
    rw [show s.configBad c.fn s.streams[x.val] (parseStream c.block) = _ from bad]
    exact ⟨b.done rfl, rfl⟩
  · rw [owns, if_neg (by decide), good]
    dsimp only
    rw [show s.configBad c.fn s.streams[x.val] (parseStream c.block) = _ from fits]
    dsimp only
    rw [if_neg source, State.configured_eq b.cmd names]
    exact ⟨b.done (u := s.setStream x (·.withNext cfg)) rfl, State.setStream_at s x (·.withNext cfg)⟩
  · rw [owns, if_neg (by decide), good]
    dsimp only
    rw [show s.configBad c.fn s.streams[x.val] (parseStream c.block) = _ from fits]
    dsimp only
    have num : (Fin.ofNat 24 (parseStream c.block).port : ClPortId) = p :=
      Fin.ext (by rw [show (Fin.ofNat 24 (parseStream c.block).port : ClPortId).val = cfg.port % 24 from rfl, port]
                  exact Nat.mod_eq_of_lt p.isLt)
    rw [if_pos source, num]
    obtain ⟨refused, light, heavy⟩ := s.withSettings_cases id x p w (fun s => s) (fun s => s.configured id)
    obtain ⟨streams, fore, -, clk, cl⟩ := s.withWord_facts p w
    have taken : (s.withWord p w).cmd id = some c := by
      rw [← b.cmd]
      unfold State.cmd
      rw [fore]
    refine ⟨fun differ held => ?_, fun isLight free => ?_, fun isHeavy free => ?_⟩
    · rw [refused differ held]
      exact ⟨b.done rfl, rfl⟩
    · rw [light isLight free, State.configured_eq taken names]
      generalize s.withWord p w = u at streams fore clk cl
      have formed := State.finish_completed (s := s) (u := u.setStream x (·.withNext cfg)) b.cmd b.live
        (congrArg Foreman.taken fore) stOk 0 0
      refine ⟨formed, ?_, cl⟩
      rw [← streams]
      exact State.setStream_at u x (·.withNext cfg)
    · rw [heavy isHeavy free]
      refine ⟨(State.retrain_fields _ p).1, fun unbound => ?_⟩
      have settled : (s.streams[x.val]).opening = none := by
        simp only [State.ownsOpen, Bool.and_eq_true, Option.isNone_iff_eq_none] at owns
        obtain ⟨⟨⟨-, opening⟩, -⟩, -⟩ := owns
        exact opening
      obtain ⟨running, -, -, waits, -⟩ := State.retrainFor (u := s.withWord p w) (p := p) (x := x) taken
        (fun y other => by rw [streams]; exact State.settingsHeld_false free y other)
        (.inl (by rw [streams]; exact settled)) (by rw [streams]; exact unbound)
      exact ⟨running, waits⟩

/-- The row of GUARD_CONFIG for a context. -/
theorem guardConfig_next (b : s.Begins id .guardConfig c) (names : c.arg 16 1 = x.val) :
    let cur := (s.streams[x.val]).accepted
    exec (.guardConfig id) s = .next (
      if !s.ownsOpen c.fn x then s.finish id stBadParam 16 0
      else match lowestBad (guardFields c.block 0 cur.source cur.periodUs cur.frameBytes) with
      | some o => s.badBlock id o
      | none =>
        if s.guardWeak cur.source cur.cls (parseGuard c.block 0) then s.finish id stBadParam 0xFFFF 0
        else (s.setStream x (·.withNext { cur with guard := parseGuard c.block 0 })).finish id stOk 0 0) := by
  obtain rfl : Fin.ofNat 48 (c.arg 16 1) = x := by rw [names]; exact Fin.ext (Nat.mod_eq_of_lt x.isLt)
  exact b.next

/-- GUARD_CONFIG: its refusals, and a guard that waits for the next start of frame. -/
theorem guardConfig_spec (b : s.Begins id .guardConfig c) (names : c.arg 16 1 = x.val) :
    let cur := (s.streams[x.val]).accepted
    let g := parseGuard c.block 0
    let bad := lowestBad (guardFields c.block 0 cur.source cur.periodUs cur.frameBytes)
    ∃ t, exec (.guardConfig id) s = .next t
      ∧ (s.ownsOpen c.fn x = false → Completed s t id c stBadParam 16 0 ∧ t.streams = s.streams)
      ∧ (∀ o, s.ownsOpen c.fn x = true → bad = some o →
          Completed s t id c stBadParam (BitVec.ofNat 16 (0x8000 + o)) 0 ∧ t.streams = s.streams)
      ∧ (s.ownsOpen c.fn x = true → bad = none → s.guardWeak cur.source cur.cls g = true →
          Completed s t id c stBadParam 0xFFFF 0 ∧ t.streams = s.streams)
      ∧ (s.ownsOpen c.fn x = true → bad = none → s.guardWeak cur.source cur.cls g = false →
          Completed s t id c stOk 0 0
          ∧ t.streams[x.val] = (s.streams[x.val]).withNext { cur with guard := g }) := by
  intro cur g bad
  refine ⟨_, guardConfig_next b names, fun foreign => ?_, fun o owns lowest => ?_, fun owns good weak => ?_,
    fun owns good strong => ?_⟩
  · rw [foreign, if_pos (by decide)]
    exact ⟨b.done rfl, rfl⟩
  · rw [owns, if_neg (by decide), show lowestBad _ = _ from lowest]
    exact ⟨b.done rfl, rfl⟩
  · rw [owns, if_neg (by decide), show lowestBad _ = _ from good]
    dsimp only
    rw [if_pos weak]
    exact ⟨b.done rfl, rfl⟩
  · rw [owns, if_neg (by decide), show lowestBad _ = _ from good]
    dsimp only
    rw [if_neg (by rw [show s.guardWeak _ _ _ = false from strong]; exact Bool.false_ne_true)]
    let next : Stream → Stream := (·.withNext { cur with guard := g })
    exact ⟨b.done (u := s.setStream x next) rfl, State.setStream_at s x next⟩

end Config

/-- Settles O48: the four commands of a stream by their checks, and the end of a close. -/
theorem streamCommands : Obligations.StreamCommands := by
  unfold Obligations.StreamCommands
  exact ⟨fun s id c x b names => streamOpen_spec b names, fun s id c x b names => streamClose_spec b names,
    fun s x id c runs closing fresh cmd live => streamCloseDone_spec runs closing fresh cmd live,
    fun s id c x b names => streamConfig_spec b names, fun s id c x b names => guardConfig_spec b names⟩

end Sys2Proof.Machine

/-!
GRAPH_LOAD, GRAPH_UNLOAD, BIND_STREAM and RESERVE (R94, R146, R247 to R249, R306 to R308, R357).
-/

namespace Sys2Proof.Machine

/-! ### What a store leaves -/

/-- A line written changes its own bytes alone. -/
theorem Memory.putLine_outside {m : Memory} {l a : Nat} {b : Bytes} (wf : m.wf = true)
    (apart : a < 256 * l ∨ 256 * l + b.length ≤ a) : (m.putLine l b).byte a = m.byte a := by
  simp only [Memory.wf, Bool.and_eq_true] at wf
  exact putBytes_outside b m.cells (256 * l) a wf.1 apart

/-- A line merged changes the bytes laid over it alone. -/
theorem Memory.putLine_splice_outside {m : Memory} {k a : Nat} {b : Bytes} (wf : m.wf = true)
    (room : k % 256 + b.length ≤ 256) (apart : a < k ∨ k + b.length ≤ a) :
    (m.putLine (k / 256) (splice (m.line (k / 256)) (k % 256) b)).byte a = m.byte a := by
  have whole : (splice (m.line (k / 256)) (k % 256) b).length = 256 := by
    rw [splice_length _ _ _ (by rw [m.line_length]; exact room), m.line_length]
  by_cases inLine : a / 256 = k / 256
  · have canonical := wf
    simp only [Memory.wf, Bool.and_eq_true] at canonical
    have put := putBytes_inside (splice (m.line (k / 256)) (k % 256) b) m.cells (256 * (k / 256)) (a % 256) canonical.1
      (by omega)
    rw [splice_byte _ _ _ _ (by rw [m.line_length]; exact room), if_neg (by omega),
      m.line_byte _ _ (Nat.mod_lt a (by decide)), show 256 * (k / 256) + a % 256 = a by omega] at put
    exact put
  · exact Memory.putLine_outside wf (by omega)

/-- A write within a line changes its own bytes alone (R335). -/
theorem Memory.storeSpan_outside {m : Memory} {k a : Nat} {b : Bytes} (wf : m.wf = true)
    (room : k % 256 + b.length ≤ 256) (apart : a < k ∨ k + b.length ≤ a) : (m.storeSpan k b).1.byte a = m.byte a := by
  unfold Memory.storeSpan
  dsimp only
  split
  · next whole => exact Memory.putLine_outside wf (by omega)
  · split
    · rfl
    · split
      · rfl
      · exact Memory.putLine_splice_outside wf room apart

theorem Memory.storeLines_outside (fuel : Nat) {m : Memory} {k a : Nat} {b : Bytes} (wf : m.wf = true)
    (apart : a < k ∨ k + b.length ≤ a) : (Memory.storeLines fuel m k b).1.byte a = m.byte a := by
  induction fuel generalizing m k b with
  | zero => rfl
  | succ fuel ih =>
    have kept := m.storeSpan_wf k (b.take (256 - k % 256)) wf
    have span : (m.storeSpan k (b.take (256 - k % 256))).1.byte a = m.byte a :=
      Memory.storeSpan_outside wf (by rw [List.length_take]; omega) (by rw [List.length_take]; omega)
    unfold Memory.storeLines
    split
    · rfl
    · dsimp only
      generalize m.storeSpan k (b.take (256 - k % 256)) = part at kept span
      obtain ⟨m', e⟩ := part
      cases e with
      | some d => exact span
      | none => exact (ih kept (by rw [List.length_drop]; omega)).trans span

/-- A store changes its own bytes alone, wherever they lie (R335). -/
theorem Memory.store_outside {m : Memory} {k a : Nat} {b : Bytes} (wf : m.wf = true)
    (apart : a < k ∨ k + b.length ≤ a) : (m.store k b).1.byte a = m.byte a :=
  Memory.storeLines_outside _ wf apart

theorem fit_length (n : Nat) (b : Bytes) : (fit n b).length = n := by
  simp only [fit, List.length_take, List.length_append, zeros_length]
  omega

/-- The constants of a graph go to their places in the device's copy alone (R248). -/
theorem State.copyGraph_outside (s : State) (f : FnId) (h : Nat) (g : GraphImage) (wf : s.mem.wf = true) (a : Nat)
    (apart : ∀ x ∈ g.tensors, a < graphKey f h (g.constOff x.id) ∨ graphKey f h (g.constOff x.id) + constSpan x ≤ a) :
    (s.copyGraph f h g).mem.byte a = s.mem.byte a := by
  unfold State.copyGraph
  dsimp only
  generalize s.mem = m at wf
  generalize g.tensors = tensors at apart ⊢
  induction tensors generalizing m with
  | nil => rfl
  | cons x rest ih =>
    have later := fun y mem => apart y (List.mem_cons_of_mem x mem)
    rw [List.foldl_cons]
    split
    · exact ih m wf later
    · refine (ih _ (Memory.store_wf m _ _ wf) later).trans (Memory.store_outside wf ?_)
      rw [fit_length]
      exact apart x List.mem_cons_self

/-! ### GRAPH_LOAD -/

section Load

variable {s : State} {id : Nat} {c : Cmd} {g : GraphImage}

/-- Allocation takes no notice of what has been sent. -/
theorem State.alloc_sent (s : State) (f : FnId) (unit user n : Nat) (sent : List Sent) :
    ({ s with sent := sent } : State).alloc f unit user n
      = (s.alloc f unit user n).map (fun t => { t with sent := sent }) := by
  change (match allocPieces (s.freeFrames (portOf f)) unit user (s.port (portOf f)).frames n with
    | none => none
    | some fr => some (({ s with sent := sent } : State).setPort (portOf f) (fun p => { p with frames := fr }))) = _
  unfold State.alloc
  cases allocPieces (s.freeFrames (portOf f)) unit user (s.port (portOf f)).frames n with
  | none => rfl
  | some fr => cases portOf f <;> rfl

/-- GRAPH_LOAD's tests on an image that has been read (R247, R248). -/
def State.graphRead (s : State) (id : Nat) (c : Cmd) : ImageRead GraphImage → State
  | .hostFail _ => s
  | .badSignature => s.finish id stIntegrity 0x0100 0
  | .image g => if s.fixed.graphKeys.contains g.key then s.loadGraph c g else s.finish id stIntegrity 0x0100 0

theorem exec_graphLoad_read {img : ImageRead GraphImage} (b : s.Begins id .graphLoad c)
    (spans : (s.fn c.fn).spans (c.arg 16 8) (c.arg 24 4) .rd false = true) (calm : s.mem.upsets = [])
    (read : s.imageRead c.fn (c.arg 16 8) (c.arg 24 4) (ImageRead.hostFailed img) = none) :
    ∃ sent, exec (.graphLoad id img) s = .next (({ s with sent := sent } : State).graphRead id c img) := by
  obtain ⟨sent, e⟩ := s.access_calm c.fn (c.arg 16 8) (c.arg 24 4) calm
  have read' : ({ s with sent := sent } : State).imageRead c.fn (c.arg 16 8) (c.arg 24 4) (ImageRead.hostFailed img)
      = none := by
    rw [← read]
    exact State.imageRead_congr rfl rfl
  refine ⟨sent, b.next.trans ?_⟩
  dsimp only
  rw [if_neg (by simp [spans]), e, read']
  cases img <;> rfl

/-- An image that does not keep the limits, or for which the function or the device has no room (R248). -/
theorem State.loadGraph_refuses (b : s.Begins id .graphLoad c) :
    (g.ok = false → Completed s (s.loadGraph c g) id c stBadParam 0xFFFF 0 ∧ (s.loadGraph c g).mem = s.mem)
    ∧ (g.ok = true → (32 ≤ (s.fn c.fn).graphs.length ∨ 512 ≤ s.graphCount) →
        Completed s (s.loadGraph c g) id c stNoResource 5 0 ∧ (s.loadGraph c g).mem = s.mem)
    ∧ (g.ok = true → (s.fn c.fn).graphs.length < 32 → s.graphCount < 512 →
        s.quotaMib c.fn * 1024 < (s.fn c.fn).chargedKib + g.constKib →
        Completed s (s.loadGraph c g) id c stNoResource 2 0 ∧ (s.loadGraph c g).mem = s.mem) := by
  obtain rfl := b.id_eq
  refine ⟨fun bad => ?_, fun ok full => ?_, fun ok few room short => ?_⟩
  · rw [State.loadGraph, if_pos (by rw [bad]; rfl)]
    exact ⟨b.done rfl, rfl⟩
  · rw [State.loadGraph, if_neg (by rw [ok]; decide), if_pos full]
    exact ⟨b.done rfl, rfl⟩
  · rw [State.loadGraph, if_neg (by rw [ok]; decide), if_neg (by omega), if_pos short]
    exact ⟨b.done rfl, rfl⟩

/-- An accepted image: its graph is listed, its constants are in the device's copy (R248). -/
theorem State.loadGraph_accepts {u : State} (b : s.Begins id .graphLoad c) (ok : g.ok = true)
    (few : (s.fn c.fn).graphs.length < 32) (room : s.graphCount < 512)
    (fits : (s.fn c.fn).chargedKib + g.constKib ≤ s.quotaMib c.fn * 1024)
    (taken : s.alloc c.fn 64 (graphUser c.fn (s.newGraph c.fn)) (graphPieces g) = some u)
    (backed : State.backed (portOf c.fn) u = true) :
    let h := s.newGraph c.fn
    let t := s.loadGraph c g
    Completed s t id c stOk 0 (BitVec.ofNat 64 h)
    ∧ (t.fn c.fn).graph h = some { handle := h, image := g, ratios := [] }
    ∧ t.mem = (s.copyGraph c.fn h g).mem := by
  obtain rfl := b.id_eq
  obtain ⟨fore, fns, mem⟩ := State.alloc_frame _ _ _ _ _ _ taken
  intro h t
  let list : Fn → Fn := fun x => { x with graphs := { handle := h, image := g, ratios := [] } :: x.graphs }
  have made : t = ((u.drawn.copyGraph c.fn h g).setFn c.fn list).finish c.id stOk 0 (BitVec.ofNat 64 h) := by
    simp only [t]
    rw [State.loadGraph, if_neg (by rw [ok]; decide), if_neg (by omega), if_neg (by omega), taken,
      Option.filter_some, if_pos backed]
  rw [made]
  refine ⟨b.done (congrArg Foreman.taken fore), ?_, ?_⟩
  · have own := State.fn_setFn_self (u.drawn.copyGraph c.fn h g) c.fn list
    refine (congrArg (Fn.graph · h) own).trans ?_
    simp [list, Fn.graph]
  · change (u.drawn.copyGraph c.fn h g).mem = _
    unfold State.copyGraph
    exact congrArg (fun m => g.tensors.foldl (fun m t => if constSpan t = 0 then m
      else (m.store (graphKey c.fn h (g.constOff t.id)) (fit (constSpan t) (packValues t.fmt t.data))).1) m) mem

end Load

theorem graphLoad_spec (s : State) (id : Nat) (c : Cmd) (g : GraphImage) (b : s.Begins id .graphLoad c)
    (calm : s.mem.upsets = []) :
    let va := c.arg 16 8
    let n := c.arg 24 4
    let h := s.newGraph c.fn
    ∃ t, exec (.graphLoad id (.image g)) s = .next t
      ∧ ((s.fn c.fn).spans va n .rd false = false → Completed s t id c stBadParam 16 0 ∧ t.mem = s.mem)
      ∧ ((s.fn c.fn).spans va n .rd false = true → s.imageRead c.fn va n false = none →
          (s.fixed.graphKeys.contains g.key = false → Completed s t id c stIntegrity 0x0100 0 ∧ t.mem = s.mem)
          ∧ (s.fixed.graphKeys.contains g.key = true →
            (g.ok = false → Completed s t id c stBadParam 0xFFFF 0 ∧ t.mem = s.mem)
            ∧ (g.ok = true → (32 ≤ (s.fn c.fn).graphs.length ∨ 512 ≤ s.graphCount) →
                Completed s t id c stNoResource 5 0 ∧ t.mem = s.mem)
            ∧ (g.ok = true → (s.fn c.fn).graphs.length < 32 → s.graphCount < 512 →
                s.quotaMib c.fn * 1024 < (s.fn c.fn).chargedKib + g.constKib →
                Completed s t id c stNoResource 2 0 ∧ t.mem = s.mem)
            ∧ (∀ u, g.ok = true → (s.fn c.fn).graphs.length < 32 → s.graphCount < 512 →
                (s.fn c.fn).chargedKib + g.constKib ≤ s.quotaMib c.fn * 1024 →
                s.alloc c.fn 64 (graphUser c.fn h) (graphPieces g) = some u → State.backed (portOf c.fn) u = true →
                Completed s t id c stOk 0 (BitVec.ofNat 64 h)
                ∧ (s.fn c.fn).graph h = none
                ∧ (t.fn c.fn).graph h = some { handle := h, image := g, ratios := [] }
                ∧ t.mem = (s.copyGraph c.fn h g).mem
                ∧ (s.mem.wf = true → ∀ a, (∀ x ∈ g.tensors, a < graphKey c.fn h (g.constOff x.id)
                      ∨ graphKey c.fn h (g.constOff x.id) + constSpan x ≤ a) → t.mem.byte a = s.mem.byte a)))) := by
  intro va n h
  by_cases spans : (s.fn c.fn).spans va n .rd false = true
  · by_cases read : s.imageRead c.fn va n false = none
    · obtain ⟨sent, row⟩ := exec_graphLoad_read (img := .image g) b spans calm read
      let r : State := { s with sent := sent }
      have b' : r.Begins id .graphLoad c := ⟨b.cmd, b.runs, b.phase, b.op⟩
      refine ⟨_, row, fun out => absurd (out.symm.trans spans) Bool.false_ne_true, fun _ _ =>
        ⟨fun unknown => ?_, fun known => ?_⟩⟩
      · rw [State.graphRead, if_neg (by rw [unknown]; exact Bool.false_ne_true)]
        exact ⟨b.done rfl, rfl⟩
      · obtain ⟨bad, full, short⟩ := State.loadGraph_refuses (g := g) b'
        rw [State.graphRead, if_pos known]
        refine ⟨fun k => ?_, fun ok k => ?_, fun ok few room k => ?_, fun u ok few room fits taken backed => ?_⟩
        · obtain ⟨⟨own, other⟩, mem⟩ := bad k
          exact ⟨⟨own, other⟩, mem⟩
        · obtain ⟨⟨own, other⟩, mem⟩ := full ok k
          exact ⟨⟨own, other⟩, mem⟩
        · obtain ⟨⟨own, other⟩, mem⟩ := short ok few room k
          exact ⟨⟨own, other⟩, mem⟩
        · have taken' : r.alloc c.fn 64 (graphUser c.fn h) (graphPieces g) = some { u with sent := sent } := by
            rw [State.alloc_sent, taken, Option.map_some]
          obtain ⟨⟨own, other⟩, graph, mem⟩ := State.loadGraph_accepts b' ok few room fits taken' backed
          refine ⟨⟨own, other⟩, State.newGraph_facts s c.fn few, graph, mem, fun wf a apart => ?_⟩
          exact (congrArg (Memory.byte · a) mem).trans (State.copyGraph_outside s c.fn h g wf a apart)
    · exact ⟨_, b.next, fun out => absurd (out.symm.trans spans) Bool.false_ne_true, fun _ k => absurd k read⟩
  · refine ⟨_, b.next, fun out => ?_, fun k => absurd k spans⟩
    rw [if_pos (by rw [show (s.fn c.fn).spans _ _ _ _ = false from out]; rfl)]
    exact ⟨b.done rfl, rfl⟩

/-- An image whose signature is bad, and one of which a host read fails (R236, R248). -/
theorem graphLoad_unread (s : State) (id : Nat) (c : Cmd) (b : s.Begins id .graphLoad c) (calm : s.mem.upsets = [])
    (spans : (s.fn c.fn).spans (c.arg 16 8) (c.arg 24 4) .rd false = true) :
    (s.imageRead c.fn (c.arg 16 8) (c.arg 24 4) false = none → ∃ t, exec (.graphLoad id .badSignature) s = .next t
        ∧ Completed s t id c stIntegrity 0x0100 0 ∧ t.fns = s.fns ∧ t.mem = s.mem)
    ∧ (∀ k, (s.fn c.fn).touchesHost (c.arg 16 8) (c.arg 24 4) = true → ∃ t, exec (.graphLoad id (.hostFail k)) s = .next t
        ∧ Completed s t id c stIntegrity 7 0 ∧ .aer (portOf c.fn) ∈ t.sent ∧ t.fns = s.fns ∧ t.mem = s.mem) := by
  refine ⟨fun read => ?_, fun k host => ?_⟩
  · obtain ⟨sent, row⟩ := exec_graphLoad_read (img := .badSignature) b spans calm read
    exact ⟨_, row, b.done rfl, rfl, rfl⟩
  · obtain ⟨sent, e⟩ := s.access_calm c.fn (c.arg 16 8) (c.arg 24 4) calm
    have failed : ({ s with sent := sent } : State).imageRead c.fn (c.arg 16 8) (c.arg 24 4)
        (ImageRead.hostFailed (.hostFail k : ImageRead GraphImage)) = some 7 := if_pos ⟨host, rfl⟩
    refine ⟨((({ s with sent := sent } : State).send (.aer (portOf c.fn))).finish id stIntegrity 7 0), ?_, b.done rfl,
      List.mem_cons_self, rfl, rfl⟩
    refine b.next.trans ?_
    dsimp only
    rw [if_neg (by simp [spans]), e, failed]
    dsimp only
    rw [State.imageFails, if_pos rfl, b.id_eq]

/-! ### GRAPH_UNLOAD -/

/-- The state after GRAPH_UNLOAD has given a graph's memory back and zeroed its copy (R94, R249). -/
def State.unloadGraph (s : State) (f : FnId) (h : Nat) : State :=
  ((s.release f (graphUser f h)).zeroGraph f h).setFn f (fun x =>
    { x with graphs := x.graphs.filter (fun g => g.handle != h) })

theorem State.release_mem (s : State) (f : FnId) (u : Nat) : (s.release f u).mem = s.mem := by
  unfold State.release
  cases portOf f <;> rfl

theorem State.unloadGraph_facts (s : State) (f : FnId) (h : Nat) :
    (s.unloadGraph f h).fore = s.fore ∧ ((s.unloadGraph f h).fn f).graph h = none
    ∧ (s.mem.wf = true → ∀ a, (s.unloadGraph f h).mem.byte a =
        if graphKey f h 0 ≤ a ∧ a < graphKey f h 0 + 2 ^ 32 then 0 else s.mem.byte a) := by
  refine ⟨(s.release_frame f (graphUser f h)).2, ?_, fun wf a => ?_⟩
  · rw [State.unloadGraph, State.fn_setFn_self]
    exact List.find?_eq_none.mpr fun g mem => by
      have other := (List.mem_filter.mp mem).2
      simpa using other
  · change ((s.release f (graphUser f h)).mem.zero (graphKey f h 0) (2 ^ 32)).byte a = _
    rw [State.release_mem, Memory.zero_byte _ _ _ _ wf]

theorem graphUnload_spec (s : State) (id : Nat) (c : Cmd) (b : s.Begins id .graphUnload c) :
    let h := c.arg 16 4
    ∃ t, exec (.graphUnload id) s = .next t
      ∧ ((s.fn c.fn).graph h = none → Completed s t id c stBadParam 16 0 ∧ t.mem = s.mem)
      ∧ ((s.fn c.fn).graph h ≠ none → s.graphInUse c.fn h = true → Completed s t id c stBusy 8 0 ∧ t.mem = s.mem)
      ∧ ((s.fn c.fn).graph h ≠ none → s.graphInUse c.fn h = false → Completed s t id c stOk 0 0
          ∧ (t.fn c.fn).graph h = none
          ∧ (s.mem.wf = true → ∀ a, t.mem.byte a =
              if graphKey c.fn h 0 ≤ a ∧ a < graphKey c.fn h 0 + 2 ^ 32 then 0 else s.mem.byte a)) := by
  intro h
  refine ⟨_, b.next, ?_⟩
  dsimp only
  cases loaded : (s.fn c.fn).graph (c.arg 16 4) with
  | none => exact ⟨fun _ => ⟨b.done rfl, rfl⟩, fun k => absurd rfl k, fun k => absurd rfl k⟩
  | some g =>
    refine ⟨nofun, fun _ used => ?_,
      fun _ unused => ?_⟩
    · dsimp only
      rw [if_pos used]
      exact ⟨b.done rfl, rfl⟩
    · obtain ⟨fore, gone, bytes⟩ := s.unloadGraph_facts c.fn h
      dsimp only
      rw [if_neg (by rw [show s.graphInUse _ _ = false from unused]; exact Bool.false_ne_true)]
      exact ⟨b.done (u := s.unloadGraph c.fn h) (congrArg Foreman.taken fore), gone, bytes⟩

/-! ### BIND_STREAM -/

section Bind

variable {s : State} {id : Nat} {c : Cmd} {x : CtxId}

/-- The binding that a BIND_STREAM asks for (R146). -/
def Cmd.binding (c : Cmd) (g : Graph) : Binding :=
  { handle := g.handle, vector := c.arg 18 1, log2 := c.arg 19 1, ringVa := c.arg 24 8, reservation := c.arg 32 4
    outVa := c.arg 40 8, outStride := c.arg 48 4, written := 0, ending := false }

/-- A stream whose binding ends, serving every frame again (R146, R321). -/
def Stream.unbinding (x : Stream) : Stream :=
  { x with bound := x.bound.map (fun b => { b with ending := true }), keep := 256, thinPhase := 0 }

/-- A stream with a new binding (R146). -/
def Stream.binding (x : Stream) (b : Binding) : Stream :=
  { x with bound := some b, entries := [], keep := 256, thinPhase := 0 }

/-- BIND_STREAM with its operands named (R146). -/
theorem bindStream_next (b : s.Begins id .bindStream c) (names : c.arg 16 1 = x.val) :
    exec (.bindStream id) s = .next (
      if c.arg 17 1 = 1 ∧ s.vengines c.fn = 0 then s.finish id stNoResource 1 0
      else if !s.ownsOpen c.fn x then s.finish id stBadParam 16 0
      else if c.arg 17 1 = 0 then
        (((s.setStream x Stream.unbinding).cancelUnbegun x).flush x).finish id stOk 0 0
      else if (s.streams[x.val]).bound.isSome then s.finish id stBusy 8 0
      else match (s.fn c.fn).graph (c.arg 20 4) with
      | none => s.finish id stBadParam 20 0
      | some g =>
        if !bindableGraph g.image (s.streams[x.val]).cfg.frameBytes then s.finish id stBadParam 20 0
        else if !(s.fn c.fn).spans (c.arg 24 8) (32 * 2 ^ c.arg 19 1) .wr true then s.finish id stBadParam 24 0
        else if s.reservationBad c.fn (s.streams[x.val]).accepted.cls (c.arg 32 4) then s.finish id stBadParam 32 0
        else if !(s.fn c.fn).oneMapping (c.arg 40 8) (c.arg 48 4 * (s.streams[x.val]).cfg.ringCount) false true then
          s.finish id stBadParam 40 0
        else if c.arg 48 4 < outputSize g.image then s.finish id stBadParam 48 0
        else match s.bindPending x (c.arg 32 4) with
          | some d => s.finish id stFaultPending d 0
          | none => (s.setStream x (·.binding (c.binding g))).finish id stOk 0 0) := by
  obtain rfl : Fin.ofNat 48 (c.arg 16 1) = x := ctxId_ofNat x names
  exact b.next

/-- An unbind without a run or an entry that could still be cancelled or written (R146). -/
theorem State.unbind_facts (begun : ∀ r ∈ s.fore.runs, r.ofCtx x = true → r.begun = true)
    (waits : ∀ e ∈ (s.streams[x.val]).entries, e.run.isSome = true) :
    ((s.setStream x Stream.unbinding).cancelUnbegun x).flush x
      = s.setStream x (fun y => y.unbinding.endBinding) := by
  rw [State.cancelUnbegun_begun (s.setStream x Stream.unbinding) x begun, State.flush_waits, State.setStream_twice]
  rw [State.setStream_at s x Stream.unbinding]
  exact waits

/-- A stream unbound serves every frame, and has at most a binding that ends. -/
theorem Stream.unbound_facts (x : Stream) :
    x.unbinding.endBinding.keep = 256 ∧ (∀ b, x.unbinding.endBinding.bound = some b → b.ending = true)
    ∧ (x.entries = [] → x.unbinding.endBinding.bound = none) := by
  cases bound : x.bound with
  | none => simp [Stream.unbinding, Stream.endBinding, bound]
  | some b => cases entries : x.entries <;> simp [Stream.unbinding, Stream.endBinding, bound, entries]

theorem bindStream_spec (b : s.Begins id .bindStream c) (names : c.arg 16 1 = x.val) :
    ∃ t, exec (.bindStream id) s = .next t
      ∧ (c.arg 17 1 = 1 → s.vengines c.fn = 0 → Completed s t id c stNoResource 1 0 ∧ t.streams = s.streams)
      ∧ ((c.arg 17 1 = 1 → s.vengines c.fn ≠ 0) → s.ownsOpen c.fn x = false →
          Completed s t id c stBadParam 16 0 ∧ t.streams = s.streams)
      ∧ (s.ownsOpen c.fn x = true → c.arg 17 1 = 1 → s.vengines c.fn ≠ 0 → (s.streams[x.val]).bound ≠ none →
          Completed s t id c stBusy 8 0 ∧ t.streams = s.streams)
      ∧ (s.ownsOpen c.fn x = true → c.arg 17 1 = 0 → (∀ r ∈ s.fore.runs, r.ofCtx x = true → r.begun = true) →
          (∀ e ∈ (s.streams[x.val]).entries, e.run.isSome = true) → Completed s t id c stOk 0 0
          ∧ (t.streams[x.val]).keep = 256 ∧ (∀ b, (t.streams[x.val]).bound = some b → b.ending = true)
          ∧ ((s.streams[x.val]).entries = [] → (t.streams[x.val]).bound = none) ∧ t.fore.runs = s.fore.runs)
      ∧ (∀ g, s.ownsOpen c.fn x = true → c.arg 17 1 = 1 → (s.streams[x.val]).bound = none →
          (s.fn c.fn).graph (c.arg 20 4) = some g → bindableGraph g.image (s.streams[x.val]).cfg.frameBytes = true →
          (s.fn c.fn).spans (c.arg 24 8) (32 * 2 ^ c.arg 19 1) .wr true = true →
          s.reservationBad c.fn (s.streams[x.val]).accepted.cls (c.arg 32 4) = false →
          (s.fn c.fn).oneMapping (c.arg 40 8) (c.arg 48 4 * (s.streams[x.val]).cfg.ringCount) false true = true →
          outputSize g.image ≤ c.arg 48 4 → s.vengines c.fn ≠ 0 → s.bindPending x (c.arg 32 4) = none →
          Completed s t id c stOk 0 0 ∧ (t.streams[x.val]).bound = some (c.binding g)) := by
  refine ⟨_, bindStream_next b names, fun binds none => ?_, fun engines foreign => ?_, fun owns binds engines bound => ?_,
    fun owns unbinds begun waits => ?_, fun g owns binds free graph bindable ring res out stride engines calm => ?_⟩
  · rw [if_pos ⟨binds, none⟩]
    exact ⟨b.done rfl, rfl⟩
  · rw [if_neg (fun k => engines k.1 k.2), if_pos (by rw [foreign]; rfl)]
    exact ⟨b.done rfl, rfl⟩
  · rw [if_neg (fun k => engines k.2), if_neg (by rw [owns]; decide), if_neg (by omega),
      if_pos (Option.isSome_iff_ne_none.mpr bound)]
    exact ⟨b.done rfl, rfl⟩
  · rw [if_neg (by omega), if_neg (by rw [owns]; decide), if_pos unbinds, State.unbind_facts begun waits]
    have own := State.setStream_at s x (fun y => y.unbinding.endBinding)
    obtain ⟨keep, ending, unbound⟩ := (s.streams[x.val]).unbound_facts
    exact ⟨b.done rfl, (congrArg Stream.keep own).trans keep,
      fun b k => ending b ((congrArg Stream.bound own).symm.trans k),
      fun k => (congrArg Stream.bound own).trans (unbound k), rfl⟩
  · rw [if_neg (fun k => engines k.2), if_neg (by rw [owns]; decide), if_neg (by omega), if_neg (by rw [free]; decide),
      graph]
    dsimp only
    rw [if_neg (by rw [bindable]; decide), if_neg (by rw [ring]; decide), if_neg (by rw [res]; decide),
      if_neg (by rw [out]; decide), if_neg (by omega), calm]
    let made : Stream → Stream := (·.binding (c.binding g))
    exact ⟨b.done (u := s.setStream x made) rfl, congrArg Stream.bound (State.setStream_at s x made)⟩

end Bind

/-! ### RESERVE -/

section Reserve

variable {s : State} {id : Nat} {c : Cmd}

/-- The reservation of a number is the function's own (R307). -/
def State.ownReservation (s : State) (f : FnId) (n : Nat) : Bool :=
  match s.reservation n with
  | some r => r.fn == f
  | none => false

/-- The amount that a reservation holds before a RESERVE (R307). -/
def State.reservedAmount (s : State) (n : Nat) : Nat :=
  match s.reservation n with
  | some r => r.amount
  | none => 0

theorem reserve_releases_next (b : s.Begins id .reserve c) (action : c.arg 24 1 = 1) :
    exec (.reserve id) s = .next (
      if !s.ownReservation c.fn (c.arg 16 4) then s.finish id stBadParam 16 0
      else if s.reservationUsed (c.arg 16 4) then s.finish id stBadParam 0xFFFF 0
      else (s.setFore (fun x => { x with
        reservations := x.reservations.filter (fun r => r.num != c.arg 16 4), resChanged := true })).finish id stOk 0
          (BitVec.ofNat 64 (c.arg 16 4))) :=
  b.next.trans (congrArg Host.Outcome.next (if_pos action))

theorem reserve_sets_next (b : s.Begins id .reserve c) (action : c.arg 24 1 = 0) :
    exec (.reserve id) s = .next (
      let n := c.arg 16 4
      let amount := c.arg 20 4
      let p := portOf c.fn
      if s.fore.safety.maintenance then s.finish id stBusy 6 0
      else if n ≠ 0 ∧ s.ownReservation c.fn n = false then s.finish id stBadParam 16 0
      else if n = 0 ∧ (16 ≤ (s.fore.reservations.filter (fun r => r.fn == c.fn)).length
          ∨ 256 ≤ s.fore.reservations.length) then s.finish id stNoResource 6 0
      else if s.reservedAmount n < amount ∧ s.nextCapacity p < s.reserved p - s.reservedAmount n + amount then
        s.finish id stNoResource 6 0
      else if n = 0 then
        (s.drawn.setFore (fun x => { x with
          reservations := x.reservations ++
            [{ num := s.freeReservation, fn := c.fn, amount := amount, inForce := 0, spent := 0, raised := false }]
          resChanged := true })).finish id stOk 0 (BitVec.ofNat 64 s.freeReservation)
      else ((s.setReservation n (fun r => { r with amount := amount })).setFore (fun x =>
        { x with resChanged := true })).finish id stOk 0 (BitVec.ofNat 64 n)) :=
  b.next.trans (congrArg Host.Outcome.next (if_neg (by omega)))

theorem State.ownReservation_none {n : Nat} {f : FnId} (h : s.reservation n = none) : s.ownReservation f n = false := by
  unfold State.ownReservation
  rw [h]

theorem State.ownReservation_some {n : Nat} {f : FnId} {r : Reservation} (h : s.reservation n = some r) :
    s.ownReservation f n = (r.fn == f) := by
  unfold State.ownReservation
  rw [h]

theorem State.reservedAmount_some {n : Nat} {r : Reservation} (h : s.reservation n = some r) :
    s.reservedAmount n = r.amount := by
  unfold State.reservedAmount
  rw [h]

theorem reserve_releases (b : s.Begins id .reserve c) (action : c.arg 24 1 = 1) :
    let n := c.arg 16 4
    ∃ t, exec (.reserve id) s = .next t
      ∧ (s.reservation n = none → Completed s t id c stBadParam 16 0 ∧ t.fore.reservations = s.fore.reservations)
      ∧ (∀ r, s.reservation n = some r → r.fn ≠ c.fn →
          Completed s t id c stBadParam 16 0 ∧ t.fore.reservations = s.fore.reservations)
      ∧ (∀ r, s.reservation n = some r → r.fn = c.fn → s.reservationUsed n = true →
          Completed s t id c stBadParam 0xFFFF 0 ∧ t.fore.reservations = s.fore.reservations)
      ∧ (∀ r, s.reservation n = some r → r.fn = c.fn → s.reservationUsed n = false →
          Completed s t id c stOk 0 (BitVec.ofNat 64 n)
          ∧ t.fore.reservations = s.fore.reservations.filter (fun r => r.num != n)) := by
  intro n
  refine ⟨_, reserve_releases_next b action, fun unknown => ?_, fun r held other => ?_, fun r held own used => ?_,
    fun r held own unused => ?_⟩
  · rw [State.ownReservation_none unknown, if_pos (by decide)]
    exact ⟨b.done rfl, rfl⟩
  · rw [State.ownReservation_some held, if_pos (by simpa using other)]
    exact ⟨b.done rfl, rfl⟩
  · rw [State.ownReservation_some held, if_neg (by simpa using own), if_pos used]
    exact ⟨b.done rfl, rfl⟩
  · rw [State.ownReservation_some held, if_neg (by simpa using own),
      if_neg (by rw [show s.reservationUsed _ = false from unused]; exact Bool.false_ne_true)]
    exact ⟨b.done rfl, rfl⟩

theorem reserve_sets (b : s.Begins id .reserve c) (action : c.arg 24 1 = 0) :
    let n := c.arg 16 4
    let amount := c.arg 20 4
    let cap := s.nextCapacity (portOf c.fn)
    let sum := s.reserved (portOf c.fn)
    ∃ t, exec (.reserve id) s = .next t
      ∧ (s.fore.safety.maintenance = true → Completed s t id c stBusy 6 0 ∧ t.fore.reservations = s.fore.reservations)
      ∧ (s.fore.safety.maintenance = false → n = 0 →
          (16 ≤ (s.fore.reservations.filter (fun r => r.fn == c.fn)).length ∨ 256 ≤ s.fore.reservations.length) →
          Completed s t id c stNoResource 6 0 ∧ t.fore.reservations = s.fore.reservations)
      ∧ (s.fore.safety.maintenance = false → n = 0 → s.reservation 0 = none → 0 < amount → cap < sum + amount →
          Completed s t id c stNoResource 6 0 ∧ t.fore.reservations = s.fore.reservations)
      ∧ (s.fore.safety.maintenance = false → n = 0 →
          (s.fore.reservations.filter (fun r => r.fn == c.fn)).length < 16 → s.fore.reservations.length < 256 →
          sum + amount ≤ cap →
          Completed s t id c stOk 0 (BitVec.ofNat 64 s.freeReservation)
          ∧ s.reservation s.freeReservation = none ∧ 1 ≤ s.freeReservation ∧ s.freeReservation ≤ 256
          ∧ t.fore.reservations = s.fore.reservations
              ++ [{ num := s.freeReservation, fn := c.fn, amount := amount, inForce := 0, spent := 0, raised := false }])
      ∧ (s.fore.safety.maintenance = false → n ≠ 0 →
          (s.reservation n = none ∨ ∃ r, s.reservation n = some r ∧ r.fn ≠ c.fn) →
          Completed s t id c stBadParam 16 0 ∧ t.fore.reservations = s.fore.reservations)
      ∧ (∀ r, s.fore.safety.maintenance = false → n ≠ 0 → s.reservation n = some r → r.fn = c.fn →
          r.amount < amount → cap < sum - r.amount + amount →
          Completed s t id c stNoResource 6 0 ∧ t.fore.reservations = s.fore.reservations)
      ∧ (∀ r, s.fore.safety.maintenance = false → n ≠ 0 → s.reservation n = some r → r.fn = c.fn →
          (amount ≤ r.amount ∨ sum - r.amount + amount ≤ cap) →
          Completed s t id c stOk 0 (BitVec.ofNat 64 n)
          ∧ t.fore.reservations = s.fore.reservations.map (fun r => if r.num = n then { r with amount := amount } else r)) := by
  intro n amount cap sum
  refine ⟨_, reserve_sets_next b action, ?_⟩
  dsimp only
  cases maintenance : s.fore.safety.maintenance with
  | true =>
    rw [if_pos rfl]
    exact ⟨fun _ => ⟨b.done rfl, rfl⟩, nofun, nofun, nofun, nofun, nofun, nofun⟩
  | false =>
    rw [if_neg Bool.false_ne_true]
    refine ⟨nofun, fun _ new full => ?_, fun _ new unnamed some short => ?_, fun _ new few room fits => ?_,
      fun _ old foreign => ?_, fun r _ old held own more short => ?_, fun r _ old held own fits => ?_⟩
    · rw [if_neg (fun k => k.1 new), if_pos ⟨new, full⟩]
      exact ⟨b.done rfl, rfl⟩
    · have nothing : s.reservedAmount (c.arg 16 4) = 0 := by
        unfold State.reservedAmount
        rw [show c.arg 16 4 = 0 from new, unnamed]
      rw [if_neg (fun k => k.1 new), nothing, Nat.sub_zero, if_pos (show 0 < c.arg 20 4 ∧ _ from ⟨some, short⟩)]
      split <;> exact ⟨b.done rfl, rfl⟩
    · obtain ⟨free, low, high⟩ := State.freeReservation_facts s room
      rw [if_neg (fun k => k.1 new), if_neg (fun k => by omega), if_neg (fun k => by omega), if_pos new]
      exact ⟨b.done rfl, free, low, high, rfl⟩
    · have other : s.ownReservation c.fn n = false := by
        rcases foreign with unknown | ⟨r, held, ne⟩
        · exact State.ownReservation_none unknown
        · rw [State.ownReservation_some held]
          simpa using ne
      rw [if_pos ⟨old, other⟩]
      exact ⟨b.done rfl, rfl⟩
    · have mine : s.ownReservation c.fn n = true := by rw [State.ownReservation_some held]; simpa using own
      rw [if_neg (fun k => by rw [show s.ownReservation c.fn _ = true from mine] at k; exact absurd k.2 (by decide)),
        if_neg (fun k => old k.1), State.reservedAmount_some held, if_pos ⟨more, short⟩]
      exact ⟨b.done rfl, rfl⟩
    · have mine : s.ownReservation c.fn n = true := by rw [State.ownReservation_some held]; simpa using own
      rw [if_neg (fun k => by rw [show s.ownReservation c.fn _ = true from mine] at k; exact absurd k.2 (by decide)),
        if_neg (fun k => old k.1), State.reservedAmount_some held, if_neg (fun k => by omega), if_neg old]
      exact ⟨b.done rfl, rfl⟩

end Reserve

/-- Settles O50: each row is the first test that the command fails, else its one change; the constants of an accepted
graph are stored outside every function's addresses. -/
theorem graphsAndReservations : Obligations.GraphsAndReservations := by
  unfold Obligations.GraphsAndReservations
  refine ⟨graphLoad_spec, graphLoad_unread, graphUnload_spec, fun s id c x b names => ?_,
    fun s id c b action => reserve_releases b action, fun s id c b action => reserve_sets b action⟩
  obtain ⟨t, row, engines, foreign, busy, unbinds, binds⟩ := bindStream_spec b names
  refine ⟨t, row, engines, foreign, busy, unbinds,
    fun g owns one free graph bindable ring res out stride some calm => ?_⟩
  obtain ⟨done, bound⟩ := binds g owns one free graph bindable ring res out stride some calm
  exact ⟨done, _, bound, rfl, rfl, rfl, rfl, rfl, rfl, rfl, rfl, rfl⟩

end Sys2Proof.Machine

/-!
JOB_SUBMIT, ATTEND and JOB_CANCEL (R144, R145, R298, R299, R308, R310, R314, R315).
-/

namespace Sys2Proof.Machine

/-! ### Admission -/

section Admission

variable {s : State} {id : Nat} {o : Opcode} {c : Cmd} {r : Run}

theorem State.Offered.next (b : s.Offered id o c) {g : Cmd → State} :
    (Host.Outcome.next (s.withJob id o g) : Host.Outcome State Fault Refusal) = .next (g c) := by
  rw [b.run]

theorem State.Offered.done (b : s.Offered id o c) {u : State} {st d : BitVec 16} {v : BitVec 64}
    (k : u.fore.taken = s.fore.taken) : Completed s (u.finish id st d v) id c st d v :=
  State.finish_completed b.cmd b.live k st d v

/-- The run as admission numbers it. -/
def State.numbered (s : State) (r : Run) : Run := { r with id := s.fore.nextRun }

/-- A run admitted, as the Foreman lists it (R309). -/
def Run.listed (r : Run) (id : Nat) (entry : BitVec 32) (us : Nat) (shift : BitVec 32) (base : Nat) : Run :=
  { r with id := id, entry := entry, admitted := true, cleared := true, predictedUs := us, shift := shift, base := base }

/-- A command at work once its run is admitted; a held one stays held (R314). -/
def Cmd.working (c : Cmd) : Cmd := if c.phase = .begun then { c with phase := .running } else c

theorem Cmd.working_eq (c : Cmd) : c.working = { c with phase := if c.phase = .begun then .running else c.phase } := by
  unfold Cmd.working
  by_cases begun : c.phase = .begun
  · simp only [begun, if_true]
  · simp only [begun, if_false]

theorem State.setCmd_working (u : State) (taken : u.fore.taken = s.fore.taken) (b : s.Offered id o c) :
    (u.setCmd c.id Cmd.working).cmd id = some c.working := by
  have own : u.cmd id = some c := (show u.cmd id = s.cmd id by rw [State.cmd, taken, State.cmd]).trans b.cmd
  rw [State.cmd_id b.cmd, State.setCmd_cmd _ _ _ _ (fun c => by unfold Cmd.working; split <;> rfl), if_pos rfl, own,
    Option.map_some]

/-- A run enters the list behind its ADMISSION record, which no ring collects (R309, R329). -/
theorem State.enterRun_lists (u : State) (p : Plan) (cls : r.cls ≠ 2) (off : u.fore.replay.state = .off) :
    (u.enterRun r p).fore.taken = u.fore.taken
    ∧ ∃ n e us sh base, r.listed n e us sh base ∈ (u.enterRun r p).fore.runs := by
  unfold State.enterRun
  dsimp only
  rw [if_neg cls]
  have kept := State.logRecord_runs u r.cls (some r.fn)
    (.admission r.subject r.context (crewOf r.fn) (r.reservation % 65536) (min p.us (2 ^ 32 - 1))) (by rw [off]; nofun)
  exact ⟨kept.1, _, _, _, _, _, List.mem_append_right _ (List.mem_singleton_self _)⟩

/-- Admission of a run below class 2, outside replay mode (R314, R315). -/
theorem State.submitRun_below (off : s.fore.replay.state = .off) (cls : r.cls ≠ 2) :
    s.submitRun c r
      = match (s.offer (s.numbered r) (usOf (s.plan (s.numbered r) (s.waits c) none).used)).judgeRun (s.numbered r)
            (s.waits c) with
        | (t, .admitted) => t.setCmd c.id Cmd.working
        | (t, .shed reason) => t.finish c.id stShed (BitVec.ofNat 16 reason) (s.fore.nextEntry.setWidth 64) := by
  unfold State.submitRun
  dsimp only
  rw [if_neg (fun k => cls k.1)]
  dsimp only
  rw [if_neg (by rw [off]; nofun)]
  rfl

/-- The demand of a job is counted, and the prediction does not see it (R315, R320). -/
theorem State.offer_counts (job : ∀ c b n st, r.kind ≠ .bound c b n st) (us : Nat) (w : Waits) :
    ∃ demand, s.offer r us = s.setFore (fun x => { x with jobDemand := demand })
      ∧ (s.setFore (fun x => { x with jobDemand := demand })).plan r w none = s.plan r w none := by
  obtain ⟨demand, e⟩ := State.offer_job s r us job
  exact ⟨demand, e, e ▸ State.plan_offer s r r us w none job⟩

/-- A run below class 2 that is not predicted late is admitted and its command is at work (R314, R315). -/
theorem State.submitRun_admits (b : s.Offered id o c) (off : s.fore.replay.state = .off) (cls : r.cls ≠ 2)
    (job : ∀ c b n st, r.kind ≠ .bound c b n st)
    (timely : s.late (s.numbered r) (s.plan (s.numbered r) (s.waits c) none) = false) :
    (s.submitRun c r).cmd id = some c.working
    ∧ ∃ n e us sh base, r.listed n e us sh base ∈ (s.submitRun c r).fore.runs := by
  obtain ⟨demand, offered, planned⟩ := State.offer_counts (s := s) (r := s.numbered r) job
    (usOf (s.plan (s.numbered r) (s.waits c) none).used) (s.waits c)
  rw [State.submitRun_below off cls, offered, State.judgeRun_admits _ _ _ _ planned timely]
  obtain ⟨taken, listed⟩ := State.enterRun_lists (r := s.numbered r)
    (s.setFore (fun x => { x with jobDemand := demand })) (s.plan (s.numbered r) (s.waits c) none) cls off
  exact ⟨State.setCmd_working (s := s) _ taken b, listed⟩

/-- A run below class 2 that is predicted late is shed (R315). -/
theorem State.submitRun_sheds (b : s.Offered id o c) (off : s.fore.replay.state = .off) (cls : r.cls ≠ 2)
    (job : ∀ c b n st, r.kind ≠ .bound c b n st)
    (late : s.late (s.numbered r) (s.plan (s.numbered r) (s.waits c) none) = true) :
    Completed s (s.submitRun c r) id c stShed 1 (s.fore.nextEntry.setWidth 64)
    ∧ (s.submitRun c r).fore.runs = s.fore.runs := by
  obtain ⟨demand, offered, planned⟩ := State.offer_counts (s := s) (r := s.numbered r) job
    (usOf (s.plan (s.numbered r) (s.waits c) none).used) (s.waits c)
  rw [State.submitRun_below off cls, offered, State.judgeRun_sheds _ _ _ _ planned late cls]
  obtain ⟨taken, runs, -⟩ := State.shedRun_facts (s.setFore (fun x => { x with jobDemand := demand })) (s.numbered r)
    ((s.setFore (fun x => { x with jobDemand := demand })).lateness (s.numbered r)
      (s.plan (s.numbered r) (s.waits c) none)) cls (by rw [show (s.setFore (fun x => { x with jobDemand := demand })).fore.replay.state = .off from off]; nofun)
  obtain rfl := State.cmd_id b.cmd
  exact ⟨b.done taken, runs⟩

/-- A class-2 run on a reservation whose Severe event is pending is refused (R310). -/
theorem State.submitRun_refuses {d : BitVec 16} (b : s.Offered id o c) (off : s.fore.replay.state = .off) (cls : r.cls = 2)
    (pending : s.pendingFault r.reservation (usOf (s.plan (s.numbered r) (s.waits c) none).used) = some d) :
    Completed s (s.submitRun c r) id c stFaultPending d 0 ∧ (s.submitRun c r).fore.runs = s.fore.runs := by
  have unnamed : s.logNames (s.numbered r) = false := by
    unfold State.logNames
    rw [off]
    rfl
  obtain rfl := State.cmd_id b.cmd
  have refused : s.submitRun c r = s.finish c.id stFaultPending d 0 := by
    unfold State.submitRun
    dsimp only
    rw [if_pos ⟨cls, unnamed⟩]
    simp only [State.numbered] at pending
    rw [pending]
  rw [refused]
  exact ⟨b.done rfl, rfl⟩

/-- Without a deadline no run is late (R315). -/
theorem State.not_late_without_deadline (p : Plan) (none : r.deadline = 0) : s.late r p = false := by
  unfold State.late
  rw [none]
  rfl

end Admission

/-! ### JOB_SUBMIT -/

/-- The run that a JOB_SUBMIT asks for (R145). -/
def Cmd.jobRun (c : Cmd) (id : Nat) (g : Graph) : Run :=
  c.run (.job id) (c.arg 24 4) g.handle g.image [] (parseBinds c.block (c.arg 20 2)) (g.image.tiles.map (·.cycles))

theorem toNat_ne_two {x : BitVec 8} (h : x ≠ 2) : x.toNat ≠ 2 := fun k => h (BitVec.eq_of_toNat_eq k)

theorem jobSubmit_spec (s : State) (id : Nat) (c : Cmd) (b : s.Offered id .jobSubmit c) :
    ∃ t, exec (.jobSubmit id) s = .next t
      ∧ ((s.fn c.fn).graph (c.arg 16 4) = none → Completed s t id c stBadParam 16 0)
      ∧ (∀ g, (s.fn c.fn).graph (c.arg 16 4) = some g →
          (s.cmdReservationBad c = true → Completed s t id c stBadParam 24 0)
          ∧ (∀ d, s.cmdReservationBad c = false →
              s.bindingsBad c.fn g.image c.block (c.arg 20 2) = some d → Completed s t id c stBadParam d 0)
          ∧ (s.cmdReservationBad c = false →
              s.bindingsBad c.fn g.image c.block (c.arg 20 2) = none → s.vengines c.fn = 0 →
              Completed s t id c stNoResource 1 0)
          ∧ (s.cmdReservationBad c = false →
              s.bindingsBad c.fn g.image c.block (c.arg 20 2) = none → s.vengines c.fn ≠ 0 →
              s.fore.replay.state = .off →
              let r := s.numbered (c.jobRun id g)
              let p := s.plan r (s.waits c) none
              (c.cls ≠ 2 → c.deadline = 0 →
                (∃ x ∈ t.fore.runs, x.kind = .job id ∧ x.admitted = true ∧ x.fn = c.fn ∧ x.cls = c.cls.toNat)
                ∧ t.cmd id = some { c with phase := if c.phase = .begun then .running else c.phase })
              ∧ (c.cls ≠ 2 → s.late r p = true →
                  Completed s t id c stShed 1 (s.fore.nextEntry.setWidth 64) ∧ t.fore.runs = s.fore.runs)
              ∧ (∀ d, c.cls = 2 → s.pendingFault (c.arg 24 4) (usOf p.used) = some d →
                  Completed s t id c stFaultPending d 0 ∧ t.fore.runs = s.fore.runs))) := by
  refine ⟨_, b.next, ?_⟩
  dsimp only
  cases loaded : (s.fn c.fn).graph (c.arg 16 4) with
  | none => exact ⟨fun _ => b.done rfl, nofun⟩
  | some g =>
    refine ⟨nofun, fun g' k => ?_⟩
    obtain rfl := Option.some.inj k
    dsimp only
    refine ⟨fun bad => ?_, fun d good binds => ?_, fun good binds none => ?_, fun good binds some off => ?_⟩
    · rw [if_pos bad]
      exact b.done rfl
    · rw [if_neg (by rw [good]; decide), binds]
      exact b.done rfl
    · rw [if_neg (by rw [good]; decide), binds]
      dsimp only
      rw [if_pos none]
      exact b.done rfl
    · rw [if_neg (by rw [good]; decide), binds]
      dsimp only
      rw [if_neg some]
      refine ⟨fun cls whenever => ?_, fun cls late => ?_, fun d cls pending => ?_⟩
      · obtain ⟨cmd, n, e, us, sh, base, mem⟩ := State.submitRun_admits (r := c.jobRun id g) b off (toNat_ne_two cls) nofun
          (State.not_late_without_deadline _ whenever)
        refine ⟨⟨_, mem, rfl, rfl, rfl, rfl⟩, cmd.trans (congrArg Option.some c.working_eq)⟩
      · exact State.submitRun_sheds (r := c.jobRun id g) b off (toNat_ne_two cls) nofun late
      · exact State.submitRun_refuses (r := c.jobRun id g) b off (by rw [Cmd.jobRun, Cmd.run, cls]; rfl) pending

/-! ### ATTEND -/

/-- The requests of an ATTEND in the order of its tiles (R302). -/
def Cmd.requests (c : Cmd) : List AttendReq := attendOrder ((List.range (c.arg 16 2)).map c.attendReq)

/-- The run that an ATTEND asks for: one tile for each request (R302, R311). -/
def Cmd.attendRun (c : Cmd) (id : Nat) : Run :=
  c.run (.attend id) (c.arg 24 4) 0 { tensors := [], ops := [], groups := [], tiles := [], descs := [], key := 0 }
    c.requests [] (c.requests.map (fun r => min maxTileCycles (Config.attendCycles (attendClass r.kvLen) r.qlen)))

theorem attend_spec (s : State) (id : Nat) (c : Cmd) (b : s.Offered id .attend c) :
    ∃ t, exec (.attend id) s = .next t
      ∧ (s.cmdReservationBad c = true → Completed s t id c stBadParam 24 0)
      ∧ (∀ d, s.cmdReservationBad c = false → s.attendBad c = some d → Completed s t id c stBadParam d 0)
      ∧ (s.cmdReservationBad c = false → s.attendBad c = none → s.vengines c.fn = 0 → Completed s t id c stNoResource 1 0)
      ∧ (s.cmdReservationBad c = false → s.attendBad c = none → s.vengines c.fn ≠ 0 →
          (c.phase = .begun → s.attendShort c.fn c.requests = true → Completed s t id c stKvNoPage 0 0)
          ∧ (c.phase = .begun → s.attendShort c.fn c.requests = false → c.cls ≠ 2 → s.fore.replay.state = .off →
              c.deadline = 0 →
              t.cmd id = some { c with phase := .running }
              ∧ ∃ x ∈ t.fore.runs, x.kind = .attend id ∧ x.reqs = c.requests ∧ x.admitted = true
                ∧ x.tiles.length = c.requests.length ∧ ∀ n ∈ x.tiles, n ≤ maxTileCycles)) := by
  refine ⟨_, b.next, fun bad => ?_, fun d good bad => ?_, fun good fits none => ?_,
    fun good fits some => ⟨fun begun short => ?_, fun begun long cls off whenever => ?_⟩⟩
  · rw [if_pos bad]
    exact b.done rfl
  · rw [if_neg (by rw [good]; decide), bad]
    exact b.done rfl
  · rw [if_neg (by rw [good]; decide), fits]
    dsimp only
    rw [if_pos none]
    exact b.done rfl
  · rw [if_neg (by rw [good]; decide), fits]
    dsimp only
    rw [if_neg some, if_pos ⟨begun, short⟩]
    exact b.done rfl
  · rw [if_neg (by rw [good]; decide), fits]
    dsimp only
    rw [if_neg some, if_neg (fun k => absurd (k.2.symm.trans long) (by decide))]
    obtain ⟨cmd, n, e, us, sh, base, mem⟩ := State.submitRun_admits (r := c.attendRun id) b off (toNat_ne_two cls) nofun
      (State.not_late_without_deadline _ whenever)
    refine ⟨cmd.trans (congrArg Option.some (if_pos begun)), _, mem, rfl, rfl, rfl, List.length_map _, fun cycles tile => ?_⟩
    obtain ⟨r, -, rfl⟩ := List.mem_map.mp tile
    exact Nat.min_le_left _ _

/-! ### JOB_CANCEL -/

theorem jobCancel_spec (s : State) (id : Nat) (c : Cmd) (b : s.Begins id .jobCancel c) :
    ∃ t, exec (.jobCancel id) s = .next t
      ∧ ((∃ d ∈ s.cancelTargets c, d.cls = 2) → s.hasAuth c.fn = false →
          Completed s t id c stNotPermitted 2 0 ∧ t.fore.runs = s.fore.runs)
      ∧ (∀ d, s.cmd d.id = some d → d.id ≠ id → s.cancelTargets c = [d] → d.cls ≠ 2 → (∀ r ∈ s.fore.runs, r.cmd ≠ some d.id) →
          t.cmd d.id = some { d with phase := .formed stCancelled 1 0 s.now }
          ∧ t.cmd id = some { c with phase := .formed stOk 0 1 s.now })
      ∧ (s.cancelTargets c = [] → Completed s t id c stOk 0 0 ∧ t.fore.runs = s.fore.runs) := by
  refine ⟨_, b.next, fun class2 unauthorised => ?_, fun d taken other single cls idle => ?_, fun none => ?_⟩
  · have some : (s.cancelTargets c).any (fun d => d.cls == 2) = true := by simpa using class2
    dsimp only
    rw [some, unauthorised, if_pos (by decide)]
    exact ⟨b.done rfl, rfl⟩
  · have live : d.live = true := by
      have target : d ∈ s.cancelTargets c := by rw [single]; exact List.mem_cons_self
      have tests := (List.mem_filter.mp target).2
      simp only [Bool.and_eq_true] at tests
      exact tests.1.1.1
    have cancelled : s.cancelTarget d = s.finish d.id stCancelled 1 0 := by
      unfold State.cancelTarget
      rw [List.find?_eq_none.mpr fun r mem => by simpa using idle r mem]
    dsimp only
    rw [single, if_neg (by simpa using fun k => absurd k cls), List.foldl_cons, List.foldl_nil, cancelled]
    refine ⟨(State.finish_other _ other _ _ _).trans (State.finish_cmd taken live _ _ _), ?_⟩
    exact State.finish_cmd ((State.finish_other s (Ne.symm other) _ _ _).trans b.cmd) b.live _ _ _
  · dsimp only
    rw [none, if_neg (by rw [List.any_nil]; exact Bool.false_ne_true)]
    exact ⟨b.done rfl, rfl⟩

/-- Settles O51: each row is the first test that the command fails, else the admission of its run. -/
theorem jobs : Obligations.Jobs := by
  unfold Obligations.Jobs
  exact ⟨jobSubmit_spec, attend_spec, jobCancel_spec⟩

end Sys2Proof.Machine

/-!
Key-value sequences: KV_OPEN, KV_QUERY, KV_TRIM, KV_CLOSE and KV_SCATTER (R284 to R296).
-/

namespace Sys2Proof.Machine

section Kv

variable {s : State} {id : Nat} {c : Cmd} {q : KvSeq}

/-! ### KV_OPEN and KV_QUERY -/

/-- The sequence that a KV_OPEN asks for (R285). -/
def Cmd.sequence (c : Cmd) (h : Nat) (f : Fmt) : KvSeq :=
  { handle := h, va := c.arg 16 8, maxLen := c.arg 24 4, heads := c.arg 28 2, headDim := c.arg 30 2, fmt := f
    window := c.arg 33 1 % 2 == 1, length := 0, start := 0, pages := [] }

theorem exec_kvOpen {f : Fmt} (b : s.Begins id .kvOpen c) (format : kvFormat (c.arg 32 1) = some f) :
    exec (.kvOpen id) s = .next (
      let h := s.newSequence c.fn
      let row := kvOpenRow c.desc
      if row = 0 ∨ (s.fn c.fn).taken (c.arg 16 8) (c.arg 24 4 * row) = true then s.finish id stBadParam 0xFFFF 0
      else if 256 ≤ (s.fn c.fn).seqs.length ∨ 4096 ≤ (s.fns.toList.map (fun y => y.seqs.length)).sum then
        s.finish id stNoResource 3 0
      else (s.drawn.setFn c.fn (fun x => { x with seqs := c.sequence h f :: x.seqs })).finish id stOk 0
        (BitVec.ofNat 64 h)) := by
  refine b.next.trans ?_
  dsimp only
  rw [format]
  rfl

theorem kvOpen_spec (s : State) (id : Nat) (c : Cmd) (f : Fmt) (b : s.Begins id .kvOpen c)
    (format : kvFormat (c.arg 32 1) = some f) :
    ∃ t, exec (.kvOpen id) s = .next t
      ∧ ((kvOpenRow c.desc = 0 ∨ (s.fn c.fn).taken (c.arg 16 8) (c.arg 24 4 * kvOpenRow c.desc) = true) →
          Completed s t id c stBadParam 0xFFFF 0)
      ∧ (kvOpenRow c.desc ≠ 0 → (s.fn c.fn).taken (c.arg 16 8) (c.arg 24 4 * kvOpenRow c.desc) = false →
          ((256 ≤ (s.fn c.fn).seqs.length ∨ 4096 ≤ (s.fns.toList.map (fun y => y.seqs.length)).sum) →
            Completed s t id c stNoResource 3 0)
          ∧ ((s.fn c.fn).seqs.length < 256 → (s.fns.toList.map (fun y => y.seqs.length)).sum < 4096 →
              Completed s t id c stOk 0 (BitVec.ofNat 64 (s.newSequence c.fn))
              ∧ s.newSequence c.fn ≠ 0 ∧ (s.fn c.fn).seq (s.newSequence c.fn) = none
              ∧ (t.fn c.fn).seq (s.newSequence c.fn) = some (c.sequence (s.newSequence c.fn) f))) := by
  refine ⟨_, exec_kvOpen b format, fun bad => ?_, fun row free => ⟨fun full => ?_, fun few room => ?_⟩⟩
  · rw [if_pos bad]
    exact b.done rfl
  · rw [if_neg (by simp [row, free]), if_pos full]
    exact b.done rfl
  · rw [if_neg (by simp [row, free]), if_neg (by omega)]
    obtain ⟨nonzero, unused⟩ := State.newSequence_facts s c.fn few
    have own := State.fn_setFn_self s.drawn c.fn
      (fun x => { x with seqs := c.sequence (s.newSequence c.fn) f :: x.seqs })
    refine ⟨b.done rfl, nonzero, unused, (congrArg (Fn.seq · _) own).trans ?_⟩
    simp [Fn.seq, Cmd.sequence]

theorem kvQuery_spec (s : State) (id : Nat) (c : Cmd) (b : s.Begins id .kvQuery c) :
    ∃ t, exec (.kvQuery id) s = .next t
      ∧ ((s.fn c.fn).seq (c.arg 16 4) = none → Completed s t id c stBadParam 16 0)
      ∧ (∀ q, (s.fn c.fn).seq (c.arg 16 4) = some q →
          Completed s t id c stOk 0 (BitVec.ofNat 64 (q.length + q.start * 2 ^ 32)) ∧ t.fns = s.fns ∧ t.mem = s.mem) := by
  refine ⟨_, b.next, fun closed => ?_, fun q found => ?_⟩
  · rw [closed]
    exact b.done rfl
  · rw [found]
    exact ⟨b.done rfl, rfl, rfl⟩

/-! ### KV_TRIM and KV_CLOSE -/

/-- A page that holds no position once the sequence is trimmed (R294). -/
def KvSeq.emptied (q : KvSeq) (len : Nat) (x : Nat × Nat) : Bool := decide (len ≤ x.2) || decide (x.2 + q.spp ≤ q.start)

/-- A sequence trimmed, when `q` is what it was (R294). -/
def KvSeq.trimmed (q : KvSeq) (len : Nat) (y : KvSeq) : KvSeq :=
  { y with length := len, pages := y.pages.filter (fun x => !q.emptied len x) }

theorem exec_kvTrim (b : s.Begins id .kvTrim c) (found : (s.fn c.fn).seq (c.arg 16 4) = some q) :
    exec (.kvTrim id) s = .next (
      if c.arg 20 4 < q.start ∨ q.length < c.arg 20 4 then s.finish id stBadParam 20 0
      else
        ((((q.pages.filter (q.emptied (c.arg 20 4))).foldl (fun s x => s.dropPage c.fn q x.1) s).setSeq c.fn (c.arg 16 4)
          (q.trimmed (c.arg 20 4))).finish id stOk 0 (BitVec.ofNat 64 (c.arg 20 4)))) := by
  refine b.next.trans ?_
  dsimp only
  rw [found]
  rfl

theorem KvSeq.mem_trimmed (q : KvSeq) (len : Nat) (x : Nat × Nat) :
    x ∈ (q.trimmed len q).pages ↔ x ∈ q.pages ∧ x.2 < len ∧ q.start < x.2 + q.spp := by
  simp [KvSeq.trimmed, KvSeq.emptied]

theorem kvTrim_spec (s : State) (id : Nat) (c : Cmd) (b : s.Begins id .kvTrim c) :
    ∃ t, exec (.kvTrim id) s = .next t
      ∧ ((s.fn c.fn).seq (c.arg 16 4) = none → Completed s t id c stBadParam 16 0)
      ∧ (∀ q, (s.fn c.fn).seq (c.arg 16 4) = some q →
          ((c.arg 20 4 < q.start ∨ q.length < c.arg 20 4) → Completed s t id c stBadParam 20 0 ∧ t.fns = s.fns)
          ∧ (q.start ≤ c.arg 20 4 → c.arg 20 4 ≤ q.length →
              Completed s t id c stOk 0 (BitVec.ofNat 64 (c.arg 20 4))
              ∧ ∃ u, (t.fn c.fn).seq (c.arg 16 4) = some u ∧ u.length = c.arg 20 4 ∧ u.start = q.start
                  ∧ ∀ x, x ∈ u.pages ↔ x ∈ q.pages ∧ x.2 < c.arg 20 4 ∧ q.start < x.2 + q.spp)) := by
  cases found : (s.fn c.fn).seq (c.arg 16 4) with
  | none =>
    refine ⟨_, b.next, fun _ => ?_, nofun⟩
    dsimp only
    rw [found]
    exact b.done rfl
  | some q =>
    refine ⟨_, exec_kvTrim b found, nofun, fun q' k => ?_⟩
    obtain rfl := Option.some.inj k
    refine ⟨fun outside => ?_, fun low high => ?_⟩
    · rw [if_pos outside]
      exact ⟨b.done rfl, rfl⟩
    · rw [if_neg (by omega)]
      have same := State.dropPages_sameWork c.fn q (q.pages.filter (q.emptied (c.arg 20 4))) s
      generalize (q.pages.filter (q.emptied (c.arg 20 4))).foldl (fun s x => s.dropPage c.fn q x.1) s = u at same ⊢
      obtain ⟨fns, fore, -⟩ := same
      have seq := State.seq_setSeq u c.fn (c.arg 16 4) (q.trimmed (c.arg 20 4)) (fun _ => rfl)
      rw [State.fn_of_fns fns, found, Option.map_some] at seq
      exact ⟨b.done (congrArg Foreman.taken fore), _, seq, rfl, rfl, q.mem_trimmed (c.arg 20 4)⟩

theorem kvClose_spec (s : State) (id : Nat) (c : Cmd) (b : s.Begins id .kvClose c) :
    ∃ t, exec (.kvClose id) s = .next t
      ∧ ((s.fn c.fn).seq (c.arg 16 4) = none → Completed s t id c stBadParam 16 0)
      ∧ ((s.fn c.fn).seq (c.arg 16 4) ≠ none →
          (c.naming = true → Completed s t id c stBusy 8 0 ∧ t.fns = s.fns)
          ∧ (c.naming = false → Completed s t id c stOk 0 0 ∧ (t.fn c.fn).seq (c.arg 16 4) = none)) := by
  refine ⟨_, b.next, ?_⟩
  dsimp only
  cases found : (s.fn c.fn).seq (c.arg 16 4) with
  | none => exact ⟨fun _ => b.done rfl, fun k => absurd rfl k⟩
  | some q =>
    refine ⟨nofun, fun _ => ⟨fun named => ?_, fun free => ?_⟩⟩
    · dsimp only
      rw [if_pos named]
      exact ⟨b.done rfl, rfl⟩
    · dsimp only
      rw [if_neg (by rw [free]; exact Bool.false_ne_true)]
      have same := State.dropPages_sameWork c.fn q q.pages s
      generalize q.pages.foldl (fun s x => s.dropPage c.fn q x.1) s = u at same ⊢
      have own := State.fn_setFn_self u c.fn (fun x => { x with seqs := x.seqs.filter (fun q => q.handle != c.arg 16 4) })
      refine ⟨b.done (congrArg Foreman.taken same.2.1), (congrArg (Fn.seq · _) own).trans (List.find?_eq_none.mpr ?_)⟩
      intro y mem
      have other := (List.mem_filter.mp mem).2
      simpa using other

/-! ### KV_SCATTER: its record -/

/-- The newest record of the decision log is a function's, with this body (R292). -/
def State.Recorded (t : State) (f : FnId) (b : LogBody) : Prop :=
  ∃ r, t.fore.log.head? = some r ∧ r.fn = some f ∧ r.body = b

/-- The next decision-log record (R328). -/
def State.nextRecord (u : State) (cls : Nat) (f : Option FnId) (b : LogBody) : LogRec :=
  { entry := u.fore.nextEntry, cls := cls, fn := f, time := u.now, body := b }

/-- A record that no ring collects changes the log alone (R327). -/
theorem State.logRecord_off (u : State) (cls : Nat) (f : Option FnId) (b : LogBody) (off : u.fore.replay.state = .off) :
    u.logRecord cls f b = u.setFore (fun x =>
      { x with nextEntry := x.nextEntry + 1, log := (u.nextRecord cls f b :: x.log).take Config.logRecords }) := by
  unfold State.logRecord State.mirror
  exact if_neg (by rw [State.setFore]; dsimp only; rw [off]; nofun)

theorem State.logRecord_recorded (u : State) (cls : Nat) (f : FnId) (b : LogBody) (off : u.fore.replay.state = .off) :
    (u.logRecord cls (some f) b).Recorded f b := by
  rw [State.logRecord_off _ _ _ _ off]
  exact ⟨u.nextRecord cls (some f) b, List.head?_take.trans (if_neg (Nat.succ_ne_zero _)), rfl, rfl⟩

/-- The end of a KV_SCATTER: its completion and its record, and nothing else (R292). -/
theorem State.scatterEnd_spec {u : State} {st : BitVec 16} {d len start recycled : Nat} (b : s.Begins id .kvScatter c)
    (taken : u.fore.taken = s.fore.taken) (off : u.fore.replay.state = .off) :
    let t := u.scatterEnd c st d len start recycled
    Completed s t id c st (BitVec.ofNat 16 d) (BitVec.ofNat 64 (len % 2 ^ 32)) ∧ t.fns = u.fns ∧ t.mem = u.mem
    ∧ t.Recorded c.fn (.kv len start st.toNat recycled) := by
  obtain rfl := b.id_eq
  obtain ⟨fns, mem, kept⟩ := State.logRecord_fns u 0xFF (some c.fn) (.kv len start st.toNat recycled) (by rw [off]; nofun)
  exact ⟨b.done (kept.trans taken), fns, mem, State.logRecord_recorded u _ _ _ off⟩

/-! ### KV_SCATTER: its rows and pages -/

/-- Reading the source rows of an append, without flipped bits, only sends requests (R226, R290). -/
theorem State.scatterAccess_calm (s : State) (c : Cmd) (half : Nat) (calm : s.mem.upsets = []) :
    ∃ sent, s.scatterAccess c half = { s with sent := sent } := by
  unfold State.scatterAccess
  generalize List.range (c.arg 20 4) = rows
  induction rows generalizing s with
  | nil => exact ⟨s.sent, rfl⟩
  | cons i rest ih =>
    rw [List.foldl_cons]
    obtain ⟨keys, read⟩ := s.access_calm c.fn (c.blk 0 8 + i * c.blk 16 4) half calm
    rw [read]
    obtain ⟨values, read⟩ := ({ s with sent := keys } : State).access_calm c.fn (c.blk 8 8 + i * c.blk 20 4) half calm
    rw [read]
    exact ih _ calm

/-- Zeroing flips no bit. -/
theorem Memory.zero_calm {m : Memory} (calm : m.upsets = []) (k n : Nat) : (m.zero k n).upsets = [] := by
  unfold Memory.zero
  dsimp only
  rw [calm, List.filter_nil]

theorem State.dropPage_calm {s : State} (calm : s.mem.upsets = []) (f : FnId) (q : KvSeq) (page : Nat) :
    (s.dropPage f q page).mem.upsets = [] :=
  Memory.zero_calm (by rw [State.release_mem]; exact calm) _ _

/-- A page taken for an append, and zeroed, flips no bit (R287). -/
theorem State.allocPage_calm {s u : State} (calm : s.mem.upsets = []) {f : FnId} {unit user n : Nat}
    (taken : s.alloc f unit user n = some u) (q : KvSeq) (page : Nat) : (u.zeroPage f q page).mem.upsets = [] :=
  Memory.zero_calm (by rw [(State.alloc_frame _ _ _ _ _ _ taken).2.2]; exact calm) _ _

/-- Committing a target page, whichever way it is had, flips no bit (R291). -/
theorem commitPage_calm {f : FnId} {q : KvSeq} {targets : List Nat} {m n : Commit} {first : Nat}
    (calm : m.state.mem.upsets = []) (h : commitPage f q targets m first = some n) : n.state.mem.upsets = [] := by
  unfold commitPage at h
  dsimp only at h
  split at h
  · split at h <;> (obtain rfl := Option.some.inj h; exact calm)
  · split at h
    · next u taken =>
      obtain rfl := Option.some.inj h
      split at taken
      · exact State.allocPage_calm calm taken _ _
      · cases taken
    · split at h
      · cases h
      · split at h
        · cases h
        · split at h
          · cases h
          · next u taken =>
            obtain rfl := Option.some.inj h
            exact State.allocPage_calm (State.dropPage_calm calm _ _ _) taken _ _

theorem commitPages_calm {f : FnId} {q : KvSeq} {targets l : List Nat} {m n : Commit} (calm : m.state.mem.upsets = [])
    (h : commitPages f q targets l m = some n) : n.state.mem.upsets = [] := by
  induction l generalizing m with
  | nil => exact Option.some.inj h ▸ calm
  | cons t rest ih =>
    unfold commitPages at h
    split at h
    · cases h
    · next u page => exact ih (commitPage_calm calm page) h

/-! ### KV_SCATTER: the append -/

/-- A record mirrored into a collection ring keeps a command, or the safe state completes it on the way (R461). -/
theorem KeepsCmd.mirror {t : State} (h : KeepsCmd s t id c) (r : LogRec) : KeepsCmd s (t.mirror r) id c := by
  unfold State.mirror
  dsimp only
  split
  · have written := h.writeVa t.fore.replay.fn false
      (t.fore.replay.base + 32 * (t.fore.replay.count % (t.fore.replay.size / 32))) r.bytes .ok
    generalize (t.writeVa _ _ _ _ _).1 = u at written ⊢
    exact ⟨written.1, written.2⟩
  · exact h

theorem KeepsCmd.logRecord {t : State} (h : KeepsCmd s t id c) (cls : Nat) (f : Option FnId) (b : LogBody) :
    KeepsCmd s (t.logRecord cls f b) id c := by
  unfold State.logRecord
  refine KeepsCmd.mirror (?_ : KeepsCmd s (t.setFore _) id c) _
  generalize Config.logRecords = bound
  exact ⟨h.1, h.2⟩

/-- An append of a row that fails graft point 2 completes, if only with SAFE_STATE (R290, R336). -/
theorem State.append_grafts {x : WriteFault} {rows : List Bytes} {free : Nat} (b : s.Begins id .kvScatter c)
    (calm : s.mem.upsets = []) (room : q.full (c.arg 20 4) = false) (pages : q.noPage (q.targets (c.arg 20 4)) free = false)
    (read : (s.scatterAccess c (q.row / 2)).scatterRows c (q.row / 2) (c.arg 20 4) 0 = (rows, none)) :
    ∃ st d r, (s.append c q free (some x)).cmd id
      = some { c with phase := .formed st d r (s.append c q free (some x)).now } := by
  obtain ⟨sent, access⟩ := s.scatterAccess_calm c (q.row / 2) calm
  have made : s.append c q free (some x) = (({ s with sent := sent } : State).raise
      { source := 0x060 + x.channel.val, event := .graftMismatch, owner := some c.fn,
        class2 := c.cls == 2 }).scatterEnd c stIntegrity 2 q.length q.start 0 := by
    unfold State.append
    dsimp only
    rw [if_neg (by rw [room]; exact Bool.false_ne_true), if_neg (by rw [pages]; exact Bool.false_ne_true), read, access]
  rw [made]
  have start : KeepsCmd s ({ s with sent := sent } : State) id c := ⟨rfl, .inl b.cmd⟩
  obtain rfl := b.id_eq
  exact ((start.raise _).logRecord _ _ _).finish b.live _ _ _

/-- A sequence after an append (R290, R291). -/
def KvSeq.appended (q : KvSeq) (count : Nat) (m : Commit) (y : KvSeq) : KvSeq :=
  { y with length := y.length + count, start := newStart q.spp m.recycled (m.recycled.length + 1) q.start, pages := m.pages }

/-- An append whose rows can be read and whose pages can be committed (R290 to R292). -/
theorem State.append_commits {rows : List Bytes} {free : Nat} {m : Commit} (b : s.Begins id .kvScatter c)
    (off : s.fore.replay.state = .off) (found : (s.fn c.fn).seq (c.arg 16 4) = some q)
    (calm : s.mem.upsets = []) (room : q.full (c.arg 20 4) = false) (pages : q.noPage (q.targets (c.arg 20 4)) free = false)
    (read : (s.scatterAccess c (q.row / 2)).scatterRows c (q.row / 2) (c.arg 20 4) 0 = (rows, none))
    (committed : commitPages c.fn q (q.targets (c.arg 20 4)) (q.targets (c.arg 20 4))
      { state := s.scatterAccess c (q.row / 2), pages := q.pages, recycled := [], free := free } = some m) :
    let t := s.append c q free none
    Completed s t id c stOk 0 (BitVec.ofNat 64 ((q.length + c.arg 20 4) % 2 ^ 32))
    ∧ (∃ u, (t.fn c.fn).seq (c.arg 16 4) = some u ∧ u.length = q.length + c.arg 20 4 ∧ u.pages = m.pages)
    ∧ t.Recorded c.fn (.kv (q.length + c.arg 20 4) (newStart q.spp m.recycled (m.recycled.length + 1) q.start)
        stOk.toNat m.recycled.length) := by
  intro t
  obtain ⟨sent, access⟩ := s.scatterAccess_calm c (q.row / 2) calm
  let u := m.state.writeRows c.fn q q.length rows
  have made : t = (u.setSeq c.fn q.handle (q.appended (c.arg 20 4) m)).scatterEnd c stOk 0 (q.length + c.arg 20 4)
      (newStart q.spp m.recycled (m.recycled.length + 1) q.start) m.recycled.length := by
    simp only [t, State.append]
    rw [if_neg (by rw [room]; exact Bool.false_ne_true), if_neg (by rw [pages]; exact Bool.false_ne_true), read]
    dsimp only
    rw [committed]
    rfl
  have same : SameWork s u := by
    have start : SameWork s (s.scatterAccess c (q.row / 2)) := by rw [access]; exact ⟨rfl, rfl, rfl⟩
    refine (start.trans (commitPages_sameWork _ _ _ _ _ _ committed)).trans (State.writeRows_sameWork _ _ _ _ _ ?_)
    refine commitPages_calm ?_ committed
    rw [access]
    exact calm
  obtain ⟨fns, fore, -⟩ := same
  obtain ⟨done, fns', -, recorded⟩ := State.scatterEnd_spec (u := u.setSeq c.fn q.handle (q.appended (c.arg 20 4) m))
    (st := stOk) (d := 0) (len := q.length + c.arg 20 4)
    (start := newStart q.spp m.recycled (m.recycled.length + 1) q.start) (recycled := m.recycled.length)
    b (congrArg Foreman.taken fore) ((congrArg (·.replay.state) fore).trans off)
  have seq := State.seq_setSeq u c.fn q.handle (q.appended (c.arg 20 4) m) (fun _ => rfl)
  rw [State.fn_of_fns fns, Fn.seq_handle found, found, Option.map_some] at seq
  rw [made, Fn.seq_handle found]
  rw [Fn.seq_handle found] at done fns' recorded
  exact ⟨done, ⟨_, (congrArg (Fn.seq · _) (State.fn_of_fns fns' c.fn)).trans seq, rfl, rfl⟩, recorded⟩

theorem exec_kvScatter {graft2 : Option WriteFault} (b : s.Begins id .kvScatter c) (off : s.fore.replay.state = .off) :
    exec (.kvScatter id graft2) s = .next (
      match (s.fn c.fn).seq (c.arg 16 4) with
      | none => s.scatterEnd c stBadParam 16 0 0 0
      | some q =>
        match s.scatterBad c q with
        | some d => s.scatterEnd c stBadParam d q.length q.start 0
        | none => s.append c q (s.kvFree c.fn) graft2) := by
  refine b.next.trans ?_
  dsimp only
  refine congrArg Host.Outcome.next (if_neg ?_)
  rw [off]
  nofun

theorem kvScatter_spec (s : State) (id : Nat) (c : Cmd) (graft2 : Option WriteFault) (b : s.Begins id .kvScatter c)
    (off : s.fore.replay.state = .off) :
    ∃ t, exec (.kvScatter id graft2) s = .next t
      ∧ ((s.fn c.fn).seq (c.arg 16 4) = none →
          Completed s t id c stBadParam 16 0 ∧ t.Recorded c.fn (.kv 0 0 stBadParam.toNat 0))
      ∧ (∀ q, (s.fn c.fn).seq (c.arg 16 4) = some q →
          let keep (st d : BitVec 16) : Prop := Completed s t id c st d (BitVec.ofNat 64 (q.length % 2 ^ 32))
            ∧ t.fns = s.fns ∧ t.mem = s.mem ∧ t.Recorded c.fn (.kv q.length q.start st.toNat 0)
          (∀ d, s.scatterBad c q = some d → keep stBadParam (BitVec.ofNat 16 d))
          ∧ (s.scatterBad c q = none → q.full (c.arg 20 4) = true → keep stKvFull 0)
          ∧ (s.scatterBad c q = none → q.full (c.arg 20 4) = false →
              q.noPage (q.targets (c.arg 20 4)) (s.kvFree c.fn) = true → keep stKvNoPage 0)
          ∧ (∀ rows, s.mem.upsets = [] → s.scatterBad c q = none → q.full (c.arg 20 4) = false →
              q.noPage (q.targets (c.arg 20 4)) (s.kvFree c.fn) = false →
              (s.scatterAccess c (q.row / 2)).scatterRows c (q.row / 2) (c.arg 20 4) 0 = (rows, none) →
              (∀ x, graft2 = some x → ∃ st d r, t.cmd id = some { c with phase := .formed st d r t.now })
              ∧ (∀ m, graft2 = none → commitPages c.fn q (q.targets (c.arg 20 4)) (q.targets (c.arg 20 4))
                  { state := s.scatterAccess c (q.row / 2), pages := q.pages, recycled := [], free := s.kvFree c.fn } = some m →
                Completed s t id c stOk 0 (BitVec.ofNat 64 ((q.length + c.arg 20 4) % 2 ^ 32))
                ∧ (∃ u, (t.fn c.fn).seq (c.arg 16 4) = some u ∧ u.length = q.length + c.arg 20 4 ∧ u.pages = m.pages)
                ∧ t.Recorded c.fn (.kv (q.length + c.arg 20 4) (newStart q.spp m.recycled (m.recycled.length + 1) q.start)
                    stOk.toNat m.recycled.length)))) := by
  refine ⟨_, exec_kvScatter b off, ?_⟩
  cases found : (s.fn c.fn).seq (c.arg 16 4) with
  | none =>
    obtain ⟨done, -, -, recorded⟩ := State.scatterEnd_spec (u := s) (st := stBadParam) (d := 16) (len := 0) (start := 0)
      (recycled := 0) b rfl off
    exact ⟨fun _ => ⟨done, recorded⟩, nofun⟩
  | some q =>
    refine ⟨nofun, fun q' k => ?_⟩
    obtain rfl := Option.some.inj k
    refine ⟨fun d bad => ?_, fun good full => ?_, fun good room short => ?_, fun rows calm good room pages read =>
      ⟨fun x graft => ?_, fun m graft committed => ?_⟩⟩
    · dsimp only
      rw [bad]
      exact State.scatterEnd_spec b rfl off
    · have made : s.append c q (s.kvFree c.fn) graft2 = s.scatterEnd c stKvFull 0 q.length q.start 0 := if_pos full
      dsimp only
      rw [good]
      dsimp only
      rw [made]
      exact State.scatterEnd_spec b rfl off
    · have made : s.append c q (s.kvFree c.fn) graft2 = s.scatterEnd c stKvNoPage 0 q.length q.start 0 :=
        (if_neg (by rw [room]; exact Bool.false_ne_true)).trans (if_pos short)
      dsimp only
      rw [good]
      dsimp only
      rw [made]
      exact State.scatterEnd_spec b rfl off
    · subst graft
      dsimp only
      rw [good]
      exact State.append_grafts b calm room pages read
    · subst graft
      dsimp only
      rw [good]
      exact State.append_commits b off found calm room pages read committed

end Kv

/-- Settles O52: each row is the first test that the command fails, else the change of its sequence. -/
theorem keyValueCommands : Obligations.KeyValueCommands := by
  unfold Obligations.KeyValueCommands
  refine ⟨fun s id c f b format => ?_, kvQuery_spec, kvTrim_spec, kvClose_spec, kvScatter_spec⟩
  obtain ⟨t, row, bad, good⟩ := kvOpen_spec s id c f b format
  refine ⟨t, row, bad, fun given free => ⟨(good given free).1, fun few room => ?_⟩⟩
  obtain ⟨done, nonzero, unused, listed⟩ := (good given free).2 few room
  exact ⟨done, nonzero, unused, _, listed, rfl, rfl, rfl, rfl, rfl, rfl, rfl, rfl⟩

end Sys2Proof.Machine

/-!
Shift boundaries and self-test slices (R304, R313, R365 to R372).
-/

namespace Sys2Proof.Machine

/-! ### A shift boundary -/

section Shift

variable {s : State}

/-- An event bit set in both ports' functions leaves the Foreman and memory. -/
theorem State.setEvents_stay (u : State) (f g : FnId) (bits : BitVec 7) :
    ((u.setEvent f bits).setEvent g bits).fore = u.fore ∧ ((u.setEvent f bits).setEvent g bits).mem = u.mem := by
  obtain ⟨_, _, first⟩ := u.setEvent_frame f bits
  obtain ⟨_, _, second⟩ := (u.setEvent f bits).setEvent_frame g bits
  rw [second, first]
  exact ⟨rfl, rfl⟩

/-- What waited takes effect at the boundary; runs and memory stay (R97, R304, R306). -/
theorem State.newShift_facts (s : State) :
    let u := s.newShift.1
    u.fore.shift = s.fore.shift + 1 ∧ u.fore.agreed = none
    ∧ (u.fore.enginesA, u.fore.memA, u.fore.streamsA)
        = s.fore.agreed.getD (s.fore.enginesA, s.fore.memA, s.fore.streamsA)
    ∧ u.fore.safety.frameUs = s.fore.safety.nextFrame.getD s.fore.safety.frameUs
    ∧ u.fore.usable = usableOf s.joinedCount u.fore.safety.frameUs
    ∧ u.fore.reservations.map (·.inForce) = s.fore.reservations.map (·.amount)
    ∧ u.fore.runs = s.fore.runs ∧ u.mem = s.mem ∧ u.fore.replay = s.fore.replay := by
  unfold State.newShift
  dsimp only
  split
  · rw [(State.setEvents_stay _ _ _ _).1, (State.setEvents_stay _ _ _ _).2]
    exact ⟨rfl, rfl, rfl, rfl, rfl, List.map_map, rfl, rfl, rfl⟩
  · exact ⟨rfl, rfl, rfl, rfl, rfl, List.map_map, rfl, rfl, rfl⟩

/-- After that a boundary writes records and lays out the crews (R304, R313). -/
theorem State.beginShift_planned (quiet : s.fore.replay.state ≠ .collecting) : Planned s.newShift.1 s.beginShift := by
  have still : s.newShift.1.fore.replay.state ≠ .collecting := by
    rw [(s.newShift_facts).2.2.2.2.2.2.2.2]
    exact quiet
  have noted : Planned s.newShift.1 s.newShift.1.shiftRecord := State.logRecord_planned _ _ _ _ still
  unfold State.beginShift
  dsimp only
  split
  · exact noted.trans (State.repartition_planned _ _ _ (noted.quiet still))
  · split
    · exact noted.trans (State.repartition_planned _ _ _ (noted.quiet still))
    · exact noted

theorem shiftBoundary_spec (s : State) (runs : s.rootRuns = true) (complete : s.boot.complete = true)
    (well : s.safe = false) (off : s.fore.replay.state = .off) :
    ∃ t, exec .shiftBoundary s = .next t ∧ t.fore.shift = s.fore.shift + 1 ∧ t.fore.agreed = none
      ∧ (t.fore.enginesA, t.fore.memA, t.fore.streamsA)
          = s.fore.agreed.getD (s.fore.enginesA, s.fore.memA, s.fore.streamsA)
      ∧ t.fore.safety.frameUs = s.fore.safety.nextFrame.getD s.fore.safety.frameUs
      ∧ t.fore.usable = usableOf s.joinedCount t.fore.safety.frameUs
      ∧ t.fore.reservations.map (·.inForce) = s.fore.reservations.map (·.amount)
      ∧ t.fore.runs = s.fore.runs ∧ t.mem = s.mem := by
  refine ⟨_, next_when_pos (by simp [runs, complete, well, off]), ?_⟩
  obtain ⟨shift', agreed', split', frame', usable', inForce', runs', mem', -⟩ := s.newShift_facts
  obtain ⟨⟨engines, streams, fore, frame⟩, ⟨-, runs, -, safety, reservations, shift, usable, -, -, -, agreed, enginesA,
    memA, streamsA⟩, -⟩ := State.beginShift_planned (s := s) (by rw [off]; nofun)
  have mem : s.beginShift.mem = s.newShift.1.mem := by rw [frame]
  rw [shift, agreed, enginesA, memA, streamsA, safety, usable, reservations, runs, mem]
  exact ⟨shift', agreed', split', frame', usable', inForce', runs', mem'⟩

end Shift

/-! ### The engine of the next slice -/

section Choice

variable {s : State} {a b c : EngineId}

/-- The engine is withdrawn (R371). -/
def State.isWithdrawn (s : State) (e : EngineId) : Bool := (s.engines[e.val]).state == .withdrawn

theorem State.sliceBefore_iff : s.sliceBefore a b = true ↔
    (s.isWithdrawn a = true ∧ s.isWithdrawn b = false)
    ∨ (s.isWithdrawn a = s.isWithdrawn b
      ∧ ((s.engines[a.val]).testAt < (s.engines[b.val]).testAt
        ∨ (s.engines[a.val]).testAt = (s.engines[b.val]).testAt ∧ a.val < b.val)) := by
  simp [State.sliceBefore, State.isWithdrawn]

/-- No engine comes before itself in the order of R365. -/
theorem State.sliceBefore_irrefl : s.sliceBefore a a = false := by
  rw [Bool.eq_false_iff, Ne, State.sliceBefore_iff]
  rintro (⟨yes, no⟩ | ⟨-, older | ⟨-, lower⟩⟩)
  · rw [yes] at no
    cases no
  · exact Nat.lt_irrefl _ older
  · exact Nat.lt_irrefl _ lower

theorem State.sliceBefore_trans (ab : s.sliceBefore a b = true) (bc : s.sliceBefore b c = true) :
    s.sliceBefore a c = true := by
  rw [State.sliceBefore_iff] at *
  rcases ab with ⟨ha, hb⟩ | ⟨same, order⟩ <;> rcases bc with ⟨hb', hc⟩ | ⟨same', order'⟩
  · exact .inl ⟨ha, hc⟩
  · exact .inl ⟨ha, same' ▸ hb⟩
  · exact .inl ⟨same ▸ hb', hc⟩
  · exact .inr ⟨same.trans same', by omega⟩

/-- What comes before the first of two engines comes before the second. -/
theorem State.not_sliceBefore (not : s.sliceBefore a c = false) (bc : s.sliceBefore b c = true) :
    s.sliceBefore a b = false := by
  by_contra ab
  rw [State.sliceBefore_trans (by simpa using ab) bc] at not
  cases not

/-- The better of an engine and the best so far (R365). -/
def State.betterSlice (s : State) (best : Option EngineId) (e : EngineId) : Option EngineId :=
  match best with
  | none => some e
  | some b => if s.sliceBefore e b then some e else some b

/-- The best of a list and one engine more: none comes before it. -/
theorem State.betterSlice_foldl (l : List EngineId) (b : EngineId) :
    ∃ e, l.foldl s.betterSlice (some b) = some e ∧ (e = b ∨ e ∈ l ∧ s.sliceBefore e b = true)
      ∧ ∀ d ∈ l, s.sliceBefore d e = false := by
  induction l generalizing b with
  | nil => exact ⟨b, rfl, .inl rfl, nofun⟩
  | cons x rest ih =>
    rw [List.foldl_cons]
    cases first : s.sliceBefore x b with
    | true =>
      obtain ⟨e, best, place, least⟩ := ih x
      refine ⟨e, by rw [← best, State.betterSlice, if_pos first], .inr ?_, ?_⟩
      · rcases place with rfl | ⟨mem, before⟩
        · exact ⟨List.mem_cons_self, first⟩
        · exact ⟨List.mem_cons_of_mem _ mem, State.sliceBefore_trans before first⟩
      · rw [List.forall_mem_cons]
        refine ⟨?_, least⟩
        rcases place with rfl | ⟨-, before⟩
        · exact State.sliceBefore_irrefl
        · exact State.not_sliceBefore State.sliceBefore_irrefl before
    | false =>
      obtain ⟨e, best, place, least⟩ := ih b
      refine ⟨e, by rw [← best, State.betterSlice, if_neg (by rw [first]; exact Bool.false_ne_true)],
        place.imp_right (fun p => ⟨List.mem_cons_of_mem _ p.1, p.2⟩), ?_⟩
      rw [List.forall_mem_cons]
      refine ⟨?_, least⟩
      rcases place with rfl | ⟨-, before⟩
      · exact first
      · exact State.not_sliceBefore first before

/-- The engine chosen may run a slice, and none that may comes before it (R365, R366). -/
theorem State.sliceChoice_first {e : EngineId} (chosen : s.sliceChoice = some e) :
    s.maySlice e = true ∧ ∀ d : EngineId, s.maySlice d = true → s.sliceBefore d e = false := by
  have fold : ((List.finRange 64).filter s.maySlice).foldl s.betterSlice none = some e := chosen
  have may : ∀ d : EngineId, d ∈ (List.finRange 64).filter s.maySlice ↔ s.maySlice d = true := fun d => by simp
  simp only [← may]
  generalize (List.finRange 64).filter s.maySlice = l at fold
  cases l with
  | nil => cases fold
  | cons x rest =>
    obtain ⟨e', best, place, least⟩ := State.betterSlice_foldl (s := s) rest x
    obtain rfl := Option.some.inj (best.symm.trans fold)
    rcases place with rfl | ⟨mem, before⟩
    · exact ⟨List.mem_cons_self, List.forall_mem_cons.mpr ⟨State.sliceBefore_irrefl, least⟩⟩
    · exact ⟨List.mem_cons_of_mem _ mem,
        List.forall_mem_cons.mpr ⟨State.not_sliceBefore State.sliceBefore_irrefl before, least⟩⟩

end Choice

/-! ### Slices -/

section Slices

variable {s : State} {e : EngineId}

/-- An engine whose slice starts (R364). -/
def Engine.sliced (x : Engine) (now : BitVec 64) : Engine :=
  { x with slice := true, sliceAt := now, bench := {}, state := if x.state = .withdrawn then .withdrawn else .underTest }

theorem sliceStart_spec (s : State) (working : s.working = true) (run : s.power.state = .run) (idle : s.slicing = none) :
    (s.sliceChoice = none → exec .sliceStart s = .next s)
    ∧ (∀ e, s.sliceChoice = some e → s.maySlice e = true
        ∧ (∀ d : EngineId, s.maySlice d = true → s.sliceBefore d e = false)
        ∧ ∃ t, exec .sliceStart s = .next t ∧ (t.engines[e.val]).slice = true ∧ (t.engines[e.val]).sliceAt = s.now
          ∧ (t.engines[e.val]).bench = {}
          ∧ (∀ d : EngineId, d ≠ e → t.engines[d.val] = s.engines[d.val])
          ∧ t = { s with engines := t.engines }) := by
  have ready : (s.working && decide (s.power.state = .run) && s.slicing.isNone) = true := by simp [working, run, idle]
  refine ⟨fun nobody => (next_when_pos ready).trans (congrArg Host.Outcome.next (by rw [nobody])), fun e chosen => ?_⟩
  obtain ⟨may, first⟩ := State.sliceChoice_first chosen
  have own := State.setEngine_at s e (·.sliced s.now)
  refine ⟨may, first, s.setEngine e (·.sliced s.now), (next_when_pos ready).trans (congrArg Host.Outcome.next ?_),
    congrArg Engine.slice own, congrArg Engine.sliceAt own, congrArg Engine.bench own,
    fun d ne => State.setEngine_ne s e d ne _, rfl⟩
  rw [chosen]
  rfl

/-- The engine whose slice ends gets a verdict. -/
theorem sliceEnd_next {passed : Bool} (working : s.working = true) (slicing : s.slicing = some e) :
    exec (.sliceEnd passed) s = .next (
      if passed then
        (s.setFore (fun f => { f with slicesPassed := satAdd 32 f.slicesPassed 1 })).setEngine e
          (fun x => x.slicePassed s.clk.runCycles s.fore.safety.diagMs)
      else s.retireEngine e) := by
  refine (next_when_pos working).trans (congrArg Host.Outcome.next ?_)
  rw [slicing]

theorem sliceEnd_passes (working : s.working = true) (slicing : s.slicing = some e) :
    ∃ t, exec (.sliceEnd true) s = .next t ∧ (t.engines[e.val]).slice = false ∧ (t.engines[e.val]).aborts = 0
      ∧ t.fore.slicesPassed = min (s.fore.slicesPassed + 1) (2 ^ 32 - 1)
      ∧ ((s.engines[e.val]).slicesDone = 7 → (t.engines[e.val]).testAt = s.clk.runCycles ∧ (t.engines[e.val]).slicesDone = 0)
      ∧ ((s.engines[e.val]).slicesDone ≠ 7 → (t.engines[e.val]).slicesDone = (s.engines[e.val]).slicesDone + 1) := by
  refine ⟨_, sliceEnd_next working slicing, ?_⟩
  rw [if_pos rfl, State.setEngine_at]
  simp only [State.setFore_engines]
  unfold Engine.slicePassed
  split
  · next done => exact ⟨rfl, rfl, rfl, fun _ => ⟨rfl, rfl⟩, fun k => absurd done k⟩
  · next more => exact ⟨rfl, rfl, rfl, fun k => absurd k more, fun _ => rfl⟩

theorem State.working_safe (working : s.working = true) : s.safe = false := by
  simp only [State.working, Bool.and_eq_true, Bool.not_eq_true'] at working
  exact working.1.2

/-- A failed slice retires its engine, unless the event takes the device to the safe state (R372). -/
theorem sliceEnd_fails (working : s.working = true) (slicing : s.slicing = some e) :
    ∃ t, exec (.sliceEnd false) s = .next t ∧ (t.safe = false → (t.engines[e.val]).state = .retired
        ∧ (t.engines[e.val]).crew = none ∧ (t.engines[e.val]).slice = false) := by
  refine ⟨_, sliceEnd_next working slicing, ?_⟩
  rw [if_neg Bool.false_ne_true, State.retireEngine]
  let retire : Engine → Engine := fun x => { x with slice := false, state := .retired, crew := none, abortFor := none }
  have own := State.setEngine_at s e retire
  intro well
  have safe : s.safe = false := State.working_safe working
  have engines := ((s.setEngine e retire).raise_raised { source := engineSource e 0x70, event := .selftestFail }).calm
    (well.trans safe.symm)
  obtain ⟨-, -, -, -, -, -, -, -, engines, -⟩ := engines
  rw [engines, own]
  exact ⟨rfl, rfl, rfl⟩

/-- An engine whose slice is aborted (R368, R371). -/
def Engine.aborted (x : Engine) (run : Option Nat) : Engine :=
  { x with
    slice := false, aborts := min 8 (x.aborts + 1)
    state := if x.state = .withdrawn ∨ min 8 (x.aborts + 1) = 8 then .withdrawn else .inPool
    abortFor := if x.state ≠ .withdrawn ∧ min 8 (x.aborts + 1) = 8 then run else x.abortFor }

theorem State.starveIf_engines (p : Prop) [Decidable p] (u : State) (e : EngineId) :
    (if p then u.starve e else u).engines = u.engines := by
  split
  · exact (u.starve_calm e).2
  · rfl

theorem State.abortSlice_at (s : State) (e : EngineId) (run : Option Nat) :
    (s.abortSlice e run).engines[e.val] = (s.engines[e.val]).aborted run := by
  have own := State.setEngine_at (s.setFore (fun f => { f with slicesAborted := satAdd 32 f.slicesAborted 1 })) e
    (fun x => { x with
      slice := false, aborts := min 8 ((s.engines[e.val]).aborts + 1)
      state := if x.state = .withdrawn ∨ min 8 ((s.engines[e.val]).aborts + 1) = 8 then .withdrawn else .inPool
      abortFor := if x.state ≠ .withdrawn ∧ min 8 ((s.engines[e.val]).aborts + 1) = 8 then run else x.abortFor })
  exact (congrArg (·[e.val]) (State.starveIf_engines _ _ e)).trans own

theorem sliceGuardExpired_spec (working : s.working = true) (slicing : s.slicing = some e) :
    ∃ t, exec .sliceGuardExpired s = .next t ∧ (t.engines[e.val]).slice = false
      ∧ (t.engines[e.val]).aborts = min 8 ((s.engines[e.val]).aborts + 1)
      ∧ ((s.engines[e.val]).aborts < 7 → (s.engines[e.val]).state ≠ .withdrawn → (t.engines[e.val]).state = .inPool)
      ∧ (7 ≤ (s.engines[e.val]).aborts → (t.engines[e.val]).state = .withdrawn) := by
  refine ⟨s.abortSlice e none, (next_when_pos working).trans (congrArg Host.Outcome.next (by rw [slicing])), ?_⟩
  rw [State.abortSlice_at]
  refine ⟨rfl, rfl, fun few here => if_neg ?_, fun many => if_pos (.inr (by omega))⟩
  rintro (away | eight)
  · exact here away
  · omega

theorem diagAgeLimit_spec (s : State) (e : EngineId) (working : s.working = true) (run : s.power.state = .run)
    (joined : (s.scions[(scionOf e).val]).state = .joined)
    (pool : (s.engines[e.val]).state = .inPool ∨ (s.engines[e.val]).state = .underTest) :
    ((s.engines[e.val]).testDue s.clk.runCycles = false → exec (.diagAgeLimit e) s = .next s)
    ∧ ((s.engines[e.val]).testDue s.clk.runCycles = true →
      ∃ t, exec (.diagAgeLimit e) s = .next t ∧ (t.engines[e.val]).state = .withdrawn
        ∧ ∀ d : EngineId, d ≠ e → t.engines[d.val] = s.engines[d.val]) := by
  refine ⟨fun early => next_when_neg (by rw [early]; simp), fun due => ?_⟩
  let withdraw : Engine → Engine := fun x => { x with state := .withdrawn }
  have row := next_when_pos (s := s) (t := (s.setEngine e withdraw).starve e)
    (c := s.working && decide (s.power.state = .run) && decide ((s.scions[(scionOf e).val]).state = .joined)
      && ((s.engines[e.val]).state == .inPool || (s.engines[e.val]).state == .underTest)
      && (s.engines[e.val]).testDue s.clk.runCycles) (by simp [working, run, joined, due, pool])
  have calm := ((s.setEngine e withdraw).starve_calm e).2
  refine ⟨_, row, ?_, fun d ne => ?_⟩
  · rw [calm, State.setEngine_at]
  · rw [calm, State.setEngine_ne s e d ne]

end Slices

end Sys2Proof.Machine

/-!
The start and the end of a tile (R311, R315, R316, R338, R487).
-/

namespace Sys2Proof.Machine

/-! ### The start of a tile -/

section Start

variable {s : State} {r : Run} {j : Nat} {e : EngineId}

theorem mem_insertRun {x : Run} {l : List Run} (h : x ∈ insertRun r l) : x = r ∨ x ∈ l := by
  induction l with
  | nil => exact .inl (List.mem_singleton.mp h)
  | cons y rest ih =>
    rw [insertRun] at h
    split at h
    · exact List.mem_cons.mp h
    · rcases List.mem_cons.mp h with rfl | h
      · exact .inr List.mem_cons_self
      · exact (ih h).imp_right (List.mem_cons_of_mem y)

/-- Ordering runs adds none. -/
theorem mem_orderRuns {x : Run} {l : List Run} (h : x ∈ orderRuns l) : x ∈ l := by
  induction l with
  | nil => cases h
  | cons y rest ih =>
    rcases mem_insertRun h with rfl | h
    · exact List.mem_cons_self
    · exact List.mem_cons_of_mem y (ih h)

/-- The next placement is of a run in the list, on an engine that takes it (R312, R316). -/
theorem State.nextPlacement_facts (next : s.nextPlacement = some (r, j, e)) : r ∈ s.fore.runs ∧ s.takes r e = true := by
  obtain ⟨x, ordered, placed⟩ := List.exists_of_findSome?_eq_some next
  have mem := (List.mem_filter.mp (mem_orderRuns ordered)).1
  split at placed
  · next _ _ _ engine =>
    cases placed
    have placeable := List.find?_some engine
    simp only [State.placeable, Bool.and_eq_true] at placeable
    exact ⟨mem, placeable.1⟩
  · cases placed

/-- Loads read lines without flipped bits only (R226). -/
theorem State.senseLoads_calm (ls : List Load) (calm : s.mem.upsets = []) : ls.foldl State.senseLoad s = s := by
  induction ls with
  | nil => rfl
  | cons l rest ih =>
    have one : s.senseLoad l = s := by
      unfold State.senseLoad
      split
      · exact State.senseRange_calm _ _ _ calm
      · rfl
    rw [List.foldl_cons, one, ih]

/-- The PLACE record of a run's first tile changes the log alone (R329). -/
theorem State.placed_facts (s : State) (r : Run) (e : EngineId) (off : s.fore.replay.state = .off) :
    ∃ g : Foreman → Foreman, (if r.begun then s else s.placeRecord r e) = s.setFore g ∧ (g s.fore).runs = s.fore.runs := by
  split
  · exact ⟨(fun x => x), rfl, rfl⟩
  · exact ⟨_, State.logRecord_off s _ _ _ off, rfl⟩

/-- A tile at work, its operands in the bench (R311). -/
def Engine.loaded (x : Engine) (t : TileAt) (b : Bench) : Engine := { x with tile := some t, bench := b }

/-- A run with one tile more at work. -/
def Run.starting (r : Run) (j : Nat) : Run := { r with working := r.working ++ [j], begun := true }

/-- What the bench holds when a tile starts (R311). -/
def State.benchOf (s : State) (r : Run) (j : Nat) : Bench :=
  { fn := some r.fn, parts := (s.loads r j).map (fun l => { id := l.id, off := l.off, bytes := s.loaded r l }) }

/-- A tile whose loads all succeed starts (R311, R338). -/
theorem State.startTile_loads (off : s.fore.replay.state = .off) (calm : s.mem.upsets = [])
    (good : (s.loads r j).findSome? s.loadFault = none) :
    ∃ g : Foreman → Foreman, (g s.fore).runs = s.fore.runs
      ∧ s.startTile r j e = ((s.setFore g).setEngine e
          (·.loaded { run := r.id, tile := j, start := s.now, bad := false } (s.benchOf r j))).setRun r.id (·.starting j) := by
  obtain ⟨g, placed, runs⟩ := s.placed_facts r e off
  refine ⟨g, runs, ?_⟩
  unfold State.startTile
  dsimp only
  rw [placed, State.senseLoads_calm (s := s.setFore g) _ calm,
    show ((s.setFore g).loads r j).findSome? (s.setFore g).loadFault = none from good]
  rfl

theorem tileStart_spec (s : State) (working : s.working = true) (off : s.fore.replay.state = .off)
    (calm : s.mem.upsets = []) :
    (s.nextPlacement = none → exec .tileStart s = .next s)
    ∧ (∀ r j e, s.nextPlacement = some (r, j, e) → ∃ t, exec .tileStart s = .next t ∧ s.takes r e = true
        ∧ ((s.loads r j).findSome? s.loadFault = none →
          (t.engines[e.val]).tile = some { run := r.id, tile := j, start := s.now, bad := false }
          ∧ (t.engines[e.val]).bench = { fn := some r.fn, parts := (s.loads r j).map (fun l =>
              { id := l.id, off := l.off, bytes := s.loaded r l }) }
          ∧ (∀ d : EngineId, d ≠ e → t.engines[d.val] = s.engines[d.val])
          ∧ (∃ x ∈ t.fore.runs, x.id = r.id ∧ j ∈ x.working ∧ x.begun = true) ∧ t.mem = s.mem)) := by
  refine ⟨fun idle => (next_when_pos working).trans (congrArg Host.Outcome.next (by rw [idle])), fun r j e next => ?_⟩
  obtain ⟨listed, takes⟩ := State.nextPlacement_facts next
  refine ⟨s.startTile r j e, (next_when_pos working).trans (congrArg Host.Outcome.next (by rw [next])), takes, fun good => ?_⟩
  obtain ⟨g, runs, started⟩ := State.startTile_loads (e := e) off calm good
  let load : Engine → Engine := (·.loaded { run := r.id, tile := j, start := s.now, bad := false } (s.benchOf r j))
  have own := State.setEngine_at (s.setFore g) e load
  rw [started]
  refine ⟨congrArg Engine.tile own, congrArg Engine.bench own, fun d ne => State.setEngine_ne (s.setFore g) e d ne load,
    ⟨r.starting j, ?_, rfl, List.mem_append_right _ (List.mem_singleton_self j), rfl⟩, rfl⟩
  exact List.mem_map.mpr ⟨r, runs.symm ▸ listed, if_pos rfl⟩

end Start

/-! ### Where a tile's values go -/

section Stores

variable {s w : State} {r : Run} {e : EngineId}

/-- Stores that all merge change memory alone (R335). -/
theorem State.runStores_ok (id : Nat) (e : EngineId) (l : List (Nat × Bytes)) (calm : s.mem.upsets = [])
    (ok : StoresOk s.mem l) :
    l.foldl (fun s x => s.runStore id e x.1 x.2) s
      = { s with mem := l.foldl (fun m x => (m.store x.1 x.2).1) s.mem } := by
  induction l generalizing s with
  | nil => rfl
  | cons x rest ih =>
    obtain ⟨merged, later⟩ := ok
    have one : s.runStore id e x.1 x.2 = { s with mem := (s.mem.store x.1 x.2).1 } := by
      unfold State.runStore
      dsimp only
      rw [State.senseEdges_calm s _ _ calm]
      generalize s.mem.store x.1 x.2 = stored at merged
      obtain ⟨m, n, f⟩ := stored
      cases merged
      rfl
    rw [List.foldl_cons, one, ih (Memory.store_upsets calm _ _) later]
    rfl

/-- The same for the yard. -/
theorem State.yardStores_ok (id : Nat) (e : EngineId) (yo : Nat) (l : List (Nat × Bytes))
    (ok : StoresOk s.yard.mem (l.map (fun x => (yo + x.1, x.2)))) :
    ∃ y, l.foldl (fun s x => s.yardStore id e (yo + x.1) x.2) s = { s with yard := y } := by
  induction l generalizing s with
  | nil => exact ⟨s.yard, rfl⟩
  | cons x rest ih =>
    obtain ⟨merged, later⟩ := ok
    have one : s.yardStore id e (yo + x.1) x.2
        = { s with yard := { s.yard with mem := (s.yard.mem.store (yo + x.1) x.2).1 } } := by
      unfold State.yardStore
      generalize s.yard.mem.store (yo + x.1) x.2 = stored at merged
      obtain ⟨m, n, f⟩ := stored
      cases merged
      rfl
    rw [List.foldl_cons, one]
    exact ih later

/-- A tensor's place depends on the yard alone (R225). -/
theorem State.placeOf_congr (yard : w.yard = s.yard) (id : Nat) : w.placeOf r id = s.placeOf r id := by
  unfold State.placeOf
  rw [yard]

/-- The yard that holds a tensor depends on the yard and on the runs that there are (R225, R238). -/
theorem State.holdYard_congr (yard : w.yard = s.yard)
    (live : ∀ n, w.fore.runs.any (fun r => r.id == n) = s.fore.runs.any (fun r => r.id == n)) (d : TensorDecl) :
    (w.holdYard r d).yard = (s.holdYard r d).yard := by
  unfold State.holdYard
  rw [State.placeOf_congr yard, yard, funext live]
  split
  · exact yard
  · dsimp only
    split <;> rfl

theorem State.holdYard_frame (s : State) (r : Run) (d : TensorDecl) : ∃ y, s.holdYard r d = { s with yard := y } := by
  unfold State.holdYard
  split
  · exact ⟨s.yard, rfl⟩
  · dsimp only
    split <;> exact ⟨_, rfl⟩

theorem State.tileBytes_congr (mem : w.mem = s.mem) (yard : w.yard = s.yard) (t : TileDecl) (d : TensorDecl)
    (vals : List Int) : w.tileBytes r t d vals = s.tileBytes r t d vals := by
  have same : w.placeBytes r d.id 0 d.bytes = s.placeBytes r d.id 0 d.bytes := by
    unfold State.placeBytes
    rw [State.placeOf_congr yard, mem, yard]
  unfold State.tileBytes
  rw [same]

theorem State.landing_congr (mem : w.mem = s.mem) (yard : w.yard = s.yard) (j : Nat) (vals : List Int) :
    w.landing r j vals = s.landing r j vals := by
  unfold State.landing
  split
  · rfl
  · split
    · rfl
    · rw [State.placeOf_congr yard]
      split
      · rw [State.tileBytes_congr mem yard]
      · rfl

/-- Whether a tile lands depends on memory, the yard and the runs that there are. -/
theorem State.Lands.congr {j : Nat} {vals : List Int} (lands : s.Lands r j vals) (mem : w.mem = s.mem)
    (yard : w.yard = s.yard)
    (live : ∀ n, w.fore.runs.any (fun r => r.id == n) = s.fore.runs.any (fun r => r.id == n)) : w.Lands r j vals := by
  refine ⟨by rw [mem, State.landing_congr mem yard]; exact lands.mem, fun t d yo attendless out place => ?_⟩
  have held := State.holdYard_congr (r := r) yard live d
  have mem' : (w.holdYard r d).mem = (s.holdYard r d).mem := by
    obtain ⟨_, there⟩ := w.holdYard_frame r d
    obtain ⟨_, here⟩ := s.holdYard_frame r d
    rw [there, here]
    exact mem
  rw [State.placeOf_congr held] at place
  rw [held, State.tileBytes_congr mem' held]
  exact lands.yard t d yo attendless out place

/-- A tile whose output is kept outside memory writes nothing there (R225). -/
theorem State.landing_kept {j yo : Nat} {t : TileDecl} {d : TensorDecl} (attendless : r.reqs = [])
    (out : r.outOf j = some (t, d)) (kept : (s.holdYard r d).placeOf r d.id = .yard yo) (vals : List Int) :
    s.landing r j vals = [] := by
  unfold State.landing
  rw [attendless, out]
  dsimp only [List.getElem?_nil]
  split
  · next k place =>
    have stays : s.holdYard r d = s := if_pos (by rw [place]; nofun)
    rw [stays, place] at kept
    cases kept
  · rfl

/-! ### Changing a run -/

theorem State.setRun_setRun (s : State) (id : Nat) (g h : Run → Run) (k : ∀ x, (g x).id = x.id) :
    (s.setRun id g).setRun id h = s.setRun id (fun x => h (g x)) := by
  unfold State.setRun State.setFore
  dsimp only
  rw [List.map_map]
  congr 2
  refine List.map_congr_left fun x _ => ?_
  by_cases own : x.id = id
  · simp [own, k]
  · simp [own]

theorem State.setRun_same (s : State) (id : Nat) : s.setRun id (fun x => x) = s := by
  unfold State.setRun State.setFore
  simp

/-- A run keeps its number, so the runs that there are stay. -/
theorem State.setRun_any (s : State) (id n : Nat) (g : Run → Run) (k : ∀ x, (g x).id = x.id) :
    (s.setRun id g).fore.runs.any (fun r => r.id == n) = s.fore.runs.any (fun r => r.id == n) := by
  unfold State.setRun State.setFore
  dsimp only
  rw [List.any_map]
  congr 1
  funext x
  dsimp only [Function.comp]
  split
  · rw [k]
  · rfl

/-! ### What the end of a tile stores -/

/-- A run with the values that its benches hold (R225). -/
def Run.holding (r : Run) (values : Run → List (Nat × Bytes)) : Run := { r with values := values r }

/-- A tile's values kept outside memory: in the yard, or in the benches (R225). -/
theorem State.keepTile_frame (t : TileDecl) (d : TensorDecl) (vals : List Int)
    (ok : ∀ yo, (s.holdYard r d).placeOf r d.id = .yard yo →
      StoresOk (s.holdYard r d).yard.mem (((s.holdYard r d).tileBytes r t d vals).map (fun x => (yo + x.1, x.2)))) :
    ∃ y values, s.keepTile r t d e vals = ({ s with yard := y } : State).setRun r.id (·.holding values) := by
  obtain ⟨y, held⟩ := s.holdYard_frame r d
  unfold State.keepTile
  dsimp only
  generalize s.holdYard r d = u at held ok
  cases place : u.placeOf r d.id with
  | mem k => exact ⟨y, (·.values), held.trans (State.setRun_same _ _).symm⟩
  | yard yo =>
    obtain ⟨y', stored⟩ := State.yardStores_ok r.id e yo _ (ok yo place)
    refine ⟨y', (·.values), stored.trans (.trans ?_ (State.setRun_same _ _).symm)⟩
    rw [held]
  | bench =>
    rw [held]
    exact ⟨y, _, rfl⟩

/-- The output of a tile is a tensor of the image. -/
theorem Run.outOf_tensor {j : Nat} {t : TileDecl} {d : TensorDecl} (out : r.outOf j = some (t, d)) :
    ∃ i, d = r.image.tensor i := by
  unfold Run.outOf at out
  split at out
  · cases out
  · obtain ⟨o, -, pair⟩ := Option.map_eq_some_iff.mp out
    cases pair
    exact ⟨_, rfl⟩

/-- Nothing is exported for a tensor without a companion (R350). -/
theorem State.exportTags_none {j : Nat} (plain : ∀ i, (r.image.tensor i).exportTo = none) : s.exportTags r j e = s := by
  unfold State.exportTags
  cases out : r.outOf j with
  | none => rfl
  | some p =>
    obtain ⟨t, d⟩ := p
    obtain ⟨i, rfl⟩ := Run.outOf_tensor out
    dsimp only
    rw [plain i]

/-- A run with one tile more done (R311). -/
def Run.finished (r : Run) (j : Nat) : Run := { r with done := r.done ++ [j] }

/-- The end of a tile whose stores all merge: its outputs are in memory, in the yard or in the benches, and it is done
(R311, R487). -/
theorem State.storeTile_lands {j : Nat} {vals : List Int} (calm : s.mem.upsets = [])
    (plain : ∀ i, (r.image.tensor i).exportTo = none) (lands : s.Lands r j vals) :
    ∃ y values, s.storeTile r j e vals
      = ({ s with mem := (s.landing r j vals).foldl (fun m x => (m.store x.1 x.2).1) s.mem, yard := y } : State).setRun r.id
          (fun x => (x.finished j).holding values) := by
  let noted : State := s.setRun r.id (·.finished j)
  let mem := (s.landing r j vals).foldl (fun m x => (m.store x.1 x.2).1) s.mem
  let stored : State := { noted with mem := mem }
  have live := fun n => State.setRun_any s r.id n (·.finished j) (fun _ => rfl)
  have landed : (s.landing r j vals).foldl (fun s x => s.runStore r.id e x.1 x.2) noted = stored :=
    State.runStores_ok (s := noted) r.id e _ calm lands.mem
  have unexported : ∀ u : State, u.exportTags (r.finished j) j e = u := fun u => State.exportTags_none plain
  have kept : ∃ y values, s.storeTile r j e vals
      = ({ stored with yard := y } : State).setRun r.id (·.holding values) := by
    have parts : s.storeTile r j e vals = (match r.outOf j with
        | some (t, d) => if r.reqs.isEmpty then stored.keepTile r t d e vals else stored
        | none => stored).exportTags (r.finished j) j e := by
      rw [← landed]
      rfl
    rw [parts, unexported]
    have same : stored = ({ stored with yard := s.yard } : State).setRun r.id (·.holding (·.values)) :=
      (State.setRun_same stored r.id).symm
    cases out : r.outOf j with
    | none => exact ⟨_, _, same⟩
    | some p =>
      obtain ⟨t, d⟩ := p
      dsimp only
      split
      · next attendless =>
        refine State.keepTile_frame t d vals fun yo place => ?_
        have attendless := List.isEmpty_iff.mp attendless
        have held := State.holdYard_congr (s := s) (w := stored) (r := r) rfl live d
        have same : stored.mem = s.mem := by
          rw [State.placeOf_congr held] at place
          simp only [stored, mem, State.landing_kept attendless out place vals, List.foldl_nil]
        exact (lands.congr (w := stored) same rfl live).yard t d yo attendless out place
      · exact ⟨_, _, same⟩
  obtain ⟨y, values, made⟩ := kept
  exact ⟨y, values, made.trans (State.setRun_setRun ({ s with mem := mem, yard := y } : State) r.id (·.finished j)
    (·.holding values) (fun _ => rfl))⟩

end Stores

/-! ### The end of a tile -/

section Finish

variable {s : State} {e : EngineId} {t : TileAt} {r : Run} {us : Nat}

/-- An engine whose tile has ended (R313, R341). -/
def Engine.released (x : Engine) (p : HostPort) (unchecked : Nat) : Engine :=
  { x with tile := none, unchecked := satAdd 32 x.unchecked unchecked, bench := if x.crew = some p then x.bench else {} }

/-- A run that has used an engine for a tile (R309). -/
def Run.used (r : Run) (us j : Nat) : Run := { r with usedUs := r.usedUs + us, working := r.working.erase j }

/-- What a run becomes at the end of a tile: its engine time, the tile done, the values that its benches hold. -/
def Run.afterTile (r : Run) (us j : Nat) (values : Run → List (Nat × Bytes)) : Run :=
  ((r.used us j).finished j).holding values

/-- The end of a tile without an event that has loaded well (R311). -/
theorem State.endTile_calm (good : t.bad = false) (found : s.fore.runs.find? (fun x => x.id == r.id) = some r) :
    let out := s.computeTile (s.engines[e.val]).bench r t.tile []
    s.endTile e t r [] us = ((((s.setEngine e (·.released (portOf r.fn) out.unchecked)).setRun r.id
      (·.used us t.tile)).storeTile (r.used us t.tile) t.tile e out.values)).settle r.id := by
  intro out
  have used := State.setRun_find (s.setEngine e (·.released (portOf r.fn) out.unchecked)) r.id r.id (·.used us t.tile)
    (fun _ => rfl)
  rw [if_pos rfl, State.setEngine_fore, found, Option.map_some] at used
  unfold State.endTile
  dsimp only [List.map_nil, List.filter_nil, List.foldl_nil]
  split
  · next gone => cases used.symm.trans gone
  · next r' here =>
    obtain rfl := Option.some.inj (used.symm.trans here)
    rw [if_neg (by rw [good]; simp)]
    rfl

/-- A tile that lands, before its run is settled: the engine is free, the outputs are stored, the tile is done. -/
theorem State.endTile_lands (calm : s.mem.upsets = []) (good : t.bad = false)
    (found : s.fore.runs.find? (fun x => x.id == r.id) = some r) (plain : ∀ i, (r.image.tensor i).exportTo = none)
    (lands : s.Lands r t.tile (s.computeTile (s.engines[e.val]).bench r t.tile []).values) :
    let out := s.computeTile (s.engines[e.val]).bench r t.tile []
    ∃ y values, s.endTile e t r [] us
      = (({ s.setEngine e (·.released (portOf r.fn) out.unchecked) with
            mem := (s.landing r t.tile out.values).foldl (fun m x => (m.store x.1 x.2).1) s.mem, yard := y } : State).setRun
          r.id (·.afterTile us t.tile values)).settle r.id := by
  intro out
  let free : State := s.setEngine e (·.released (portOf r.fn) out.unchecked)
  let used : State := free.setRun r.id (·.used us t.tile)
  have landsUsed : used.Lands (r.used us t.tile) t.tile out.values := by
    obtain ⟨mem, yard⟩ := lands.congr (w := used) rfl rfl (fun n => State.setRun_any free r.id n _ (fun _ => rfl))
    exact ⟨mem, yard⟩
  obtain ⟨y, values, stored⟩ := State.storeTile_lands (s := used) (e := e) (r := r.used us t.tile) calm plain landsUsed
  refine ⟨y, values, (State.endTile_calm good found).trans (congrArg (State.settle · r.id) (stored.trans ?_))⟩
  exact State.setRun_setRun ({ free with
    mem := (s.landing r t.tile out.values).foldl (fun m x => (m.store x.1 x.2).1) s.mem, yard := y } : State) r.id
    (·.used us t.tile) (fun x => (x.finished t.tile).holding values) (fun _ => rfl)

theorem State.settle_found {id : Nat} (found : s.fore.runs.find? (fun x => x.id == id) = some r) :
    s.settle id = if r.over then s.endRun r else s := by
  unfold State.settle
  rw [found]

/-- Nothing is settled of a scion that is not being withdrawn (R451). -/
theorem State.settleWithdrawal_none {n : ScionId} (stays : (s.scions[n.val]).withdrawing = false) :
    s.settleWithdrawal n = s := by
  unfold State.settleWithdrawal
  dsimp only
  rw [stays, if_neg (by simp)]

theorem tileEnd_idle (s : State) (e : EngineId) (evs : List TileEvent) (us : Nat) (working : s.working = true) :
    ((s.engines[e.val]).tile = none → exec (.tileEnd e evs us) s = .next s)
    ∧ (∀ at_, (s.engines[e.val]).tile = some at_ → (∀ r ∈ s.fore.runs, r.id ≠ at_.run) →
        exec (.tileEnd e evs us) s = .next (s.setEngine e (fun x => { x with tile := none }))) := by
  refine ⟨fun idle => (next_when_pos working).trans (congrArg Host.Outcome.next (by rw [idle])), fun at_ busy gone =>
    (next_when_pos working).trans (congrArg Host.Outcome.next ?_)⟩
  rw [busy]
  dsimp only
  rw [List.find?_eq_none.mpr fun r mem => by simpa using gone r mem]

/-- The run after a tile ends at the same time as one without the values in its benches. -/
theorem Run.afterTile_over (r : Run) (us j : Nat) (values : Run → List (Nat × Bytes)) :
    (r.afterTile us j values).over = ((r.used us j).finished j).over := rfl

theorem tileEnd_spec (s : State) (e : EngineId) (us : Nat) (at_ : TileAt) (r : Run) (working : s.working = true)
    (calm : s.mem.upsets = []) (busy : (s.engines[e.val]).tile = some at_) (good : at_.bad = false)
    (listed : s.fore.runs.find? (fun x => x.id == at_.run) = some r)
    (stays : (s.scions[(scionOf e).val]).withdrawing = false) (plain : ∀ i, (r.image.tensor i).exportTo = none) :
    let vals := (s.computeTile (s.engines[e.val]).bench r at_.tile []).values
    let ended : Run := (r.used us at_.tile).finished at_.tile
    s.Lands r at_.tile vals →
    ∃ t, exec (.tileEnd e [] us) s = .next t
      ∧ (ended.over = false →
          (t.engines[e.val]).tile = none ∧ (∀ d : EngineId, d ≠ e → t.engines[d.val] = s.engines[d.val])
          ∧ (∃ x ∈ t.fore.runs, x.id = r.id ∧ x.done = ended.done ∧ x.working = ended.working ∧ x.usedUs = ended.usedUs)
          ∧ t.mem = (s.landing r at_.tile vals).foldl (fun m x => (m.store x.1 x.2).1) s.mem)
      ∧ (∀ id c, ended.over = true → r.kind = .job id → s.cmd id = some c → c.live = true →
          Completed s t id c (s.runStatus r).1 (s.runStatus r).2 ended.result
          ∧ (t.engines[e.val]).tile = none ∧ ∀ x ∈ t.fore.runs, x.id ≠ r.id) := by
  intro vals ended lands
  have own : r.id = at_.run := by simpa using List.find?_some listed
  have found : s.fore.runs.find? (fun x => x.id == r.id) = some r := by rw [own]; exact listed
  obtain ⟨y, values, landed⟩ := State.endTile_lands (us := us) calm good found plain lands
  let release : Engine → Engine :=
    (·.released (portOf r.fn) (s.computeTile (s.engines[e.val]).bench r at_.tile []).unchecked)
  let u : State := { s.setEngine e release with
    mem := (s.landing r at_.tile vals).foldl (fun m x => (m.store x.1 x.2).1) s.mem, yard := y }
  let v : State := u.setRun r.id (·.afterTile us at_.tile values)
  have there : v.fore.runs.find? (fun x => x.id == r.id) = some (r.afterTile us at_.tile values) := by
    refine (State.setRun_find u r.id r.id (·.afterTile us at_.tile values) (fun _ => rfl)).trans ?_
    rw [if_pos rfl]
    exact congrArg (Option.map (·.afterTile us at_.tile values)) found
  have tile : (v.engines[e.val]).tile = none := congrArg Engine.tile (State.setEngine_at s e release)
  refine ⟨(v.settle r.id).settleWithdrawal (scionOf e), ?_, ?_⟩
  · refine (next_when_pos working).trans (congrArg Host.Outcome.next ?_)
    rw [busy]
    dsimp only
    rw [listed]
    exact congrArg (State.settleWithdrawal · (scionOf e)) landed
  · rw [State.settle_found there]
    refine ⟨fun more => ?_, fun id c last job cmd live => ?_⟩
    · rw [if_neg (by rw [show (r.afterTile us at_.tile values).over = false from more]; exact Bool.false_ne_true),
        State.settleWithdrawal_none (s := v) stays]
      refine ⟨tile, fun d ne => State.setEngine_ne s e d ne release,
        ⟨r.afterTile us at_.tile values, List.mem_of_find?_eq_some there, rfl, rfl, rfl, rfl⟩, rfl⟩
    · rw [if_pos (show (r.afterTile us at_.tile values).over = true from last)]
      obtain ⟨fns, res, done⟩ := State.endRun_job v (r.afterTile us at_.tile values) id job
      rw [State.settleWithdrawal_none (s := v.endRun _) (by rw [done]; exact stays), done]
      let w : State := { v with fns := fns
                                fore := { v.fore with
                                  reservations := res, runs := v.fore.runs.filter (fun y => y.id != r.id) } }
      refine ⟨State.finish_completed (u := w) cmd live rfl _ _ _, tile, fun x mem => ?_⟩
      have left := (List.mem_filter.mp (show x ∈ v.fore.runs.filter (fun y => y.id != r.id) from mem)).2
      simpa using left

end Finish

/-- Settles O53: a boundary by what waited and the re-partition beside it; a tile by its placement, and by the stores
that land; a slice by the order of R365 and its verdict. -/
theorem tilesAndSlices : Obligations.TilesAndSlices := by
  unfold Obligations.TilesAndSlices
  exact ⟨shiftBoundary_spec, tileStart_spec, tileEnd_idle, tileEnd_spec, sliceStart_spec,
    fun s e working slicing => ⟨sliceEnd_passes working slicing, sliceEnd_fails working slicing,
      sliceGuardExpired_spec working slicing⟩, diagAgeLimit_spec⟩

end Sys2Proof.Machine

/-!
MEM_COPY, MEM_FILL, MEM_TAG_CHECK and the patrol scrub (R226 to R229, R236, R237, R336, R349, R352). An event that turns
Fatal aborts the tiles at work, and which of their lines are written is free (`Config.wroteLine`, R487): what these
rows leave in memory is stated where an aborted tile writes none.
-/

namespace Sys2Proof.Machine

/-! ### Aborted tiles that write nothing -/

/-- No aborted tile writes a line: one of the choices that R487 leaves to the device. -/
def NothingScattered : Prop := ∀ n l, Config.wroteLine n l = false

theorem Memory.scatterLines_none (n : Nat) (m : Memory) (k : Nat) (b : Bytes) (w : Nat → Bool) (dry : ∀ l, w l = false) :
    m.scatterLines n w k b = m := by
  induction n generalizing m k b with
  | zero => rfl
  | succ n ih =>
    unfold Memory.scatterLines
    simp only [dry, ih]
    split <;> rfl

/-- Of the rootstock's entry to the safe state, only its aborted tiles change memory. -/
theorem State.rootSafe_tiles {s : State} (h : s.safe = false) (cause boot : Nat) :
    (s.rootSafe cause boot).mem = (s.abortTiles (fun _ => true)).mem := by
  have event : ∀ (t : State) f bits, (t.setEvent f bits).mem = t.mem := by
    intro t f bits
    obtain ⟨fns, sent, e⟩ := t.setEvent_frame f bits
    rw [e]
  unfold State.rootSafe
  rw [if_neg (by simp [h])]
  dsimp only
  generalize s.abortTiles (fun _ => true) = t
  exact State.eachFn_induct (fun u => u.mem = t.mem) _ _ rfl (fun u f h => (event u f _).trans h)

section Nothing

variable (dry : NothingScattered)
include dry

theorem State.scatter_mem (s : State) (r : Run) (j : Nat) (vals : List Int) : (s.scatter r j vals).mem = s.mem := by
  unfold State.scatter
  split
  · rfl
  · dsimp only
    generalize s.landing r j vals = l
    generalize s.mem = m
    induction l generalizing m with
    | nil => rfl
    | cons x l ih => rw [List.foldl_cons, Memory.scatterLines_none _ _ _ _ _ (dry s.draws), ih]

theorem State.abortTile_mem (s : State) (e : EngineId) : (s.abortTile e).mem = s.mem := by
  unfold State.abortTile
  split
  · rfl
  · dsimp only
    split
    · rfl
    · exact State.scatter_mem dry _ _ _ _

theorem State.abortTiles_mem (s : State) (p : Nat → Bool) : (s.abortTiles p).mem = s.mem := by
  unfold State.abortTiles
  generalize List.finRange 64 = l
  induction l generalizing s with
  | nil => rfl
  | cons e l ih =>
    rw [List.foldl_cons, ih]
    split
    · split
      · exact State.abortTile_mem dry s e
      · rfl
    · rfl

theorem State.rootSafe_mem (s : State) (cause boot : Nat) : (s.rootSafe cause boot).mem = s.mem := by
  cases h : s.safe
  · exact (State.rootSafe_tiles h cause boot).trans (State.abortTiles_mem dry s _)
  · simp only [State.rootSafe, h, if_true]

theorem State.raiseFcu_mem (s : State) (r : Raise) : (s.raiseFcu r).mem = s.mem := by
  have view : ∀ (t : State) (rc : Rec), (t.distribute rc).mem = t.mem := by
    intro t rc
    obtain ⟨fns, sent, e⟩ := t.distribute_frame rc
    rw [e]
  have told : ∀ (b : Bool) (t : State) (l : Lamp → Lamp), (if b = true then t.setLamp l else t).mem = t.mem := by
    intro b t l
    split <;> rfl
  unfold State.raiseFcu
  split
  · dsimp only
    split
    · rw [State.rootSafe_mem dry, view, told]
    · rw [view, told]
  · rfl

/-- Where no aborted tile writes a line, an event leaves memory alone whatever its tier. -/
theorem State.raise_mem (s : State) (r : Raise) : (s.raise r).mem = s.mem := by
  have safe : ∀ (t : State) n, (t.lampSafe n).mem = t.mem := by
    intro t n
    cases h : t.lamp.safe
    · obtain ⟨can, sent, e⟩ := t.lampSafe_frame n h
      rw [e]
    · simp only [State.lampSafe, h, if_true]
  unfold State.raise
  split
  · unfold State.raiseLamp
    dsimp only
    split
    · rw [safe]
      split <;> rfl
    · split <;> rfl
  · exact State.raiseFcu_mem dry s r

theorem State.graftIf_mem (s : State) (f : FnId) (k : Bool) (d : BitVec 16) : (s.graftIf f k d).mem = s.mem := by
  unfold State.graftIf State.graftCopy
  split
  · exact State.raise_mem dry s _
  · rfl

theorem State.moved_mem (s : State) (c : Cmd) (n : Nat) (e : Option (BitVec 16)) : (s.moved c n e).mem = s.mem := by
  unfold State.moved
  split
  · rfl
  · dsimp only
    split
    · rfl
    · exact State.graftIf_mem dry s _ _ _

end Nothing

/-! ### A command that reads or writes memory completes -/

section Keeps

variable {s t : State} {id : Nat} {c : Cmd}

theorem KeepsCmd.access (h : KeepsCmd s t id c) (f : FnId) (va n : Nat) : KeepsCmd s (t.access f va n) id c := by
  unfold State.access
  generalize ((t.fn f).segs va n).getD [] = segs
  induction segs generalizing t with
  | nil => exact h
  | cons g r ih =>
    refine ih ?_
    dsimp only
    split
    · exact h.of rfl rfl
    · exact h.senseLines _ _

theorem KeepsCmd.graftIf (h : KeepsCmd s t id c) (f : FnId) (k : Bool) (d : BitVec 16) :
    KeepsCmd s (t.graftIf f k d) id c := by
  unfold State.graftIf
  split
  · exact h.raise _
  · exact h

/-- The end of a copy completes it (R236, R348). -/
theorem KeepsCmd.moved (h : KeepsCmd s t id c) (own : c.id = id) (l : c.live = true) (n : Nat) (e : Option (BitVec 16)) :
    ∃ st d r, (t.moved c n e).cmd id = some { c with phase := .formed st d r (t.moved c n e).now } := by
  subst own
  cases e with
  | none => exact h.finish l _ _ _
  | some d =>
    refine KeepsCmd.finish (s := s) ?_ l _ _ _
    split
    · exact h.of rfl rfl
    · exact h.graftIf _ _ _

/-- A line that fails graft point 2 completes its command (R336, R348). -/
theorem KeepsCmd.graft2Fails (h : KeepsCmd s t id c) (own : c.id = id) (l : c.live = true) (ch : ClPortId) (n : Nat) :
    ∃ st d r, (t.graft2Fails c ch n).cmd id = some { c with phase := .formed st d r (t.graft2Fails c ch n).now } := by
  subst own
  exact (h.raise _).finish l _ _ _

end Keeps

/-- Outside a change of the rootstock's safe state, a line that fails graft point 2 completes its command with
INTEGRITY 2 (R336). -/
theorem State.graft2Fails_cmd {s : State} {id : Nat} {c : Cmd} (own : s.cmd id = some c) (l : c.live = true)
    (ch : ClPortId) (n : Nat) (calm : (s.graft2Fails c ch n).safe = s.safe) :
    (s.graft2Fails c ch n).cmd id
      = some { c with phase := .formed stIntegrity 2 (BitVec.ofNat 64 n) (s.graft2Fails c ch n).now } := by
  obtain rfl := State.cmd_id own
  obtain ⟨-, -, -, fore, -⟩ := (s.raise_raised _).calm calm
  exact State.finish_cmd (by simpa only [State.cmd, fore] using own) l _ _ _

/-! ### MEM_COPY -/

/-- How MEM_COPY ends after its writes: the first failure of a write, the channel that fails graft point 2, or the end
of its source (R236, R336, R349). -/
def State.copyEnd (c : Cmd) (w : State × Nat × Option (BitVec 16)) (ch : Option ClPortId) (e : Option (BitVec 16)) : State :=
  match w with
  | (t, k, some d) => t.moved c k (some d)
  | (t, k, none) => match ch with
    | some ch => t.graft2Fails c ch k
    | none => t.moved c k e

theorem exec_memCopy {s : State} {id : Nat} {c : Cmd} (b : s.Begins id .memCopy c) (host : HostRead)
    (x : Option WriteFault) {a : State} (acc : s.access c.fn (c.arg 16 8) (c.arg 32 8) = a) {bytes : Bytes}
    {e : Option (BitVec 16)} (src : a.copySource c.fn (c.arg 16 8) (c.arg 24 8) (c.arg 32 8) host = (bytes, e)) :
    exec (.memCopy id host x) s = .next (State.copyEnd c
      (a.writeSegs c.fn (((a.fn c.fn).segs (c.arg 24 8) (c.arg 32 8)).getD []) (a.beforeFault c.fn (c.arg 24 8) bytes x).1)
      (a.beforeFault c.fn (c.arg 24 8) bytes x).2 e) := by
  refine b.next.trans (congrArg _ ?_)
  dsimp only
  rw [acc, src]
  dsimp only
  generalize a.beforeFault c.fn (c.arg 24 8) bytes x = cut
  obtain ⟨first, ch⟩ := cut
  dsimp only
  generalize a.writeSegs c.fn (((a.fn c.fn).segs (c.arg 24 8) (c.arg 32 8)).getD []) first = w
  obtain ⟨t, k, d⟩ := w
  cases d
  · cases ch <;> rfl
  · rfl

theorem KeepsCmd.copyEnd {s : State} {id : Nat} {c : Cmd} {w : State × Nat × Option (BitVec 16)}
    (h : KeepsCmd s w.1 id c) (own : c.id = id) (l : c.live = true) (ch : Option ClPortId) (e : Option (BitVec 16)) :
    ∃ st d r, (State.copyEnd c w ch e).cmd id = some { c with phase := .formed st d r (State.copyEnd c w ch e).now } := by
  obtain ⟨t, k, d⟩ := w
  cases d with
  | some d => exact h.moved own l _ _
  | none =>
    cases ch with
    | some ch => exact h.graft2Fails own l _ _
    | none => exact h.moved own l _ _

/-- The bytes that a copy moves depend on memory and the functions alone. -/
theorem State.copySource_sent (s : State) (sent : List Sent) (f : FnId) (va dst n : Nat) (host : HostRead) :
    ({ s with sent := sent } : State).copySource f va dst n host = s.copySource f va dst n host := by
  have read : ({ s with sent := sent } : State).readVa f va n host.data = s.readVa f va n host.data :=
    State.readVa_congr rfl rfl
  unfold State.copySource
  simp only [read]
  rfl

/-- The end of a copy whose source was read to its end, or to a failure other than a wrong tag (R236). -/
theorem State.moved_completed {s t : State} {id : Nat} {c : Cmd} (own : s.cmd id = some c) (l : c.live = true)
    (fore : t.fore = s.fore) (n : Nat) {d : BitVec 16} (tag : d ≠ 4) :
    Completed s (t.moved c n (some d)) id c stIntegrity d (BitVec.ofNat 64 n) := by
  obtain rfl := State.cmd_id own
  refine State.finish_completed own l ?_ _ _ _
  unfold State.graftIf
  rw [if_neg tag]
  split <;> exact congrArg _ fore

/-- The end of a copy whose writes met no failure, `t` being the state that has written. -/
theorem State.copyEnd_written (dry : NothingScattered) {s t : State} {id : Nat} {c : Cmd} (own : s.cmd id = some c)
    (l : c.live = true) (fore : t.fore = s.fore) (safe : t.safe = s.safe) (k : Nat) (ch : Option ClPortId)
    (e : Option (BitVec 16)) :
    let v := State.copyEnd c (t, k, none) ch e
    v.mem = t.mem
    ∧ (ch = none → e = none → Completed s v id c stOk 0 (BitVec.ofNat 64 k) ∧ v.sent = t.sent)
    ∧ (∀ d, ch = none → e = some d → d ≠ 4 → Completed s v id c stIntegrity d (BitVec.ofNat 64 k))
    ∧ (ch.isSome = true → v.safe = s.safe →
        v.cmd id = some { c with phase := .formed stIntegrity 2 (BitVec.ofNat 64 k) v.now }) := by
  cases ch with
  | none =>
    refine ⟨t.moved_mem dry c k e, ?_, ?_, fun h => by cases h⟩
    · rintro - rfl
      obtain rfl := State.cmd_id own
      exact ⟨State.finish_completed own l (congrArg _ fore) _ _ _, rfl⟩
    · rintro d - rfl tag
      exact State.moved_completed own l fore k tag
  | some ch =>
    refine ⟨State.raise_mem dry t _, nofun, nofun, fun _ calm => ?_⟩
    exact State.graft2Fails_cmd (by simpa only [State.cmd, fore] using own) l ch k (calm.trans safe.symm)

theorem memCopy_spec (dry : NothingScattered) (s : State) (id : Nat) (c : Cmd) (host : HostRead) (x : Option WriteFault)
    (b : s.Begins id .memCopy c) :
    let a := s.access c.fn (c.arg 16 8) (c.arg 32 8)
    ∃ t, exec (.memCopy id host x) s = .next t ∧ (∃ st k r, t.cmd id = some { c with phase := .formed st k r t.now })
    ∧ (s.mem.upsets = [] → ∀ b e u k, s.copySource c.fn (c.arg 16 8) (c.arg 24 8) (c.arg 32 8) host = (b, e) →
        a.writeSegs c.fn (((s.fn c.fn).segs (c.arg 24 8) (c.arg 32 8)).getD []) (s.beforeFault c.fn (c.arg 24 8) b x).1 = (u, k, none) →
        t.mem = u.mem
        ∧ ((s.beforeFault c.fn (c.arg 24 8) b x).2 = none → e = none →
            Completed s t id c stOk 0 (BitVec.ofNat 64 k) ∧ t.sent = u.sent)
        ∧ (∀ d, (s.beforeFault c.fn (c.arg 24 8) b x).2 = none → e = some d → d ≠ 4 →
            Completed s t id c stIntegrity d (BitVec.ofNat 64 k))
        ∧ ((s.beforeFault c.fn (c.arg 24 8) b x).2.isSome = true → t.safe = s.safe →
            t.cmd id = some { c with phase := .formed stIntegrity 2 (BitVec.ofNat 64 k) t.now })) := by
  have kept := ((show KeepsCmd s s id c from ⟨rfl, .inl b.cmd⟩).access c.fn (c.arg 16 8) (c.arg 32 8))
  refine ⟨_, exec_memCopy b host x rfl Prod.mk.eta.symm, (kept.writeSegs _ _ _).copyEnd b.id_eq b.live _ _, fun calm bytes e u k src write => ?_⟩
  obtain ⟨sent, acc⟩ := s.access_calm c.fn (c.arg 16 8) (c.arg 32 8) calm
  rw [acc] at write ⊢
  obtain ⟨mem, sent', frame⟩ := State.writeSegs_frame { s with sent := sent } c.fn _ _ calm
  rw [write] at frame
  change u = _ at frame
  have same : ∀ f va bytes, ({ s with sent := sent } : State).beforeFault f va bytes x = s.beforeFault f va bytes x :=
    fun _ _ _ => rfl
  have fn : ({ s with sent := sent } : State).fn = s.fn := rfl
  rw [State.copySource_sent, src, same, fn, write]
  exact State.copyEnd_written dry b.cmd b.live (by rw [frame]) (by rw [frame]) k _ _

/-! ### MEM_FILL -/

/-- How MEM_FILL ends after its writes (R236, R336). -/
def State.fillEnd (c : Cmd) (id : Nat) (w : State × Nat × Option (BitVec 16)) (ch : Option ClPortId) : State :=
  match w with
  | (t, k, some d) => t.finish id stIntegrity d (BitVec.ofNat 64 k)
  | (t, k, none) => match ch with
    | some ch => t.graft2Fails c ch k
    | none => t.finish id stOk 0 (BitVec.ofNat 64 k)

theorem exec_memFill {s : State} {id : Nat} {c : Cmd} (b : s.Begins id .memFill c) (io : HostIo) (x : Option WriteFault) :
    let cut := s.beforeFault c.fn (c.arg 16 8) (fillBytes (c.arg 32 8) (c.arg 24 8)) x
    exec (.memFill id io x) s
      = .next (State.fillEnd c id (s.writeVa c.fn (c.cls == 2) (c.arg 16 8) cut.1 io) cut.2) := by
  intro cut
  refine b.next.trans (congrArg _ ?_)
  dsimp only
  rw [show s.beforeFault c.fn (c.arg 16 8) (fillBytes (c.arg 32 8) (c.arg 24 8)) x = cut from rfl]
  obtain ⟨first, ch⟩ := cut
  dsimp only
  generalize s.writeVa c.fn (c.cls == 2) (c.arg 16 8) first io = w
  obtain ⟨t, k, d⟩ := w
  cases d
  · cases ch <;> rfl
  · rfl

theorem KeepsCmd.fillEnd {s : State} {id : Nat} {c : Cmd} {w : State × Nat × Option (BitVec 16)}
    (h : KeepsCmd s w.1 id c) (own : c.id = id) (l : c.live = true) (ch : Option ClPortId) :
    ∃ st d r, (State.fillEnd c id w ch).cmd id = some { c with phase := .formed st d r (State.fillEnd c id w ch).now } := by
  obtain ⟨t, k, d⟩ := w
  cases d with
  | some d => exact h.finish l _ _ _
  | none =>
    cases ch with
    | some ch => exact h.graft2Fails own l _ _
    | none => exact h.finish l _ _ _

/-- The end of a fill whose writes met no failure, `t` being the state that has written. -/
theorem State.fillEnd_written (dry : NothingScattered) {s t : State} {id : Nat} {c : Cmd} (own : s.cmd id = some c)
    (l : c.live = true) (fore : t.fore = s.fore) (safe : t.safe = s.safe) (k : Nat) (ch : Option ClPortId) :
    let v := State.fillEnd c id (t, k, none) ch
    v.mem = t.mem
    ∧ (ch = none → Completed s v id c stOk 0 (BitVec.ofNat 64 k) ∧ v.sent = t.sent)
    ∧ (ch.isSome = true → v.safe = s.safe →
        v.cmd id = some { c with phase := .formed stIntegrity 2 (BitVec.ofNat 64 k) v.now }) := by
  cases ch with
  | none => exact ⟨rfl, fun _ => ⟨State.finish_completed own l (congrArg _ fore) _ _ _, rfl⟩, nofun⟩
  | some ch =>
    refine ⟨State.raise_mem dry t _, nofun, fun _ calm => ?_⟩
    exact State.graft2Fails_cmd (by simpa only [State.cmd, fore] using own) l ch k (calm.trans safe.symm)

/-- A write that ends otherwise than at a wrong tag changes memory and what was sent alone (R348). -/
theorem State.writeVa_untagged {s u : State} {f : FnId} {cls : Bool} {va : Nat} {b : Bytes} {io : HostIo} {k : Nat}
    {e : Option (BitVec 16)} (calm : s.mem.upsets = []) (write : s.writeVa f cls va b io = (u, k, e)) (tag : e ≠ some 4) :
    ∃ mem sent, u = { s with mem := mem, sent := sent } := by
  obtain ⟨mem, sent, frame | ⟨bad, -⟩⟩ := State.writeVa_frame s f cls va b io calm
  · rw [write] at frame
    exact ⟨mem, sent, frame⟩
  · rw [write] at bad
    exact absurd bad tag

theorem memFill_spec (dry : NothingScattered) (s : State) (id : Nat) (c : Cmd) (io : HostIo) (x : Option WriteFault)
    (b : s.Begins id .memFill c) :
    let b := fillBytes (c.arg 32 8) (c.arg 24 8)
    let cut := s.beforeFault c.fn (c.arg 16 8) b x
    ∃ t, exec (.memFill id io x) s = .next t ∧ (∃ st k r, t.cmd id = some { c with phase := .formed st k r t.now })
    ∧ (s.mem.upsets = [] → ∀ u k, s.writeVa c.fn (c.cls == 2) (c.arg 16 8) cut.1 io = (u, k, none) →
        t.mem = u.mem
        ∧ (cut.2 = none → Completed s t id c stOk 0 (BitVec.ofNat 64 k) ∧ t.sent = u.sent)
        ∧ (cut.2.isSome = true → t.safe = s.safe →
            t.cmd id = some { c with phase := .formed stIntegrity 2 (BitVec.ofNat 64 k) t.now }))
    ∧ (s.mem.upsets = [] → ∀ u k d, s.writeVa c.fn (c.cls == 2) (c.arg 16 8) cut.1 io = (u, k, some d) →
        d ≠ 4 → Completed s t id c stIntegrity d (BitVec.ofNat 64 k)) := by
  have kept := (show KeepsCmd s s id c from ⟨rfl, .inl b.cmd⟩)
  refine ⟨_, exec_memFill b io x, (kept.writeVa _ _ _ _ _).fillEnd b.id_eq b.live _, fun calm u k write => ?_,
    fun calm u k d write tag => ?_⟩
  · obtain ⟨mem, sent, frame⟩ := State.writeVa_untagged calm write nofun
    rw [write]
    exact State.fillEnd_written dry b.cmd b.live (by rw [frame]) (by rw [frame]) k _
  · obtain ⟨mem, sent, frame⟩ := State.writeVa_untagged calm write (fun h => tag (Option.some.inj h))
    rw [write]
    exact b.done (u := u) (by rw [frame])

theorem fillBytes_spec (pattern n i : Nat) (lt : i < n) :
    (fillBytes pattern n).length = n ∧ byteAt (fillBytes pattern n) i = byteAt (leBytes 8 pattern) (i % 8) := by
  refine ⟨by simp [fillBytes], ?_⟩
  simp [fillBytes, byteAt, lt]

/-! ### MEM_TAG_CHECK -/

theorem Memory.lineFaults_none {m : Memory} {l n : Nat} (ok : ∀ i, i < n → m.lineFault (l + i) = none) :
    m.lineFaults l n = [] := by
  unfold Memory.lineFaults
  rw [List.filterMap_eq_nil_iff]
  exact fun i hi => ok i (List.mem_range.mp hi)

/-- A line fails on poison or on its tag (R338). -/
theorem Memory.lineFault_cases (m : Memory) (l : Nat) :
    m.lineFault l = none ∨ m.lineFault l = some 0x0200 ∨ m.lineFault l = some 4 := by
  unfold Memory.lineFault
  split
  · exact .inr (.inl rfl)
  · split
    · exact .inr (.inr rfl)
    · exact .inl rfl

theorem Memory.lineFaults_poison {m : Memory} {l n i : Nat} (lt : i < n) (poison : m.lineFault (l + i) = some 0x0200)
    (tags : ∀ j, j < n → m.lineFault (l + j) ≠ some 4) :
    (m.lineFaults l n).head? = some 0x0200 ∧ (m.lineFaults l n).contains 4 = false := by
  have all : ∀ d ∈ m.lineFaults l n, d = 0x0200 := by
    intro d hd
    obtain ⟨j, hj, fault⟩ := List.mem_filterMap.mp hd
    rcases m.lineFault_cases (l + j) with h | h | h
    · rw [h] at fault; cases fault
    · rw [h] at fault; exact (Option.some.inj fault).symm
    · exact absurd h (tags j (List.mem_range.mp hj))
  have mem : (0x0200 : BitVec 16) ∈ m.lineFaults l n := List.mem_filterMap.mpr ⟨i, List.mem_range.mpr lt, poison⟩
  generalize m.lineFaults l n = faults at all mem
  cases faults with
  | nil => cases mem
  | cons d r =>
    refine ⟨congrArg some (all d List.mem_cons_self), ?_⟩
    rw [← Bool.not_eq_true, List.contains_iff_mem]
    exact fun h => absurd (all 4 h) (by decide)

theorem memTagCheck_spec (s : State) (id : Nat) (c : Cmd) (b : s.Begins id .memTagCheck c) :
    ∃ t, exec (.memTagCheck id) s = .next t
    ∧ (∃ st k r, t.cmd id = some { c with phase := .formed st k r t.now })
    ∧ let n := c.arg 24 8 / 256
      let l := memKey c.fn (c.arg 16 8) / 256
      (s.mem.upsets = [] → (∀ i, i < n → s.mem.lineFault (l + i) = none) →
        Completed s t id c stOk 0 (BitVec.ofNat 64 (n % 2 ^ 32)) ∧ t.mem = s.mem)
      ∧ (s.mem.upsets = [] → ∀ i, i < n → s.mem.lineFault (l + i) = some 0x0200 → (∀ j, j < n → s.mem.lineFault (l + j) ≠ some 4) →
        ∃ r, Completed s t id c stIntegrity 0x0200 r ∧ t.mem = s.mem) := by
  have kept := ((show KeepsCmd s s id c from ⟨rfl, .inl b.cmd⟩).access c.fn (c.arg 16 8) (c.arg 24 8))
  refine ⟨_, b.next, ?_, fun calm ok => ?_, fun calm i lt poison tags => ?_⟩
  · dsimp only
    generalize s.access c.fn (c.arg 16 8) (c.arg 24 8) = a at kept ⊢
    have told : ∀ k : Bool, KeepsCmd s (if k = true then a.graftCopy c.fn (c.cls == 2) else a) id c := by
      intro k
      split
      · exact kept.raise _
      · exact kept
    split
    · exact (told _).finish b.live _ _ _
    · exact (told _).finish b.live _ _ _
  · obtain ⟨sent, acc⟩ := s.access_calm c.fn (c.arg 16 8) (c.arg 24 8) calm
    dsimp only
    rw [acc]
    dsimp only
    rw [Memory.lineFaults_none ok]
    exact ⟨b.done (u := { s with sent := sent }) rfl, rfl⟩
  · obtain ⟨sent, acc⟩ := s.access_calm c.fn (c.arg 16 8) (c.arg 24 8) calm
    obtain ⟨head, tag⟩ := Memory.lineFaults_poison lt poison tags
    dsimp only
    rw [acc]
    dsimp only
    rw [head, tag]
    exact ⟨_, b.done (u := { s with sent := sent }) rfl, rfl⟩

/-! ### The patrol scrub -/

/-- What becomes of stored units is nothing to the start-up state. -/
theorem State.upset_boot (l : List Upset) (s : State) : (l.foldl State.upset s).boot = s.boot := by
  induction l generalizing s with
  | nil => rfl
  | cons x l ih =>
    have one : (s.upset x).boot = s.boot := by
      cases x <;> simp only [State.upset]
    rw [List.foldl_cons, ih, one]

theorem State.readUnit_mem (dry : NothingScattered) (s : State) (x : Nat × List Nat) :
    (s.readUnit x).mem = (s.mem.readUnit x.1 x.2).1 := by
  unfold State.readUnit
  dsimp only
  split
  · rfl
  · exact State.raise_mem dry _ _

theorem exec_patrolScrubRead {s : State} (run : s.rootRuns = true) (trained : s.boot.memTrained = true)
    (l : List Upset) (met : List ClPortId) :
    exec (.patrolScrubRead l met) s = .next ((((l.foldl State.upset s).scrubbed met).foldl State.readUnit
      (l.foldl State.upset s)).setBoot (fun b => { b with
        scrub := (s.boot.scrub + 1) % max 1 (channelBytes s.boot.memMib / 64) })) := by
  have arm : exec (.patrolScrubRead l met) s = execPatrolScrubRead l met s := rfl
  rw [arm, execPatrolScrubRead, State.when, if_pos (by rw [run, trained]; rfl)]
  dsimp only
  rw [State.upset_boot]

theorem patrolScrubRead_spec (dry : NothingScattered) (s : State) (met : List ClPortId) (run : s.rootRuns = true)
    (trained : s.boot.memTrained = true) :
    let next := (s.boot.scrub + 1) % max 1 (channelBytes s.boot.memMib / 64)
    (∀ l, ∃ t, exec (.patrolScrubRead l met) s = .next t ∧ t.boot.scrub = next)
    ∧ (s.mem.upsets = [] → exec (.patrolScrubRead [] met) s = .next { s with boot := { s.boot with scrub := next } })
    ∧ (∀ u flips, s.mem.upsets = [(u, flips)] → coffOf (s.unitPlace u) / 64 = s.boot.scrub →
        (∀ ch ∈ met, ch.val ≠ chanOf (s.unitPlace u)) →
        ∃ t, exec (.patrolScrubRead [] met) s = .next t ∧ t.mem = (s.mem.readUnit u flips).1) := by
  refine ⟨fun l => ⟨_, exec_patrolScrubRead run trained l met, by simp only [State.setBoot]⟩, fun calm => ?_, fun u flips one here free => ?_⟩
  · rw [exec_patrolScrubRead run trained]
    have nothing : s.scrubbed met = [] := by simp only [State.scrubbed, calm, List.filter_nil]
    rw [List.foldl_nil, nothing, List.foldl_nil, State.setBoot]
  · refine ⟨_, exec_patrolScrubRead run trained [] met, ?_⟩
    have unit : s.scrubbed met = [(u, flips)] := by
      simpa [State.scrubbed, one, here] using free
    rw [State.setBoot_mem, List.foldl_nil, unit, List.foldl_cons, List.foldl_nil, State.readUnit_mem dry]

theorem Memory.readUnit_spec (m : Memory) (u : Nat) :
      (∀ b : Fin 523, u ∉ m.poison → (m.readUnit u [b.val]).2 = some .eccCe
        ∧ (m.readUnit u [b.val]).1 = { m with upsets := m.upsets.filter (fun x => x.1 != u) })
      ∧ (∀ flips, u ∈ m.poison → (m.readUnit u flips).2 = none ∧ (m.readUnit u flips).1.poison = m.poison)
      ∧ (∀ a b : Nat, u ∉ m.poison → (m.readUnit u [a, b]).2 = some .eccUe
        ∧ (m.readUnit u [a, b]).1.lineFault (u / 4) = some 0x0200
        ∧ ∀ k, (m.readUnit u [a, b]).1.byte k = m.byte k) := by
  refine ⟨fun b clean => ?_, fun flips poisoned => ?_, fun a b clean => ?_⟩
  · have one : unitRead [b.val] = some [] := by simp [unitRead, b.isLt]
    simp [Memory.readUnit, clean, one]
  · simp [Memory.readUnit, poisoned]
  · have two : unitRead [a, b] = none := by
      unfold unitRead
      split <;> rfl
    refine ⟨by simp [Memory.readUnit, clean, two], ?_, fun k => ?_⟩
    · simp [Memory.readUnit, clean, two, Memory.poisonUnit, Memory.lineFault, Memory.linePoisoned]
    · simp [Memory.readUnit, clean, two, Memory.poisonUnit, Memory.byte]

theorem State.beforeFault_none (s : State) (f : FnId) (va : Nat) (b : Bytes) : s.beforeFault f va b none = (b, none) := rfl

/-- Every clause of the statement about copies, fills, tag checks and the scrub, for a device whose aborted tiles write
no line. -/
theorem copyFillCheckAndScrub_of_nothingScattered (dry : NothingScattered) : Obligations.CopyFillCheckAndScrub := by
  unfold Obligations.CopyFillCheckAndScrub
  exact ⟨memCopy_spec dry, memFill_spec dry, State.beforeFault_none, fillBytes_spec, memTagCheck_spec,
    patrolScrubRead_spec dry, Memory.readUnit_spec⟩

end Sys2Proof.Machine

/-!
A patrol read whose event is Fatal aborts a tile, and the line that the tile writes loses its poison: what the scrub
leaves in memory depends on `Config.wroteLine` (R227, R389, R487).
-/

namespace Sys2Proof.Machine

/-! ### An aborted tile that writes a poisoned line -/

/-- A tile that writes a line whole takes its poison (R227). -/
theorem Memory.scatterLines_line {m : Memory} {l : Nat} {b : Bytes} {w : Nat → Bool} (len : b.length = 256)
    (wrote : w l = true) : m.scatterLines (b.length / 256 + 2) w (256 * l) b = m.putLine l b := by
  have room : 256 - 256 * l % 256 = 256 := by omega
  have line : 256 * l / 256 = l := by omega
  have whole : b.take 256 = b := by rw [← len, List.take_length]
  have rest : b.drop 256 = [] := by rw [← len, List.drop_length]
  have full : b ≠ [] := fun h => by simp [h] at len
  rw [len]
  simp only [Memory.scatterLines, room, line, wrote, whole, rest, if_neg full, if_true, Memory.storeSpan, len]

/-- An output of one byte whose line tags go to a companion: it covers a whole line (R350). -/
def lineOut : TensorDecl :=
  { id := 0, fmt := .int8, dims := [], role := .output, data := [], zp := 0, exportTo := some 0, slotOff := 0 }

/-- The one tile of its operator. -/
def lineTile : TileDecl := { op := 0, rows := ⟨0, 1⟩, cols := ⟨0, 1⟩, chans := ⟨0, 1⟩, cycles := 0 }

/-- A graph of one tile that writes that output. -/
def lineGraph : GraphImage :=
  { tensors := [lineOut], descs := []
    ops := [{ op := .globalAvgPool 0 [], out := 0, epi := .raw false, chunk := 0, descs := [] }]
    groups := [], tiles := [lineTile], key := 0 }

/-- A run of the graph, its output bound to line `l` of function 0. -/
def lineRun (l us : Nat) : Run :=
  { id := 0, kind := .job 0, fn := 0, cls := 0, deadline := 0, reservation := 0, replayable := false, handle := 0
    image := lineGraph, reqs := [], binds := [⟨0, 256 * l⟩], values := [], tiles := [0], done := [], working := [0]
    begun := true, admitted := true, cleared := true, failed := none, lost := 0, dieLost := none, cancelled := none
    entry := 0, raised := [], base := 0, predictedUs := 0, usedUs := us, shift := 0, subject := 0 }

theorem lineTile_bytes (s : State) (r : Run) (vals : List Int) :
    ∃ b, s.tileBytes r lineTile lineOut vals = [(0, b)] ∧ b.length = 256 := by
  have runs : TileDecl.runs lineTile lineOut = [(0, 1)] := rfl
  unfold State.tileBytes
  rw [runs]
  exact ⟨_, rfl, fit_length 256 _⟩

theorem lineRun_landing (s : State) (l us : Nat) (vals : List Int) :
    ∃ b, s.landing (lineRun l us) 0 vals = [(256 * l, b)] ∧ b.length = 256 := by
  have reqs : (lineRun l us).reqs[0]? = none := rfl
  have out : (lineRun l us).outOf 0 = some (lineTile, lineOut) := rfl
  have place : s.placeOf (lineRun l us) lineOut.id = .mem (256 * l) := by
    have key : memKey 0 (256 * l) = 256 * l := by simp [memKey]
    rw [← key]
    rfl
  obtain ⟨b, bytes, len⟩ := lineTile_bytes s (lineRun l us) vals
  refine ⟨b, ?_, len⟩
  unfold State.landing
  rw [reqs, out]
  dsimp only
  rw [place, bytes]
  rfl

/-- What an abort of that tile makes of memory. -/
theorem State.scatter_lineRun {s : State} {l us : Nat} (wrote : Config.wroteLine s.draws l = true) (vals : List Int) :
    ∃ b, (s.scatter (lineRun l us) 0 vals).mem = s.mem.putLine l b := by
  obtain ⟨b, landing, len⟩ := lineRun_landing s l us vals
  refine ⟨b, ?_⟩
  unfold State.scatter
  rw [landing]
  exact Memory.scatterLines_line len wrote

/-- The engines of a device on which engine 0 alone has a tile: the first of the run of number 0. -/
def lineEngines : Vector Engine 64 :=
  (Vector.replicate 64 {}).set 0 { tile := some { run := 0, tile := 0, start := 0, bad := false } }

theorem State.scatter_engines (s : State) (r : Run) (j : Nat) (vals : List Int) :
    (s.scatter r j vals).engines = s.engines := by
  unfold State.scatter
  split <;> rfl

theorem State.abortTile_lineRun {s : State} {l : Nat} (engines : s.engines = lineEngines)
    (runs : s.fore.runs = [lineRun l 0]) (wrote : Config.wroteLine s.draws l = true) :
    (s.abortTile 0).engines = lineEngines.set 0 { } ∧ ∃ b, (s.abortTile 0).mem = s.mem.putLine l b := by
  have tile : (s.engines[(0 : EngineId).val]).tile = some { run := 0, tile := 0, start := 0, bad := false } := by
    rw [engines]
    decide
  unfold State.abortTile
  rw [tile]
  dsimp only
  rw [runs]
  have used : (if (lineRun l 0).id = 0 then { lineRun l 0 with usedUs := (lineRun l 0).usedUs + s.usSince 0 }
    else lineRun l 0) = lineRun l (0 + s.usSince 0) := rfl
  have found : [lineRun l (0 + s.usSince 0)].find? (fun r => r.id == 0) = some (lineRun l (0 + s.usSince 0)) := rfl
  rw [List.map_cons, List.map_nil, used, found]
  dsimp only
  refine ⟨(State.scatter_engines _ _ _ _).trans ?_, State.scatter_lineRun wrote _⟩
  simp only [engines]
  rfl

theorem State.abortTiles_lineRun {s : State} {l : Nat} (engines : s.engines = lineEngines)
    (runs : s.fore.runs = [lineRun l 0]) (wrote : Config.wroteLine s.draws l = true) :
    ∃ b, (s.abortTiles (fun _ => true)).mem = s.mem.putLine l b := by
  have tile : (s.engines[(0 : EngineId).val]).tile = some { run := 0, tile := 0, start := 0, bad := false } := by
    rw [engines]
    decide
  have order : List.finRange 64 = 0 :: (List.finRange 63).map Fin.succ := List.finRange_succ
  obtain ⟨after, b, mem⟩ := State.abortTile_lineRun engines runs wrote
  refine ⟨b, ?_⟩
  unfold State.abortTiles
  rw [order, List.foldl_cons, tile]
  dsimp only
  rw [if_pos rfl, List.foldl_fixed', mem]
  intro e
  have idle : ((s.abortTile 0).engines[e.val]).tile = none := by
    rw [after]
    revert e
    decide +kernel
  simp only [idle]

/-! ### A patrol read whose event is Fatal -/

/-- The first unit of line `l`, which is poisoned, and the unit after the line, in which two bits have flipped. -/
def lineMemory (l : Nat) : Memory := { poison := [4 * l], upsets := [(4 * l + 4, [0, 1])] }

/-- A reaction timer of another source. -/
def otherTimer : ReactionTimer :=
  { source := 0, startSeq := 0, members := [], lengthUs := 0, owner := none, context := 0, class2 := false }

/-- A device at work on the tile of `lineRun`, every reaction timer taken, whose patrol scrub reads the unit after line
`l` next. -/
def lineState (n l : Nat) : State :=
  { clk := { rootLocked := true }
    boot := { memTrained := true, scrub := coffOf (({} : State).unitPlace (4 * l + 4)) / 64 }
    mem := lineMemory l
    fcu := { timers := List.replicate 32 otherTimer }
    fore := { runs := [lineRun l 0] }
    engines := lineEngines
    draws := n }

/-- An uncorrectable unit of memory finds no timer of its channel and none free there: its record is Fatal (R389). -/
theorem lineState_capture (n l ch : Nat) (owner : Option FnId) (t : BitVec 64) (us : Nat) :
    ((lineState n l).fcu.capture { source := 0x020 + ch, event := .eccUe, owner := owner } t us false).2.tier = 3 := by
  have timers : (List.replicate 32 otherTimer).find? (fun x => x.source == 0x020 + ch) = none := by
    rw [List.find?_eq_none]
    intro x hx
    obtain rfl := List.eq_of_mem_replicate hx
    simp only [otherTimer, beq_iff_eq]
    omega
  have judged : ∀ r : Raise, r.event = .eccUe → r.tier = none → (lineState n l).fcu.judge r t = (1, 2) := by
    intro r event tier
    unfold Fcu.judge Fcu.threshold
    rw [event, tier]
    rfl
  unfold Fcu.capture
  rw [judged _ rfl rfl]
  dsimp only
  rw [if_pos ⟨rfl, rfl⟩, Fcu.timerOf]
  dsimp only [lineState]
  rw [timers]
  rfl

/-- An edge whose record is Fatal takes the rootstock to the safe state (R396), after changes of functions, the FCU and
the lamp seam. -/
theorem State.raiseFcu_fatal {s : State} {r : Raise} (edge : (s.rootRuns && s.fcu.isEdge r.source r.event) = true)
    (fatal : (s.fcu.capture r (r.time.getD s.now) s.fore.safety.reactionUs s.safe).2.tier = 3) :
    ∃ fns sent fcu lamp, s.raiseFcu r = ({ s with fns := fns, sent := sent, fcu := fcu, lamp := lamp } : State).rootSafe
      (Ev.code r.event) (bootCauseOf r.source r.event) := by
  unfold State.raiseFcu
  rw [if_pos edge]
  generalize s.fcu.capture r (r.time.getD s.now) s.fore.safety.reactionUs s.safe = p at fatal ⊢
  obtain ⟨fcu, rc⟩ := p
  dsimp only at fatal ⊢
  rw [if_pos fatal]
  split
  · obtain ⟨fns, sent, e⟩ := State.distribute_frame (({ s with fcu := fcu } : State).setLamp (fun l => { l with
      toLamp := l.toLamp ++ [.timerStart r.source] })) rc
    rw [e]
    exact ⟨fns, sent, fcu, _, rfl⟩
  · obtain ⟨fns, sent, e⟩ := State.distribute_frame { s with fcu := fcu } rc
    rw [e]
    exact ⟨fns, sent, fcu, s.lamp, rfl⟩

/-- The event of an uncorrectable unit aborts the tile there, which writes line `l`. -/
theorem lineState_raise {n l ch : Nat} (wrote : Config.wroteLine n l = true) (channel : ch < 24) (m : Memory)
    (owner : Option FnId) :
    ∃ b, (({ lineState n l with mem := m } : State).raise { source := 0x020 + ch, event := .eccUe, owner := owner }).mem
      = m.putLine l b := by
  have root : lampSource (0x020 + ch) = false := by
    simp only [lampSource, Bool.and_eq_false_iff, decide_eq_false_iff_not]
    omega
  obtain ⟨fns, sent, fcu, lamp, safe⟩ := State.raiseFcu_fatal (s := { lineState n l with mem := m })
    (r := { source := 0x020 + ch, event := .eccUe, owner := owner }) rfl (lineState_capture n l ch owner _ _)
  unfold State.raise
  rw [root, if_neg Bool.false_ne_true, safe, State.rootSafe_tiles rfl]
  exact State.abortTiles_lineRun rfl rfl wrote

/-- A patrol read of the unit after the line, whose two flipped bits are uncorrectable. -/
theorem lineState_patrol {n l : Nat} (wrote : Config.wroteLine n l = true) :
    ∃ t b, exec (.patrolScrubRead [] []) (lineState n l) = .next t
      ∧ t.mem = ((lineMemory l).readUnit (4 * l + 4) [0, 1]).1.putLine l b := by
  have unit : (lineState n l).scrubbed [] = [(4 * l + 4, [0, 1])] := by
    simp [State.scrubbed, lineState, lineMemory, State.unitPlace]
  have clean : 4 * l + 4 ∉ (lineMemory l).poison := by simp [lineMemory]
  obtain ⟨event, -⟩ := ((lineMemory l).readUnit_spec (4 * l + 4)).2.2 0 1 clean
  obtain ⟨b, mem⟩ := lineState_raise wrote (chanOf_lt ((lineState n l).unitPlace (4 * l + 4)))
    ((lineMemory l).readUnit (4 * l + 4) [0, 1]).1 ((lineState n l).unitOwner (4 * l + 4))
  refine ⟨_, b, exec_patrolScrubRead rfl rfl [] [], ?_⟩
  rw [State.setBoot_mem, List.foldl_nil, unit, List.foldl_cons, List.foldl_nil, State.readUnit]
  dsimp only
  rw [show (lineState n l).mem = lineMemory l from rfl, event]
  exact mem

/-- A device whose aborted tile writes a line has a patrol read that changes memory beyond the unit that it
reads. -/
theorem nothingScattered_of_copyFillCheckAndScrub (h : Obligations.CopyFillCheckAndScrub) : NothingScattered := by
  intro n l
  by_contra wrote
  rw [Bool.not_eq_false] at wrote
  obtain ⟨-, -, -, -, -, patrol, -⟩ := h
  obtain ⟨-, -, one⟩ := patrol (lineState n l) [] rfl rfl
  obtain ⟨t, row, mem⟩ := one (4 * l + 4) [0, 1] rfl rfl (fun _ h => by cases h)
  obtain ⟨u, b, row', mem'⟩ := lineState_patrol wrote
  obtain rfl : t = u := by
    rw [row] at row'
    cases row'
    rfl
  have poison : 4 * l ∈ ((lineMemory l).readUnit (4 * l + 4) [0, 1]).1.poison := by
    simp [lineMemory, Memory.readUnit, unitRead, Memory.poisonUnit]
  have kept : t.mem = ((lineMemory l).readUnit (4 * l + 4) [0, 1]).1 := mem
  rw [← kept, mem'] at poison
  simp [Memory.putLine] at poison

/-- What the statement comes down to: it holds for a device whose aborted tiles write no line, and fails for every
other. `Config.wroteLine` is opaque, a choice that R487 leaves to the device, so the model decides neither side. -/
theorem copyFillCheckAndScrub_iff : Obligations.CopyFillCheckAndScrub ↔ ∀ n l, Config.wroteLine n l = false :=
  ⟨nothingScattered_of_copyFillCheckAndScrub, copyFillCheckAndScrub_of_nothingScattered⟩

end Sys2Proof.Machine
